-- ==== Sys2Proof/Word.lean ====
section
/-!
DEFINITION. The machine's word types and the canonical association list that every sparse store of the model uses.
-/
namespace Sys2Proof

/-- A byte of memory. -/
abbrev Byte := BitVec 8
/-- A register of the register window (R4: every register is 32 bits wide). -/
abbrev RegWord := BitVec 32
/-- A general register of a cox core (R306). -/
abbrev Word := BitVec 64

/-- A sparse store: pairs of a key and a value, keys strictly rising, no entry equal to what an unlisted key reads as. -/
abbrev KMap (α : Type) := List (Nat × α)

/-- The value under `k`; `d k` where no entry lists `k`. -/
def KMap.get {α : Type} (d : Nat → α) : KMap α → Nat → α
  | [], k => d k
  | (k', v) :: l, k => if k' = k then v else KMap.get d l k

/-- The store without any entry for `k`. -/
def KMap.del {α : Type} (l : KMap α) (k : Nat) : KMap α :=
  l.filter (fun e => e.1 != k)

/-- The store with `(k, v)` put before the first larger key. -/
def KMap.ins {α : Type} : KMap α → Nat → α → KMap α
  | [], k, v => [(k, v)]
  | (k', v') :: l, k, v => if k < k' then (k, v) :: (k', v') :: l else (k', v') :: KMap.ins l k v

/-- The store with `v` under `k`; writing what an unlisted key reads as removes the entry. -/
def KMap.put {α : Type} [DecidableEq α] (d : Nat → α) (l : KMap α) (k : Nat) (v : α) : KMap α :=
  if v = d k then KMap.del l k else KMap.ins (KMap.del l k) k v

/-- The canonical form: keys strictly rising, and no entry equal to what its key reads as when unlisted. -/
def KMap.wf {α : Type} [DecidableEq α] (d : Nat → α) : KMap α → Bool
  | [] => true
  | (k, v) :: l => decide (v ≠ d k) && l.all (fun e => decide (k < e.1)) && KMap.wf d l

end Sys2Proof
end

