-- ==== Sys2Proof/Machine/Bits.lean ====
section
/-!
DEFINITION. Bit fields, signs, saturation, byte order and check codes that the spec's rules use.
-/
namespace Sys2Proof.Machine

/-- Bits [lo + w − 1 : lo] of `v`. -/
def bitsOf (v lo w : Nat) : Nat := v / 2 ^ lo % 2 ^ w

/-- `v` with bits [lo + w − 1 : lo] replaced by `x`. -/
def setBits (v lo w x : Nat) : Nat :=
  v / 2 ^ (lo + w) * 2 ^ (lo + w) + (x % 2 ^ w) * 2 ^ lo + v % 2 ^ lo

/-- Bit `k` of `v`. -/
def bitAt (v k : Nat) : Bool := v / 2 ^ k % 2 == 1

/-- A truth value as a bit. -/
def b2n (b : Bool) : Nat := if b then 1 else 0

/-- The low `w` bits of `v` read as a two's complement number. -/
def sgn (w v : Nat) : Int :=
  if v % 2 ^ w < 2 ^ (w - 1) then ((v % 2 ^ w : Nat) : Int) else ((v % 2 ^ w : Nat) : Int) - ((2 ^ w : Nat) : Int)

/-- The two's complement bits of `x` in `w` bits. -/
def enc (w : Nat) (x : Int) : Nat := (x % ((2 ^ w : Nat) : Int)).toNat

/-- `x` limited to `lo … hi`. -/
def clampI (lo hi x : Int) : Int := if x < lo then lo else if hi < x then hi else x

/-- `x` limited to `lo … hi`. -/
def clampN (lo hi x : Nat) : Nat := if x < lo then lo else if hi < x then hi else x

/-- `x` limited to a signed number of `w` bits. -/
def satS (w : Nat) (x : Int) : Int :=
  clampI (-((2 ^ (w - 1) : Nat) : Int)) (((2 ^ (w - 1) : Nat) : Int) - 1) x

/-- Arithmetic shift right by `k` of a number held exactly: the floor of x / 2^k. -/
def asr (x : Int) (k : Nat) : Int := x / ((2 ^ k : Nat) : Int)

/-- Ceiling of `a / b`. -/
def ceilDiv (a b : Nat) : Nat := (a + b - 1) / b

/-- The little-endian value of a list of bytes. -/
def leVal : List Byte → Nat
  | [] => 0
  | b :: l => b.toNat + 256 * leVal l

/-- The `n` little-endian bytes of `v`. -/
def leBytes : Nat → Nat → List Byte
  | 0, _ => []
  | n + 1, v => BitVec.ofNat 8 v :: leBytes n (v / 256)

/-- The big-endian value of a list of bytes. -/
def beVal (l : List Byte) : Nat := leVal l.reverse

/-- The `n` big-endian bytes of `v`. -/
def beBytes (n v : Nat) : List Byte := (leBytes n v).reverse

/-- `n` bits of `l` from bit `lo` on, the list read as one little-endian number. -/
def leBits (l : List Byte) (lo w : Nat) : Nat := bitsOf (leVal (l.drop (lo / 8) |>.take ((lo % 8 + w + 7) / 8))) (lo % 8) w

/-- Byte `i` of a list; 0 past its end. -/
def byteAt (l : List Byte) (i : Nat) : Nat := ((l[i]?).getD 0).toNat

/-- `n` bytes of `l` from offset `o` as a little-endian number. -/
def leAt (l : List Byte) (o n : Nat) : Nat := leVal ((l.drop o).take n)

/-- `n` bytes of `l` from offset `o` as a big-endian number. -/
def beAt (l : List Byte) (o n : Nat) : Nat := beVal ((l.drop o).take n)

/-- One bit of a reflected CRC: shift right, and add the polynomial where a one falls out. -/
def crcStep (poly c : Nat) : Nat := if c % 2 = 1 then (c / 2) ^^^ poly else c / 2

/-- `n` bits of a reflected CRC. -/
def crcSteps (poly : Nat) : Nat → Nat → Nat
  | 0, c => c
  | n + 1, c => crcSteps poly n (crcStep poly c)

/-- A reflected CRC over bytes, continued from the register value `c`. -/
def crcBytes (poly : Nat) (c : Nat) (l : List Byte) : Nat :=
  l.foldl (fun c b => crcSteps poly 8 (c ^^^ b.toNat)) c

/-- CRC-32C (Castagnoli): initial value and final inversion all ones, reflected polynomial 0x82F63B78 (R62). -/
def crc32c (l : List Byte) : Nat := (crcBytes 0x82F63B78 0xFFFFFFFF l) ^^^ 0xFFFFFFFF

/-- The IEEE CRC-32 that a gzip trailer holds (RFC 1952). -/
def crc32 (l : List Byte) : Nat := (crcBytes 0xEDB88320 0xFFFFFFFF l) ^^^ 0xFFFFFFFF

/-- One bit of a CRC taken most significant bit first, `w` bits wide. -/
def crcMsbStep (w poly c : Nat) : Nat :=
  if c / 2 ^ (w - 1) % 2 = 1 then ((c * 2) % 2 ^ w) ^^^ poly else (c * 2) % 2 ^ w

/-- `n` bits of a most-significant-first CRC. -/
def crcMsbSteps (w poly : Nat) : Nat → Nat → Nat
  | 0, c => c
  | n + 1, c => crcMsbSteps w poly n (crcMsbStep w poly c)

/-- A most-significant-first CRC over bytes, `w` bits wide, continued from `c`. -/
def crcMsbBytes (w poly c : Nat) (l : List Byte) : Nat :=
  l.foldl (fun c b => crcMsbSteps w poly 8 (c ^^^ (b.toNat * 2 ^ (w - 8)))) c

/-- `0, 1, …, n − 1`. -/
def upTo (n : Nat) : List Nat := List.range n

/-- A fold over `0 … n − 1`. -/
def forN {σ : Type} (n : Nat) (f : Nat → σ → σ) (s : σ) : σ :=
  (List.range n).foldl (fun s i => f i s) s

/-- Ones' complement sum of a byte string in 16-bit words. -/
def sum16 : List Byte → Nat
  | [] => 0
  | [a] => a.toNat * 256
  | a :: b :: l => a.toNat * 256 + b.toNat + sum16 l

/-- A ones' complement sum folded to 16 bits. -/
def fold16 (n : Nat) : Nat := ((n % 65536 + n / 65536) % 65536 + (n % 65536 + n / 65536) / 65536) % 65536

end Sys2Proof.Machine
end

