-- ==== Sys2Proof/Syntax.lean ====
section
/-!
DEFINITION. The commands: one constructor per row of the table of operations and events. A command is a register access, an
instruction that a cox core performs, an event on a pin, wire or link, or an instant of the device's own schedule.
-/
namespace Sys2Proof

/-- Who makes a register access (R7): a cox core, the host or the debug port. Agent codes 0–17 of R373. -/
inductive Requester where
  | core (n : Fin 16)
  | host
  | debug
deriving DecidableEq, Repr

/-- The agent code of a requester (R373). -/
def Requester.code : Requester → Nat
  | .core n => n.val
  | .host => 16
  | .debug => 17

/-- The GUARD field of an instruction word (R346): bits [2:0] the predicate, bit 3 the negation. -/
abbrev Guard := Fin 16

/-- What the ECC of a line read reports (R412). `dev` is the failing device, 31 where it is not located. -/
inductive EccError where
  | clean
  | corrected (dev symbols : Nat)
  | uncorrectable (dev symbols : Nat)
deriving DecidableEq, Repr

/-- The fields of an IEEE 1588-2019 message that the device uses (R249–R256); the message type is the command's own. -/
structure PtpMsg where
  version : Nat
  minor : Nat
  sdo : Nat
  domain : Nat
  twoStep : Bool
  /-- correctionField as its 64 bits. -/
  cf : Nat
  srcId : Nat
  srcPort : Nat
  seq : Nat
  /-- logMessageInterval as its 8 bits. -/
  log : Nat
  /-- The message's timestamp: seconds and nanoseconds. -/
  sec : Nat
  ns : Nat
  reqId : Nat
  reqPort : Nat
deriving DecidableEq, Repr

/-- How the renders of a checked bundle compare (R135): the two agree; they differ and `odd`, whose render differs from the other two,
agrees when it renders again (a soft fault) or differs again (a hard fault), `third` having rendered third; no two agree; or the
bundle's band rows left the window first. -/
inductive CheckResult where
  | agree
  | soft (odd third : Fin 9)
  | hard (odd third : Fin 9)
  | noTwo (third : Fin 9)
  | leftWindow
deriving DecidableEq, Repr

/-- The strand faults that the port's pins show (R207). -/
inductive StrandFault where
  | txShortGnd | txShortSup | rxShort | censusShortGnd | censusShortSup
deriving DecidableEq, Repr

/-- A packet on a camera port other than a frame start or end (R470): virtual channel, data type, what the header ECC found (0 clean,
1 corrected, 2 uncorrectable), whether the long-packet CRC is right, whether it came above 1.2 Gpixel/s, and its payload. -/
structure CamPacket where
  vc : Nat
  dt : Nat
  ecc : Fin 3
  crcOk : Bool
  fast : Bool
  data : List Byte
deriving DecidableEq, Repr

/-- The commands. -/
inductive Instr where
  /-- REGISTER_WRITE (R5). A write to a register field that has no behaviour of its own sets, clears or ignores the field according to its type. -/
  | registerWrite (who : Requester) (addr : Nat) (v : RegWord)
  /-- READ_CLEAR (R6). A read of an RC field returns its value and clears it, with a same-cycle hardware set or addition taking precedence. -/
  | readClear (who : Requester) (addr : Nat) (added : RegWord)
  /-- PAIR_LO_READ (R7). A read of a _LO register latches the _HI half for that requester. -/
  | pairLoRead (who : Requester) (addr : Nat)
  /-- PAIR_LO_WRITE (R7). A write of a _LO register loads the requester's holding register and has no other effect. -/
  | pairLoWrite (who : Requester) (addr : Nat) (v : RegWord)
  /-- PAIR_HI_WRITE (R7). A write of a _HI register commits the held _LO and the written _HI together in one cycle. -/
  | pairHiWrite (who : Requester) (addr : Nat) (v : RegWord)
  /-- CATCH (R28). A catch ends one stroke and starts the next; the commits accepted in recovery take effect and the tiles swap. -/
  | catchStroke
  /-- STROKE_OUT_PULSE_END (R31). 1.0 us after it rose, STROKE_OUT falls. -/
  | strokeOutPulseEnd
  /-- FINISH (R28). The finish ends the render window and opens the recovery window. -/
  | finish
  /-- TILE_TABLE_REQUEST (R22). In a recovery window the device reads TT_REQ and, on a new SEQ, checks the requested bank and writes TT_BAD and TT_RESULT. -/
  | tileTableRequest
  /-- STROKE_REQUEST_SUBMIT (R50). A write of TIME_STK_REQ with GO latches RATE, SOURCE, RECOVERY_US and MARGIN_US as a request, or is ignored with BUSY while one is pending. -/
  | strokeRequestSubmit (who : Requester) (v : RegWord)
  /-- STROKE_REQUEST_CHECK (R50). In the recovery window the device checks a stroke request for BAD_WINDOW, RATE_LIMIT and NO_SOURCE. -/
  | strokeRequestCheck
  /-- STROKE_NUMBER_LOAD (R38). A write of TIME_STK_NUM_HI sets the number of the next catch under SOURCE 0 or 2, and is ignored under SOURCE 1. -/
  | strokeNumberLoad (who : Requester) (hi : RegWord)
  /-- HOUSE_SYNC_EDGE (R37). A HOUSE_SYNC edge updates lock state, PERIOD and the predicted phase, and is accepted for a slot when it falls within 1 us of the prediction. -/
  | houseSyncEdge
  /-- HOUSE_SYNC_MISS (R36). A slot window closes without an accepted edge: one miss is counted, the state enters FLYWHEEL, and the eighth miss gives ABSENT and free-run. -/
  | houseSyncMiss
  /-- HOUSE_SYNC_TIMEOUT (R37). After 100 ms without an edge in LOCKING, or in LOCKED when not under SOURCE 2, HS_STATE returns to ABSENT. -/
  | houseSyncTimeout
  /-- HOUSE_SYNC_RELOCK_SEAM (R37). Under SOURCE 2, after a relock from ABSENT, the device runs a seam by itself once no software request is in progress. -/
  | houseSyncRelockSeam
  /-- BOND_ADMISSION (R102). At catch T - 1, or at the seam instant, the device reads the bond slot and admits or refuses the bond within 20 us. -/
  | bondAdmission
  /-- FLATTEN_BUILD_DONE (R111). A shell completes the flattened course it builds after its own rays, making it usable from the next admission. -/
  | flattenBuildDone (first : Fin 64)
  /-- HOLD_WAKE (R421). 50 us before a refresh or hold-ending catch, the shell and conditioning latency tolerances fall to 0. -/
  | holdWake
  /-- QUICK_MODE_ENTRY (R45). At finish minus M, or when unrendered rays exceed the guaranteed rate, a shell switches its remaining rays to quick mode and raises EV_SHELL_LATE. -/
  | quickModeEntry (sh : Fin 4)
  /-- BUNDLE_RENDER (R131). A free oar takes the next bundle of its shell and composites its rays. -/
  | bundleRender (sh : Fin 4) (oar : Fin 9) (wait : Bool)
  /-- BAND_ROW_ARRIVAL (R618). A band row fetched on the BAND port arrives, and an oar stalled for it continues. -/
  | bandRowArrival (sh : Fin 4) (oar : Fin 9)
  /-- CHECK_COMPARE (R135). A checking render ends, and the two or three renders of the bundle are compared bit for bit. -/
  | checkCompare (sh : Fin 4) (result : CheckResult)
  /-- SHELL_CMD_RETIRE (R138). An SHL_CMD RETIRE command retires the named oar at the next catch. -/
  | shellCmdRetire (who : Requester) (sh : Fin 4) (v : RegWord)
  /-- SHELL_CMD_RESTORE (R138). An SHL_CMD RESTORE command self-tests a retired oar in recovery and makes it ACTIVE or SPARE on a pass. -/
  | shellCmdRestore (who : Requester) (sh : Fin 4) (v : RegWord)
  /-- OAR_SELF_TEST (R146). A write of OAR_CTL.TEST runs the self-test on a spare or retired oar in the next recovery window. -/
  | oarSelfTest (who : Requester) (sh : Fin 4) (oar : Fin 9) (v : RegWord)
  /-- OAR_SELF_TEST_DONE (R138). A self-test ends within 50 us with PASS or FAIL. -/
  | oarSelfTestDone (sh : Fin 4) (oar : Fin 9) (pass : Bool)
  /-- RAY_CONDITION (R147). A rendered ray passes decode, matrix, gains, band gains, spare remapping, wire curve and dither into the strand FIFO. -/
  | rayCondition (wait : Bool)
  /-- MAP_DATA_ARRIVAL (R171). Map data that a waiting ray needs arrives, or arrives poisoned and is replaced by neutral values. -/
  | mapDataArrival
  /-- STRAND_FIFO_ROOM (R203). Space frees in a full strand FIFO, and conditioning that waited for it continues. -/
  | strandFifoRoom (k : Fin 96)
  /-- MIRROR_STROKE_COMPLETE (R169). Once every mirror write of stroke N is visible, the device writes CD_MIR_STROKE = N. -/
  | mirrorStrokeComplete
  /-- MAP_SET_REQUEST (R162). In a recovery window the device reads CD_REQ and, on a new SEQ, checks the requested map set and mirror settings and writes CD_BAD and CD_RESULT. -/
  | mapSetRequest
  /-- CURVE_SELECTION (R167). In a recovery window the device handles a new CD_CURVE SEQ by copying the slot into on-chip tables or refusing on poison. -/
  | curveSelection
  /-- WIRE_FORMAT_CHANGE (R212). In a recovery window a change of STR_CTL.WIDE or DITHER_EN is checked against R25 and accepted or refused with RATE_LIMIT. -/
  | wireFormatChange (k : Fin 96)
  /-- NET_FRAME_RECEIVED (R67). A network port receives a whole frame and takes it as PTP, as a pallet candidate, or to the management ring. -/
  | netFrameReceived (n : Fin 4) (fcsOk : Bool) (frame : List Byte)
  /-- DSC_SLICE_START (R80). A free decoder takes the next waiting slice in class order, respecting the class-0 reserve. -/
  | dscSliceStart
  /-- DSC_SLICE_DONE (R80). A decoder finishes a slice, and its object becomes READY when its last output byte is in memory. -/
  | dscSliceDone (k : Fin 32)
  /-- NET_LINK_UP (R66). A network port completes auto-negotiation or link training and its link comes up. -/
  | netLinkUp (n : Fin 4) (speed : Fin 4)
  /-- NET_LINK_DOWN (R89). A network port loses its link and counts it in NET_LINK_DOWN. -/
  | netLinkDown (n : Fin 4)
  /-- STRAND_ENABLE (R206). Setting STR_CTL.ENABLE starts strand bring-up by sensing S<s>T for 100 us, or is refused with BAD_RATE. -/
  | strandEnable (who : Requester) (k : Fin 96) (v : RegWord)
  /-- STRAND_SENSE_END (R206). After 100 us of sensing, the port drives idle and enters TRAINING, or reports REVERSED. -/
  | strandSenseEnd (k : Fin 96) (signal : Bool)
  /-- STRAND_RX_VALID (R206). S<s>X has carried valid idle for 100 us, and the port starts ranging all positions. -/
  | strandRxValid (k : Fin 96) (line : List Bool)
  /-- STRAND_OPEN_TIMEOUT (R207). Valid idle has not appeared within 50 ms, or lock is lost while UP, and the port reports OPEN. -/
  | strandOpenTimeout (k : Fin 96)
  /-- STRAND_UP (R206). Initial ranging ends 2 ms after the last RANGE_R; HOP_UI is written, D_chain and LEAD are set and STATE reads UP. -/
  | strandUp (k : Fin 96)
  /-- STRAND_DISABLE (R211). Clearing STR_CTL.ENABLE stops driving after the brick in progress. -/
  | strandDisable (who : Requester) (k : Fin 96) (v : RegWord)
  /-- STRAND_FAULT_DETECT (R207). A pin short, common-mode fault, census short or long chain is detected and STR_FAULT.CODE changes. -/
  | strandFaultDetect (k : Fin 96) (kind : StrandFault)
  /-- STRAND_FAULT_RETRY (R207). Every 100 ms a faulted driver retries, or an open strand repeats ranging. -/
  | strandFaultRetry (k : Fin 96) (gone : Bool)
  /-- PIN_TEST (R208). STR_PINTEST.GO drives each pin of a disabled strand with a weak tone and correlates it on the neighbours. -/
  | pinTest (who : Requester) (k : Fin 96) (v : RegWord)
  /-- PIN_TEST_DONE (R208). Within 1 ms the pin test sets DONE, and sets FAIL with NEIGHBOUR on coupling. -/
  | pinTestDone (k : Fin 96) (coupled : Option (Fin 96 × Fin 3))
  /-- CATCH_BRICK_SEND (R192). At catch N - LEAD the port sends the CATCH brick with its COUNT, or KEEP at a no-swap catch. -/
  | catchBrickSend (k : Fin 96)
  /-- RAYS_BRICK_SEND (R201). The port sends a device's next RAYS brick once all its slots are in the FIFO and its earlier bricks have left. -/
  | raysBrickSend (k : Fin 96) (pos : Fin 2560)
  /-- KEEP_IDLE_SEND (R199). An UP port that has sent no down brick for 10 ms sends KEEP. -/
  | keepIdleSend (k : Fin 96)
  /-- ACK_RECEIVED (R197). The port takes an ACK and updates the driver context's BAND, LAST, INV and ACK_STROKE. -/
  | ackReceived (k : Fin 96) (line : List Bool)
  /-- ECHO_CUTOFF (R198). At catch T + P - LEAD the port writes the echo counts for T and raises the echo events. -/
  | echoCutoff (k : Fin 96)
  /-- RANGE_SEND (R195). In each recovery window with RANGE_EN the port sends a RANGE to the next position. -/
  | rangeSend (k : Fin 96)
  /-- RANGE_REQUEST (R213). A write of STR_RANGE.GO ranges POS in the next recovery window, or reports BUSY. -/
  | rangeRequest (who : Requester) (k : Fin 96) (v : RegWord)
  /-- RANGE_R_RECEIVED (R194). A RANGE_R arrives; the port computes w, HOP_UI and d and writes a changed HOP_UI to the device. -/
  | rangeRReceived (k : Fin 96) (line : List Bool) (rt : Nat)
  /-- RANGE_TIMEOUT (R195). A RANGE without a RANGE_R after 2 ms leaves HOP_UI and D_chain unchanged. -/
  | rangeTimeout (k : Fin 96) (pos : Fin 2560)
  /-- MGMT_DESCRIPTOR (R204). The port takes a descriptor from the STR_MGMT ring and sends its brick, holds it back, or refuses it with BAD_TYPE. -/
  | mgmtDescriptor (k : Fin 96)
  /-- WACK_RECEIVED (R205). A WACK is matched to its WRITE and a reply record is written. -/
  | wackReceived (k : Fin 96) (line : List Bool)
  /-- READ_R_RECEIVED (R205). A READ_R is matched to its READ, its data is written at ADDR up to REPLY_CAP, and a reply record is written. -/
  | readRReceived (k : Fin 96) (head body : List Bool)
  /-- EVENT_BRICK_RECEIVED (R205). An up EVENT brick produces a reply record. -/
  | eventBrickReceived (k : Fin 96) (head body : List Bool)
  /-- MGMT_REPLY_TIMEOUT (R205). A WRITE or READ with no reply after 4 ms gives a TIMEOUT reply record. -/
  | mgmtReplyTimeout (k : Fin 96)
  /-- CENSUS_POLL (R224). Every 100 us the port reads CEN_REQ and starts the request on a new SEQ, or ends it as BAD_REQ or SHORT. -/
  | censusPoll (k : Fin 96)
  /-- CENSUS_WALK (R224). A WALK sends ADDRESS to successive positions and writes each IDENT into the driver contexts. -/
  | censusWalk (k : Fin 96)
  /-- CENSUS_SWEEP (R224). A SWEEP sends one SWEEP frame with POS and KEY. -/
  | censusSweep (k : Fin 96)
  /-- CENSUS_QUERY (R224). A QUERY sends QUERY to POS, and its reply goes to REPLY and the driver context. -/
  | censusQuery (k : Fin 96)
  /-- CENSUS_RESET (R224). A RESET sends a census RESET pulse and then waits 2 ms. -/
  | censusReset (k : Fin 96)
  /-- CENSUS_IDENT_RECEIVED (R224). An IDENT reply arrives and is stored, or is retried once on a bad CRC. -/
  | censusIdentReceived (k : Fin 96) (frame : List Byte)
  /-- CENSUS_REPLY_TIMEOUT (R221). No reply START by 24 us + 0.8 us x k ends the step as unanswered. -/
  | censusReplyTimeout (k : Fin 96)
  /-- CENSUS_OP_DONE (R224). The port writes CEN_RESULT with SEQ last and raises EV_CENSUS_DONE. -/
  | censusOpDone (k : Fin 96)
  /-- CENSUS_PRESENCE (R224). A PRESENCE pulse is counted, raises EV_CENSUS_PRESENCE and sets the strand's RNG_CEN_ATTN bit. -/
  | censusPresence (k : Fin 96)
  /-- CENSUS_ALERT (R224). A valid ALERT frame is recorded in the census header and driver context and raises EV_CENSUS_ALERT. -/
  | censusAlert (k : Fin 96) (frame : List Byte)
  /-- SYNC_RECEIVED (R250). A Sync from the named master is timestamped and, with its Follow_Up and delay exchange, feeds the servo. -/
  | syncReceived (src : Fin 12) (transport : Fin 3) (msg : PtpMsg)
  /-- FOLLOW_UP_RECEIVED (R250). A Follow_Up is matched to its Sync by sequenceId. -/
  | followUpReceived (src : Fin 12) (transport : Fin 3) (msg : PtpMsg)
  /-- DELAY_REQ_RECEIVED (R250). On a master port a Delay_Req is timestamped and answered by hardware. -/
  | delayReqReceived (src : Fin 12) (transport : Fin 3) (msg : PtpMsg)
  /-- DELAY_RESP_RECEIVED (R256). A Delay_Resp completes an exchange, updates the path delay and produces an offset. -/
  | delayRespReceived (src : Fin 12) (transport : Fin 3) (msg : PtpMsg)
  /-- DELAY_REQ_SEND (R252). At a random interval the slave sends a Delay_Req. -/
  | delayReqSend (dom : Fin 2)
  /-- SYNC_SEND (R301). At 2^SYNC_LOG a master port sends Sync, one-step or two-step with Follow_Up. -/
  | syncSend (src : Fin 12) (dom : Fin 2)
  /-- DOMAIN_LOSS_TIMEOUT (R258). No accepted Sync for LOSS_MS moves a LOCKED domain to HOLDOVER. -/
  | domainLossTimeout (dom : Fin 2)
  /-- MASTER_NAME (R259). A write of TIME_DOM_MPORT with VALID names a new master from the next Sync, or with VALID 0 sends the domain to HOLDOVER. -/
  | masterName (who : Requester) (dom : Fin 2) (v : RegWord)
  /-- DOMAIN_SWITCH (R261). A write of TIME_CTL.DOMAIN, or an automatic switch, moves the counter to the other domain or is refused with SW_REFUSED. -/
  | domainSwitch (who : Requester) (v : RegWord)
  /-- COUNTER_FAR (R263). When |d| exceeds 1 us in FOLLOW, the counter stops slewing, FAR is set and EV_TIME_FAR is raised. -/
  | counterFar
  /-- GRANDMASTER_ENTRY (R265). A designated chip whose enabled domains have all been in LISTEN or HOLDOVER for WAIT_S becomes grandmaster. -/
  | grandmasterEntry
  /-- TRIGGER_CLAIM (R272). An enable or route of a trigger is taken, pre-empts a lower claim, or is refused with RESOURCE_CONFLICT or BAD_PARAM. -/
  | triggerClaim (who : Requester) (n : Fin 16) (v : RegWord)
  /-- TRIGGER_FIRE (R270). A time trigger fires, sets FIRED, raises EV_TIME_TT and drives its routed pin. -/
  | triggerFire (n : Fin 16)
  /-- TRIGGER_PULSE_END (R270). After WIDTH x 100 ns the routed trigger pin returns to its inactive level. -/
  | triggerPulseEnd (n : Fin 16)
  /-- GPIO_CLAIM (R272). A write of GLB_GPIO_CFG.OWN claims a GPIO pin under the precedence of claims. -/
  | gpioClaim (who : Requester) (n : Fin 32) (v : RegWord)
  /-- CAPTURE_EDGE (R271). A selected edge on a capture source writes TIME_TC, sets VALID and raises EV_TIME_TC, or sets OVF. -/
  | captureEdge (n : Fin 8) (rising : Bool)
  /-- CAPTURE_READ (R271). A read of TIME_TC_HI[n] clears VALID[n]. -/
  | captureRead (who : Requester) (n : Fin 8)
  /-- PPS_OUT_RISE (R273). At every whole second of the time counter PPS_OUT rises, unless LOCKED_ONLY holds it low. -/
  | ppsOutRise
  /-- PPS_OUT_END (R273). After WIDTH_US, PPS_OUT falls. -/
  | ppsOutEnd
  /-- REF_LOCK (R275). With REF_EN set, the local timebase locks to the 10 MHz input. -/
  | refLock
  /-- REF_LOSS (R275). After 10 missing periods the timebase returns to the 25 MHz input, sets REF_LOST and raises EV_TIME_REF_LOST. -/
  | refLoss
  /-- MORTAR_ENABLE (R292). Setting MRT_CTL.ENABLE starts link training with the training pattern. -/
  | mortarEnable (who : Requester) (m : Fin 8) (v : RegWord)
  /-- MORTAR_RX_ADAPTED (R292). The receiver has adapted and locked its clock, and the link sends idle blocks. -/
  | mortarRxAdapted (m : Fin 8)
  /-- MORTAR_BLOCK_LOCK (R292). Four consecutive good blocks give block lock, and the link enters LOCKED and sends HELLO. -/
  | mortarBlockLock (m : Fin 8)
  /-- MORTAR_BRINGUP_TIMEOUT (R292). A link not UP after 100 ms reports TRAIN_FAIL, NO_LOCK or NO_SIGNAL and retries. -/
  | mortarBringupTimeout (m : Fin 8) (signal : Bool)
  /-- MORTAR_LOCK_LOSS (R292). After 1 ms without block lock following UP, the link returns to training and reports LOST. -/
  | mortarLockLoss (m : Fin 8)
  /-- MORTAR_DISABLE (R305). Clearing MRT_CTL.ENABLE stops the link after the block in progress and clears its flags. -/
  | mortarDisable (who : Requester) (m : Fin 8) (v : RegWord)
  /-- MORTAR_BLOCK_RECEIVED (R287). A received block is decoded and checked, and its frames are assembled or discarded. -/
  | mortarBlockReceived (m : Fin 8) (mark head body check : List Nat)
  /-- MORTAR_FRAME_RECEIVED (R288). A whole frame is checked and dispatched by FTYPE, or discarded and counted in MRT_FRM_ERR. -/
  | mortarFrameReceived (m : Fin 8) (frame : List Byte)
  /-- HELLO_SEND (R293). Every PERIOD_US a locked link sends a HELLO. -/
  | helloSend (m : Fin 8)
  /-- HELLO_LOSS (R294). No valid HELLO for MISS x PERIOD_US makes the link LOST. -/
  | helloLoss (m : Fin 8)
  /-- MORTAR_FRAME_SEND (R291). The transmitter starts the next whole frame by strict priority. -/
  | mortarFrameSend (m : Fin 8)
  /-- POINT_JOB (R297). A point job from the ring is sent as POINT frames, or ends as BAD_JOB or LINK_DOWN. -/
  | pointJob (m : Fin 8)
  /-- POINT_JOB_DONE (R297). The last POINT frame of a job leaves and STATUS is written SENT. -/
  | pointJobDone (m : Fin 8)
  /-- MSG_TX (R302). A MSG_TX descriptor is sent as a MSG or PTP frame, or discarded. -/
  | msgTx (m : Fin 8)
  /-- ADD (R351). gd = ga + gb. -/
  | add (c : Fin 16) (gu : Guard) (d a b : Fin 32)
  /-- SUB (R351). gd = ga - gb. -/
  | sub (c : Fin 16) (gu : Guard) (d a b : Fin 32)
  /-- AND (R351). gd = ga & gb. -/
  | and (c : Fin 16) (gu : Guard) (d a b : Fin 32)
  /-- OR (R351). gd = ga | gb. -/
  | or (c : Fin 16) (gu : Guard) (d a b : Fin 32)
  /-- XOR (R351). gd = ga ^ gb. -/
  | xor (c : Fin 16) (gu : Guard) (d a b : Fin 32)
  /-- SLL (R351). Logical left shift by gb[5:0]. -/
  | sll (c : Fin 16) (gu : Guard) (d a b : Fin 32)
  /-- SRL (R351). Logical right shift by gb[5:0]. -/
  | srl (c : Fin 16) (gu : Guard) (d a b : Fin 32)
  /-- SRA (R351). Arithmetic right shift by gb[5:0]. -/
  | sra (c : Fin 16) (gu : Guard) (d a b : Fin 32)
  /-- MIN (R351). Signed minimum. -/
  | min (c : Fin 16) (gu : Guard) (d a b : Fin 32)
  /-- MAX (R351). Signed maximum. -/
  | max (c : Fin 16) (gu : Guard) (d a b : Fin 32)
  /-- CLZ (R351). Count the leading zeros of ga. -/
  | clz (c : Fin 16) (gu : Guard) (d a : Fin 32) (b : Fin 32)
  /-- POPC (R351). Count the set bits of ga. -/
  | popc (c : Fin 16) (gu : Guard) (d a : Fin 32) (b : Fin 32)
  /-- ADDI (R351). gd = ga + sign-extended immediate. -/
  | addi (c : Fin 16) (gu : Guard) (d a : Fin 32) (imm : BitVec 12)
  /-- ANDI (R351). AND with the sign-extended immediate. -/
  | andi (c : Fin 16) (gu : Guard) (d a : Fin 32) (imm : BitVec 12)
  /-- ORI (R351). OR with the sign-extended immediate. -/
  | ori (c : Fin 16) (gu : Guard) (d a : Fin 32) (imm : BitVec 12)
  /-- XORI (R351). XOR with the sign-extended immediate. -/
  | xori (c : Fin 16) (gu : Guard) (d a : Fin 32) (imm : BitVec 12)
  /-- SLLI (R351). Logical left shift by an immediate. -/
  | slli (c : Fin 16) (gu : Guard) (d a : Fin 32) (imm : BitVec 12)
  /-- SRLI (R351). Logical right shift by an immediate. -/
  | srli (c : Fin 16) (gu : Guard) (d a : Fin 32) (imm : BitVec 12)
  /-- SRAI (R351). Arithmetic right shift by an immediate. -/
  | srai (c : Fin 16) (gu : Guard) (d a : Fin 32) (imm : BitVec 12)
  /-- CMP_EQ (R354). pd = (ga == gb). -/
  | cmpEq (c : Fin 16) (gu : Guard) (d a b : Fin 32)
  /-- CMP_LT (R354). pd = signed ga < gb. -/
  | cmpLt (c : Fin 16) (gu : Guard) (d a b : Fin 32)
  /-- CMP_LTU (R354). pd = unsigned ga < gb. -/
  | cmpLtu (c : Fin 16) (gu : Guard) (d a b : Fin 32)
  /-- TST (R354). pd = (ga & gb) != 0. -/
  | tst (c : Fin 16) (gu : Guard) (d a b : Fin 32)
  /-- PAND (R354). pd = pa & pb. -/
  | pand (c : Fin 16) (gu : Guard) (d a b : Fin 32)
  /-- POR (R354). pd = pa | pb. -/
  | por (c : Fin 16) (gu : Guard) (d a b : Fin 32)
  /-- PXOR (R354). pd = pa ^ pb. -/
  | pxor (c : Fin 16) (gu : Guard) (d a b : Fin 32)
  /-- PGET (R354). Copy the predicates into gd. -/
  | pget (c : Fin 16) (gu : Guard) (d a b : Fin 32)
  /-- PSET (R354). Set p1 to p7 from ga. -/
  | pset (c : Fin 16) (gu : Guard) (d a b : Fin 32)
  /-- CMPI_EQ (R353). pd = (ga == sign-extended immediate). -/
  | cmpiEq (c : Fin 16) (gu : Guard) (d a : Fin 32) (imm : BitVec 12)
  /-- CMPI_LT (R353). pd = signed ga < immediate. -/
  | cmpiLt (c : Fin 16) (gu : Guard) (d a : Fin 32) (imm : BitVec 12)
  /-- CMPI_LTU (R353). pd = unsigned ga < immediate. -/
  | cmpiLtu (c : Fin 16) (gu : Guard) (d a : Fin 32) (imm : BitVec 12)
  /-- MUL (R356). gd = low 64 bits of ga x gb. -/
  | mul (c : Fin 16) (gu : Guard) (d a b : Fin 32)
  /-- MULH (R356). gd = high 64 bits of the signed product. -/
  | mulh (c : Fin 16) (gu : Guard) (d a b : Fin 32)
  /-- MULQ (R355). Rounded and saturated Q16.16 multiply. -/
  | mulq (c : Fin 16) (gu : Guard) (d a b : Fin 32)
  /-- MAC (R356). gd += ga x gb. -/
  | mac (c : Fin 16) (gu : Guard) (d a b : Fin 32)
  /-- SAT (R356). Clamp ga to a signed n-bit range. -/
  | sat (c : Fin 16) (gu : Guard) (d a : Fin 32) (n : Fin 32)
  /-- EXT (R357). Extract a bit field, sign-extended. -/
  | ext (c : Fin 16) (gu : Guard) (d a : Fin 32) (pos len : Fin 64)
  /-- EXTU (R357). Extract a bit field, zero-extended. -/
  | extu (c : Fin 16) (gu : Guard) (d a : Fin 32) (pos len : Fin 64)
  /-- INS (R357). Insert a bit field into gd. -/
  | ins (c : Fin 16) (gu : Guard) (d a : Fin 32) (pos len : Fin 64)
  /-- LI (R352). Load a sign-extended 17-bit immediate. -/
  | li (c : Fin 16) (gu : Guard) (d : Fin 32) (imm : BitVec 17)
  /-- LSH (R352). Shift gd left by 17 and OR in the immediate. -/
  | lsh (c : Fin 16) (gu : Guard) (d : Fin 32) (imm : BitVec 17)
  /-- ADDPC (R352). gd = pc + 4 x immediate. -/
  | addpc (c : Fin 16) (gu : Guard) (d : Fin 32) (imm : BitVec 17)
  /-- LB (R358). Load a byte, sign-extended. -/
  | lb (c : Fin 16) (gu : Guard) (d a : Fin 32) (imm : BitVec 12)
  /-- LBU (R358). Load a byte, zero-extended. -/
  | lbu (c : Fin 16) (gu : Guard) (d a : Fin 32) (imm : BitVec 12)
  /-- LH (R358). Load a half-word, sign-extended. -/
  | lh (c : Fin 16) (gu : Guard) (d a : Fin 32) (imm : BitVec 12)
  /-- LHU (R358). Load a half-word, zero-extended. -/
  | lhu (c : Fin 16) (gu : Guard) (d a : Fin 32) (imm : BitVec 12)
  /-- LW (R358). Load a word, sign-extended. -/
  | lw (c : Fin 16) (gu : Guard) (d a : Fin 32) (imm : BitVec 12)
  /-- LWU (R358). Load a word, zero-extended. -/
  | lwu (c : Fin 16) (gu : Guard) (d a : Fin 32) (imm : BitVec 12)
  /-- LD (R358). Load a double-word. -/
  | ld (c : Fin 16) (gu : Guard) (d a : Fin 32) (imm : BitVec 12)
  /-- LOAD_RETURN (R360). An outstanding load's data returns and an instruction waiting for it may issue. -/
  | loadReturn (c : Fin 16)
  /-- SB (R358). Store a byte. -/
  | sb (c : Fin 16) (gu : Guard) (d a : Fin 32) (imm : BitVec 12)
  /-- SH (R358). Store a half-word. -/
  | sh (c : Fin 16) (gu : Guard) (d a : Fin 32) (imm : BitVec 12)
  /-- SW (R358). Store a word. -/
  | sw (c : Fin 16) (gu : Guard) (d a : Fin 32) (imm : BitVec 12)
  /-- SD (R358). Store a double-word. -/
  | sd (c : Fin 16) (gu : Guard) (d a : Fin 32) (imm : BitVec 12)
  /-- AADD_W (R361). Atomic 4-byte add at the yard. -/
  | aaddW (c : Fin 16) (gu : Guard) (d a b : Fin 32)
  /-- AADD_D (R361). Atomic 8-byte add at the yard. -/
  | aaddD (c : Fin 16) (gu : Guard) (d a b : Fin 32)
  /-- ASWAP_W (R361). Atomic 4-byte swap at the yard. -/
  | aswapW (c : Fin 16) (gu : Guard) (d a b : Fin 32)
  /-- ASWAP_D (R361). Atomic 8-byte swap at the yard. -/
  | aswapD (c : Fin 16) (gu : Guard) (d a b : Fin 32)
  /-- ACAS_W (R361). Atomic 4-byte compare-and-swap, with p7 reporting success. -/
  | acasW (c : Fin 16) (gu : Guard) (d a b : Fin 32)
  /-- ACAS_D (R361). Atomic 8-byte compare-and-swap, with p7 reporting success. -/
  | acasD (c : Fin 16) (gu : Guard) (d a b : Fin 32)
  /-- ATOMIC_COMPLETE (R361). An atomic's yard round trip ends and gd and p7 are written. -/
  | atomicComplete (c : Fin 16)
  /-- B (R362). PC-relative branch. -/
  | b (c : Fin 16) (gu : Guard) (off : BitVec 22)
  /-- CALL (R362). PC-relative call writing g31. -/
  | call (c : Fin 16) (gu : Guard) (off : BitVec 22)
  /-- JR (R363). Jump to ga. -/
  | jr (c : Fin 16) (gu : Guard) (a : Fin 32)
  /-- JALR (R363). Jump to ga, writing the return address to gd. -/
  | jalr (c : Fin 16) (gu : Guard) (d a : Fin 32)
  /-- RET_E (R330). Return from an exception to cc.EPC at PPRIV. -/
  | retE (c : Fin 16) (gu : Guard)
  /-- WAIT (R321). Wait for a latched slot in the mask or a timeout. -/
  | wait (c : Fin 16) (gu : Guard) (d a b : Fin 32)
  /-- WAIT_TIMEOUT (R321). A WAIT's timeout expires and it returns 0x400. -/
  | waitTimeout (c : Fin 16)
  /-- TICK (R322). Wait for the next catch and return its stroke number. -/
  | tick (c : Fin 16) (gu : Guard) (d : Fin 32)
  /-- TIME (R367). Read the time counter into gd. -/
  | time (c : Fin 16) (gu : Guard) (d : Fin 32)
  /-- SNAP (R367). Trigger a performance-counter snapshot without waiting for it. -/
  | snap (c : Fin 16) (gu : Guard)
  /-- FENCE (R316). Wait until every earlier store and write-back of the core is visible. -/
  | fence (c : Fin 16) (gu : Guard)
  /-- FLUSH (R369). Write back, invalidate or both, on one line or the whole cache, by mode. -/
  | flush (c : Fin 16) (gu : Guard) (a : Fin 32) (mode : Fin 32)
  /-- HALT (R367). Halt the core after this instruction and clear COX_CTL.RUN. -/
  | halt (c : Fin 16) (gu : Guard)
  /-- CSRR (R307). Read a core control register. -/
  | csrr (c : Fin 16) (gu : Guard) (d a : Fin 32) (cc : BitVec 12)
  /-- CSRW (R307). Write a core control register, returning its old value. -/
  | csrw (c : Fin 16) (gu : Guard) (d a : Fin 32) (cc : BitVec 12)
  /-- SYS (R331). Send a service request to the warden and stall until it answers. -/
  | sys (c : Fin 16) (gu : Guard) (svc : BitVec 12)
  /-- SYS_ANSWER (R331). The warden's answer writes g1 and g2 and ends the stall. -/
  | sysAnswer (c : Fin 16) (status result : Word)
  /-- SYS_TIMEOUT (R331). After 10 ms without an answer SYS ends with g1 = BUSY. -/
  | sysTimeout (c : Fin 16)
  /-- ISSUE (R364). Copy n elements into a ring and advance PI once, waiting for room. -/
  | issue (c : Fin 16) (gu : Guard) (a : Fin 32) (ring : Fin 8192) (count : Fin 16)
  /-- ISSUE_NB (R364). Copy n elements into a ring only if they fit, setting p7. -/
  | issueNb (c : Fin 16) (gu : Guard) (a : Fin 32) (ring : Fin 8192) (count : Fin 16)
  /-- ISSUE_ROOM (R365). A ring that a waiting ISSUE needs frees enough elements, and the copy proceeds. -/
  | issueRoom (c : Fin 16)
  /-- RING (R364). Advance a ring's PI over elements already written and ring the consumer. -/
  | ring (c : Fin 16) (gu : Guard) (d : Fin 32) (ring : Fin 8192) (count : Fin 16)
  /-- BUDGET_EXHAUSTED (R325). cc.BCOUNT reaches the budget; EV_COX_BUDGET is raised and the core halts or takes BUDGET at the next boundary. -/
  | budgetExhausted (c : Fin 16)
  /-- COX_HALT_REQUEST (R340). COX_CTL.RUN at 0 halts the core at the next boundary, ending any wait. -/
  | coxHaltRequest (who : Requester) (c : Fin 16)
  /-- COX_RESUME (R340). COX_CTL.RUN at 1 resumes a halted core where it stopped. -/
  | coxResume (who : Requester) (c : Fin 16)
  /-- COX_RESET (R340). COX_CTL.RESET cleans the caches, resets g, p and cc and leaves the core HALTED. -/
  | coxReset (who : Requester) (c : Fin 16)
  /-- COX_SWAP_SUBMIT (R338). A write of COX_SWAP_HI with GO submits a staged image and sets SWAP to PENDING. -/
  | coxSwapSubmit (who : Requester) (c : Fin 16) (hi : RegWord)
  /-- RING_CONFIGURE (R382). RNG_CMD CONFIGURE copies the staged fields into the context and enables the ring, or is refused. -/
  | ringConfigure (who : Requester) (ring : Fin 8192)
  /-- RING_ENABLE (R382). RNG_CMD ENABLE sets EN and keeps the indices. -/
  | ringEnable (who : Requester) (ring : Fin 8192)
  /-- RING_DISABLE (R382). RNG_CMD DISABLE clears EN and keeps the indices and elements. -/
  | ringDisable (who : Requester) (ring : Fin 8192)
  /-- RING_CI_WRITE (R377). A consumer's write of CI frees elements and may notify the producer. -/
  | ringCiWrite (who : Requester) (ring : Fin 8192) (ci : RegWord)
  /-- SOFT_EVENT_RAISE (R383). A write of RNG_EV_RAISE raises EV_SOFT + SOFT. -/
  | softEventRaise (who : Requester) (v : RegWord)
  /-- HOST_DOORBELL_PRODUCE (R395). HOST_DB with SIDE 0 advances PI for a ring produced by the writer, or counts a rejection. -/
  | hostDoorbellProduce (who : Requester) (ring : Fin 8192) (count : BitVec 16)
  /-- HOST_DOORBELL_CONSUME (R395). HOST_DB with SIDE 1 advances CI for a ring consumed by the writer, or counts a rejection. -/
  | hostDoorbellConsume (who : Requester) (ring : Fin 8192) (count : BitVec 16)
  /-- MAILBOX_POST (R386). A sender's write of MBX_NOTICE_HI stores the notice and rings the doorbell, or sets REFUSED or WRONG. -/
  | mailboxPost (who : Requester) (n : Fin 64) (hi : RegWord)
  /-- MAILBOX_TAKE (R387). The receiver's read of MBX_NOTICE_HI clears FULL and the doorbell bit and stops the timer. -/
  | mailboxTake (who : Requester) (n : Fin 64)
  /-- MAILBOX_TIMEOUT (R388). A notice still held after TIMEOUT_US sets TIMEOUT and notifies the sender. -/
  | mailboxTimeout (n : Fin 64)
  /-- MAILBOX_WITHDRAW (R388). MBX_CTL.WITHDRAW clears a held notice and sets WITHDRAWN. -/
  | mailboxWithdraw (who : Requester) (n : Fin 64)
  /-- MSIX_UNMASK (R396). Unmasking a vector with its pending bit set sends one message. -/
  | msixUnmask (vec : Fin 64)
  /-- HOST_FLR (R397). A Function Level Reset resets the HOST block, configuration space and MSI-X table and disables every segment. -/
  | hostFlr
  /-- HOST_LINK_DOWN (R397). Loss of the PCIe link resets the host path, is counted and raises EV_HOST_LINK. -/
  | hostLinkDown
  /-- HOST_LINK_UP (R392). The PCIe link trains and enters L0. -/
  | hostLinkUp (speed : Fin 5) (lanes : Fin 3) (bme d3hot : Bool)
  /-- HOST_CPL_TIMEOUT (R394). A unit's host-window request receives no completion within CPL_TO and is handled as a failed access. -/
  | hostCplTimeout (unsupported : Bool)
  /-- SCRUB_READ (R413). Patrol scrub reads a line at class 3 and corrects or poisons it. -/
  | scrubRead (ch : Fin 8) (addr : Nat) (err : EccError)
  /-- TRAINING_SESSION (R414). DRC_TRAIN_CTL.SESSION opens or closes a training session on a disabled channel. -/
  | trainingSession (who : Requester) (ch : Fin 8) (on : Bool)
  /-- TRAINING_CAPTURE (R415). GO starts a capture that writes and reads pattern bursts and compares them. -/
  | trainingCapture (who : Requester) (ch : Fin 8) (v : RegWord)
  /-- CAPTURE_END (R415). A capture ends after its bursts or 64 us, sets DONE and raises EV_DRAM_TRAIN. -/
  | captureEnd (ch : Fin 8) (window : Bool)
  /-- TRAINING_SWEEP (R416). SWEEP.GO runs COUNT captures over stepped delays and records the longest passing run. -/
  | trainingSweep (who : Requester) (ch : Fin 8) (v : RegWord)
  /-- FREQUENCY_CHANGE (R417). DRC_CTL.DFC requests a change of frequency index, held behind a running capture, refused, or reported SAME. -/
  | frequencyChange (who : Requester) (ch : Fin 8) (idx : Fin 4)
  /-- FREQUENCY_CHANGE_DONE (R417). The frequency change completes through self-refresh within 20 us. -/
  | frequencyChangeDone (ch : Fin 8)
  /-- MODE_REGISTER_ACCESS (R430). DRC_MR.GO performs an MRW or MRR to the named rank and subchannel. -/
  | modeRegisterAccess (who : Requester) (ch : Fin 8) (v : RegWord)
  /-- RANK_POWER_DOWN (R419). A rank idle for TIMER ns enters power-down. -/
  | rankPowerDown (ch : Fin 8) (rank : Fin 2)
  /-- SELF_REFRESH_ENTRY (R420). An idle channel whose minimum tolerance exceeds EXIT_NS enters self-refresh. -/
  | selfRefreshEntry (ch : Fin 8)
  /-- SELF_REFRESH_EXIT (R420). A request or a fall of the tolerance to EXIT_NS starts the exit from self-refresh. -/
  | selfRefreshExit (ch : Fin 8) (request : Option (Fin 10))
  /-- RANK_RETIRE (R425). DRC_RETIRE.GO, an uncorrectable read or a parity limit starts migration to the spare, or reports NO_SPARE. -/
  | rankRetire (who : Requester) (ch : Fin 8) (rank : Fin 2)
  /-- MIGRATION_DONE (R426). Migration ends with the spare holding the data, or FAILED, and raises EV_DRAM_MIGRATED. -/
  | migrationDone (ch : Fin 8) (failed : Bool) (poisoned : List Nat)
  /-- TROWEL_RING_ENABLE (R466). A write setting EN in TRW_RING or TRW_DONE checks the ring and is accepted or refused with BAD_RING. -/
  | trowelRingEnable (who : Requester) (done : Bool) (v : RegWord)
  /-- TROWEL_LIST_START (R434). The trowel takes the next list descriptor and advances CI. -/
  | trowelListStart
  /-- TROWEL_FILL (R445). FILL writes the constant colour into the destination rectangle. -/
  | trowelFill
  /-- TROWEL_COPY (R446). COPY copies samples, ordered against same-surface overlap. -/
  | trowelCopy
  /-- TROWEL_OVER (R443). OVER composites the source over the destination with straight alpha. -/
  | trowelOver
  /-- TROWEL_GLYPH (R443). GLYPH composites the constant colour through the source's coverage. -/
  | trowelGlyph
  /-- TROWEL_CONVERT (R442). CONVERT converts format, matrix and range pixel for pixel. -/
  | trowelConvert
  /-- TROWEL_SCALE (R444). SCALE resamples the source rectangle onto the destination rectangle. -/
  | trowelScale
  /-- TROWEL_LIST_DONE (R448). A list ends, and its completion record and events are written. -/
  | trowelListDone
  /-- TROWEL_ABORT (R449). TRW_CTL.ABORT stops the running command at the end of its row and ends the list ABORTED. -/
  | trowelAbort (who : Requester) (v : RegWord) (rows : Nat)
  /-- ZIP_RING_ENABLE (R469). A write setting EN in ZIP_RING or ZIP_DONE checks the ring and is accepted or refused. -/
  | zipRingEnable (who : Requester) (e : Fin 4) (done : Bool) (v : RegWord)
  /-- ZIP_INFLATE (R455). An engine starts an INFLATE job from its ring or from ingest. -/
  | zipInflate (e : Fin 4)
  /-- ZIP_DEFLATE (R457). An engine starts a DEFLATE job from its ring. -/
  | zipDeflate (e : Fin 4)
  /-- ZIP_JOB_END (R460). A zip job ends, writing the descriptor fields and a completion record and raising its events. -/
  | zipJobEnd (e : Fin 4)
  /-- ZIP_SUSPEND (R462). A waiting class-0 job suspends the highest-class running job at its next output byte. -/
  | zipSuspend (e : Fin 4)
  /-- ZIP_RESUME (R462). A suspended job resumes from its saved state. -/
  | zipResume (e : Fin 4)
  /-- ZIP_ABORT (R463). ZIP_CTL.ABORT stops the running job at its next output byte as ABORTED. -/
  | zipAbort (who : Requester) (e : Fin 4) (v : RegWord) (made : Nat)
  /-- CAM_PORT_ENABLE (R487). Setting CAM_P_CTL.EN starts a port, or is refused with BAD_SIZE. -/
  | camPortEnable (who : Requester) (p : Fin 4) (v : RegWord)
  /-- CAM_ROUTE (R473). A write of ROUTE 1 binds the port to pipe A, or is refused with BOUND. -/
  | camRoute (who : Requester) (p : Fin 4) (v : RegWord)
  /-- CAM_FRAME_START (R471). An FS packet starts a frame, advances the frame number, latches SOF and takes a raw slot or drops the frame. -/
  | camFrameStart (p : Fin 4) (vc : Nat) (fn : BitVec 16)
  /-- CAM_LINE_RECEIVED (R472). A long packet delivers a line, and faults are repaired. -/
  | camLineReceived (p : Fin 4) (pkt : CamPacket)
  /-- CAM_FRAME_END (R472). An FE ends the frame, repairs missing lines and raises EV_CAM_FRAME. -/
  | camFrameEnd (p : Fin 4) (vc : Nat)
  /-- PIPE_B_FRAME_TAKE (R476). Idle pipe B takes the waiting frame with the earliest start-of-frame time. -/
  | pipeBFrameTake
  /-- PIPE_FRAME_DONE (R484). A pipe completes a frame, writes output, statistics and the record, and frees the raw slot. -/
  | pipeFrameDone (k : Fin 2)
  /-- CAM_SETSEQ (R482). A write of CAM_P_SETSEQ records SEQ against the frame in capture, or is refused with SETQ. -/
  | camSetseq (who : Requester) (p : Fin 4) (v : RegWord)
  /-- CAM_APPLY (R483). CAM_K_APPLY.GO latches the staging registers and reads the tables for a waiting parameter set. -/
  | camApply (who : Requester) (k : Fin 2) (v : RegWord)
  /-- CAM_APPLY_DONE (R483). The pipe finishes reading the tables and APPLY.BUSY clears. -/
  | camApplyDone (k : Fin 2)
  /-- CAM_PIPE_ABORT (R487). CAM_K_CTL.ABORT ends the frame in progress as POISON at the end of its line. -/
  | camPipeAbort (who : Requester) (k : Fin 2) (v : RegWord) (lines : Nat)
  /-- PLUMB_RUN_REQUEST (R490). A write of PLB_RUN requests the named trim domains. -/
  | plumbRunRequest (who : Requester) (v : RegWord)
  /-- PLUMB_RUN_START (R491). Idle plumb starts the lowest requested domain. -/
  | plumbRunStart
  /-- PLUMB_RUN_END (R491). A run ends OK, leaving its shadow set waiting, or RANGE. -/
  | plumbRunEnd (ok : Bool)
  /-- PLUMB_RUN_TIMEOUT (R491). A run not ended after TMO_US ends as TIMEOUT. -/
  | plumbRunTimeout
  /-- PLUMB_ABORT (R492). PLB_CTL.ABORT ends the running run as ABORTED and requests it again. -/
  | plumbAbort (who : Requester) (v : RegWord)
  /-- TRIM_LOAD (R498). PLB_LOAD with GO checks a trim record and loads it into the active or shadow sets, or reports BAD_RECORD or BUSY. -/
  | trimLoad (who : Requester) (hi : RegWord)
  /-- FIDUCIAL_JOB_LOAD (R500). In a recovery window the head fiducial job is loaded and checked, left waiting, or ended as LATE. -/
  | fiducialJobLoad
  /-- POWER_ON (R510). The rise of PWR_OK starts a power-on reset: BIST, SRAM repair, yard fill and the boot ROM. -/
  | powerOn (rows : BitVec 12) (unrepaired : Option (BitVec 8)) (retrained : Bool)
  /-- POWER_LOSS (R510). A fall of PWR_OK makes every output high-impedance and loses all volatile state. -/
  | powerLoss
  /-- WARM_RESET (R511). The rise of RESET_N after 1 us low resets cores, units, rings and non-sticky registers, keeping the yard and the time counter. -/
  | warmReset
  /-- RESET_N_ASSERT (R511). The fall of RESET_N puts DRAM in self-refresh and stops the strand lanes. -/
  | resetNAssert
  /-- SOFT_RESET (R511). A write of 0xA5A5 to GLB_RST_CTL.KEY starts a warm reset. -/
  | softReset (who : Requester) (v : RegWord)
  /-- POWER_FAIL (R517). PWR_FAIL_N low for 200 ns starts the power-fail sequence. -/
  | powerFail
  /-- POWER_FAIL_RECOVERY (R518). PWR_FAIL_N high for 10 ms while PWR_OK is high makes a warm reset. -/
  | powerFailRecovery
  /-- SHOW_ARM (R516). GLB_SHOW.ARM in STANDBY enters SHOWING, or is refused. -/
  | showArm (who : Requester)
  /-- SHOW_DISARM (R516). GLB_SHOW.DISARM in SHOWING starts Off 1 for every tile and enters STANDBY, or is refused. -/
  | showDisarm (who : Requester)
  /-- KILN_EVALUATION (R523). Every 250 us the kiln evaluates its model and decides the stage. -/
  | kilnEvaluation (mw : List (BitVec 24)) (model : List (BitVec 16))
  /-- SENSOR_ROUND (R520). Every 8 ms the diode sensors and voltage monitors are read, faulty sensors marked and model errors set. -/
  | sensorRound (temps : List (BitVec 16)) (volts : List (BitVec 16))
  /-- FLASH_TEMP_READ (R527). Every 1 s the kiln reads the board flash temperature over I2C bus 0. -/
  | flashTempRead (word : Option (BitVec 16))
  /-- I2C_TRANSACTION (R531). GLB_I2C_CMD.GO starts an I2C transaction on the bus. -/
  | i2cTransaction (who : Requester) (b : Fin 2) (v : RegWord)
  /-- I2C_DONE (R531). An I2C transaction ends with its result and clears BUSY. -/
  | i2cDone (b : Fin 2) (result : Fin 5) (data : RegWord)
  /-- OTP_ENROL (R538). The ENROL operation verifies an enrolment record and programs an owner root slot. -/
  | otpEnrol (who : Requester) (slot : Fin 8)
  /-- OTP_REVOKE (R538). The REVOKE operation verifies a revocation record and revokes an owner slot. -/
  | otpRevoke (who : Requester) (slot : Fin 8)
  /-- OTP_RB_ADVANCE (R538). The RB_ADVANCE operation advances an anti-rollback counter. -/
  | otpRbAdvance (who : Requester) (index : Fin 64) (value : Fin 512)
  /-- OTP_LMS_RESERVE (R538). The LMS_RESERVE operation adds 1 to RESV. -/
  | otpLmsReserve (who : Requester)
  /-- OTP_OP_DONE (R538). An OTP operation completes within 1 ms and reports its result. -/
  | otpOpDone
  /-- IMAGE_VERIFY (R541). TRU_VFY_HI with GO starts verification of an image. -/
  | imageVerify (who : Requester) (hi : RegWord)
  /-- IMAGE_VERIFY_DONE (R541). Verification ends, reporting its result and appending a measurement. -/
  | imageVerifyDone
  /-- ATTESTATION (R550). TRU_ATT_HI with GO produces a signed attestation report, or refuses. -/
  | attestation (who : Requester) (hi : RegWord)
  /-- ATTESTATION_DONE (R550). The attestation report completes and TRU_ATT_STAT reports its status. -/
  | attestationDone
  /-- LMS_LOAD (R549). The LMS LOAD operation checks the LMS_STATE record and sets q and the limit. -/
  | lmsLoad (who : Requester) (addrHi : BitVec 16)
  /-- LMS_SEAL (R549). The LMS SEAL operation produces a new LMS_STATE record with its MAC. -/
  | lmsSeal (who : Requester) (addrHi : BitVec 16)
  /-- DEBUG_CHAL (R552). CHAL loads 32 random bytes into TRU_DBG_CHAL. -/
  | debugChal (who : Requester)
  /-- DEBUG_UNLOCK (R552). UNLOCK verifies a token against the challenge and UID and grants its level, or counts a failure. -/
  | debugUnlock (who : Requester) (addrHi : BitVec 16)
  /-- DEBUG_RELOCK (R552). RELOCK returns the debug level to 0. -/
  | debugRelock (who : Requester)
  /-- LEDGER_READ (R547). LDG_CMD READ copies flash bytes to memory. -/
  | ledgerRead (who : Requester) (cs : Fin 2)
  /-- LEDGER_PROGRAM (R547). LDG_CMD PROGRAM programs pages in sequence, each gated by the write conditions. -/
  | ledgerProgram (who : Requester) (cs : Fin 2)
  /-- LEDGER_ERASE_4K (R547). LDG_CMD ERASE_4K erases a sector, or is refused. -/
  | ledgerErase4k (who : Requester) (cs : Fin 2)
  /-- LEDGER_ERASE_64K (R547). LDG_CMD ERASE_64K erases a block, or is refused. -/
  | ledgerErase64k (who : Requester) (cs : Fin 2)
  /-- LEDGER_OP_DONE (R547). A flash page program or erase completes, and the sequence continues or ends with its result. -/
  | ledgerOpDone (failed : Bool)
  /-- LEDGER_WINDOW_READ (R542). A read of the ledger window suspends a program or erase, is performed and resumes it. -/
  | ledgerWindowRead (addr : Nat)
  /-- SNAP_TRIGGER (R567). PERF_CTL.SNAP, the SNAP instruction or a catch with AUTO_CATCH triggers a snapshot, or is dropped while a dump is busy. -/
  | snapTrigger (who : Requester)
  /-- SNAP_EPOCH (R567). 32 ns after the trigger every shadow takes its counter, configurations apply and ZERO clears. -/
  | snapEpoch
  /-- SNAP_DUMP_DONE (R569). The dump slot is written with EPOCH last and EV_PERF_SNAP is raised. -/
  | snapDumpDone
  /-- PMC_CONFIG_WRITE (R564). A PMC_CFG write is read back at once and takes effect at the next epoch. -/
  | pmcConfigWrite (who : Requester) (index : Fin 176) (v : RegWord)
  /-- COUNTER_WRAP (R566). A 48-bit counter wraps, sets its PERF_OVF bit, carries to a chained partner and may raise EV_PERF_OVF. -/
  | counterWrap (index : Fin 176)
  /-- SHADOW_READ (R570). A read of PERF_SH_LO latches the selected shadow and its epoch. -/
  | shadowRead (who : Requester)
  /-- UP_BRICK_DISCARD (R185). A brick arriving at S<s>X that fails stuffing, HCRC, LEN, direction or CRC checks is discarded and counted in STR_STUFF_ERR, STR_HCRC_ERR or STR_CRC_ERR, and an inverted marker sets RX_INV. -/
  | upBrickDiscard (k : Fin 96) (line : List Bool)
  /-- GPIO_INPUT_EDGE (R529). An edge on a GPIO input pin sets its bit in GLB_GPIO_EDGE and counts as a GLOBAL GPIO-edge event. -/
  | gpioInputEdge (n : Fin 32) (level : Bool)
  /-- CLOCK_PRESENCE_CHANGE (R592). A clock input (25 MHz, SDREF0-3, PEREF, 10 MHz) appears or disappears, and GLB_CLK_STAT.PRESENT follows it. -/
  | clockPresenceChange (c : Fin 7) (present : Bool)
  /-- FLASH_READING_EXPIRED (R527). 2 s after the last successful flash temperature reading, the reading stops being valid, and ledger writes become refused with NO_READING. -/
  | flashReadingExpired
  /-- DRAM_CHANNEL_ENABLE (R429). A write of DRC_CTL.ENABLE starts or stops a channel, so STATE moves between OFF and RUN. -/
  | dramChannelEnable (who : Requester) (ch : Fin 8) (on : Bool)
  /-- NET_PORT_ENABLE (R91). A write of NET_CTL.ENABLE starts the port's auto-negotiation or link training, or stops the port. -/
  | netPortEnable (who : Requester) (n : Fin 4) (v : RegWord)
  /-- PTP_DOMAIN_ENABLE (R258). A write of TIME_DOM_CTL.EN moves the domain to LISTEN, or with EN 0 to DISABLED. -/
  | ptpDomainEnable (who : Requester) (dom : Fin 2) (v : RegWord)
  /-- SELF_REFRESH_EXIT_DONE (R420). A channel finishes leaving self-refresh, STATE returns to RUN and the waiting requests are served. -/
  | selfRefreshExitDone (ch : Fin 8)
  /-- MODE_REGISTER_ACCESS_DONE (R430). An MRW or MRR completes, DRC_MR.BUSY clears and an MRR result is written to DRC_MR_DATA. -/
  | modeRegisterAccessDone (ch : Fin 8)
  /-- CAPAR_ERROR (R425). A DRAM command/address parity error reported by a rank is retried, counted in DRC_CAPAR and can start retirement at CAPAR_LIMIT within 1 ms. -/
  | caparError (ch : Fin 8) (rank : Fin 2)
  /-- BOUNDARY_SCAN_INSTRUCTION (R596). A JTAG instruction loaded at debug level 1 or above takes the pins and disconnects the device's drivers, or releases them. -/
  | boundaryScanInstruction (holds : Bool)
deriving DecidableEq, Repr

end Sys2Proof
end

