-- ==== Sys2Proof/Decode.lean ====
section
/-!
DEFINITION. The words of the table's commands, of which it gives none, and the instruction words of the cox cores (R345–R369): a decoder,
and the encoder written from the same tables.
-/
namespace Sys2Proof

open Sys2Proof.Machine

/-- The command that a word of the table spells: its rows give no bits, so no word spells one. -/
def decodeTableWord (_nbits _w : Nat) : Option Instr := none

/-! ## Fields of an instruction word (R345) -/

/-- Bits [lo + w − 1 : lo] of a word, as a number below 2^w. -/
def field (v lo w : Nat) : Fin (2 ^ w) := ⟨bitsOf v lo w, Nat.mod_lt _ (Nat.two_pow_pos w)⟩

/-- The five-bit fields D, A and B, and GUARD. -/
def fD (w : Nat) : Fin 32 := field w 21 5
def fA (w : Nat) : Fin 32 := field w 16 5
def fB (w : Nat) : Fin 32 := field w 11 5
def fGuard (w : Nat) : Guard := field w 0 4

/-- IMM12, IMM17 and OFFSET22. -/
def fImm12 (w : Nat) : BitVec 12 := BitVec.ofNat 12 (bitsOf w 4 12)
def fImm17 (w : Nat) : BitVec 17 := BitVec.ofNat 17 (bitsOf w 4 17)
def fOff22 (w : Nat) : BitVec 22 := BitVec.ofNat 22 (bitsOf w 4 22)

/-! ## Decoding (R347, R349) -/

/-- The integer group (R351), by FN. -/
def decodeInt (c : Fin 16) (w : Nat) : Option Instr :=
  match bitsOf w 4 7 with
  | 0 => some (.add c (fGuard w) (fD w) (fA w) (fB w))
  | 1 => some (.sub c (fGuard w) (fD w) (fA w) (fB w))
  | 2 => some (.and c (fGuard w) (fD w) (fA w) (fB w))
  | 3 => some (.or c (fGuard w) (fD w) (fA w) (fB w))
  | 4 => some (.xor c (fGuard w) (fD w) (fA w) (fB w))
  | 5 => some (.sll c (fGuard w) (fD w) (fA w) (fB w))
  | 6 => some (.srl c (fGuard w) (fD w) (fA w) (fB w))
  | 7 => some (.sra c (fGuard w) (fD w) (fA w) (fB w))
  | 8 => some (.min c (fGuard w) (fD w) (fA w) (fB w))
  | 9 => some (.max c (fGuard w) (fD w) (fA w) (fB w))
  | 10 => some (.clz c (fGuard w) (fD w) (fA w) (fB w))
  | 11 => some (.popc c (fGuard w) (fD w) (fA w) (fB w))
  | _ => none

/-- The compare and predicate group (R354), by FN. -/
def decodeCmp (c : Fin 16) (w : Nat) : Option Instr :=
  match bitsOf w 4 7 with
  | 0 => some (.cmpEq c (fGuard w) (fD w) (fA w) (fB w))
  | 1 => some (.cmpLt c (fGuard w) (fD w) (fA w) (fB w))
  | 2 => some (.cmpLtu c (fGuard w) (fD w) (fA w) (fB w))
  | 3 => some (.tst c (fGuard w) (fD w) (fA w) (fB w))
  | 8 => some (.pand c (fGuard w) (fD w) (fA w) (fB w))
  | 9 => some (.por c (fGuard w) (fD w) (fA w) (fB w))
  | 10 => some (.pxor c (fGuard w) (fD w) (fA w) (fB w))
  | 16 => some (.pget c (fGuard w) (fD w) (fA w) (fB w))
  | 17 => some (.pset c (fGuard w) (fD w) (fA w) (fB w))
  | _ => none

/-- The multiply group (R356), by FN. -/
def decodeMul (c : Fin 16) (w : Nat) : Option Instr :=
  match bitsOf w 4 7 with
  | 0 => some (.mul c (fGuard w) (fD w) (fA w) (fB w))
  | 1 => some (.mulh c (fGuard w) (fD w) (fA w) (fB w))
  | 2 => some (.mulq c (fGuard w) (fD w) (fA w) (fB w))
  | 3 => some (.mac c (fGuard w) (fD w) (fA w) (fB w))
  | 4 => some (.sat c (fGuard w) (fD w) (fA w) (fB w))
  | _ => none

/-- The atomic group (R361), by FN. -/
def decodeAtomic (c : Fin 16) (w : Nat) : Option Instr :=
  match bitsOf w 4 7 with
  | 0 => some (.aaddW c (fGuard w) (fD w) (fA w) (fB w))
  | 1 => some (.aaddD c (fGuard w) (fD w) (fA w) (fB w))
  | 2 => some (.aswapW c (fGuard w) (fD w) (fA w) (fB w))
  | 3 => some (.aswapD c (fGuard w) (fD w) (fA w) (fB w))
  | 4 => some (.acasW c (fGuard w) (fD w) (fA w) (fB w))
  | 5 => some (.acasD c (fGuard w) (fD w) (fA w) (fB w))
  | _ => none

/-- The control and system group (R363, R367): the fields that a row does not name must be 0, by FN. -/
def decodeSys (c : Fin 16) (w : Nat) : Option Instr :=
  match bitsOf w 4 7 with
  | 0 => if fD w = 0 ∧ fB w = 0 then some (.jr c (fGuard w) (fA w)) else none
  | 1 => if fB w = 0 then some (.jalr c (fGuard w) (fD w) (fA w)) else none
  | 2 => if fD w = 0 ∧ fA w = 0 ∧ fB w = 0 then some (.retE c (fGuard w)) else none
  | 8 => some (.wait c (fGuard w) (fD w) (fA w) (fB w))
  | 9 => if fA w = 0 ∧ fB w = 0 then some (.tick c (fGuard w) (fD w)) else none
  | 10 => if fA w = 0 ∧ fB w = 0 then some (.time c (fGuard w) (fD w)) else none
  | 11 => if fD w = 0 ∧ fA w = 0 ∧ fB w = 0 then some (.snap c (fGuard w)) else none
  | 12 => if fD w = 0 ∧ fA w = 0 ∧ fB w = 0 then some (.fence c (fGuard w)) else none
  | 13 => if fD w = 0 then some (.flush c (fGuard w) (fA w) (fB w)) else none
  | 14 => if fD w = 0 ∧ fA w = 0 ∧ fB w = 0 then some (.halt c (fGuard w)) else none
  | _ => none

/-- The instruction of a 32-bit word, for core `c`; none where its OP or FN is reserved or an unused field is not 0, which raises ILLEGAL
(R347). The other conditions of ILLEGAL are left to the meaning of the instruction. -/
def decodeGrasin (c : Fin 16) (w : Nat) : Option Instr :=
  match bitsOf w 26 6 with
  | 0 => decodeInt c w
  | 1 => decodeCmp c w
  | 2 => decodeMul c w
  | 3 => decodeAtomic c w
  | 4 => decodeSys c w
  | 5 => some (.csrr c (fGuard w) (fD w) (fA w) (fImm12 w))
  | 6 => some (.csrw c (fGuard w) (fD w) (fA w) (fImm12 w))
  | 7 => if fD w = 0 ∧ fA w = 0 then some (.sys c (fGuard w) (fImm12 w)) else none
  | 8 => some (.addi c (fGuard w) (fD w) (fA w) (fImm12 w))
  | 9 => some (.andi c (fGuard w) (fD w) (fA w) (fImm12 w))
  | 10 => some (.ori c (fGuard w) (fD w) (fA w) (fImm12 w))
  | 11 => some (.xori c (fGuard w) (fD w) (fA w) (fImm12 w))
  | 12 => some (.slli c (fGuard w) (fD w) (fA w) (fImm12 w))
  | 13 => some (.srli c (fGuard w) (fD w) (fA w) (fImm12 w))
  | 14 => some (.srai c (fGuard w) (fD w) (fA w) (fImm12 w))
  | 15 => some (.cmpiEq c (fGuard w) (fD w) (fA w) (fImm12 w))
  | 16 => some (.cmpiLt c (fGuard w) (fD w) (fA w) (fImm12 w))
  | 17 => some (.cmpiLtu c (fGuard w) (fD w) (fA w) (fImm12 w))
  | 18 => some (.ext c (fGuard w) (fD w) (fA w) (field w 10 6) (field w 4 6))
  | 19 => some (.extu c (fGuard w) (fD w) (fA w) (field w 10 6) (field w 4 6))
  | 20 => some (.ins c (fGuard w) (fD w) (fA w) (field w 10 6) (field w 4 6))
  | 21 => some (.li c (fGuard w) (fD w) (fImm17 w))
  | 22 => some (.lsh c (fGuard w) (fD w) (fImm17 w))
  | 23 => some (.addpc c (fGuard w) (fD w) (fImm17 w))
  | 24 => some (.lb c (fGuard w) (fD w) (fA w) (fImm12 w))
  | 25 => some (.lbu c (fGuard w) (fD w) (fA w) (fImm12 w))
  | 26 => some (.lh c (fGuard w) (fD w) (fA w) (fImm12 w))
  | 27 => some (.lhu c (fGuard w) (fD w) (fA w) (fImm12 w))
  | 28 => some (.lw c (fGuard w) (fD w) (fA w) (fImm12 w))
  | 29 => some (.lwu c (fGuard w) (fD w) (fA w) (fImm12 w))
  | 30 => some (.ld c (fGuard w) (fD w) (fA w) (fImm12 w))
  | 32 => some (.sb c (fGuard w) (fD w) (fA w) (fImm12 w))
  | 33 => some (.sh c (fGuard w) (fD w) (fA w) (fImm12 w))
  | 34 => some (.sw c (fGuard w) (fD w) (fA w) (fImm12 w))
  | 35 => some (.sd c (fGuard w) (fD w) (fA w) (fImm12 w))
  | 40 => some (.b c (fGuard w) (fOff22 w))
  | 41 => some (.call c (fGuard w) (fOff22 w))
  | 48 => some (.issue c (fGuard w) (fD w) (field w 8 13) (field w 4 4))
  | 49 => some (.issueNb c (fGuard w) (fD w) (field w 8 13) (field w 4 4))
  | 50 => some (.ring c (fGuard w) (fD w) (field w 8 13) (field w 4 4))
  | _ => none

/-! ## Encoding (R345) -/

/-- The word of each format, from its fields. -/
def wordRR (op d a b fn gu : Nat) : Nat := op * 2 ^ 26 + d * 2 ^ 21 + a * 2 ^ 16 + b * 2 ^ 11 + fn * 2 ^ 4 + gu
def wordRI (op d a imm gu : Nat) : Nat := op * 2 ^ 26 + d * 2 ^ 21 + a * 2 ^ 16 + imm * 2 ^ 4 + gu
def wordBF (op d a pos len gu : Nat) : Nat := op * 2 ^ 26 + d * 2 ^ 21 + a * 2 ^ 16 + pos * 2 ^ 10 + len * 2 ^ 4 + gu
def wordLU (op d imm gu : Nat) : Nat := op * 2 ^ 26 + d * 2 ^ 21 + imm * 2 ^ 4 + gu
def wordBR (op off gu : Nat) : Nat := op * 2 ^ 26 + off * 2 ^ 4 + gu
def wordQ (op d ring cnt gu : Nat) : Nat := op * 2 ^ 26 + d * 2 ^ 21 + ring * 2 ^ 8 + cnt * 2 ^ 4 + gu

/-- The word of a cox instruction and the core that performs it; none for a command that is no instruction. -/
def encodeGrasin : Instr → Option (Fin 16 × Nat)
  | .add c gu d a b => some (c, wordRR 0 d.val a.val b.val 0 gu.val)
  | .sub c gu d a b => some (c, wordRR 0 d.val a.val b.val 1 gu.val)
  | .and c gu d a b => some (c, wordRR 0 d.val a.val b.val 2 gu.val)
  | .or c gu d a b => some (c, wordRR 0 d.val a.val b.val 3 gu.val)
  | .xor c gu d a b => some (c, wordRR 0 d.val a.val b.val 4 gu.val)
  | .sll c gu d a b => some (c, wordRR 0 d.val a.val b.val 5 gu.val)
  | .srl c gu d a b => some (c, wordRR 0 d.val a.val b.val 6 gu.val)
  | .sra c gu d a b => some (c, wordRR 0 d.val a.val b.val 7 gu.val)
  | .min c gu d a b => some (c, wordRR 0 d.val a.val b.val 8 gu.val)
  | .max c gu d a b => some (c, wordRR 0 d.val a.val b.val 9 gu.val)
  | .clz c gu d a b => some (c, wordRR 0 d.val a.val b.val 10 gu.val)
  | .popc c gu d a b => some (c, wordRR 0 d.val a.val b.val 11 gu.val)
  | .cmpEq c gu d a b => some (c, wordRR 1 d.val a.val b.val 0 gu.val)
  | .cmpLt c gu d a b => some (c, wordRR 1 d.val a.val b.val 1 gu.val)
  | .cmpLtu c gu d a b => some (c, wordRR 1 d.val a.val b.val 2 gu.val)
  | .tst c gu d a b => some (c, wordRR 1 d.val a.val b.val 3 gu.val)
  | .pand c gu d a b => some (c, wordRR 1 d.val a.val b.val 8 gu.val)
  | .por c gu d a b => some (c, wordRR 1 d.val a.val b.val 9 gu.val)
  | .pxor c gu d a b => some (c, wordRR 1 d.val a.val b.val 10 gu.val)
  | .pget c gu d a b => some (c, wordRR 1 d.val a.val b.val 16 gu.val)
  | .pset c gu d a b => some (c, wordRR 1 d.val a.val b.val 17 gu.val)
  | .mul c gu d a b => some (c, wordRR 2 d.val a.val b.val 0 gu.val)
  | .mulh c gu d a b => some (c, wordRR 2 d.val a.val b.val 1 gu.val)
  | .mulq c gu d a b => some (c, wordRR 2 d.val a.val b.val 2 gu.val)
  | .mac c gu d a b => some (c, wordRR 2 d.val a.val b.val 3 gu.val)
  | .sat c gu d a b => some (c, wordRR 2 d.val a.val b.val 4 gu.val)
  | .aaddW c gu d a b => some (c, wordRR 3 d.val a.val b.val 0 gu.val)
  | .aaddD c gu d a b => some (c, wordRR 3 d.val a.val b.val 1 gu.val)
  | .aswapW c gu d a b => some (c, wordRR 3 d.val a.val b.val 2 gu.val)
  | .aswapD c gu d a b => some (c, wordRR 3 d.val a.val b.val 3 gu.val)
  | .acasW c gu d a b => some (c, wordRR 3 d.val a.val b.val 4 gu.val)
  | .acasD c gu d a b => some (c, wordRR 3 d.val a.val b.val 5 gu.val)
  | .jr c gu a => some (c, wordRR 4 0 a.val 0 0 gu.val)
  | .jalr c gu d a => some (c, wordRR 4 d.val a.val 0 1 gu.val)
  | .retE c gu => some (c, wordRR 4 0 0 0 2 gu.val)
  | .wait c gu d a b => some (c, wordRR 4 d.val a.val b.val 8 gu.val)
  | .tick c gu d => some (c, wordRR 4 d.val 0 0 9 gu.val)
  | .time c gu d => some (c, wordRR 4 d.val 0 0 10 gu.val)
  | .snap c gu => some (c, wordRR 4 0 0 0 11 gu.val)
  | .fence c gu => some (c, wordRR 4 0 0 0 12 gu.val)
  | .flush c gu a b => some (c, wordRR 4 0 a.val b.val 13 gu.val)
  | .halt c gu => some (c, wordRR 4 0 0 0 14 gu.val)
  | .csrr c gu d a imm => some (c, wordRI 5 d.val a.val imm.toNat gu.val)
  | .csrw c gu d a imm => some (c, wordRI 6 d.val a.val imm.toNat gu.val)
  | .addi c gu d a imm => some (c, wordRI 8 d.val a.val imm.toNat gu.val)
  | .andi c gu d a imm => some (c, wordRI 9 d.val a.val imm.toNat gu.val)
  | .ori c gu d a imm => some (c, wordRI 10 d.val a.val imm.toNat gu.val)
  | .xori c gu d a imm => some (c, wordRI 11 d.val a.val imm.toNat gu.val)
  | .slli c gu d a imm => some (c, wordRI 12 d.val a.val imm.toNat gu.val)
  | .srli c gu d a imm => some (c, wordRI 13 d.val a.val imm.toNat gu.val)
  | .srai c gu d a imm => some (c, wordRI 14 d.val a.val imm.toNat gu.val)
  | .cmpiEq c gu d a imm => some (c, wordRI 15 d.val a.val imm.toNat gu.val)
  | .cmpiLt c gu d a imm => some (c, wordRI 16 d.val a.val imm.toNat gu.val)
  | .cmpiLtu c gu d a imm => some (c, wordRI 17 d.val a.val imm.toNat gu.val)
  | .lb c gu d a imm => some (c, wordRI 24 d.val a.val imm.toNat gu.val)
  | .lbu c gu d a imm => some (c, wordRI 25 d.val a.val imm.toNat gu.val)
  | .lh c gu d a imm => some (c, wordRI 26 d.val a.val imm.toNat gu.val)
  | .lhu c gu d a imm => some (c, wordRI 27 d.val a.val imm.toNat gu.val)
  | .lw c gu d a imm => some (c, wordRI 28 d.val a.val imm.toNat gu.val)
  | .lwu c gu d a imm => some (c, wordRI 29 d.val a.val imm.toNat gu.val)
  | .ld c gu d a imm => some (c, wordRI 30 d.val a.val imm.toNat gu.val)
  | .sb c gu d a imm => some (c, wordRI 32 d.val a.val imm.toNat gu.val)
  | .sh c gu d a imm => some (c, wordRI 33 d.val a.val imm.toNat gu.val)
  | .sw c gu d a imm => some (c, wordRI 34 d.val a.val imm.toNat gu.val)
  | .sd c gu d a imm => some (c, wordRI 35 d.val a.val imm.toNat gu.val)
  | .sys c gu imm => some (c, wordRI 7 0 0 imm.toNat gu.val)
  | .ext c gu d a pos len => some (c, wordBF 18 d.val a.val pos.val len.val gu.val)
  | .extu c gu d a pos len => some (c, wordBF 19 d.val a.val pos.val len.val gu.val)
  | .ins c gu d a pos len => some (c, wordBF 20 d.val a.val pos.val len.val gu.val)
  | .li c gu d imm => some (c, wordLU 21 d.val imm.toNat gu.val)
  | .lsh c gu d imm => some (c, wordLU 22 d.val imm.toNat gu.val)
  | .addpc c gu d imm => some (c, wordLU 23 d.val imm.toNat gu.val)
  | .b c gu off => some (c, wordBR 40 off.toNat gu.val)
  | .call c gu off => some (c, wordBR 41 off.toNat gu.val)
  | .issue c gu d r n => some (c, wordQ 48 d.val r.val n.val gu.val)
  | .issueNb c gu d r n => some (c, wordQ 49 d.val r.val n.val gu.val)
  | .ring c gu d r n => some (c, wordQ 50 d.val r.val n.val gu.val)
  | _ => none

end Sys2Proof
end

