-- ==== Sys2Proof/Config.lean ====
section
/-!
DEFINITION. What one part fixes and what the spec leaves open: free values, opaque, so that no proof can see what they are.
-/
namespace Sys2Proof.Config

/-- The kinds of open value. Each constructor names the place of the spec that leaves the value open. -/
inductive Open where
  /-- Load-to-use latency of an access, in core cycles (R314 gives typical values only). -/
  | latency
  /-- Which way of a full cache set a line fill replaces (R314 names no policy). -/
  | victim
  /-- The order in which units that wait are served where the spec names none. -/
  | order
  /-- A decoded sample of a DSC slice (VESA DSC, not reproduced by the spec). -/
  | dsc
  /-- A byte of a DEFLATE stream or of a state buffer that the spec does not fix (R457, R453). -/
  | zip
  /-- A demosaiced or noise-reduced sample (R478 names the stage, not its arithmetic). -/
  | camera
  /-- The outcome of a cryptographic check or computation (ECDSA, LMS, SHA-384, HMAC; R535, R536). -/
  | crypto
  /-- A random number (R552). -/
  | random
  /-- A result of a calibration run (R488, R491). -/
  | plumb
  /-- A temperature, voltage, power or supply reading (R519, R520). -/
  | sensor
  /-- A value that travels in from the other end of a lane (R206, R292). -/
  | lane
  /-- A value of a DRAM device or of the controller's own mapping (R411, R415). -/
  | dram
  /-- What happens by itself between commands: real-time levels, errors that receivers and memories find, units' traffic. -/
  | tick
  /-- What an unstated result reads as. -/
  | result
deriving DecidableEq, Repr

/-- A free value: `k` says which open point, `n` is the counter of the state that the step reads and advances. -/
opaque freeNat (k : Open) (n : Nat) : Nat

/-- Free writes: addresses and the values that they take. -/
opaque freeWrites (n : Nat) : List (Nat × Nat)

/-- A free value that is a function of the operands it depends on. -/
opaque freeFun (k : Open) (xs : List Nat) : Nat

end Sys2Proof.Config
end

