-- ==== Sys2Proof/Machine/RegMap.lean ====
section
/-!
DEFINITION. The register map: every block of R575, every register of the chapters' register maps with its reset value, its
fields and their types (R5), the sticky fields of R580, the decode of an address (R577), and the name of every register and field.
-/
namespace Sys2Proof.Machine

/-- The field types of R5 (a RSVD bit is a bit that no field covers). -/
inductive FieldType where
  | rw | ro | rc | w1c | w1s | wo
deriving DecidableEq, Repr

/-- One field of a register: its lowest bit, its width and its type. -/
structure FieldDef where
  lsb : Nat
  width : Nat
  ty : FieldType
deriving DecidableEq, Repr

/-- One row of a register map: offset of element 0 in its instance, stride and count of its elements, reset value, mask of the
sticky bits (R580) and fields. -/
structure RegDef where
  off : Nat
  stride : Nat
  count : Nat
  reset : Nat
  sticky : Nat
  fields : List FieldDef
deriving DecidableEq, Repr

/-- The blocks of R575. -/
inductive Block where
  | global | time | trust | kiln | plumb | mbox | perf | ledger | net | host | ingest | zip | trowel | cox | shell | oar | cam
  | ring | dramc | strand | mortar
deriving DecidableEq, Repr

/-- The place of a register array: base address of instance 0, element 0, the stride of an instance and of an element. -/
structure Rg where
  base : Nat
  istr : Nat
  estr : Nat
deriving DecidableEq, Repr

/-- The place of a field: the register's place, the lowest bit and the width. -/
structure Fld where
  base : Nat
  istr : Nat
  estr : Nat
  lsb : Nat
  width : Nat
deriving DecidableEq, Repr

/-- Address of element `j` of instance `i`. -/
def Rg.at (r : Rg) (i j : Nat) : Nat := r.base + i * r.istr + j * r.estr

/-- Address of the register that holds the field, element `j` of instance `i`. -/
def Fld.at (f : Fld) (i j : Nat) : Nat := f.base + i * f.istr + j * f.estr

/-- Registers of GLB (R529). -/
def regsGLB : List RegDef := [
  ⟨0x0, 0x0, 1, 0xB00960, 0x0, [⟨0, 16, .ro⟩, ⟨16, 8, .ro⟩]⟩, -- GLB_ID
  ⟨0x4, 0x0, 1, 0x0, 0xFFF, [⟨0, 12, .rw⟩]⟩, -- GLB_CHIP
  ⟨0x8, 0x0, 1, 0x1, 0x3F, [⟨0, 6, .w1c⟩]⟩, -- GLB_RST_CAUSE
  ⟨0xC, 0x0, 1, 0x0, 0x0, [⟨0, 16, .rw⟩]⟩, -- GLB_RST_CTL
  ⟨0x10, 0x0, 1, 0x0, 0x0, [⟨0, 4, .ro⟩, ⟨4, 1, .ro⟩, ⟨5, 1, .ro⟩]⟩, -- GLB_BOOT
  ⟨0x14, 0x0, 1, 0x0, 0x0, [⟨0, 3, .ro⟩, ⟨3, 1, .wo⟩, ⟨4, 1, .wo⟩, ⟨5, 1, .ro⟩]⟩, -- GLB_SHOW
  ⟨0x18, 0x0, 1, 0x0, 0x0, [⟨0, 1, .ro⟩, ⟨1, 1, .w1c⟩]⟩, -- GLB_PWR
  ⟨0x1C, 0x0, 1, 0x10, 0x0, [⟨0, 5, .ro⟩, ⟨8, 5, .rw⟩, ⟨13, 1, .rw⟩]⟩, -- GLB_AVS
  ⟨0x20, 0x0, 1, 0x0, 0x0, [⟨0, 7, .ro⟩]⟩, -- GLB_CLK_STAT
  ⟨0x24, 0x0, 1, 0x0, 0x0, [⟨0, 1, .ro⟩, ⟨1, 1, .ro⟩, ⟨2, 2, .ro⟩, ⟨4, 2, .ro⟩, ⟨16, 16, .rc⟩]⟩, -- GLB_WR_GATE
  ⟨0x28, 0x4, 6, 0x0, 0x0, [⟨0, 32, .ro⟩]⟩, -- GLB_MILE
  ⟨0x40, 0x4, 32, 0x1F00, 0x0, [⟨0, 1, .rw⟩, ⟨1, 2, .rw⟩, ⟨3, 1, .rw⟩, ⟨4, 2, .rw⟩, ⟨6, 1, .rw⟩, ⟨8, 5, .ro⟩, ⟨13, 1, .ro⟩]⟩, -- GLB_GPIO_CFG
  ⟨0xC0, 0x0, 1, 0x0, 0x0, [⟨0, 32, .ro⟩]⟩, -- GLB_GPIO_IN
  ⟨0xC4, 0x0, 1, 0x0, 0x0, [⟨0, 32, .rw⟩]⟩, -- GLB_GPIO_OUT
  ⟨0xC8, 0x0, 1, 0x0, 0x0, [⟨0, 32, .wo⟩]⟩, -- GLB_GPIO_SET
  ⟨0xCC, 0x0, 1, 0x0, 0x0, [⟨0, 32, .wo⟩]⟩, -- GLB_GPIO_CLR
  ⟨0xD0, 0x0, 1, 0x0, 0x0, [⟨0, 32, .w1c⟩]⟩, -- GLB_GPIO_EDGE
  ⟨0xD4, 0x0, 1, 0x0, 0x0, [⟨0, 8, .rw⟩, ⟨8, 1, .rw⟩, ⟨9, 1, .rw⟩, ⟨10, 3, .rw⟩, ⟨13, 4, .rw⟩, ⟨17, 1, .rw⟩, ⟨18, 5, .rw⟩, ⟨23, 1, .rw⟩, ⟨24, 2, .rw⟩, ⟨26, 1, .rw⟩]⟩, -- GLB_PMC_CFG
  ⟨0xD8, 0x0, 1, 0x0, 0x0, [⟨0, 32, .ro⟩]⟩, -- GLB_PMC_LO
  ⟨0xDC, 0x0, 1, 0x0, 0x0, [⟨0, 16, .ro⟩]⟩, -- GLB_PMC_HI
  ⟨0xE0, 0x20, 2, 0x1, 0x0, [⟨0, 1, .rw⟩, ⟨1, 2, .rw⟩, ⟨3, 1, .rw⟩]⟩, -- GLB_I2C_CTL
  ⟨0xE4, 0x20, 2, 0x0, 0x0, [⟨0, 1, .ro⟩, ⟨1, 3, .ro⟩]⟩, -- GLB_I2C_STAT
  ⟨0xE8, 0x20, 2, 0x0, 0x0, [⟨0, 7, .rw⟩]⟩, -- GLB_I2C_ADDR
  ⟨0xEC, 0x20, 2, 0x0, 0x0, [⟨0, 3, .rw⟩, ⟨3, 3, .rw⟩, ⟨6, 1, .wo⟩]⟩, -- GLB_I2C_CMD
  ⟨0xF0, 0x20, 2, 0x0, 0x0, [⟨0, 32, .rw⟩]⟩, -- GLB_I2C_WDATA
  ⟨0xF4, 0x20, 2, 0x0, 0x0, [⟨0, 32, .ro⟩]⟩, -- GLB_I2C_RDATA
  ⟨0xF8, 0x20, 2, 0x0, 0x0, [⟨0, 32, .rc⟩]⟩, -- GLB_I2C_ERRCNT
  ⟨0xFC, 0x20, 2, 0x19, 0x0, [⟨0, 8, .rw⟩]⟩, -- GLB_I2C_TMO
  ⟨0x120, 0x4, 4, 0x0, 0xFFFFFFFF, [⟨0, 32, .rw⟩]⟩, -- GLB_STICKY
  ⟨0x130, 0x0, 1, 0x0, 0xFFFFFFFF, [⟨0, 32, .ro⟩]⟩, -- GLB_PFAIL_LO
  ⟨0x134, 0x0, 1, 0x0, 0xFFFFFFFF, [⟨0, 32, .ro⟩]⟩, -- GLB_PFAIL_HI
  ⟨0x138, 0x0, 1, 0x0, 0xFFFFFFFF, [⟨0, 32, .ro⟩]⟩, -- GLB_PFAIL_CNT
  ⟨0x13C, 0x0, 1, 0x0, 0x0, [⟨0, 32, .ro⟩]⟩] -- GLB_UPTIME_S

/-- Registers of TIME (R52), part 1. -/
def regsTIME0 : List RegDef := [
  ⟨0x180, 0x0, 1, 0x2580000E, 0x0, [⟨0, 5, .rw⟩, ⟨5, 2, .rw⟩, ⟨8, 13, .rw⟩, ⟨21, 10, .rw⟩, ⟨31, 1, .wo⟩]⟩, -- TIME_STK_REQ
  ⟨0x184, 0x0, 1, 0xE, 0x0, [⟨0, 5, .ro⟩, ⟨5, 2, .ro⟩, ⟨7, 3, .ro⟩, ⟨10, 3, .ro⟩]⟩, -- TIME_STK_STAT
  ⟨0x188, 0x0, 1, 0x2581A0, 0x0, [⟨0, 13, .ro⟩, ⟨13, 10, .ro⟩]⟩, -- TIME_STK_WIN
  ⟨0x18C, 0x0, 1, 0x10, 0x0, [⟨0, 1, .rw⟩, ⟨1, 8, .rw⟩, ⟨9, 1, .ro⟩]⟩, -- TIME_STK_HOLD
  ⟨0x190, 0x0, 1, 0x0, 0x0, [⟨0, 32, .rw⟩]⟩, -- TIME_STK_NUM_LO
  ⟨0x194, 0x0, 1, 0x0, 0x0, [⟨0, 32, .rw⟩]⟩, -- TIME_STK_NUM_HI
  ⟨0x198, 0x0, 1, 0x0, 0x0, [⟨0, 32, .ro⟩]⟩, -- TIME_STK_NEXT_LO
  ⟨0x19C, 0x0, 1, 0x0, 0x0, [⟨0, 32, .ro⟩]⟩, -- TIME_STK_NEXT_HI
  ⟨0x1A0, 0x0, 1, 0x0, 0x0, [⟨0, 32, .rw⟩]⟩, -- TIME_STK_HSOFF
  ⟨0x1A4, 0x0, 1, 0x0, 0x0, [⟨0, 2, .ro⟩, ⟨2, 4, .ro⟩, ⟨6, 1, .ro⟩, ⟨7, 25, .ro⟩]⟩, -- TIME_STK_HS_STAT
  ⟨0x0, 0x0, 1, 0x2, 0x0, [⟨0, 1, .rw⟩, ⟨1, 1, .rw⟩, ⟨2, 1, .rw⟩, ⟨3, 1, .rw⟩, ⟨4, 1, .rw⟩, ⟨5, 1, .rw⟩]⟩, -- TIME_CTL
  ⟨0x4, 0x0, 1, 0x0, 0x0, [⟨0, 1, .ro⟩, ⟨1, 1, .ro⟩, ⟨2, 1, .ro⟩, ⟨3, 1, .w1c⟩, ⟨4, 1, .w1c⟩, ⟨5, 1, .ro⟩]⟩, -- TIME_STAT
  ⟨0x8, 0x0, 1, 0x0, 0x0, [⟨0, 32, .ro⟩]⟩, -- TIME_NOW_LO
  ⟨0xC, 0x0, 1, 0x0, 0x0, [⟨0, 32, .ro⟩]⟩, -- TIME_NOW_HI
  ⟨0x10, 0x0, 1, 0x0, 0x0, [⟨0, 32, .rw⟩]⟩, -- TIME_SET_LO
  ⟨0x14, 0x0, 1, 0x0, 0x0, [⟨0, 32, .rw⟩]⟩, -- TIME_SET_HI
  ⟨0x18, 0x0, 1, 0x0, 0x0, [⟨0, 32, .ro⟩]⟩, -- TIME_FREQ
  ⟨0x1C, 0x0, 1, 0x283E8, 0x0, [⟨0, 14, .rw⟩, ⟨14, 10, .rw⟩]⟩, -- TIME_SLEW
  ⟨0x20, 0x0, 1, 0x0, 0x0, [⟨0, 32, .ro⟩]⟩, -- TIME_DIFF
  ⟨0x24, 0x0, 1, 0x0, 0x0, [⟨0, 1, .ro⟩, ⟨1, 1, .ro⟩, ⟨16, 16, .rc⟩]⟩, -- TIME_REF
  ⟨0x28, 0x0, 1, 0x202710, 0x0, [⟨0, 20, .rw⟩, ⟨20, 1, .rw⟩, ⟨21, 1, .rw⟩]⟩, -- TIME_PPS
  ⟨0x2C, 0x0, 1, 0x80FA04, 0x0, [⟨0, 1, .rw⟩, ⟨1, 6, .rw⟩, ⟨8, 8, .rw⟩, ⟨16, 8, .rw⟩]⟩, -- TIME_GM_CTL
  ⟨0x30, 0x0, 1, 0x0, 0x0, [⟨0, 8, .ro⟩, ⟨8, 24, .ro⟩]⟩, -- TIME_GM_STAT
  ⟨0x34, 0x0, 1, 0x7F, 0x0, [⟨0, 7, .rw⟩]⟩, -- TIME_EVMASK
  ⟨0x38, 0x0, 1, 0x0, 0x0, [⟨0, 3, .rc⟩, ⟨3, 7, .rc⟩, ⟨10, 2, .rc⟩, ⟨12, 2, .rc⟩, ⟨14, 5, .rc⟩]⟩, -- TIME_CONFLICT
  ⟨0x3C, 0x0, 1, 0x0, 0x0, [⟨0, 13, .rw⟩, ⟨13, 1, .rw⟩]⟩, -- TIME_PTP_RING
  ⟨0x40, 0xC, 16, 0x100000, 0x0, [⟨0, 1, .rw⟩, ⟨1, 2, .rw⟩, ⟨3, 2, .rw⟩, ⟨5, 2, .rw⟩, ⟨7, 5, .rw⟩, ⟨12, 1, .rw⟩, ⟨13, 1, .rw⟩, ⟨20, 12, .rw⟩]⟩, -- TIME_TT_CTL
  ⟨0x44, 0xC, 16, 0x0, 0x0, [⟨0, 32, .rw⟩]⟩, -- TIME_TT_OFFSET
  ⟨0x48, 0xC, 16, 0x0, 0x0, [⟨0, 32, .rw⟩]⟩, -- TIME_TT_PERIOD
  ⟨0x100, 0x40, 2, 0x0, 0x0, [⟨0, 8, .rw⟩, ⟨8, 1, .rw⟩, ⟨9, 2, .rw⟩, ⟨11, 1, .rw⟩, ⟨12, 1, .rw⟩, ⟨13, 1, .rw⟩]⟩, -- TIME_DOM_CTL
  ⟨0x104, 0x40, 2, 0x0, 0x0, [⟨0, 3, .ro⟩, ⟨3, 4, .ro⟩, ⟨7, 1, .ro⟩]⟩, -- TIME_DOM_STAT
  ⟨0x108, 0x40, 2, 0x18000, 0x0, [⟨0, 24, .rw⟩]⟩, -- TIME_DOM_KP
  ⟨0x10C, 0x40, 2, 0x2000, 0x0, [⟨0, 24, .rw⟩]⟩, -- TIME_DOM_KI
  ⟨0x110, 0x40, 2, 0x30D40, 0x0, [⟨0, 20, .rw⟩]⟩, -- TIME_DOM_FMAX
  ⟨0x114, 0x40, 2, 0x1F40064, 0x0, [⟨0, 16, .rw⟩, ⟨16, 16, .rw⟩]⟩, -- TIME_DOM_LOCK
  ⟨0x118, 0x40, 2, 0x3E8000A, 0x0, [⟨0, 16, .rw⟩, ⟨16, 16, .rw⟩]⟩, -- TIME_DOM_STEP
  ⟨0x11C, 0x40, 2, 0x0, 0x0, [⟨0, 32, .ro⟩]⟩, -- TIME_DOM_OFFSET
  ⟨0x120, 0x40, 2, 0x0, 0x0, [⟨0, 32, .ro⟩]⟩, -- TIME_DOM_MPD
  ⟨0x124, 0x40, 2, 0x0, 0x0, [⟨0, 32, .ro⟩]⟩, -- TIME_DOM_FREQ
  ⟨0x128, 0x40, 2, 0x3, 0x0, [⟨0, 4, .rw⟩, ⟨16, 16, .rw⟩]⟩] -- TIME_DOM_DLY
/-- Registers of TIME (R276), part 2. -/
def regsTIME1 : List RegDef := [
  ⟨0x12C, 0x40, 2, 0x0, 0x0, [⟨0, 32, .rw⟩]⟩, -- TIME_DOM_MASTER_LO
  ⟨0x130, 0x40, 2, 0x0, 0x0, [⟨0, 32, .rw⟩]⟩, -- TIME_DOM_MASTER_HI
  ⟨0x134, 0x40, 2, 0x0, 0x0, [⟨0, 16, .rw⟩, ⟨16, 4, .rw⟩, ⟨20, 1, .rw⟩]⟩, -- TIME_DOM_MPORT
  ⟨0x138, 0x40, 2, 0x0, 0x0, [⟨0, 32, .ro⟩]⟩, -- TIME_DOM_SYNC_CNT
  ⟨0x13C, 0x40, 2, 0x0, 0x0, [⟨0, 32, .rc⟩]⟩, -- TIME_DOM_OUTLIER_CNT
  ⟨0x1A8, 0x4, 12, 0x0, 0x0, [⟨0, 16, .rw⟩, ⟨16, 16, .rw⟩]⟩, -- TIME_LAT
  ⟨0x1D8, 0x0, 1, 0x0, 0x0, [⟨0, 16, .rw⟩, ⟨16, 8, .rw⟩]⟩, -- TIME_PORT_ROLE
  ⟨0x1DC, 0x0, 1, 0x3E87, 0x0, [⟨0, 4, .rw⟩, ⟨4, 12, .rw⟩]⟩, -- TIME_HOLD
  ⟨0x1E0, 0x0, 1, 0xDD, 0x0, [⟨0, 4, .rw⟩, ⟨4, 4, .rw⟩]⟩, -- TIME_INTERVALS
  ⟨0x1E4, 0x0, 1, 0x0, 0x0, [⟨0, 32, .rw⟩]⟩, -- TIME_CLKID_LO
  ⟨0x1E8, 0x0, 1, 0x0, 0x0, [⟨0, 32, .rw⟩]⟩, -- TIME_CLKID_HI
  ⟨0x1EC, 0x0, 1, 0x0, 0x0, [⟨0, 16, .w1c⟩, ⟨16, 16, .ro⟩]⟩, -- TIME_TT_STAT
  ⟨0x1F0, 0x0, 1, 0x0, 0x0, [⟨0, 32, .rc⟩]⟩, -- TIME_PTP_DROP
  ⟨0x1F4, 0x4, 2, 0x0, 0x0, [⟨0, 6, .rw⟩, ⟨8, 6, .rw⟩, ⟨16, 6, .rw⟩, ⟨24, 6, .rw⟩, ⟨6, 2, .rw⟩, ⟨14, 2, .rw⟩, ⟨22, 2, .rw⟩, ⟨30, 2, .rw⟩]⟩, -- TIME_TC_CFG
  ⟨0x1FC, 0x0, 1, 0x0, 0x0, [⟨0, 8, .ro⟩, ⟨8, 8, .w1c⟩]⟩, -- TIME_TC_STAT
  ⟨0x200, 0x8, 8, 0x0, 0x0, [⟨0, 32, .ro⟩]⟩, -- TIME_TC_LO
  ⟨0x204, 0x8, 8, 0x0, 0x0, [⟨0, 32, .ro⟩]⟩] -- TIME_TC_HI

/-- Registers of TRU (R554). -/
def regsTRU : List RegDef := [
  ⟨0x0, 0x0, 1, 0x0, 0x7C, [⟨0, 2, .ro⟩, ⟨2, 1, .ro⟩, ⟨3, 4, .ro⟩]⟩, -- TRU_STAT
  ⟨0x4, 0x0, 1, 0x0, 0x0, [⟨1, 4, .ro⟩, ⟨8, 5, .ro⟩]⟩, -- TRU_ROOTS
  ⟨0x8, 0x0, 1, 0x0, 0x0, [⟨0, 32, .rw⟩]⟩, -- TRU_VFY_LO
  ⟨0xC, 0x0, 1, 0x0, 0x0, [⟨0, 16, .rw⟩, ⟨16, 4, .rw⟩, ⟨20, 1, .rw⟩, ⟨21, 1, .rw⟩]⟩, -- TRU_VFY_HI
  ⟨0x10, 0x0, 1, 0x0, 0x0, [⟨0, 3, .ro⟩, ⟨3, 1, .ro⟩, ⟨4, 1, .ro⟩, ⟨5, 3, .ro⟩]⟩, -- TRU_VFY_RES
  ⟨0x14, 0x0, 1, 0x0, 0x0, [⟨0, 3, .rw⟩, ⟨8, 3, .rw⟩, ⟨16, 6, .rw⟩, ⟨22, 9, .rw⟩, ⟨31, 1, .rw⟩]⟩, -- TRU_OTP_CMD
  ⟨0x18, 0x0, 1, 0x0, 0x0, [⟨0, 32, .rw⟩]⟩, -- TRU_OTP_ADDR_LO
  ⟨0x1C, 0x0, 1, 0x0, 0x0, [⟨0, 16, .rw⟩]⟩, -- TRU_OTP_ADDR_HI
  ⟨0x20, 0x0, 1, 0x0, 0x0, [⟨0, 3, .ro⟩]⟩, -- TRU_OTP_STAT
  ⟨0x24, 0x0, 1, 0x0, 0x0, [⟨0, 6, .rw⟩]⟩, -- TRU_RB_SEL
  ⟨0x28, 0x0, 1, 0x0, 0x0, [⟨0, 9, .ro⟩]⟩, -- TRU_RB_VAL
  ⟨0x2C, 0x0, 1, 0x0, 0x0, [⟨0, 7, .ro⟩, ⟨7, 1, .ro⟩]⟩, -- TRU_MEAS_CNT
  ⟨0x30, 0x0, 1, 0x0, 0x0, [⟨0, 32, .rw⟩]⟩, -- TRU_ATT_LO
  ⟨0x34, 0x0, 1, 0x0, 0x0, [⟨0, 16, .rw⟩, ⟨16, 1, .rw⟩]⟩, -- TRU_ATT_HI
  ⟨0x38, 0x0, 1, 0x0, 0x0, [⟨0, 3, .ro⟩]⟩, -- TRU_ATT_STAT
  ⟨0x3C, 0x0, 1, 0x0, 0x0, [⟨0, 21, .ro⟩]⟩, -- TRU_LMS_Q
  ⟨0x40, 0x0, 1, 0x0, 0x0, [⟨0, 21, .ro⟩]⟩, -- TRU_LMS_LIMIT
  ⟨0x44, 0x0, 1, 0x0, 0x0, [⟨0, 9, .ro⟩]⟩, -- TRU_LMS_RESV
  ⟨0x48, 0x0, 1, 0x0, 0x0, [⟨0, 32, .rw⟩]⟩, -- TRU_LMS_LO
  ⟨0x4C, 0x0, 1, 0x0, 0x0, [⟨0, 16, .rw⟩, ⟨16, 2, .rw⟩, ⟨18, 1, .rw⟩]⟩, -- TRU_LMS_HI
  ⟨0x50, 0x0, 1, 0x0, 0x0, [⟨0, 2, .ro⟩]⟩, -- TRU_LMS_STAT
  ⟨0x54, 0x0, 1, 0x0, 0x0, [⟨0, 32, .rw⟩]⟩, -- TRU_DBG_LO
  ⟨0x58, 0x0, 1, 0x0, 0x0, [⟨0, 16, .rw⟩, ⟨16, 2, .rw⟩, ⟨18, 1, .rw⟩]⟩, -- TRU_DBG_HI
  ⟨0x5C, 0x0, 1, 0x0, 0x0, [⟨0, 3, .ro⟩]⟩, -- TRU_DBG_STAT
  ⟨0x60, 0x4, 8, 0x0, 0x0, [⟨0, 32, .ro⟩]⟩, -- TRU_DBG_CHAL
  ⟨0x80, 0x4, 12, 0x0, 0x0, [⟨0, 32, .ro⟩]⟩, -- TRU_ACC
  ⟨0xB0, 0x0, 1, 0x0, 0x0, [⟨0, 6, .w1c⟩]⟩, -- TRU_ALERT
  ⟨0xB4, 0x0, 1, 0x3F, 0x0, [⟨0, 6, .ro⟩]⟩, -- TRU_EVMASK
  ⟨0xB8, 0x0, 1, 0x0, 0x0, [⟨0, 32, .ro⟩]⟩, -- TRU_UID_LO
  ⟨0xBC, 0x0, 1, 0x0, 0x0, [⟨0, 32, .ro⟩]⟩, -- TRU_UID_HI
  ⟨0xC0, 0x0, 1, 0x0, 0x0, [⟨0, 8, .rw⟩, ⟨8, 1, .rw⟩, ⟨9, 1, .rw⟩, ⟨10, 3, .rw⟩, ⟨13, 4, .rw⟩, ⟨17, 1, .rw⟩, ⟨18, 5, .rw⟩, ⟨23, 1, .rw⟩, ⟨24, 2, .rw⟩, ⟨26, 1, .rw⟩]⟩, -- TRU_PMC_CFG
  ⟨0xC4, 0x0, 1, 0x0, 0x0, [⟨0, 32, .ro⟩]⟩, -- TRU_PMC_LO
  ⟨0xC8, 0x0, 1, 0x0, 0x0, [⟨0, 16, .ro⟩]⟩] -- TRU_PMC_HI

/-- Registers of KLN (R532). -/
def regsKLN : List RegDef := [
  ⟨0x0, 0x0, 1, 0x0, 0x0, [⟨0, 2, .rw⟩]⟩, -- KLN_CTL
  ⟨0x4, 0x0, 1, 0x1000, 0x0, [⟨0, 2, .ro⟩, ⟨2, 1, .ro⟩, ⟨3, 1, .ro⟩, ⟨4, 1, .ro⟩, ⟨8, 5, .ro⟩]⟩, -- KLN_STAT
  ⟨0x8, 0x0, 1, 0x0, 0x0, [⟨0, 16, .ro⟩, ⟨16, 6, .ro⟩]⟩, -- KLN_TJ
  ⟨0xC, 0x0, 1, 0x69005F00, 0x0, [⟨0, 16, .rw⟩, ⟨16, 16, .rw⟩]⟩, -- KLN_TH0
  ⟨0x10, 0x0, 1, 0x5A007600, 0x0, [⟨0, 16, .rw⟩, ⟨16, 16, .rw⟩]⟩, -- KLN_TH1
  ⟨0x14, 0x0, 1, 0x30A, 0x0, [⟨0, 8, .rw⟩, ⟨8, 4, .rw⟩]⟩, -- KLN_HOLD
  ⟨0x18, 0x0, 1, 0xA06, 0x0, [⟨0, 8, .rw⟩, ⟨8, 8, .rw⟩]⟩, -- KLN_XCHK
  ⟨0x1C, 0x0, 1, 0x0, 0x0, [⟨0, 16, .w1c⟩, ⟨16, 16, .rw⟩]⟩, -- KLN_SFAULT
  ⟨0x20, 0x0, 1, 0x3, 0x0, [⟨0, 1, .rw⟩, ⟨1, 1, .rw⟩]⟩, -- KLN_EVMASK
  ⟨0x24, 0x0, 1, 0x0, 0xFFFFFFFF, [⟨0, 32, .ro⟩]⟩, -- KLN_TRIP_CNT
  ⟨0x28, 0x0, 1, 0x0, 0xFFFFFFFF, [⟨0, 32, .ro⟩]⟩, -- KLN_TRIP_LO
  ⟨0x2C, 0x0, 1, 0x0, 0xFFFFFFFF, [⟨0, 32, .ro⟩]⟩, -- KLN_TRIP_HI
  ⟨0x30, 0x0, 1, 0x0, 0x0, [⟨0, 32, .ro⟩]⟩, -- KLN_PWR
  ⟨0x34, 0x0, 1, 0x0, 0x0, [⟨0, 16, .ro⟩, ⟨16, 1, .ro⟩, ⟨17, 1, .ro⟩, ⟨18, 1, .w1c⟩]⟩, -- KLN_FLASH
  ⟨0x38, 0x0, 1, 0x0, 0x0, [⟨0, 7, .rw⟩, ⟨7, 1, .rw⟩, ⟨8, 8, .rw⟩, ⟨16, 1, .rw⟩]⟩, -- KLN_FLASH_CFG
  ⟨0x3C, 0x0, 1, 0x0, 0x0, [⟨0, 6, .rw⟩]⟩, -- KLN_PMON_SEL
  ⟨0x40, 0x0, 1, 0x0, 0x0, [⟨0, 24, .ro⟩]⟩, -- KLN_PMON_VAL
  ⟨0x44, 0x0, 1, 0x0, 0x0, [⟨0, 8, .w1c⟩, ⟨8, 8, .w1c⟩]⟩, -- KLN_VMON_STAT
  ⟨0x48, 0x0, 1, 0x0, 0x0, [⟨0, 16, .rc⟩, ⟨16, 16, .rc⟩]⟩, -- KLN_STAGE_CNT
  ⟨0x4C, 0x0, 1, 0x0, 0x0, [⟨0, 32, .rc⟩]⟩, -- KLN_STAGE2_MS
  ⟨0x50, 0x0, 1, 0x0, 0x0, [⟨0, 16, .ro⟩]⟩, -- KLN_MODEL_ERR
  ⟨0x54, 0x0, 1, 0x0, 0x0, [⟨0, 8, .rw⟩, ⟨8, 1, .rw⟩, ⟨9, 1, .rw⟩, ⟨10, 3, .rw⟩, ⟨13, 4, .rw⟩, ⟨17, 1, .rw⟩, ⟨18, 5, .rw⟩, ⟨23, 1, .rw⟩, ⟨24, 2, .rw⟩, ⟨26, 1, .rw⟩]⟩, -- KLN_PMC_CFG
  ⟨0x58, 0x0, 1, 0x0, 0x0, [⟨0, 32, .ro⟩]⟩, -- KLN_PMC_LO
  ⟨0x5C, 0x0, 1, 0x0, 0x0, [⟨0, 16, .ro⟩]⟩, -- KLN_PMC_HI
  ⟨0x60, 0x4, 8, 0x0, 0x0, [⟨0, 16, .ro⟩]⟩, -- KLN_VMON
  ⟨0x80, 0x4, 64, 0x0, 0x0, [⟨0, 16, .ro⟩]⟩, -- KLN_PT
  ⟨0x180, 0x4, 16, 0x0, 0x0, [⟨0, 16, .ro⟩, ⟨16, 1, .ro⟩, ⟨17, 1, .ro⟩]⟩] -- KLN_SENSOR

/-- Registers of PLB (R506). -/
def regsPLB : List RegDef := [
  ⟨0x0, 0x0, 1, 0x11, 0x0, [⟨0, 1, .rw⟩, ⟨1, 5, .rw⟩, ⟨6, 1, .wo⟩]⟩, -- PLB_CTL
  ⟨0x4, 0x0, 1, 0x0, 0x0, [⟨0, 2, .ro⟩, ⟨2, 5, .ro⟩, ⟨7, 5, .ro⟩, ⟨12, 2, .ro⟩]⟩, -- PLB_STAT
  ⟨0x8, 0x0, 1, 0x1388, 0x0, [⟨0, 16, .rw⟩]⟩, -- PLB_TMO
  ⟨0xC, 0x0, 1, 0x0, 0x0, [⟨0, 32, .wo⟩]⟩, -- PLB_RUN
  ⟨0x10, 0x0, 1, 0x0, 0x0, [⟨0, 32, .ro⟩]⟩, -- PLB_PEND
  ⟨0x14, 0x0, 1, 0x0, 0x0, [⟨0, 32, .ro⟩]⟩, -- PLB_READY
  ⟨0x18, 0x0, 1, 0x0, 0x0, [⟨0, 32, .w1c⟩]⟩, -- PLB_BAD
  ⟨0x1C, 0x0, 1, 0xFFFFFFFF, 0x0, [⟨0, 32, .rw⟩]⟩, -- PLB_MASK
  ⟨0x20, 0x0, 1, 0x0, 0x0, [⟨0, 32, .rw⟩]⟩, -- PLB_LOAD_LO
  ⟨0x24, 0x0, 1, 0x0, 0x0, [⟨0, 16, .rw⟩, ⟨16, 1, .wo⟩, ⟨17, 1, .rw⟩]⟩, -- PLB_LOAD_HI
  ⟨0x28, 0x0, 1, 0x0, 0x0, [⟨0, 2, .ro⟩]⟩, -- PLB_LOAD_STAT
  ⟨0x2C, 0x0, 1, 0x0, 0x0, [⟨0, 32, .ro⟩]⟩, -- PLB_SEQ
  ⟨0x30, 0x0, 1, 0x0, 0x0, [⟨0, 12, .ro⟩, ⟨12, 1, .ro⟩, ⟨16, 8, .ro⟩]⟩, -- PLB_SRAM
  ⟨0x34, 0x0, 1, 0x0, 0x0, [⟨0, 32, .ro⟩]⟩, -- PLB_RUNS
  ⟨0x38, 0x0, 1, 0x0, 0x0, [⟨0, 32, .rc⟩]⟩, -- PLB_BAD_CNT
  ⟨0x3C, 0x0, 1, 0x7, 0x0, [⟨0, 1, .rw⟩, ⟨1, 1, .rw⟩, ⟨2, 1, .rw⟩]⟩, -- PLB_EVMASK
  ⟨0x40, 0x4, 32, 0x0, 0x0, [⟨0, 16, .ro⟩]⟩, -- PLB_DOM_TEMP
  ⟨0xC0, 0x0, 1, 0x0, 0x0, [⟨0, 13, .rw⟩, ⟨13, 1, .rw⟩]⟩, -- PLB_FID_RING
  ⟨0xC4, 0x0, 1, 0x0, 0x0, [⟨0, 13, .rw⟩, ⟨13, 1, .rw⟩]⟩, -- PLB_FID_DONE
  ⟨0xC8, 0x0, 1, 0x0, 0x0, [⟨0, 2, .ro⟩, ⟨2, 3, .ro⟩, ⟨5, 1, .ro⟩]⟩, -- PLB_FID_STAT
  ⟨0xCC, 0x0, 1, 0x0, 0x0, [⟨0, 32, .ro⟩]⟩, -- PLB_FID_SHOW
  ⟨0xD0, 0x0, 1, 0x0, 0x0, [⟨0, 32, .ro⟩]⟩, -- PLB_FID_RAYS
  ⟨0xD4, 0x0, 1, 0x0, 0x0, [⟨0, 8, .rw⟩, ⟨8, 1, .rw⟩, ⟨9, 1, .rw⟩, ⟨10, 3, .rw⟩, ⟨13, 4, .rw⟩, ⟨17, 1, .rw⟩, ⟨18, 5, .rw⟩, ⟨23, 1, .rw⟩, ⟨24, 2, .rw⟩, ⟨26, 1, .rw⟩]⟩, -- PLB_PMC_CFG
  ⟨0xD8, 0x0, 1, 0x0, 0x0, [⟨0, 32, .ro⟩]⟩, -- PLB_PMC_LO
  ⟨0xDC, 0x0, 1, 0x0, 0x0, [⟨0, 16, .ro⟩]⟩] -- PLB_PMC_HI

/-- Registers of MBX (R390). -/
def regsMBX : List RegDef := [
  ⟨0x0, 0x0, 1, 0x0, 0x0, [⟨0, 32, .rw⟩]⟩, -- MBX_NOTICE_LO
  ⟨0x4, 0x0, 1, 0x0, 0x0, [⟨0, 16, .rw⟩, ⟨16, 16, .rw⟩]⟩, -- MBX_NOTICE_HI
  ⟨0x8, 0x0, 1, 0x3FF, 0x0, [⟨0, 5, .rw⟩, ⟨5, 5, .rw⟩, ⟨10, 6, .rw⟩, ⟨16, 6, .rw⟩, ⟨22, 1, .rw⟩]⟩, -- MBX_CFG
  ⟨0xC, 0x0, 1, 0x0, 0x0, [⟨0, 20, .rw⟩]⟩, -- MBX_TMO
  ⟨0x10, 0x0, 1, 0x0, 0x0, [⟨0, 1, .ro⟩, ⟨1, 1, .w1c⟩, ⟨2, 1, .w1c⟩, ⟨3, 1, .w1c⟩, ⟨4, 1, .w1c⟩, ⟨16, 16, .ro⟩]⟩, -- MBX_STAT
  ⟨0x14, 0x0, 1, 0x0, 0x0, [⟨0, 32, .ro⟩]⟩, -- MBX_DOORBELL
  ⟨0x18, 0x0, 1, 0xFFFFFFFF, 0x0, [⟨0, 32, .rw⟩]⟩, -- MBX_MASK
  ⟨0x1C, 0x0, 1, 0x0, 0x0, [⟨0, 5, .rw⟩, ⟨5, 1, .wo⟩]⟩] -- MBX_CTL

/-- Registers of PERF (R572). -/
def regsPERF : List RegDef := [
  ⟨0x0, 0x0, 1, 0x0, 0x0, [⟨0, 1, .wo⟩, ⟨1, 1, .rw⟩, ⟨2, 1, .rw⟩, ⟨3, 4, .rw⟩, ⟨7, 1, .wo⟩]⟩, -- PERF_CTL
  ⟨0x4, 0x0, 1, 0x0, 0x0, [⟨0, 1, .ro⟩, ⟨1, 1, .ro⟩, ⟨2, 1, .ro⟩, ⟨3, 1, .ro⟩]⟩, -- PERF_STAT
  ⟨0x8, 0x0, 1, 0x0, 0x0, [⟨0, 32, .ro⟩]⟩, -- PERF_EPOCH
  ⟨0xC, 0x0, 1, 0x0, 0x0, [⟨0, 32, .ro⟩]⟩, -- PERF_SNAP_TIME_LO
  ⟨0x10, 0x0, 1, 0x0, 0x0, [⟨0, 32, .ro⟩]⟩, -- PERF_SNAP_TIME_HI
  ⟨0x14, 0x0, 1, 0x0, 0x0, [⟨0, 32, .ro⟩]⟩, -- PERF_SNAP_STROKE_LO
  ⟨0x18, 0x0, 1, 0x0, 0x0, [⟨0, 32, .ro⟩]⟩, -- PERF_SNAP_STROKE_HI
  ⟨0x1C, 0x0, 1, 0x0, 0x0, [⟨0, 2, .ro⟩, ⟨2, 5, .ro⟩]⟩, -- PERF_SNAP_CAUSE
  ⟨0x20, 0x0, 1, 0x0, 0x0, [⟨0, 32, .rw⟩]⟩, -- PERF_DUMP_LO
  ⟨0x24, 0x0, 1, 0x0, 0x0, [⟨0, 16, .rw⟩]⟩, -- PERF_DUMP_HI
  ⟨0x28, 0x0, 1, 0x0, 0x0, [⟨0, 32, .rc⟩]⟩, -- PERF_SNAP_MISS
  ⟨0x2C, 0x0, 1, 0x0, 0x0, [⟨0, 8, .rw⟩]⟩, -- PERF_SH_SEL
  ⟨0x30, 0x0, 1, 0x0, 0x0, [⟨0, 32, .ro⟩]⟩, -- PERF_SH_LO
  ⟨0x34, 0x0, 1, 0x0, 0x0, [⟨0, 16, .ro⟩, ⟨16, 1, .ro⟩]⟩, -- PERF_SH_HI
  ⟨0x38, 0x0, 1, 0x0, 0x0, [⟨0, 32, .ro⟩]⟩, -- PERF_SH_EPOCH
  ⟨0x3C, 0x4, 8, 0x0, 0x0, [⟨0, 32, .w1c⟩]⟩, -- PERF_OVF
  ⟨0x5C, 0x8, 4, 0x0, 0x0, [⟨0, 32, .rw⟩]⟩, -- PERF_AR_BASE
  ⟨0x60, 0x8, 4, 0x0, 0x0, [⟨0, 32, .rw⟩]⟩, -- PERF_AR_LIM
  ⟨0x7C, 0x0, 1, 0x1, 0x0, [⟨0, 1, .rw⟩, ⟨1, 1, .rw⟩]⟩, -- PERF_EVMASK
  ⟨0x80, 0x0, 1, 0x0, 0x0, [⟨0, 4, .rw⟩, ⟨4, 2, .rw⟩]⟩, -- PERF_TD_SEL
  ⟨0x84, 0x0, 1, 0x0, 0x0, [⟨0, 32, .ro⟩]⟩, -- PERF_TD_LO
  ⟨0x88, 0x0, 1, 0x0, 0x0, [⟨0, 32, .ro⟩]⟩] -- PERF_TD_HI

/-- Registers of LDG (R556). -/
def regsLDG : List RegDef := [
  ⟨0x0, 0x0, 1, 0x1, 0x0, [⟨0, 1, .rw⟩, ⟨1, 1, .rw⟩, ⟨2, 2, .rw⟩]⟩, -- LDG_CTL
  ⟨0x4, 0x0, 1, 0x0, 0x0, [⟨0, 2, .ro⟩, ⟨2, 4, .ro⟩]⟩, -- LDG_STAT
  ⟨0x8, 0x0, 1, 0x0, 0x0, [⟨0, 2, .rw⟩, ⟨2, 1, .rw⟩, ⟨3, 1, .wo⟩]⟩, -- LDG_CMD
  ⟨0xC, 0x0, 1, 0x0, 0x0, [⟨0, 26, .rw⟩]⟩, -- LDG_FADDR
  ⟨0x10, 0x0, 1, 0x0, 0x0, [⟨0, 32, .rw⟩]⟩, -- LDG_MADDR_LO
  ⟨0x14, 0x0, 1, 0x0, 0x0, [⟨0, 16, .rw⟩]⟩, -- LDG_MADDR_HI
  ⟨0x18, 0x0, 1, 0x0, 0x0, [⟨0, 32, .rw⟩]⟩, -- LDG_LEN
  ⟨0x1C, 0x0, 1, 0x0, 0x0, [⟨0, 32, .ro⟩]⟩, -- LDG_DONE
  ⟨0x20, 0x0, 1, 0x0, 0x0, [⟨0, 32, .ro⟩]⟩, -- LDG_CRC
  ⟨0x24, 0x4, 2, 0x0, 0x0, [⟨0, 32, .ro⟩]⟩, -- LDG_DEVID
  ⟨0x2C, 0x0, 1, 0x3, 0x0, [⟨0, 1, .rw⟩, ⟨1, 1, .rw⟩]⟩, -- LDG_EVMASK
  ⟨0x30, 0x0, 1, 0x0, 0x0, [⟨0, 32, .rc⟩]⟩, -- LDG_ERASES
  ⟨0x34, 0x0, 1, 0x0, 0x0, [⟨0, 32, .rc⟩]⟩, -- LDG_PROGS
  ⟨0x38, 0x0, 1, 0x0, 0x0, [⟨0, 32, .rc⟩]⟩, -- LDG_REFUSED
  ⟨0x3C, 0x0, 1, 0x0, 0x0, [⟨0, 4, .ro⟩, ⟨4, 1, .ro⟩, ⟨5, 26, .ro⟩]⟩, -- LDG_LAST
  ⟨0x40, 0x0, 1, 0x0, 0x0, [⟨0, 8, .rw⟩, ⟨8, 1, .rw⟩, ⟨9, 1, .rw⟩, ⟨10, 3, .rw⟩, ⟨13, 4, .rw⟩, ⟨17, 1, .rw⟩, ⟨18, 5, .rw⟩, ⟨23, 1, .rw⟩, ⟨24, 2, .rw⟩, ⟨26, 1, .rw⟩]⟩, -- LDG_PMC_CFG
  ⟨0x44, 0x0, 1, 0x0, 0x0, [⟨0, 32, .ro⟩]⟩, -- LDG_PMC_LO
  ⟨0x48, 0x0, 1, 0x0, 0x0, [⟨0, 16, .ro⟩]⟩] -- LDG_PMC_HI

/-- Registers of NET (R89). -/
def regsNET : List RegDef := [
  ⟨0x0, 0x0, 1, 0x8, 0x0, [⟨0, 3, .rw⟩, ⟨3, 1, .rw⟩]⟩, -- NET_CTL
  ⟨0x4, 0x0, 1, 0x0, 0x0, [⟨0, 1, .ro⟩, ⟨1, 3, .ro⟩, ⟨4, 1, .ro⟩]⟩, -- NET_STAT
  ⟨0x8, 0x0, 1, 0x0, 0x0, [⟨0, 32, .rw⟩]⟩, -- NET_MAC_LO
  ⟨0xC, 0x0, 1, 0x0, 0x0, [⟨0, 16, .rw⟩]⟩, -- NET_MAC_HI
  ⟨0x10, 0x0, 1, 0x0, 0x0, [⟨0, 32, .rw⟩]⟩, -- NET_IPV4
  ⟨0x14, 0x4, 4, 0x0, 0x0, [⟨0, 32, .rw⟩]⟩, -- NET_IPV6
  ⟨0x24, 0x0, 1, 0x0, 0x0, [⟨0, 12, .rw⟩, ⟨12, 1, .rw⟩]⟩, -- NET_VLAN
  ⟨0x28, 0x0, 1, 0x0, 0x0, [⟨0, 32, .rc⟩]⟩, -- NET_FEC_CORR
  ⟨0x2C, 0x0, 1, 0x0, 0x0, [⟨0, 32, .rc⟩]⟩, -- NET_FEC_UNCORR
  ⟨0x30, 0x0, 1, 0x0, 0x0, [⟨0, 32, .ro⟩]⟩, -- NET_RX_FRAMES_LO
  ⟨0x34, 0x0, 1, 0x0, 0x0, [⟨0, 32, .ro⟩]⟩, -- NET_RX_FRAMES_HI
  ⟨0x38, 0x0, 1, 0x0, 0x0, [⟨0, 32, .rc⟩]⟩, -- NET_RX_BAD
  ⟨0x3C, 0x0, 1, 0x0, 0x0, [⟨0, 32, .rc⟩]⟩, -- NET_RX_OVERSIZE
  ⟨0x40, 0x0, 1, 0x0, 0x0, [⟨0, 32, .ro⟩]⟩, -- NET_TX_FRAMES_LO
  ⟨0x44, 0x0, 1, 0x0, 0x0, [⟨0, 32, .ro⟩]⟩, -- NET_TX_FRAMES_HI
  ⟨0x48, 0x0, 1, 0x0, 0x0, [⟨0, 13, .rw⟩, ⟨13, 1, .rw⟩]⟩, -- NET_MGMT_RING
  ⟨0x4C, 0x0, 1, 0x0, 0x0, [⟨0, 32, .rc⟩]⟩, -- NET_LINK_DOWN
  ⟨0x50, 0x8, 32, 0x0, 0x0, [⟨0, 32, .rw⟩]⟩, -- NET_MCAST_LO
  ⟨0x54, 0x8, 32, 0x0, 0x0, [⟨0, 16, .rw⟩, ⟨16, 1, .rw⟩]⟩, -- NET_MCAST_HI
  ⟨0x150, 0x0, 1, 0x0, 0x0, [⟨0, 1, .ro⟩, ⟨1, 1, .ro⟩]⟩, -- NET_PCS_STAT
  ⟨0x154, 0x0, 1, 0xF, 0x0, [⟨0, 4, .rw⟩]⟩, -- NET_AN_CTL
  ⟨0x158, 0x0, 1, 0x0, 0x0, [⟨0, 32, .rc⟩]⟩, -- NET_PAUSE_RX
  ⟨0x15C, 0x0, 1, 0x0, 0x0, [⟨0, 32, .rc⟩]⟩] -- NET_IP_ERR

/-- Registers of HOST (R398). -/
def regsHOST : List RegDef := [
  ⟨0x0, 0x0, 1, 0x3, 0x0, [⟨0, 1, .rw⟩, ⟨1, 2, .rw⟩]⟩, -- HOST_CTL
  ⟨0x4, 0x0, 1, 0x0, 0x0, [⟨0, 1, .ro⟩, ⟨1, 3, .ro⟩, ⟨4, 3, .ro⟩, ⟨7, 1, .ro⟩, ⟨8, 1, .ro⟩, ⟨9, 1, .w1c⟩]⟩, -- HOST_STAT
  ⟨0x8, 0x0, 1, 0x0, 0x0, [⟨0, 16, .ro⟩, ⟨16, 16, .ro⟩]⟩, -- HOST_ID
  ⟨0xC, 0x0, 1, 0x0, 0x0, [⟨0, 13, .wo⟩, ⟨13, 1, .wo⟩, ⟨16, 16, .wo⟩]⟩, -- HOST_DB
  ⟨0x10, 0x0, 1, 0x0, 0x0, [⟨0, 32, .rc⟩]⟩, -- HOST_DB_REJ
  ⟨0x14, 0x0, 1, 0x0, 0x0, [⟨0, 8, .rw⟩, ⟨8, 3, .ro⟩]⟩, -- HOST_DWIN
  ⟨0x18, 0x0, 1, 0x0, 0x0, [⟨0, 32, .rc⟩]⟩, -- HOST_DMA_ERR
  ⟨0x1C, 0x0, 1, 0x0, 0x0, [⟨0, 1, .w1c⟩, ⟨1, 1, .w1c⟩, ⟨2, 1, .w1c⟩, ⟨3, 1, .w1c⟩, ⟨4, 1, .w1c⟩]⟩, -- HOST_ERR
  ⟨0x20, 0x0, 1, 0x0, 0x0, [⟨0, 32, .rc⟩]⟩, -- HOST_LINK_DOWN
  ⟨0x40, 0x8, 8, 0x0, 0x0, [⟨0, 1, .rw⟩, ⟨28, 4, .rw⟩]⟩, -- HOST_HWIN_LO
  ⟨0x44, 0x8, 8, 0x0, 0x0, [⟨0, 32, .rw⟩]⟩, -- HOST_HWIN_HI
  ⟨0x80, 0x4, 16, 0x0, 0x0, [⟨0, 10, .rw⟩, ⟨10, 6, .rw⟩, ⟨16, 1, .rw⟩]⟩, -- HOST_EVMAP
  ⟨0xC0, 0x0, 1, 0x0, 0x0, [⟨0, 8, .rw⟩, ⟨8, 1, .rw⟩, ⟨9, 1, .rw⟩, ⟨10, 3, .rw⟩, ⟨13, 4, .rw⟩, ⟨17, 1, .rw⟩, ⟨18, 5, .rw⟩, ⟨23, 1, .rw⟩, ⟨24, 2, .rw⟩, ⟨26, 1, .rw⟩]⟩, -- HOST_PMC_CFG
  ⟨0xC4, 0x0, 1, 0x0, 0x0, [⟨0, 32, .ro⟩]⟩, -- HOST_PMC_LO
  ⟨0xC8, 0x0, 1, 0x0, 0x0, [⟨0, 16, .ro⟩]⟩] -- HOST_PMC_HI

/-- Registers of ING (R84). -/
def regsING : List RegDef := [
  ⟨0x0, 0x0, 1, 0x2, 0x0, [⟨0, 1, .rw⟩, ⟨1, 1, .rw⟩]⟩, -- ING_CTL
  ⟨0x4, 0x0, 1, 0x2580, 0x0, [⟨0, 16, .rw⟩]⟩, -- ING_UDP
  ⟨0x8, 0x0, 1, 0x0, 0x0, [⟨16, 12, .rw⟩]⟩, -- ING_STEER
  ⟨0xC, 0x0, 1, 0x0, 0x0, [⟨0, 6, .ro⟩]⟩, -- ING_STAT
  ⟨0x10, 0x0, 1, 0x0, 0x0, [⟨0, 12, .ro⟩, ⟨12, 5, .ro⟩, ⟨17, 4, .ro⟩]⟩, -- ING_LAST_DROP
  ⟨0x14, 0x0, 1, 0x0, 0x0, [⟨0, 32, .ro⟩]⟩, -- ING_LAST_SHOW
  ⟨0x18, 0x0, 1, 0x801800, 0x0, [⟨0, 32, .rw⟩]⟩, -- ING_EVMASK
  ⟨0x1C, 0x0, 1, 0x18, 0x0, [⟨0, 6, .rw⟩]⟩, -- ING_DSC_CTL
  ⟨0x20, 0x8, 4, 0x0, 0x0, [⟨0, 32, .ro⟩]⟩, -- ING_CLS_LO
  ⟨0x24, 0x8, 4, 0x0, 0x0, [⟨0, 32, .ro⟩]⟩, -- ING_CLS_HI
  ⟨0x40, 0x4, 32, 0x0, 0x0, [⟨0, 32, .rc⟩]⟩, -- ING_DROP
  ⟨0xC0, 0x0, 1, 0x0, 0x0, [⟨0, 32, .ro⟩]⟩, -- ING_DSC_PIX_LO
  ⟨0xC4, 0x0, 1, 0x0, 0x0, [⟨0, 32, .ro⟩]⟩, -- ING_DSC_PIX_HI
  ⟨0xC8, 0x0, 1, 0x0, 0x0, [⟨0, 32, .ro⟩]⟩, -- ING_DSC_SLC_LO
  ⟨0xCC, 0x0, 1, 0x0, 0x0, [⟨0, 32, .ro⟩]⟩, -- ING_DSC_SLC_HI
  ⟨0xD0, 0x0, 1, 0x0, 0x0, [⟨0, 32, .rc⟩]⟩, -- ING_DSC_HALF
  ⟨0xD4, 0x0, 1, 0x0, 0x0, [⟨0, 32, .rc⟩]⟩, -- ING_DSC_ERR
  ⟨0xD8, 0x0, 1, 0x0, 0x0, [⟨0, 12, .ro⟩, ⟨16, 8, .ro⟩]⟩, -- ING_DSC_INFO
  ⟨0xDC, 0x0, 1, 0x0, 0x0, [⟨0, 32, .ro⟩]⟩, -- ING_Z_BYTES
  ⟨0xE0, 0x4, 12, 0x0, 0x0, [⟨0, 32, .ro⟩]⟩, -- ING_SRC
  ⟨0x110, 0x0, 1, 0x0, 0x0, [⟨0, 32, .ro⟩]⟩, -- ING_SEQ_GAP_LO
  ⟨0x114, 0x0, 1, 0x0, 0x0, [⟨0, 32, .ro⟩]⟩, -- ING_SEQ_GAP_HI
  ⟨0x118, 0x0, 1, 0x0, 0x0, [⟨0, 32, .ro⟩]⟩, -- ING_OBJ_LO
  ⟨0x11C, 0x0, 1, 0x0, 0x0, [⟨0, 32, .ro⟩]⟩, -- ING_OBJ_HI
  ⟨0x120, 0x4, 8, 0x0, 0x0, [⟨0, 8, .rw⟩, ⟨8, 1, .rw⟩, ⟨9, 1, .rw⟩, ⟨10, 3, .rw⟩, ⟨13, 4, .rw⟩, ⟨17, 1, .rw⟩, ⟨18, 5, .rw⟩, ⟨23, 1, .rw⟩, ⟨24, 2, .rw⟩, ⟨26, 1, .rw⟩]⟩, -- ING_PMC_CFG
  ⟨0x140, 0x8, 8, 0x0, 0x0, [⟨0, 32, .ro⟩]⟩, -- ING_PMC_LO
  ⟨0x144, 0x8, 8, 0x0, 0x0, [⟨0, 16, .ro⟩]⟩] -- ING_PMC_HI

/-- Registers of ZIP (R467). -/
def regsZIP : List RegDef := [
  ⟨0x0, 0x0, 1, 0x5, 0x0, [⟨0, 1, .rw⟩, ⟨1, 1, .wo⟩, ⟨2, 1, .rw⟩]⟩, -- ZIP_CTL
  ⟨0x4, 0x0, 1, 0x0, 0x0, [⟨0, 2, .ro⟩, ⟨2, 2, .ro⟩, ⟨4, 1, .ro⟩, ⟨5, 2, .ro⟩]⟩, -- ZIP_STAT
  ⟨0x8, 0x0, 1, 0x0, 0x0, [⟨0, 13, .rw⟩, ⟨13, 1, .rw⟩]⟩, -- ZIP_RING
  ⟨0xC, 0x0, 1, 0x0, 0x0, [⟨0, 13, .rw⟩, ⟨13, 1, .rw⟩]⟩, -- ZIP_DONE
  ⟨0x10, 0x0, 1, 0x3, 0x0, [⟨0, 1, .rw⟩, ⟨1, 1, .rw⟩]⟩, -- ZIP_EVMASK
  ⟨0x14, 0x0, 1, 0x0, 0x0, [⟨0, 8, .ro⟩, ⟨16, 16, .ro⟩]⟩, -- ZIP_LAST_ERR
  ⟨0x18, 0x0, 1, 0x0, 0x0, [⟨0, 32, .ro⟩]⟩, -- ZIP_IN_LO
  ⟨0x1C, 0x0, 1, 0x0, 0x0, [⟨0, 32, .ro⟩]⟩, -- ZIP_IN_HI
  ⟨0x20, 0x0, 1, 0x0, 0x0, [⟨0, 32, .ro⟩]⟩, -- ZIP_OUT_LO
  ⟨0x24, 0x0, 1, 0x0, 0x0, [⟨0, 32, .ro⟩]⟩, -- ZIP_OUT_HI
  ⟨0x28, 0x0, 1, 0x0, 0x0, [⟨0, 32, .ro⟩]⟩, -- ZIP_JOBS
  ⟨0x2C, 0x0, 1, 0x0, 0x0, [⟨0, 32, .rc⟩]⟩, -- ZIP_ERRS
  ⟨0x30, 0x0, 1, 0x0, 0x0, [⟨0, 32, .rc⟩]⟩, -- ZIP_SUSPEND
  ⟨0x34, 0x0, 1, 0x0, 0x0, [⟨0, 8, .rw⟩, ⟨8, 1, .rw⟩, ⟨9, 1, .rw⟩, ⟨10, 3, .rw⟩, ⟨13, 4, .rw⟩, ⟨17, 1, .rw⟩, ⟨18, 5, .rw⟩, ⟨23, 1, .rw⟩, ⟨24, 2, .rw⟩, ⟨26, 1, .rw⟩]⟩, -- ZIP_PMC_CFG
  ⟨0x38, 0x0, 1, 0x0, 0x0, [⟨0, 32, .ro⟩]⟩, -- ZIP_PMC_LO
  ⟨0x3C, 0x0, 1, 0x0, 0x0, [⟨0, 16, .ro⟩]⟩] -- ZIP_PMC_HI

/-- Registers of TRW (R464). -/
def regsTRW : List RegDef := [
  ⟨0x0, 0x0, 1, 0x1, 0x0, [⟨0, 1, .rw⟩, ⟨1, 1, .wo⟩]⟩, -- TRW_CTL
  ⟨0x4, 0x0, 1, 0x0, 0x0, [⟨0, 2, .ro⟩, ⟨2, 2, .ro⟩, ⟨16, 16, .ro⟩]⟩, -- TRW_STAT
  ⟨0x8, 0x0, 1, 0x0, 0x0, [⟨0, 13, .rw⟩, ⟨13, 1, .rw⟩]⟩, -- TRW_RING
  ⟨0xC, 0x0, 1, 0x0, 0x0, [⟨0, 13, .rw⟩, ⟨13, 1, .rw⟩]⟩, -- TRW_DONE
  ⟨0x10, 0x0, 1, 0x1, 0x0, [⟨0, 1, .rw⟩]⟩, -- TRW_EVMASK
  ⟨0x14, 0x0, 1, 0x0, 0x0, [⟨0, 3, .ro⟩, ⟨3, 16, .ro⟩]⟩, -- TRW_LAST_ERR
  ⟨0x18, 0x0, 1, 0x0, 0x0, [⟨0, 32, .ro⟩]⟩, -- TRW_LAST_TAG
  ⟨0x1C, 0x0, 1, 0x0, 0x0, [⟨0, 32, .ro⟩]⟩, -- TRW_LISTS
  ⟨0x20, 0x0, 1, 0x0, 0x0, [⟨0, 32, .rc⟩]⟩, -- TRW_ERRS
  ⟨0x24, 0x0, 1, 0x0, 0x0, [⟨0, 32, .ro⟩]⟩, -- TRW_CMDS_LO
  ⟨0x28, 0x0, 1, 0x0, 0x0, [⟨0, 32, .ro⟩]⟩, -- TRW_CMDS_HI
  ⟨0x2C, 0x0, 1, 0x0, 0x0, [⟨0, 32, .ro⟩]⟩, -- TRW_PIX_LO
  ⟨0x30, 0x0, 1, 0x0, 0x0, [⟨0, 32, .ro⟩]⟩, -- TRW_PIX_HI
  ⟨0x34, 0x0, 1, 0x0, 0x0, [⟨0, 8, .rw⟩, ⟨8, 1, .rw⟩, ⟨9, 1, .rw⟩, ⟨10, 3, .rw⟩, ⟨13, 4, .rw⟩, ⟨17, 1, .rw⟩, ⟨18, 5, .rw⟩, ⟨23, 1, .rw⟩, ⟨24, 2, .rw⟩, ⟨26, 1, .rw⟩]⟩, -- TRW_PMC_CFG
  ⟨0x38, 0x0, 1, 0x0, 0x0, [⟨0, 32, .ro⟩]⟩, -- TRW_PMC_LO
  ⟨0x3C, 0x0, 1, 0x0, 0x0, [⟨0, 16, .ro⟩]⟩] -- TRW_PMC_HI

/-- Registers of COX (R341). -/
def regsCOX : List RegDef := [
  ⟨0x0, 0x0, 1, 0x0, 0x0, [⟨0, 1, .rw⟩, ⟨1, 1, .wo⟩, ⟨2, 1, .rw⟩]⟩, -- COX_CTL
  ⟨0x4, 0x0, 1, 0x0, 0x0, [⟨0, 3, .ro⟩, ⟨3, 2, .ro⟩, ⟨5, 3, .ro⟩, ⟨8, 4, .ro⟩, ⟨12, 1, .w1c⟩, ⟨13, 1, .w1c⟩]⟩, -- COX_STAT
  ⟨0x8, 0x0, 1, 0x0, 0x0, [⟨0, 32, .rw⟩]⟩, -- COX_BUDGET
  ⟨0xC, 0x0, 1, 0x0, 0x0, [⟨0, 32, .ro⟩]⟩, -- COX_USED
  ⟨0x10, 0x0, 1, 0x0, 0x0, [⟨0, 20, .rw⟩, ⟨31, 1, .rw⟩]⟩, -- COX_BLOCKS
  ⟨0x14, 0x0, 1, 0x0, 0x0, [⟨0, 32, .ro⟩]⟩, -- COX_LOADED
  ⟨0x18, 0x0, 1, 0x0, 0x0, [⟨0, 32, .rw⟩]⟩, -- COX_SWAP_LO
  ⟨0x1C, 0x0, 1, 0x0, 0x0, [⟨0, 16, .rw⟩, ⟨16, 1, .wo⟩, ⟨24, 8, .rw⟩]⟩, -- COX_SWAP_HI
  ⟨0x20, 0x8, 8, 0x0, 0x0, [⟨0, 32, .rw⟩]⟩, -- COX_WIN_BASE
  ⟨0x24, 0x8, 8, 0x0, 0x0, [⟨0, 6, .rw⟩, ⟨6, 1, .rw⟩, ⟨7, 1, .rw⟩, ⟨8, 1, .rw⟩, ⟨9, 1, .rw⟩, ⟨10, 1, .rw⟩, ⟨11, 1, .rw⟩]⟩, -- COX_WIN_CFG
  ⟨0x60, 0x0, 1, 0x0, 0x0, [⟨0, 3, .ro⟩, ⟨3, 2, .ro⟩, ⟨16, 16, .ro⟩]⟩, -- COX_EXC
  ⟨0x64, 0x0, 1, 0x0, 0x0, [⟨0, 32, .ro⟩]⟩, -- COX_EXC_PC_LO
  ⟨0x68, 0x0, 1, 0x0, 0x0, [⟨0, 32, .ro⟩]⟩, -- COX_EXC_PC_HI
  ⟨0x6C, 0x0, 1, 0x0, 0x0, [⟨0, 32, .ro⟩]⟩, -- COX_EXC_ADDR_LO
  ⟨0x70, 0x0, 1, 0x0, 0x0, [⟨0, 32, .ro⟩]⟩, -- COX_EXC_ADDR_HI
  ⟨0x74, 0x0, 1, 0x0, 0x0, [⟨0, 8, .rw⟩, ⟨8, 1, .rw⟩, ⟨9, 1, .rw⟩, ⟨10, 3, .rw⟩, ⟨13, 4, .rw⟩, ⟨17, 1, .rw⟩, ⟨18, 5, .rw⟩, ⟨23, 1, .rw⟩, ⟨24, 2, .rw⟩, ⟨26, 1, .rw⟩]⟩, -- COX_PMC_CFG
  ⟨0x78, 0x0, 1, 0x0, 0x0, [⟨0, 32, .ro⟩]⟩, -- COX_PMC_LO
  ⟨0x7C, 0x0, 1, 0x0, 0x0, [⟨0, 16, .ro⟩]⟩] -- COX_PMC_HI

/-- Registers of SHL (R139). -/
def regsSHL : List RegDef := [
  ⟨0x0, 0x0, 1, 0x3AA0, 0x0, [⟨0, 6, .rw⟩, ⟨7, 1, .rw⟩, ⟨8, 4, .rw⟩, ⟨12, 1, .rw⟩, ⟨13, 1, .rw⟩]⟩, -- SHL_CTL
  ⟨0x4, 0x0, 1, 0x88, 0x0, [⟨0, 4, .ro⟩, ⟨4, 4, .ro⟩, ⟨8, 1, .ro⟩, ⟨9, 1, .ro⟩, ⟨10, 1, .ro⟩, ⟨11, 3, .ro⟩]⟩, -- SHL_STAT
  ⟨0x8, 0x0, 1, 0x10000, 0x3FFFF, [⟨0, 18, .ro⟩]⟩, -- SHL_MAP
  ⟨0xC, 0x0, 1, 0x0, 0x0, [⟨0, 4, .wo⟩, ⟨4, 2, .wo⟩]⟩, -- SHL_CMD
  ⟨0x10, 0x0, 1, 0x0, 0x0, [⟨0, 32, .ro⟩]⟩, -- SHL_SHARE
  ⟨0x14, 0x0, 1, 0x2, 0x0, [⟨0, 1, .rw⟩, ⟨1, 1, .rw⟩]⟩, -- SHL_EVMASK
  ⟨0x18, 0x0, 1, 0x0, 0x3F, [⟨0, 4, .ro⟩, ⟨4, 2, .ro⟩]⟩, -- SHL_FAIL
  ⟨0x1C, 0x0, 1, 0x0, 0x0, [⟨0, 32, .ro⟩]⟩, -- SHL_LAST_SAMP
  ⟨0x20, 0x0, 1, 0x0, 0x0, [⟨0, 32, .ro⟩]⟩, -- SHL_RAYS_LO
  ⟨0x24, 0x0, 1, 0x0, 0x0, [⟨0, 32, .ro⟩]⟩, -- SHL_RAYS_HI
  ⟨0x28, 0x0, 1, 0x0, 0x0, [⟨0, 32, .ro⟩]⟩, -- SHL_SAMP_LO
  ⟨0x2C, 0x0, 1, 0x0, 0x0, [⟨0, 32, .ro⟩]⟩, -- SHL_SAMP_HI
  ⟨0x30, 0x0, 1, 0x0, 0x0, [⟨0, 32, .ro⟩]⟩, -- SHL_LATE_LO
  ⟨0x34, 0x0, 1, 0x0, 0x0, [⟨0, 32, .ro⟩]⟩, -- SHL_LATE_HI
  ⟨0x38, 0x0, 1, 0x0, 0x0, [⟨0, 32, .ro⟩]⟩, -- SHL_TERM_LO
  ⟨0x3C, 0x0, 1, 0x0, 0x0, [⟨0, 32, .ro⟩]⟩, -- SHL_TERM_HI
  ⟨0x40, 0x0, 1, 0x0, 0x0, [⟨0, 32, .rc⟩]⟩, -- SHL_LATE_STROKES
  ⟨0x44, 0x0, 1, 0x0, 0x0, [⟨0, 32, .rc⟩]⟩, -- SHL_CLAMP_SAMP
  ⟨0x48, 0x0, 1, 0x0, 0x0, [⟨0, 32, .rc⟩]⟩, -- SHL_BAND_STALL
  ⟨0x4C, 0x0, 1, 0x0, 0x0, [⟨0, 16, .ro⟩, ⟨16, 16, .ro⟩]⟩, -- SHL_QUICK_AT
  ⟨0x50, 0x0, 1, 0x0, 0x0, [⟨0, 32, .rc⟩]⟩, -- SHL_MISMATCH
  ⟨0x54, 0x0, 1, 0x0, 0x0, [⟨0, 8, .rw⟩, ⟨8, 1, .rw⟩, ⟨9, 1, .rw⟩, ⟨10, 3, .rw⟩, ⟨13, 4, .rw⟩, ⟨17, 1, .rw⟩, ⟨18, 5, .rw⟩, ⟨23, 1, .rw⟩, ⟨24, 2, .rw⟩, ⟨26, 1, .rw⟩]⟩, -- SHL_PMC_CFG
  ⟨0x58, 0x0, 1, 0x0, 0x0, [⟨0, 32, .ro⟩]⟩, -- SHL_PMC_LO
  ⟨0x5C, 0x0, 1, 0x0, 0x0, [⟨0, 16, .ro⟩]⟩] -- SHL_PMC_HI

/-- Registers of OAR (R144). -/
def regsOAR : List RegDef := [
  ⟨0x0, 0x0, 1, 0x0, 0x0, [⟨0, 1, .wo⟩]⟩, -- OAR_CTL
  ⟨0x4, 0x0, 1, 0x0, 0x3, [⟨0, 2, .ro⟩, ⟨2, 1, .ro⟩, ⟨3, 1, .w1c⟩, ⟨4, 1, .w1c⟩, ⟨5, 2, .ro⟩]⟩, -- OAR_STAT
  ⟨0x8, 0x0, 1, 0x0, 0x0, [⟨0, 32, .ro⟩]⟩, -- OAR_SAMP_LO
  ⟨0xC, 0x0, 1, 0x0, 0x0, [⟨0, 32, .ro⟩]⟩, -- OAR_SAMP_HI
  ⟨0x10, 0x0, 1, 0x0, 0x0, [⟨0, 32, .ro⟩]⟩, -- OAR_BUNDLES_LO
  ⟨0x14, 0x0, 1, 0x0, 0x0, [⟨0, 32, .ro⟩]⟩, -- OAR_BUNDLES_HI
  ⟨0x18, 0x0, 1, 0x0, 0x0, [⟨0, 32, .rc⟩]⟩, -- OAR_CLAMP_CNT
  ⟨0x1C, 0x0, 1, 0x0, 0x0, [⟨0, 32, .rc⟩]⟩, -- OAR_SOFT_CNT
  ⟨0x20, 0x0, 1, 0x0, 0x0, [⟨0, 32, .rc⟩]⟩, -- OAR_CHECK_CNT
  ⟨0x24, 0x0, 1, 0x0, 0x0, [⟨0, 32, .rc⟩]⟩, -- OAR_STALL
  ⟨0x28, 0x0, 1, 0x0, 0x0, [⟨0, 29, .ro⟩]⟩, -- OAR_FAIL_RAY
  ⟨0x2C, 0x0, 1, 0x0, 0x0, [⟨0, 32, .ro⟩]⟩] -- OAR_FAIL_TIME

/-- Registers of CAM_P (R485). -/
def regsCAMP : List RegDef := [
  ⟨0x0, 0x0, 1, 0x0, 0x0, [⟨0, 1, .rw⟩, ⟨1, 2, .rw⟩, ⟨3, 2, .rw⟩, ⟨5, 4, .rw⟩, ⟨9, 2, .rw⟩]⟩, -- CAM_P_CTL
  ⟨0x4, 0x0, 1, 0x0, 0x0, [⟨0, 2, .ro⟩, ⟨2, 4, .ro⟩, ⟨6, 2, .ro⟩, ⟨8, 2, .ro⟩]⟩, -- CAM_P_STAT
  ⟨0x8, 0x0, 1, 0x0, 0x0, [⟨0, 16, .rw⟩, ⟨16, 16, .rw⟩]⟩, -- CAM_P_SIZE
  ⟨0xC, 0x0, 1, 0x0, 0x0, [⟨0, 32, .rw⟩]⟩, -- CAM_P_RAW_LO
  ⟨0x10, 0x0, 1, 0x0, 0x0, [⟨0, 16, .rw⟩, ⟨16, 4, .rw⟩]⟩, -- CAM_P_RAW_HI
  ⟨0x14, 0x0, 1, 0x0, 0x0, [⟨0, 32, .rw⟩]⟩, -- CAM_P_RAW_STRIDE
  ⟨0x18, 0x0, 1, 0x0, 0x0, [⟨0, 3, .rw⟩]⟩, -- CAM_P_DELAY
  ⟨0x1C, 0x0, 1, 0x0, 0x0, [⟨0, 16, .wo⟩]⟩, -- CAM_P_SETSEQ
  ⟨0x20, 0x0, 1, 0x0, 0x0, [⟨0, 16, .ro⟩, ⟨16, 4, .ro⟩]⟩, -- CAM_P_SETNOW
  ⟨0x24, 0x0, 1, 0x0, 0x0, [⟨0, 32, .ro⟩]⟩, -- CAM_P_FRAME
  ⟨0x28, 0x0, 1, 0x0, 0x0, [⟨0, 32, .ro⟩]⟩, -- CAM_P_SOF_LO
  ⟨0x2C, 0x0, 1, 0x0, 0x0, [⟨0, 32, .ro⟩]⟩, -- CAM_P_SOF_HI
  ⟨0x30, 0x0, 1, 0x0, 0x0, [⟨0, 8, .w1c⟩]⟩, -- CAM_P_ERR
  ⟨0x34, 0x0, 1, 0x0, 0x0, [⟨0, 16, .rc⟩, ⟨16, 16, .rc⟩]⟩, -- CAM_P_ERRCNT
  ⟨0x38, 0x0, 1, 0x0, 0x0, [⟨0, 32, .rc⟩]⟩, -- CAM_P_DROP
  ⟨0x3C, 0x0, 1, 0x10, 0x0, [⟨0, 6, .rw⟩, ⟨6, 1, .rw⟩]⟩] -- CAM_P_PHY

/-- Registers of CAM_K (R485), part 1. -/
def regsCAMK0 : List RegDef := [
  ⟨0x0, 0x0, 1, 0x0, 0x0, [⟨0, 1, .rw⟩, ⟨1, 1, .wo⟩]⟩, -- CAM_K_CTL
  ⟨0x4, 0x0, 1, 0x0, 0x0, [⟨0, 2, .ro⟩, ⟨2, 2, .ro⟩]⟩, -- CAM_K_STAT
  ⟨0x8, 0x0, 1, 0x1, 0x0, [⟨0, 1, .rw⟩]⟩, -- CAM_K_EVMASK
  ⟨0xC, 0x0, 1, 0x0, 0x0, [⟨0, 3, .rw⟩, ⟨3, 2, .rw⟩]⟩, -- CAM_K_LAST_ERR
  ⟨0x10, 0x0, 1, 0x0, 0x0, [⟨0, 32, .ro⟩]⟩, -- CAM_K_CUR
  ⟨0x14, 0x0, 1, 0x0, 0x0, [⟨0, 13, .rw⟩, ⟨13, 1, .rw⟩]⟩, -- CAM_K_OUT_RING
  ⟨0x18, 0x0, 1, 0x0, 0x0, [⟨0, 32, .rw⟩]⟩, -- CAM_K_OUT_LO
  ⟨0x1C, 0x0, 1, 0x0, 0x0, [⟨0, 16, .rw⟩]⟩, -- CAM_K_OUT_HI
  ⟨0x20, 0x0, 1, 0x9, 0x0, [⟨0, 4, .rw⟩, ⟨4, 2, .rw⟩, ⟨6, 1, .rw⟩, ⟨8, 3, .rw⟩]⟩, -- CAM_K_OUT_CFG
  ⟨0x24, 0x0, 1, 0x0, 0x0, [⟨0, 32, .rw⟩]⟩, -- CAM_K_OUT_STRIDE
  ⟨0x28, 0x4, 2, 0x0, 0x0, [⟨0, 20, .rw⟩]⟩, -- CAM_K_OUT_PITCH
  ⟨0x30, 0x0, 1, 0x0, 0x0, [⟨0, 32, .rw⟩]⟩, -- CAM_K_OUT_COFF
  ⟨0x34, 0x0, 1, 0x0, 0x0, [⟨0, 32, .rw⟩]⟩, -- CAM_K_STATS_LO
  ⟨0x38, 0x0, 1, 0x0, 0x0, [⟨0, 16, .rw⟩]⟩, -- CAM_K_STATS_HI
  ⟨0x3C, 0x0, 1, 0xF, 0x0, [⟨0, 1, .rw⟩, ⟨1, 1, .rw⟩, ⟨2, 1, .rw⟩, ⟨3, 1, .rw⟩, ⟨4, 2, .rw⟩]⟩, -- CAM_K_STATS_CFG
  ⟨0x40, 0x0, 1, 0x0, 0x0, [⟨0, 2, .rw⟩, ⟨2, 1, .wo⟩, ⟨3, 1, .ro⟩, ⟨4, 4, .ro⟩, ⟨8, 1, .w1c⟩]⟩, -- CAM_K_APPLY
  ⟨0x44, 0x0, 1, 0x0, 0x0, [⟨0, 32, .rw⟩]⟩, -- CAM_K_APPLY_FRAME
  ⟨0x48, 0x0, 1, 0x0, 0x0, [⟨0, 16, .rw⟩]⟩, -- CAM_K_APPLY_SEQ
  ⟨0x4C, 0x0, 1, 0x0, 0x0, [⟨0, 32, .ro⟩]⟩, -- CAM_K_FRAMES
  ⟨0x50, 0x0, 1, 0x0, 0x0, [⟨0, 32, .rc⟩]⟩, -- CAM_K_DROPS
  ⟨0x54, 0x0, 1, 0x0, 0x0, [⟨0, 32, .rc⟩]⟩, -- CAM_K_LATE
  ⟨0x58, 0x4, 4, 0x0, 0x0, [⟨0, 16, .ro⟩]⟩, -- CAM_K_PSEQ
  ⟨0x68, 0x4, 4, 0x0, 0x0, [⟨0, 32, .ro⟩]⟩, -- CAM_K_PFRAME
  ⟨0x78, 0x0, 1, 0x0, 0x0, [⟨0, 4, .ro⟩]⟩, -- CAM_K_QUEUE
  ⟨0x7C, 0x0, 1, 0x0, 0x0, [⟨0, 1, .ro⟩, ⟨1, 2, .ro⟩]⟩, -- CAM_K_TNR
  ⟨0x80, 0x4, 4, 0x1000, 0x0, [⟨0, 16, .rw⟩]⟩, -- CAM_K_BLACK
  ⟨0x90, 0x4, 3, 0x1000, 0x0, [⟨0, 16, .rw⟩]⟩, -- CAM_K_WB
  ⟨0x9C, 0x0, 1, 0xFF00, 0x0, [⟨0, 16, .rw⟩]⟩, -- CAM_K_SAT
  ⟨0xA0, 0x4, 9, 0x0, 0x0, [⟨0, 16, .rw⟩]⟩, -- CAM_K_CCM
  ⟨0xC4, 0x4, 3, 0x0, 0x0, [⟨0, 16, .rw⟩]⟩, -- CAM_K_CCM_OFF
  ⟨0xD0, 0x0, 1, 0x0, 0x0, [⟨0, 4, .rw⟩, ⟨4, 4, .rw⟩, ⟨8, 8, .rw⟩]⟩, -- CAM_K_NR
  ⟨0xD4, 0x0, 1, 0x0, 0x0, [⟨0, 8, .rw⟩, ⟨8, 1, .rw⟩]⟩, -- CAM_K_DPC
  ⟨0xD8, 0x0, 1, 0x0, 0x0, [⟨0, 32, .rw⟩]⟩, -- CAM_K_DEFECT_LO
  ⟨0xDC, 0x0, 1, 0x0, 0x0, [⟨0, 16, .rw⟩, ⟨16, 11, .rw⟩]⟩, -- CAM_K_DEFECT_HI
  ⟨0xE0, 0x0, 1, 0x0, 0x0, [⟨0, 32, .rw⟩]⟩, -- CAM_K_SHADE_LO
  ⟨0xE4, 0x0, 1, 0x0, 0x0, [⟨0, 16, .rw⟩, ⟨16, 1, .rw⟩]⟩, -- CAM_K_SHADE_HI
  ⟨0xE8, 0x0, 1, 0x0, 0x0, [⟨0, 32, .rw⟩]⟩, -- CAM_K_TONE_LO
  ⟨0xEC, 0x0, 1, 0x0, 0x0, [⟨0, 16, .rw⟩, ⟨16, 1, .rw⟩]⟩, -- CAM_K_TONE_HI
  ⟨0xF0, 0x0, 1, 0x8000, 0x0, [⟨0, 16, .rw⟩]⟩, -- CAM_K_FID_THRESH
  ⟨0xF4, 0x0, 1, 0xFFF0004, 0x0, [⟨0, 12, .rw⟩, ⟨16, 12, .rw⟩]⟩] -- CAM_K_FID_AREA
/-- Registers of CAM_K (R485), part 2. -/
def regsCAMK1 : List RegDef := [
  ⟨0xF8, 0x0, 1, 0x0, 0x0, [⟨0, 16, .rw⟩, ⟨16, 16, .rw⟩]⟩, -- CAM_K_FID_ROI0
  ⟨0xFC, 0x0, 1, 0x20002000, 0x0, [⟨0, 16, .rw⟩, ⟨16, 16, .rw⟩]⟩, -- CAM_K_FID_ROI1
  ⟨0x100, 0x0, 1, 0x0, 0x0, [⟨0, 2, .rw⟩]⟩, -- CAM_K_CFA
  ⟨0x104, 0x0, 1, 0x0, 0x0, [⟨0, 32, .rc⟩]⟩, -- CAM_K_FID_LOST
  ⟨0x108, 0x4, 8, 0x0, 0x0, [⟨0, 8, .rw⟩, ⟨8, 1, .rw⟩, ⟨9, 1, .rw⟩, ⟨10, 3, .rw⟩, ⟨13, 4, .rw⟩, ⟨17, 1, .rw⟩, ⟨18, 5, .rw⟩, ⟨23, 1, .rw⟩, ⟨24, 2, .rw⟩, ⟨26, 1, .rw⟩]⟩, -- CAM_K_PMC_CFG
  ⟨0x128, 0x8, 8, 0x0, 0x0, [⟨0, 32, .ro⟩]⟩, -- CAM_K_PMC_LO
  ⟨0x12C, 0x8, 8, 0x0, 0x0, [⟨0, 16, .ro⟩]⟩, -- CAM_K_PMC_HI
  ⟨0x168, 0x0, 1, 0x0, 0x0, [⟨0, 32, .ro⟩]⟩, -- CAM_K_PIX_LO
  ⟨0x16C, 0x0, 1, 0x0, 0x0, [⟨0, 32, .ro⟩]⟩, -- CAM_K_PIX_HI
  ⟨0x170, 0x4, 4, 0x0, 0x0, [⟨0, 32, .rc⟩]⟩] -- CAM_K_DROPS_P

/-- Registers of RNG (R400). -/
def regsRNG : List RegDef := [
  ⟨0x0, 0x0, 1, 0x0, 0x0, [⟨0, 32, .rw⟩]⟩, -- RNG_SET_BASE_LO
  ⟨0x4, 0x0, 1, 0x0, 0x0, [⟨0, 16, .rw⟩]⟩, -- RNG_SET_BASE_HI
  ⟨0x8, 0x0, 1, 0x0, 0x0, [⟨0, 5, .rw⟩, ⟨5, 4, .rw⟩, ⟨9, 2, .rw⟩]⟩, -- RNG_SET_GEOM
  ⟨0xC, 0x0, 1, 0x3FF, 0x0, [⟨0, 5, .rw⟩, ⟨5, 5, .rw⟩, ⟨10, 6, .rw⟩, ⟨16, 1, .rw⟩, ⟨17, 6, .rw⟩, ⟨23, 1, .rw⟩]⟩, -- RNG_SET_BIND
  ⟨0x10, 0x0, 1, 0x0, 0x0, [⟨0, 13, .wo⟩, ⟨13, 3, .wo⟩]⟩, -- RNG_CMD
  ⟨0x14, 0x0, 1, 0x0, 0x0, [⟨0, 3, .ro⟩, ⟨3, 13, .ro⟩]⟩, -- RNG_RESULT
  ⟨0x18, 0x0, 1, 0x0, 0x0, [⟨0, 6, .wo⟩]⟩, -- RNG_EV_RAISE
  ⟨0x1C, 0x0, 1, 0x0, 0x0, [⟨0, 32, .rc⟩]⟩, -- RNG_DROP
  ⟨0x20, 0x0, 1, 0x0, 0x0, [⟨0, 13, .ro⟩, ⟨13, 3, .ro⟩]⟩, -- RNG_LAST_DROP
  ⟨0x24, 0x4, 3, 0x0, 0x0, [⟨0, 32, .w1c⟩]⟩, -- RNG_CEN_ATTN
  ⟨0x30, 0x0, 1, 0x0, 0x0, [⟨0, 8, .rw⟩, ⟨8, 1, .rw⟩, ⟨9, 1, .rw⟩, ⟨10, 3, .rw⟩, ⟨13, 4, .rw⟩, ⟨17, 1, .rw⟩, ⟨18, 5, .rw⟩, ⟨23, 1, .rw⟩, ⟨24, 2, .rw⟩, ⟨26, 1, .rw⟩]⟩, -- RNG_PMC_CFG
  ⟨0x34, 0x0, 1, 0x0, 0x0, [⟨0, 32, .ro⟩]⟩, -- RNG_PMC_LO
  ⟨0x38, 0x0, 1, 0x0, 0x0, [⟨0, 16, .ro⟩]⟩] -- RNG_PMC_HI

/-- Registers of DRC (R427), part 1. -/
def regsDRC0 : List RegDef := [
  ⟨0x0, 0x0, 1, 0x20, 0x0, [⟨0, 1, .rw⟩, ⟨1, 2, .rw⟩, ⟨3, 1, .wo⟩, ⟨4, 1, .rw⟩, ⟨5, 1, .rw⟩]⟩, -- DRC_CTL
  ⟨0x4, 0x0, 1, 0x0, 0x1C0, [⟨0, 3, .ro⟩, ⟨3, 2, .ro⟩, ⟨5, 1, .ro⟩, ⟨6, 1, .ro⟩, ⟨7, 1, .ro⟩, ⟨8, 1, .ro⟩, ⟨9, 1, .ro⟩, ⟨10, 2, .ro⟩]⟩, -- DRC_STAT
  ⟨0x8, 0x0, 1, 0x20, 0x0, [⟨0, 2, .rw⟩, ⟨2, 2, .rw⟩, ⟨4, 1, .rw⟩, ⟨5, 1, .rw⟩, ⟨6, 12, .rw⟩]⟩, -- DRC_CFG
  ⟨0xC, 0x0, 1, 0x0, 0x0, [⟨0, 6, .ro⟩]⟩, -- DRC_CAP
  ⟨0x10, 0x0, 1, 0x0, 0x0, [⟨0, 1, .rw⟩, ⟨1, 1, .wo⟩, ⟨2, 2, .rw⟩, ⟨4, 1, .rw⟩, ⟨5, 3, .rw⟩, ⟨8, 1, .rw⟩, ⟨9, 1, .wo⟩]⟩, -- DRC_TRAIN_CTL
  ⟨0x14, 0x0, 1, 0x0, 0x0, [⟨0, 1, .ro⟩, ⟨1, 1, .w1c⟩, ⟨2, 2, .ro⟩, ⟨4, 1, .ro⟩]⟩, -- DRC_TRAIN_STAT
  ⟨0x18, 0x0, 1, 0x0, 0x0, [⟨0, 32, .rw⟩]⟩, -- DRC_PAT_LO
  ⟨0x1C, 0x0, 1, 0x0, 0x0, [⟨0, 32, .rw⟩]⟩, -- DRC_PAT_HI
  ⟨0x20, 0x0, 1, 0x0, 0x0, [⟨0, 18, .rw⟩, ⟨18, 5, .rw⟩]⟩, -- DRC_PAT_ADDR
  ⟨0x24, 0x0, 1, 0x1, 0x0, [⟨0, 16, .rw⟩]⟩, -- DRC_PAT_LEN
  ⟨0x28, 0x4, 3, 0x0, 0x0, [⟨0, 32, .ro⟩]⟩, -- DRC_CMP_MASK
  ⟨0x34, 0x0, 1, 0x0, 0x0, [⟨0, 7, .rw⟩]⟩, -- DRC_CMP_SEL
  ⟨0x38, 0x0, 1, 0x0, 0x0, [⟨0, 16, .ro⟩]⟩, -- DRC_CMP_CNT
  ⟨0x3C, 0x0, 1, 0x0, 0x0, [⟨0, 3, .rw⟩, ⟨3, 7, .rw⟩, ⟨10, 1, .rw⟩]⟩, -- DRC_DLY_SEL
  ⟨0x40, 0x0, 1, 0x0, 0x0, [⟨0, 10, .rw⟩]⟩, -- DRC_DLY_VAL
  ⟨0x44, 0x0, 1, 0x0, 0x0, [⟨0, 10, .rw⟩, ⟨10, 6, .rw⟩, ⟨16, 10, .rw⟩, ⟨26, 1, .wo⟩, ⟨27, 1, .rw⟩]⟩, -- DRC_SWEEP
  ⟨0x48, 0x0, 1, 0x50, 0x0, [⟨0, 7, .rw⟩]⟩, -- DRC_VREF
  ⟨0x4C, 0x4, 4, 0x0, 0x0, [⟨0, 32, .rw⟩]⟩, -- DRC_TIM
  ⟨0x5C, 0x0, 1, 0x0, 0x0, [⟨0, 8, .rw⟩, ⟨8, 1, .rw⟩, ⟨9, 1, .rw⟩, ⟨10, 1, .rw⟩, ⟨11, 1, .wo⟩, ⟨12, 1, .ro⟩]⟩, -- DRC_MR
  ⟨0x60, 0x0, 1, 0x0, 0x0, [⟨0, 8, .rw⟩]⟩, -- DRC_MR_DATA
  ⟨0x64, 0x0, 1, 0x1003E8, 0x0, [⟨0, 20, .rw⟩, ⟨20, 1, .rw⟩]⟩, -- DRC_PD
  ⟨0x68, 0x0, 1, 0x40640BB8, 0x0, [⟨0, 16, .rw⟩, ⟨16, 14, .rw⟩, ⟨30, 1, .rw⟩]⟩, -- DRC_SR
  ⟨0x6C, 0x0, 1, 0x186A0, 0x0, [⟨0, 20, .rw⟩]⟩, -- DRC_LTR_SW
  ⟨0x70, 0x0, 1, 0x0, 0x0, [⟨0, 20, .ro⟩, ⟨20, 4, .ro⟩]⟩, -- DRC_LTR_MIN
  ⟨0x74, 0x0, 1, 0x0, 0x0, [⟨0, 4, .rw⟩, ⟨4, 4, .rw⟩, ⟨8, 4, .rw⟩, ⟨12, 4, .rw⟩]⟩, -- DRC_PANIC_WM
  ⟨0x78, 0x0, 1, 0x0, 0x0, [⟨0, 7, .ro⟩]⟩, -- DRC_PANIC_STAT
  ⟨0x7C, 0x0, 1, 0x0, 0x0, [⟨0, 32, .rc⟩]⟩, -- DRC_PANIC_CNT
  ⟨0x80, 0x0, 1, 0x0, 0x0, [⟨0, 16, .rc⟩, ⟨16, 16, .rc⟩]⟩, -- DRC_ECC_CE
  ⟨0x84, 0x0, 1, 0x0, 0x0, [⟨0, 16, .rc⟩, ⟨16, 16, .rc⟩]⟩, -- DRC_ECC_UE
  ⟨0x88, 0x0, 1, 0x0, 0x0, [⟨0, 32, .ro⟩]⟩, -- DRC_ECC_ADDR_LO
  ⟨0x8C, 0x0, 1, 0x0, 0x0, [⟨0, 16, .ro⟩, ⟨16, 1, .ro⟩, ⟨17, 1, .ro⟩, ⟨18, 1, .ro⟩, ⟨19, 1, .ro⟩]⟩, -- DRC_ECC_ADDR_HI
  ⟨0x90, 0x0, 1, 0x0, 0x0, [⟨0, 5, .ro⟩, ⟨5, 8, .ro⟩]⟩, -- DRC_ECC_SYN
  ⟨0x94, 0x0, 1, 0x0, 0x0, [⟨0, 16, .rc⟩, ⟨16, 16, .rc⟩]⟩, -- DRC_CAPAR
  ⟨0x98, 0x0, 1, 0x40, 0x0, [⟨0, 1, .rw⟩, ⟨1, 1, .wo⟩, ⟨2, 8, .rw⟩, ⟨10, 2, .ro⟩]⟩, -- DRC_RETIRE
  ⟨0x9C, 0x0, 1, 0x0, 0x0, [⟨0, 2, .ro⟩, ⟨2, 1, .ro⟩]⟩, -- DRC_MIG_STAT
  ⟨0xA0, 0x0, 1, 0x0, 0x0, [⟨0, 32, .ro⟩]⟩, -- DRC_MIG_POS
  ⟨0xA4, 0x0, 1, 0x0, 0x0, [⟨0, 32, .ro⟩]⟩, -- DRC_POISON_CNT
  ⟨0xA8, 0x0, 1, 0x10018, 0x0, [⟨0, 16, .rw⟩, ⟨16, 1, .rw⟩]⟩, -- DRC_SCRUB
  ⟨0xAC, 0x0, 1, 0x2, 0x0, [⟨0, 1, .rw⟩, ⟨1, 1, .rw⟩]⟩, -- DRC_EVMASK
  ⟨0xB0, 0x0, 1, 0x0, 0x0, [⟨0, 32, .ro⟩]⟩] -- DRC_RD_BYTES_LO
/-- Registers of DRC (R427), part 2. -/
def regsDRC1 : List RegDef := [
  ⟨0xB4, 0x0, 1, 0x0, 0x0, [⟨0, 32, .ro⟩]⟩, -- DRC_RD_BYTES_HI
  ⟨0xB8, 0x0, 1, 0x0, 0x0, [⟨0, 32, .ro⟩]⟩, -- DRC_WR_BYTES_LO
  ⟨0xBC, 0x0, 1, 0x0, 0x0, [⟨0, 32, .ro⟩]⟩, -- DRC_WR_BYTES_HI
  ⟨0xC0, 0x0, 1, 0x0, 0x0, [⟨0, 32, .rc⟩]⟩, -- DRC_YARD_CE
  ⟨0xC4, 0x0, 1, 0x0, 0x0, [⟨0, 32, .rc⟩]⟩, -- DRC_YARD_UE
  ⟨0xC8, 0x0, 1, 0x0, 0x0, [⟨0, 28, .ro⟩, ⟨28, 1, .ro⟩]⟩, -- DRC_YARD_ADDR
  ⟨0xCC, 0x0, 1, 0x0, 0x0, [⟨0, 8, .rw⟩, ⟨8, 1, .rw⟩, ⟨9, 1, .rw⟩, ⟨10, 3, .rw⟩, ⟨13, 4, .rw⟩, ⟨17, 1, .rw⟩, ⟨18, 5, .rw⟩, ⟨23, 1, .rw⟩, ⟨24, 2, .rw⟩, ⟨26, 1, .rw⟩]⟩, -- DRC_PMC_CFG
  ⟨0xD0, 0x0, 1, 0x0, 0x0, [⟨0, 32, .ro⟩]⟩, -- DRC_PMC_LO
  ⟨0xD4, 0x0, 1, 0x0, 0x0, [⟨0, 16, .ro⟩]⟩, -- DRC_PMC_HI
  ⟨0xD8, 0x0, 1, 0x0, 0x0, [⟨0, 16, .rc⟩, ⟨16, 16, .rc⟩]⟩, -- DRC_SR_CNT
  ⟨0xDC, 0x0, 1, 0x0, 0x0, [⟨0, 10, .ro⟩, ⟨10, 10, .ro⟩, ⟨20, 1, .ro⟩]⟩] -- DRC_SWEEP_RES

/-- Registers of STR (R209). -/
def regsSTR : List RegDef := [
  ⟨0x0, 0x0, 1, 0x1CA0, 0x0, [⟨0, 1, .rw⟩, ⟨1, 8, .rw⟩, ⟨9, 1, .rw⟩, ⟨10, 1, .rw⟩, ⟨11, 1, .rw⟩, ⟨12, 1, .rw⟩]⟩, -- STR_CTL
  ⟨0x4, 0x0, 1, 0x0, 0x0, [⟨0, 3, .ro⟩, ⟨3, 1, .ro⟩, ⟨4, 1, .ro⟩, ⟨5, 3, .ro⟩]⟩, -- STR_STAT
  ⟨0x8, 0x0, 1, 0x3040, 0x0, [⟨0, 4, .rw⟩, ⟨4, 4, .rw⟩, ⟨8, 6, .rw⟩]⟩, -- STR_TXEQ
  ⟨0xC, 0x0, 1, 0xA, 0x0, [⟨0, 10, .rw⟩]⟩, -- STR_CATCH
  ⟨0x10, 0x0, 1, 0x0, 0x0, [⟨0, 20, .ro⟩]⟩, -- STR_LEAD
  ⟨0x14, 0x0, 1, 0x0, 0x0, [⟨0, 12, .ro⟩, ⟨12, 12, .ro⟩]⟩, -- STR_CHAIN
  ⟨0x18, 0x0, 1, 0x0, 0x0, [⟨0, 4, .ro⟩, ⟨4, 7, .ro⟩, ⟨11, 2, .ro⟩, ⟨13, 12, .ro⟩]⟩, -- STR_FAULT
  ⟨0x1C, 0x0, 1, 0x0, 0x0, [⟨0, 13, .rw⟩, ⟨13, 1, .rw⟩]⟩, -- STR_MGMT
  ⟨0x20, 0x0, 1, 0x0, 0x0, [⟨0, 13, .rw⟩, ⟨13, 1, .rw⟩]⟩, -- STR_REPLY
  ⟨0x24, 0x0, 1, 0x0, 0x0, [⟨0, 32, .ro⟩]⟩, -- STR_ECHO_OK
  ⟨0x28, 0x0, 1, 0x0, 0x0, [⟨0, 32, .ro⟩]⟩, -- STR_ECHO_BAD
  ⟨0x2C, 0x0, 1, 0x0, 0x0, [⟨0, 32, .ro⟩]⟩, -- STR_ECHO_MISS
  ⟨0x30, 0x0, 1, 0x0, 0x0, [⟨0, 32, .ro⟩]⟩, -- STR_NOSWAP
  ⟨0x34, 0x0, 1, 0x0, 0x0, [⟨0, 32, .ro⟩]⟩, -- STR_LATE_DEV
  ⟨0x38, 0x0, 1, 0x0, 0x0, [⟨0, 12, .ro⟩, ⟨12, 16, .ro⟩]⟩, -- STR_ECHO_FIRST
  ⟨0x3C, 0x0, 1, 0x0, 0x0, [⟨0, 32, .ro⟩]⟩, -- STR_CHIP_TAP
  ⟨0x40, 0x0, 1, 0x0, 0x0, [⟨0, 12, .rw⟩, ⟨12, 1, .wo⟩, ⟨13, 2, .ro⟩]⟩, -- STR_RANGE
  ⟨0x44, 0x0, 1, 0x0, 0x0, [⟨0, 32, .ro⟩]⟩, -- STR_RANGE_RT
  ⟨0x48, 0x0, 1, 0x0, 0x0, [⟨0, 32, .ro⟩]⟩, -- STR_TX_BRICKS_LO
  ⟨0x4C, 0x0, 1, 0x0, 0x0, [⟨0, 32, .ro⟩]⟩, -- STR_TX_BRICKS_HI
  ⟨0x50, 0x0, 1, 0x0, 0x0, [⟨0, 32, .ro⟩]⟩, -- STR_RX_BRICKS
  ⟨0x54, 0x0, 1, 0x0, 0x0, [⟨0, 32, .rc⟩]⟩, -- STR_CRC_ERR
  ⟨0x58, 0x0, 1, 0x0, 0x0, [⟨0, 32, .rc⟩]⟩, -- STR_HCRC_ERR
  ⟨0x5C, 0x0, 1, 0x0, 0x0, [⟨0, 32, .rc⟩]⟩, -- STR_STUFF_ERR
  ⟨0x60, 0x0, 1, 0x7, 0x0, [⟨0, 1, .rw⟩, ⟨1, 1, .rw⟩, ⟨2, 1, .rw⟩, ⟨3, 1, .rw⟩]⟩, -- STR_EVMASK
  ⟨0x64, 0x0, 1, 0x0, 0x0, [⟨0, 19, .ro⟩, ⟨19, 1, .w1c⟩]⟩, -- STR_FIFO
  ⟨0x68, 0x0, 1, 0x0, 0x0, [⟨0, 1, .wo⟩, ⟨1, 1, .ro⟩, ⟨2, 1, .ro⟩]⟩, -- STR_PINTEST
  ⟨0x6C, 0x0, 1, 0x0, 0x0, [⟨0, 2, .rw⟩, ⟨16, 16, .rc⟩]⟩, -- STR_DIAG
  ⟨0x70, 0x0, 1, 0x0, 0x0, [⟨0, 8, .rw⟩, ⟨8, 1, .rw⟩, ⟨9, 1, .rw⟩, ⟨10, 3, .rw⟩, ⟨13, 4, .rw⟩, ⟨17, 1, .rw⟩, ⟨18, 5, .rw⟩, ⟨23, 1, .rw⟩, ⟨24, 2, .rw⟩, ⟨26, 1, .rw⟩]⟩, -- STR_PMC_CFG
  ⟨0x74, 0x0, 1, 0x0, 0x0, [⟨0, 32, .ro⟩]⟩, -- STR_PMC_LO
  ⟨0x78, 0x0, 1, 0x0, 0x0, [⟨0, 16, .ro⟩]⟩, -- STR_PMC_HI
  ⟨0x7C, 0x0, 1, 0x0, 0x0, [⟨0, 20, .ro⟩]⟩] -- STR_DCHAIN

/-- Registers of MRT (R303). -/
def regsMRT : List RegDef := [
  ⟨0x0, 0x0, 1, 0x1C, 0x0, [⟨0, 1, .rw⟩, ⟨1, 1, .rw⟩, ⟨2, 1, .rw⟩, ⟨3, 1, .rw⟩, ⟨4, 1, .rw⟩]⟩, -- MRT_CTL
  ⟨0x4, 0x0, 1, 0x0, 0x0, [⟨0, 3, .ro⟩, ⟨3, 1, .ro⟩, ⟨4, 1, .ro⟩, ⟨5, 1, .ro⟩]⟩, -- MRT_STAT
  ⟨0x8, 0x0, 1, 0x3040, 0x0, [⟨0, 4, .rw⟩, ⟨4, 4, .rw⟩, ⟨8, 6, .rw⟩]⟩, -- MRT_TXEQ
  ⟨0xC, 0x0, 1, 0xFFF, 0x0, [⟨0, 12, .ro⟩, ⟨12, 3, .ro⟩, ⟨15, 1, .ro⟩, ⟨16, 1, .ro⟩]⟩, -- MRT_PEER
  ⟨0x10, 0x0, 1, 0x0, 0x0, [⟨0, 7, .ro⟩]⟩, -- MRT_HEALTH
  ⟨0x14, 0x0, 1, 0x0, 0x0, [⟨0, 4, .ro⟩]⟩, -- MRT_FAULT
  ⟨0x18, 0x0, 1, 0x7, 0x0, [⟨0, 1, .rw⟩, ⟨1, 1, .rw⟩, ⟨2, 1, .rw⟩, ⟨3, 1, .rw⟩]⟩, -- MRT_EVMASK
  ⟨0x1C, 0x0, 1, 0x0, 0x0, [⟨0, 13, .rw⟩, ⟨13, 1, .rw⟩]⟩, -- MRT_POINT_RING
  ⟨0x20, 0x0, 1, 0x0, 0x0, [⟨0, 13, .rw⟩, ⟨13, 1, .rw⟩]⟩, -- MRT_MSG_TX
  ⟨0x24, 0x0, 1, 0x0, 0x0, [⟨0, 13, .rw⟩, ⟨13, 1, .rw⟩]⟩, -- MRT_MSG_RX
  ⟨0x28, 0x0, 1, 0xFE8, 0x0, [⟨0, 10, .rw⟩, ⟨10, 4, .rw⟩]⟩, -- MRT_HELLO
  ⟨0x2C, 0x0, 1, 0x0, 0x0, [⟨0, 18, .ro⟩]⟩, -- MRT_TXQ
  ⟨0x30, 0x0, 1, 0x0, 0x0, [⟨0, 32, .ro⟩]⟩, -- MRT_TX_FRAMES_LO
  ⟨0x34, 0x0, 1, 0x0, 0x0, [⟨0, 32, .ro⟩]⟩, -- MRT_TX_FRAMES_HI
  ⟨0x38, 0x0, 1, 0x0, 0x0, [⟨0, 32, .ro⟩]⟩, -- MRT_RX_FRAMES_LO
  ⟨0x3C, 0x0, 1, 0x0, 0x0, [⟨0, 32, .ro⟩]⟩, -- MRT_RX_FRAMES_HI
  ⟨0x40, 0x0, 1, 0x0, 0x0, [⟨0, 32, .ro⟩]⟩, -- MRT_TX_BYTES_LO
  ⟨0x44, 0x0, 1, 0x0, 0x0, [⟨0, 32, .ro⟩]⟩, -- MRT_TX_BYTES_HI
  ⟨0x48, 0x0, 1, 0x0, 0x0, [⟨0, 32, .ro⟩]⟩, -- MRT_RX_BYTES_LO
  ⟨0x4C, 0x0, 1, 0x0, 0x0, [⟨0, 32, .ro⟩]⟩, -- MRT_RX_BYTES_HI
  ⟨0x50, 0x0, 1, 0x0, 0x0, [⟨0, 32, .rc⟩]⟩, -- MRT_FEC_CORR
  ⟨0x54, 0x0, 1, 0x0, 0x0, [⟨0, 32, .rc⟩]⟩, -- MRT_FEC_UNCORR
  ⟨0x58, 0x0, 1, 0x0, 0x0, [⟨0, 32, .rc⟩]⟩, -- MRT_BLK_ERR
  ⟨0x5C, 0x0, 1, 0x0, 0x0, [⟨0, 32, .rc⟩]⟩, -- MRT_FRM_ERR
  ⟨0x60, 0x0, 1, 0x0, 0x0, [⟨0, 32, .rc⟩]⟩, -- MRT_FWD_DROP
  ⟨0x64, 0x0, 1, 0x0, 0x0, [⟨0, 32, .rc⟩]⟩, -- MRT_POINT_SENT
  ⟨0x68, 0x0, 1, 0x0, 0x0, [⟨0, 32, .rc⟩]⟩, -- MRT_LINK_DOWN
  ⟨0x6C, 0x0, 1, 0x0, 0x0, [⟨0, 2, .rw⟩, ⟨16, 16, .rc⟩]⟩, -- MRT_DIAG
  ⟨0x70, 0x0, 1, 0x0, 0x0, [⟨0, 8, .ro⟩]⟩, -- MRT_RX_SNR
  ⟨0x74, 0x0, 1, 0x0, 0x0, [⟨0, 16, .ro⟩, ⟨16, 4, .ro⟩]⟩, -- MRT_TRAIN
  ⟨0x78, 0x4, 2, 0x0, 0x0, [⟨0, 8, .rw⟩, ⟨8, 1, .rw⟩, ⟨9, 1, .rw⟩, ⟨10, 3, .rw⟩, ⟨13, 4, .rw⟩, ⟨17, 1, .rw⟩, ⟨18, 5, .rw⟩, ⟨23, 1, .rw⟩, ⟨24, 2, .rw⟩, ⟨26, 1, .rw⟩]⟩, -- MRT_PMC_CFG
  ⟨0x80, 0x0, 1, 0x0, 0x0, [⟨0, 32, .ro⟩]⟩, -- MRT_PMC0_LO
  ⟨0x84, 0x0, 1, 0x0, 0x0, [⟨0, 16, .ro⟩]⟩, -- MRT_PMC0_HI
  ⟨0x88, 0x0, 1, 0x0, 0x0, [⟨0, 32, .ro⟩]⟩, -- MRT_PMC1_LO
  ⟨0x8C, 0x0, 1, 0x0, 0x0, [⟨0, 16, .ro⟩]⟩, -- MRT_PMC1_HI
  ⟨0x90, 0x0, 1, 0x0, 0x0, [⟨0, 32, .ro⟩]⟩, -- MRT_PTP_TX
  ⟨0x94, 0x0, 1, 0x0, 0x0, [⟨0, 32, .ro⟩]⟩, -- MRT_PTP_RX
  ⟨0x98, 0x0, 1, 0x0, 0x0, [⟨0, 32, .rc⟩]⟩, -- MRT_HELLO_MISS
  ⟨0x9C, 0x0, 1, 0x0, 0x0, [⟨0, 32, .rc⟩]⟩] -- MRT_MSG_DROP

/-- A run of equal instances of the register window: block, base, stride, instances, registers per instance, register rows. -/
structure Bank where
  block : Block
  base : Nat
  stride : Nat
  insts : Nat
  count : Nat
  regs : List RegDef

/-- The blocks of R575, the compound ones by their parts (R576). The oars of shell s are nine instances of their own. -/
def banks : List Bank := [
  ⟨.global, 0x40000000, 0x140, 1, 80, regsGLB⟩,
  ⟨.time, 0x40010000, 0x240, 1, 144, regsTIME0 ++ regsTIME1⟩,
  ⟨.trust, 0x40020000, 0x100, 1, 64, regsTRU⟩,
  ⟨.kiln, 0x40030000, 0x1C0, 1, 112, regsKLN⟩,
  ⟨.plumb, 0x40040000, 0x140, 1, 80, regsPLB⟩,
  ⟨.mbox, 0x40050000, 0x100, 64, 8, regsMBX⟩,
  ⟨.perf, 0x40060000, 0xC0, 1, 48, regsPERF⟩,
  ⟨.ledger, 0x40070000, 0xA0, 1, 40, regsLDG⟩,
  ⟨.net, 0x40080000, 0x10000, 4, 88, regsNET⟩,
  ⟨.host, 0x400C0000, 0x100, 1, 64, regsHOST⟩,
  ⟨.ingest, 0x400D0000, 0x180, 1, 96, regsING⟩,
  ⟨.zip, 0x400E0000, 0x1000, 4, 32, regsZIP⟩,
  ⟨.trowel, 0x400F0000, 0xC0, 1, 48, regsTRW⟩,
  ⟨.cox, 0x40100000, 0x10000, 16, 32, regsCOX⟩,
  ⟨.shell, 0x40200000, 0x10000, 4, 24, regsSHL⟩,
  ⟨.oar, 0x40201000, 0x1000, 9, 12, regsOAR⟩,
  ⟨.oar, 0x40211000, 0x1000, 9, 12, regsOAR⟩,
  ⟨.oar, 0x40221000, 0x1000, 9, 12, regsOAR⟩,
  ⟨.oar, 0x40231000, 0x1000, 9, 12, regsOAR⟩,
  ⟨.cam, 0x40300000, 0x40, 4, 16, regsCAMP⟩,
  ⟨.cam, 0x40300100, 0x180, 2, 96, regsCAMK0 ++ regsCAMK1⟩,
  ⟨.ring, 0x40310000, 0x80, 1, 32, regsRNG⟩,
  ⟨.dramc, 0x40400000, 0x10000, 8, 56, regsDRC0 ++ regsDRC1⟩,
  ⟨.strand, 0x40600000, 0x10000, 96, 32, regsSTR⟩,
  ⟨.mortar, 0x40C00000, 0x10000, 8, 40, regsMRT⟩]

/-- A decoded register address: its block, the base of its bank, the instance, the offset in the instance, and the row of the
register map where the offset is not a reserved one (R576, R577). -/
structure RegHit where
  block : Block
  bankBase : Nat
  inst : Nat
  word : Nat
  row : Option RegDef

/-- The row that covers offset `w`. -/
def rowAt : List RegDef → Nat → Option RegDef
  | [], _ => none
  | r :: l, w =>
    if r.off ≤ w ∧ (if r.stride = 0 then w = r.off else (w - r.off) % r.stride = 0 ∧ (w - r.off) / r.stride < r.count) then some r
    else rowAt l w

/-- The first bank that holds the address (R577). -/
def findReg : List Bank → Nat → Option RegHit
  | [], _ => none
  | b :: l, a =>
    if b.base ≤ a ∧ (a - b.base) / b.stride < b.insts ∧ (a - b.base) % b.stride < 4 * b.count then
      some ⟨b.block, b.base, (a - b.base) / b.stride, (a - b.base) % b.stride, rowAt b.regs ((a - b.base) % b.stride)⟩
    else findReg l a

/-- The decode of R577; `none` where the address lies outside every block's range. -/
def decodeReg (a : Nat) : Option RegHit := findReg banks a

/-- The reset value of the register at `a` (R8); the instances that the register maps except stand first. -/
def regReset (a : Nat) : RegWord :=
  if a = 0x40100000 then 0x1 else if a = 0x40100004 then 0x11 else if a = 0x40400074 then 0x8844 else
  if a = 0x40209004 ∨ a = 0x40219004 ∨ a = 0x40229004 ∨ a = 0x40239004 then 1 else
  if a = 0x403001A0 ∨ a = 0x403001B0 ∨ a = 0x403001C0 ∨ a = 0x40300320 ∨ a = 0x40300330 ∨ a = 0x40300340 then 0x1000 else
  match decodeReg a with
  | some h => match h.row with
    | some r => BitVec.ofNat 32 r.reset
    | none => 0
  | none => 0

/-- The sticky bits of the register at `a` (R580). -/
def regSticky (a : Nat) : Nat :=
  match decodeReg a with
  | some h => match h.row with
    | some r => r.sticky
    | none => 0
  | none => 0

namespace R
/-- TIME_STK_REQ (R52). -/ def TIME_STK_REQ : Rg := ⟨0x40010180, 0x0, 0x0⟩
/-- TIME_STK_STAT (R52). -/ def TIME_STK_STAT : Rg := ⟨0x40010184, 0x0, 0x0⟩
/-- TIME_STK_WIN (R52). -/ def TIME_STK_WIN : Rg := ⟨0x40010188, 0x0, 0x0⟩
/-- TIME_STK_HOLD (R52). -/ def TIME_STK_HOLD : Rg := ⟨0x4001018C, 0x0, 0x0⟩
/-- TIME_STK_NUM_LO (R52). -/ def TIME_STK_NUM_LO : Rg := ⟨0x40010190, 0x0, 0x0⟩
/-- TIME_STK_NUM_HI (R52). -/ def TIME_STK_NUM_HI : Rg := ⟨0x40010194, 0x0, 0x0⟩
/-- TIME_STK_NEXT_LO (R52). -/ def TIME_STK_NEXT_LO : Rg := ⟨0x40010198, 0x0, 0x0⟩
/-- TIME_STK_NEXT_HI (R52). -/ def TIME_STK_NEXT_HI : Rg := ⟨0x4001019C, 0x0, 0x0⟩
/-- TIME_STK_HSOFF (R52). -/ def TIME_STK_HSOFF : Rg := ⟨0x400101A0, 0x0, 0x0⟩
/-- TIME_STK_HS_STAT (R52). -/ def TIME_STK_HS_STAT : Rg := ⟨0x400101A4, 0x0, 0x0⟩
/-- ING_CTL (R84). -/ def ING_CTL : Rg := ⟨0x400D0000, 0x0, 0x0⟩
/-- ING_UDP (R84). -/ def ING_UDP : Rg := ⟨0x400D0004, 0x0, 0x0⟩
/-- ING_STEER (R84). -/ def ING_STEER : Rg := ⟨0x400D0008, 0x0, 0x0⟩
/-- ING_STAT (R84). -/ def ING_STAT : Rg := ⟨0x400D000C, 0x0, 0x0⟩
/-- ING_LAST_DROP (R84). -/ def ING_LAST_DROP : Rg := ⟨0x400D0010, 0x0, 0x0⟩
/-- ING_LAST_SHOW (R84). -/ def ING_LAST_SHOW : Rg := ⟨0x400D0014, 0x0, 0x0⟩
/-- ING_EVMASK (R84). -/ def ING_EVMASK : Rg := ⟨0x400D0018, 0x0, 0x0⟩
/-- ING_DSC_CTL (R84). -/ def ING_DSC_CTL : Rg := ⟨0x400D001C, 0x0, 0x0⟩
/-- ING_CLS_LO (R84). -/ def ING_CLS_LO : Rg := ⟨0x400D0020, 0x0, 0x8⟩
/-- ING_CLS_HI (R84). -/ def ING_CLS_HI : Rg := ⟨0x400D0024, 0x0, 0x8⟩
/-- ING_DROP (R84). -/ def ING_DROP : Rg := ⟨0x400D0040, 0x0, 0x4⟩
/-- ING_DSC_PIX_LO (R84). -/ def ING_DSC_PIX_LO : Rg := ⟨0x400D00C0, 0x0, 0x0⟩
/-- ING_DSC_PIX_HI (R84). -/ def ING_DSC_PIX_HI : Rg := ⟨0x400D00C4, 0x0, 0x0⟩
/-- ING_DSC_SLC_LO (R84). -/ def ING_DSC_SLC_LO : Rg := ⟨0x400D00C8, 0x0, 0x0⟩
/-- ING_DSC_SLC_HI (R84). -/ def ING_DSC_SLC_HI : Rg := ⟨0x400D00CC, 0x0, 0x0⟩
/-- ING_DSC_HALF (R84). -/ def ING_DSC_HALF : Rg := ⟨0x400D00D0, 0x0, 0x0⟩
/-- ING_DSC_ERR (R84). -/ def ING_DSC_ERR : Rg := ⟨0x400D00D4, 0x0, 0x0⟩
/-- ING_DSC_INFO (R84). -/ def ING_DSC_INFO : Rg := ⟨0x400D00D8, 0x0, 0x0⟩
/-- ING_Z_BYTES (R84). -/ def ING_Z_BYTES : Rg := ⟨0x400D00DC, 0x0, 0x0⟩
/-- ING_SRC (R84). -/ def ING_SRC : Rg := ⟨0x400D00E0, 0x0, 0x4⟩
/-- ING_SEQ_GAP_LO (R84). -/ def ING_SEQ_GAP_LO : Rg := ⟨0x400D0110, 0x0, 0x0⟩
/-- ING_SEQ_GAP_HI (R84). -/ def ING_SEQ_GAP_HI : Rg := ⟨0x400D0114, 0x0, 0x0⟩
/-- ING_OBJ_LO (R84). -/ def ING_OBJ_LO : Rg := ⟨0x400D0118, 0x0, 0x0⟩
/-- ING_OBJ_HI (R84). -/ def ING_OBJ_HI : Rg := ⟨0x400D011C, 0x0, 0x0⟩
/-- ING_PMC_CFG (R84). -/ def ING_PMC_CFG : Rg := ⟨0x400D0120, 0x0, 0x4⟩
/-- ING_PMC_LO (R84). -/ def ING_PMC_LO : Rg := ⟨0x400D0140, 0x0, 0x8⟩
/-- ING_PMC_HI (R84). -/ def ING_PMC_HI : Rg := ⟨0x400D0144, 0x0, 0x8⟩
/-- NET_CTL (R89). -/ def NET_CTL : Rg := ⟨0x40080000, 0x10000, 0x0⟩
/-- NET_STAT (R89). -/ def NET_STAT : Rg := ⟨0x40080004, 0x10000, 0x0⟩
/-- NET_MAC_LO (R89). -/ def NET_MAC_LO : Rg := ⟨0x40080008, 0x10000, 0x0⟩
/-- NET_MAC_HI (R89). -/ def NET_MAC_HI : Rg := ⟨0x4008000C, 0x10000, 0x0⟩
/-- NET_IPV4 (R89). -/ def NET_IPV4 : Rg := ⟨0x40080010, 0x10000, 0x0⟩
/-- NET_IPV6 (R89). -/ def NET_IPV6 : Rg := ⟨0x40080014, 0x10000, 0x4⟩
/-- NET_VLAN (R89). -/ def NET_VLAN : Rg := ⟨0x40080024, 0x10000, 0x0⟩
/-- NET_FEC_CORR (R89). -/ def NET_FEC_CORR : Rg := ⟨0x40080028, 0x10000, 0x0⟩
/-- NET_FEC_UNCORR (R89). -/ def NET_FEC_UNCORR : Rg := ⟨0x4008002C, 0x10000, 0x0⟩
/-- NET_RX_FRAMES_LO (R89). -/ def NET_RX_FRAMES_LO : Rg := ⟨0x40080030, 0x10000, 0x0⟩
/-- NET_RX_FRAMES_HI (R89). -/ def NET_RX_FRAMES_HI : Rg := ⟨0x40080034, 0x10000, 0x0⟩
/-- NET_RX_BAD (R89). -/ def NET_RX_BAD : Rg := ⟨0x40080038, 0x10000, 0x0⟩
/-- NET_RX_OVERSIZE (R89). -/ def NET_RX_OVERSIZE : Rg := ⟨0x4008003C, 0x10000, 0x0⟩
/-- NET_TX_FRAMES_LO (R89). -/ def NET_TX_FRAMES_LO : Rg := ⟨0x40080040, 0x10000, 0x0⟩
/-- NET_TX_FRAMES_HI (R89). -/ def NET_TX_FRAMES_HI : Rg := ⟨0x40080044, 0x10000, 0x0⟩
/-- NET_MGMT_RING (R89). -/ def NET_MGMT_RING : Rg := ⟨0x40080048, 0x10000, 0x0⟩
/-- NET_LINK_DOWN (R89). -/ def NET_LINK_DOWN : Rg := ⟨0x4008004C, 0x10000, 0x0⟩
/-- NET_MCAST_LO (R89). -/ def NET_MCAST_LO : Rg := ⟨0x40080050, 0x10000, 0x8⟩
/-- NET_MCAST_HI (R89). -/ def NET_MCAST_HI : Rg := ⟨0x40080054, 0x10000, 0x8⟩
/-- NET_PCS_STAT (R89). -/ def NET_PCS_STAT : Rg := ⟨0x40080150, 0x10000, 0x0⟩
/-- NET_AN_CTL (R89). -/ def NET_AN_CTL : Rg := ⟨0x40080154, 0x10000, 0x0⟩
/-- NET_PAUSE_RX (R89). -/ def NET_PAUSE_RX : Rg := ⟨0x40080158, 0x10000, 0x0⟩
/-- NET_IP_ERR (R89). -/ def NET_IP_ERR : Rg := ⟨0x4008015C, 0x10000, 0x0⟩
/-- SHL_CTL (R139). -/ def SHL_CTL : Rg := ⟨0x40200000, 0x10000, 0x0⟩
/-- SHL_STAT (R139). -/ def SHL_STAT : Rg := ⟨0x40200004, 0x10000, 0x0⟩
/-- SHL_MAP (R139). -/ def SHL_MAP : Rg := ⟨0x40200008, 0x10000, 0x0⟩
/-- SHL_CMD (R139). -/ def SHL_CMD : Rg := ⟨0x4020000C, 0x10000, 0x0⟩
/-- SHL_SHARE (R139). -/ def SHL_SHARE : Rg := ⟨0x40200010, 0x10000, 0x0⟩
/-- SHL_EVMASK (R139). -/ def SHL_EVMASK : Rg := ⟨0x40200014, 0x10000, 0x0⟩
/-- SHL_FAIL (R139). -/ def SHL_FAIL : Rg := ⟨0x40200018, 0x10000, 0x0⟩
/-- SHL_LAST_SAMP (R139). -/ def SHL_LAST_SAMP : Rg := ⟨0x4020001C, 0x10000, 0x0⟩
/-- SHL_RAYS_LO (R139). -/ def SHL_RAYS_LO : Rg := ⟨0x40200020, 0x10000, 0x0⟩
/-- SHL_RAYS_HI (R139). -/ def SHL_RAYS_HI : Rg := ⟨0x40200024, 0x10000, 0x0⟩
/-- SHL_SAMP_LO (R139). -/ def SHL_SAMP_LO : Rg := ⟨0x40200028, 0x10000, 0x0⟩
/-- SHL_SAMP_HI (R139). -/ def SHL_SAMP_HI : Rg := ⟨0x4020002C, 0x10000, 0x0⟩
/-- SHL_LATE_LO (R139). -/ def SHL_LATE_LO : Rg := ⟨0x40200030, 0x10000, 0x0⟩
/-- SHL_LATE_HI (R139). -/ def SHL_LATE_HI : Rg := ⟨0x40200034, 0x10000, 0x0⟩
/-- SHL_TERM_LO (R139). -/ def SHL_TERM_LO : Rg := ⟨0x40200038, 0x10000, 0x0⟩
/-- SHL_TERM_HI (R139). -/ def SHL_TERM_HI : Rg := ⟨0x4020003C, 0x10000, 0x0⟩
/-- SHL_LATE_STROKES (R139). -/ def SHL_LATE_STROKES : Rg := ⟨0x40200040, 0x10000, 0x0⟩
/-- SHL_CLAMP_SAMP (R139). -/ def SHL_CLAMP_SAMP : Rg := ⟨0x40200044, 0x10000, 0x0⟩
/-- SHL_BAND_STALL (R139). -/ def SHL_BAND_STALL : Rg := ⟨0x40200048, 0x10000, 0x0⟩
/-- SHL_QUICK_AT (R139). -/ def SHL_QUICK_AT : Rg := ⟨0x4020004C, 0x10000, 0x0⟩
/-- SHL_MISMATCH (R139). -/ def SHL_MISMATCH : Rg := ⟨0x40200050, 0x10000, 0x0⟩
/-- SHL_PMC_CFG (R139). -/ def SHL_PMC_CFG : Rg := ⟨0x40200054, 0x10000, 0x0⟩
/-- SHL_PMC_LO (R139). -/ def SHL_PMC_LO : Rg := ⟨0x40200058, 0x10000, 0x0⟩
/-- SHL_PMC_HI (R139). -/ def SHL_PMC_HI : Rg := ⟨0x4020005C, 0x10000, 0x0⟩
/-- OAR_CTL (R144). -/ def OAR_CTL : Rg := ⟨0x40201000, 0x10000, 0x1000⟩
/-- OAR_STAT (R144). -/ def OAR_STAT : Rg := ⟨0x40201004, 0x10000, 0x1000⟩
/-- OAR_SAMP_LO (R144). -/ def OAR_SAMP_LO : Rg := ⟨0x40201008, 0x10000, 0x1000⟩
/-- OAR_SAMP_HI (R144). -/ def OAR_SAMP_HI : Rg := ⟨0x4020100C, 0x10000, 0x1000⟩
/-- OAR_BUNDLES_LO (R144). -/ def OAR_BUNDLES_LO : Rg := ⟨0x40201010, 0x10000, 0x1000⟩
/-- OAR_BUNDLES_HI (R144). -/ def OAR_BUNDLES_HI : Rg := ⟨0x40201014, 0x10000, 0x1000⟩
/-- OAR_CLAMP_CNT (R144). -/ def OAR_CLAMP_CNT : Rg := ⟨0x40201018, 0x10000, 0x1000⟩
/-- OAR_SOFT_CNT (R144). -/ def OAR_SOFT_CNT : Rg := ⟨0x4020101C, 0x10000, 0x1000⟩
/-- OAR_CHECK_CNT (R144). -/ def OAR_CHECK_CNT : Rg := ⟨0x40201020, 0x10000, 0x1000⟩
/-- OAR_STALL (R144). -/ def OAR_STALL : Rg := ⟨0x40201024, 0x10000, 0x1000⟩
/-- OAR_FAIL_RAY (R144). -/ def OAR_FAIL_RAY : Rg := ⟨0x40201028, 0x10000, 0x1000⟩
/-- OAR_FAIL_TIME (R144). -/ def OAR_FAIL_TIME : Rg := ⟨0x4020102C, 0x10000, 0x1000⟩
/-- STR_CTL (R209). -/ def STR_CTL : Rg := ⟨0x40600000, 0x10000, 0x0⟩
/-- STR_STAT (R209). -/ def STR_STAT : Rg := ⟨0x40600004, 0x10000, 0x0⟩
/-- STR_TXEQ (R209). -/ def STR_TXEQ : Rg := ⟨0x40600008, 0x10000, 0x0⟩
/-- STR_CATCH (R209). -/ def STR_CATCH : Rg := ⟨0x4060000C, 0x10000, 0x0⟩
/-- STR_LEAD (R209). -/ def STR_LEAD : Rg := ⟨0x40600010, 0x10000, 0x0⟩
/-- STR_CHAIN (R209). -/ def STR_CHAIN : Rg := ⟨0x40600014, 0x10000, 0x0⟩
/-- STR_FAULT (R209). -/ def STR_FAULT : Rg := ⟨0x40600018, 0x10000, 0x0⟩
/-- STR_MGMT (R209). -/ def STR_MGMT : Rg := ⟨0x4060001C, 0x10000, 0x0⟩
/-- STR_REPLY (R209). -/ def STR_REPLY : Rg := ⟨0x40600020, 0x10000, 0x0⟩
/-- STR_ECHO_OK (R209). -/ def STR_ECHO_OK : Rg := ⟨0x40600024, 0x10000, 0x0⟩
/-- STR_ECHO_BAD (R209). -/ def STR_ECHO_BAD : Rg := ⟨0x40600028, 0x10000, 0x0⟩
/-- STR_ECHO_MISS (R209). -/ def STR_ECHO_MISS : Rg := ⟨0x4060002C, 0x10000, 0x0⟩
/-- STR_NOSWAP (R209). -/ def STR_NOSWAP : Rg := ⟨0x40600030, 0x10000, 0x0⟩
/-- STR_LATE_DEV (R209). -/ def STR_LATE_DEV : Rg := ⟨0x40600034, 0x10000, 0x0⟩
/-- STR_ECHO_FIRST (R209). -/ def STR_ECHO_FIRST : Rg := ⟨0x40600038, 0x10000, 0x0⟩
/-- STR_CHIP_TAP (R209). -/ def STR_CHIP_TAP : Rg := ⟨0x4060003C, 0x10000, 0x0⟩
/-- STR_RANGE (R209). -/ def STR_RANGE : Rg := ⟨0x40600040, 0x10000, 0x0⟩
/-- STR_RANGE_RT (R209). -/ def STR_RANGE_RT : Rg := ⟨0x40600044, 0x10000, 0x0⟩
/-- STR_TX_BRICKS_LO (R209). -/ def STR_TX_BRICKS_LO : Rg := ⟨0x40600048, 0x10000, 0x0⟩
/-- STR_TX_BRICKS_HI (R209). -/ def STR_TX_BRICKS_HI : Rg := ⟨0x4060004C, 0x10000, 0x0⟩
/-- STR_RX_BRICKS (R209). -/ def STR_RX_BRICKS : Rg := ⟨0x40600050, 0x10000, 0x0⟩
/-- STR_CRC_ERR (R209). -/ def STR_CRC_ERR : Rg := ⟨0x40600054, 0x10000, 0x0⟩
/-- STR_HCRC_ERR (R209). -/ def STR_HCRC_ERR : Rg := ⟨0x40600058, 0x10000, 0x0⟩
/-- STR_STUFF_ERR (R209). -/ def STR_STUFF_ERR : Rg := ⟨0x4060005C, 0x10000, 0x0⟩
/-- STR_EVMASK (R209). -/ def STR_EVMASK : Rg := ⟨0x40600060, 0x10000, 0x0⟩
/-- STR_FIFO (R209). -/ def STR_FIFO : Rg := ⟨0x40600064, 0x10000, 0x0⟩
/-- STR_PINTEST (R209). -/ def STR_PINTEST : Rg := ⟨0x40600068, 0x10000, 0x0⟩
/-- STR_DIAG (R209). -/ def STR_DIAG : Rg := ⟨0x4060006C, 0x10000, 0x0⟩
/-- STR_PMC_CFG (R209). -/ def STR_PMC_CFG : Rg := ⟨0x40600070, 0x10000, 0x0⟩
/-- STR_PMC_LO (R209). -/ def STR_PMC_LO : Rg := ⟨0x40600074, 0x10000, 0x0⟩
/-- STR_PMC_HI (R209). -/ def STR_PMC_HI : Rg := ⟨0x40600078, 0x10000, 0x0⟩
/-- STR_DCHAIN (R209). -/ def STR_DCHAIN : Rg := ⟨0x4060007C, 0x10000, 0x0⟩
/-- TIME_CTL (R276). -/ def TIME_CTL : Rg := ⟨0x40010000, 0x0, 0x0⟩
/-- TIME_STAT (R276). -/ def TIME_STAT : Rg := ⟨0x40010004, 0x0, 0x0⟩
/-- TIME_NOW_LO (R276). -/ def TIME_NOW_LO : Rg := ⟨0x40010008, 0x0, 0x0⟩
/-- TIME_NOW_HI (R276). -/ def TIME_NOW_HI : Rg := ⟨0x4001000C, 0x0, 0x0⟩
/-- TIME_SET_LO (R276). -/ def TIME_SET_LO : Rg := ⟨0x40010010, 0x0, 0x0⟩
/-- TIME_SET_HI (R276). -/ def TIME_SET_HI : Rg := ⟨0x40010014, 0x0, 0x0⟩
/-- TIME_FREQ (R276). -/ def TIME_FREQ : Rg := ⟨0x40010018, 0x0, 0x0⟩
/-- TIME_SLEW (R276). -/ def TIME_SLEW : Rg := ⟨0x4001001C, 0x0, 0x0⟩
/-- TIME_DIFF (R276). -/ def TIME_DIFF : Rg := ⟨0x40010020, 0x0, 0x0⟩
/-- TIME_REF (R276). -/ def TIME_REF : Rg := ⟨0x40010024, 0x0, 0x0⟩
/-- TIME_PPS (R276). -/ def TIME_PPS : Rg := ⟨0x40010028, 0x0, 0x0⟩
/-- TIME_GM_CTL (R276). -/ def TIME_GM_CTL : Rg := ⟨0x4001002C, 0x0, 0x0⟩
/-- TIME_GM_STAT (R276). -/ def TIME_GM_STAT : Rg := ⟨0x40010030, 0x0, 0x0⟩
/-- TIME_EVMASK (R276). -/ def TIME_EVMASK : Rg := ⟨0x40010034, 0x0, 0x0⟩
/-- TIME_CONFLICT (R276). -/ def TIME_CONFLICT : Rg := ⟨0x40010038, 0x0, 0x0⟩
/-- TIME_PTP_RING (R276). -/ def TIME_PTP_RING : Rg := ⟨0x4001003C, 0x0, 0x0⟩
/-- TIME_TT_CTL (R276). -/ def TIME_TT_CTL : Rg := ⟨0x40010040, 0x0, 0xC⟩
/-- TIME_TT_OFFSET (R276). -/ def TIME_TT_OFFSET : Rg := ⟨0x40010044, 0x0, 0xC⟩
/-- TIME_TT_PERIOD (R276). -/ def TIME_TT_PERIOD : Rg := ⟨0x40010048, 0x0, 0xC⟩
/-- TIME_DOM_CTL (R276). -/ def TIME_DOM_CTL : Rg := ⟨0x40010100, 0x0, 0x40⟩
/-- TIME_DOM_STAT (R276). -/ def TIME_DOM_STAT : Rg := ⟨0x40010104, 0x0, 0x40⟩
/-- TIME_DOM_KP (R276). -/ def TIME_DOM_KP : Rg := ⟨0x40010108, 0x0, 0x40⟩
/-- TIME_DOM_KI (R276). -/ def TIME_DOM_KI : Rg := ⟨0x4001010C, 0x0, 0x40⟩
/-- TIME_DOM_FMAX (R276). -/ def TIME_DOM_FMAX : Rg := ⟨0x40010110, 0x0, 0x40⟩
/-- TIME_DOM_LOCK (R276). -/ def TIME_DOM_LOCK : Rg := ⟨0x40010114, 0x0, 0x40⟩
/-- TIME_DOM_STEP (R276). -/ def TIME_DOM_STEP : Rg := ⟨0x40010118, 0x0, 0x40⟩
/-- TIME_DOM_OFFSET (R276). -/ def TIME_DOM_OFFSET : Rg := ⟨0x4001011C, 0x0, 0x40⟩
/-- TIME_DOM_MPD (R276). -/ def TIME_DOM_MPD : Rg := ⟨0x40010120, 0x0, 0x40⟩
/-- TIME_DOM_FREQ (R276). -/ def TIME_DOM_FREQ : Rg := ⟨0x40010124, 0x0, 0x40⟩
/-- TIME_DOM_DLY (R276). -/ def TIME_DOM_DLY : Rg := ⟨0x40010128, 0x0, 0x40⟩
/-- TIME_DOM_MASTER_LO (R276). -/ def TIME_DOM_MASTER_LO : Rg := ⟨0x4001012C, 0x0, 0x40⟩
/-- TIME_DOM_MASTER_HI (R276). -/ def TIME_DOM_MASTER_HI : Rg := ⟨0x40010130, 0x0, 0x40⟩
/-- TIME_DOM_MPORT (R276). -/ def TIME_DOM_MPORT : Rg := ⟨0x40010134, 0x0, 0x40⟩
/-- TIME_DOM_SYNC_CNT (R276). -/ def TIME_DOM_SYNC_CNT : Rg := ⟨0x40010138, 0x0, 0x40⟩
/-- TIME_DOM_OUTLIER_CNT (R276). -/ def TIME_DOM_OUTLIER_CNT : Rg := ⟨0x4001013C, 0x0, 0x40⟩
/-- TIME_LAT (R276). -/ def TIME_LAT : Rg := ⟨0x400101A8, 0x0, 0x4⟩
/-- TIME_PORT_ROLE (R276). -/ def TIME_PORT_ROLE : Rg := ⟨0x400101D8, 0x0, 0x0⟩
/-- TIME_HOLD (R276). -/ def TIME_HOLD : Rg := ⟨0x400101DC, 0x0, 0x0⟩
/-- TIME_INTERVALS (R276). -/ def TIME_INTERVALS : Rg := ⟨0x400101E0, 0x0, 0x0⟩
/-- TIME_CLKID_LO (R276). -/ def TIME_CLKID_LO : Rg := ⟨0x400101E4, 0x0, 0x0⟩
/-- TIME_CLKID_HI (R276). -/ def TIME_CLKID_HI : Rg := ⟨0x400101E8, 0x0, 0x0⟩
/-- TIME_TT_STAT (R276). -/ def TIME_TT_STAT : Rg := ⟨0x400101EC, 0x0, 0x0⟩
/-- TIME_PTP_DROP (R276). -/ def TIME_PTP_DROP : Rg := ⟨0x400101F0, 0x0, 0x0⟩
/-- TIME_TC_CFG (R276). -/ def TIME_TC_CFG : Rg := ⟨0x400101F4, 0x0, 0x4⟩
/-- TIME_TC_STAT (R276). -/ def TIME_TC_STAT : Rg := ⟨0x400101FC, 0x0, 0x0⟩
/-- TIME_TC_LO (R276). -/ def TIME_TC_LO : Rg := ⟨0x40010200, 0x0, 0x8⟩
/-- TIME_TC_HI (R276). -/ def TIME_TC_HI : Rg := ⟨0x40010204, 0x0, 0x8⟩
/-- MRT_CTL (R303). -/ def MRT_CTL : Rg := ⟨0x40C00000, 0x10000, 0x0⟩
/-- MRT_STAT (R303). -/ def MRT_STAT : Rg := ⟨0x40C00004, 0x10000, 0x0⟩
/-- MRT_TXEQ (R303). -/ def MRT_TXEQ : Rg := ⟨0x40C00008, 0x10000, 0x0⟩
/-- MRT_PEER (R303). -/ def MRT_PEER : Rg := ⟨0x40C0000C, 0x10000, 0x0⟩
/-- MRT_HEALTH (R303). -/ def MRT_HEALTH : Rg := ⟨0x40C00010, 0x10000, 0x0⟩
/-- MRT_FAULT (R303). -/ def MRT_FAULT : Rg := ⟨0x40C00014, 0x10000, 0x0⟩
/-- MRT_EVMASK (R303). -/ def MRT_EVMASK : Rg := ⟨0x40C00018, 0x10000, 0x0⟩
/-- MRT_POINT_RING (R303). -/ def MRT_POINT_RING : Rg := ⟨0x40C0001C, 0x10000, 0x0⟩
/-- MRT_MSG_TX (R303). -/ def MRT_MSG_TX : Rg := ⟨0x40C00020, 0x10000, 0x0⟩
/-- MRT_MSG_RX (R303). -/ def MRT_MSG_RX : Rg := ⟨0x40C00024, 0x10000, 0x0⟩
/-- MRT_HELLO (R303). -/ def MRT_HELLO : Rg := ⟨0x40C00028, 0x10000, 0x0⟩
/-- MRT_TXQ (R303). -/ def MRT_TXQ : Rg := ⟨0x40C0002C, 0x10000, 0x0⟩
/-- MRT_TX_FRAMES_LO (R303). -/ def MRT_TX_FRAMES_LO : Rg := ⟨0x40C00030, 0x10000, 0x0⟩
/-- MRT_TX_FRAMES_HI (R303). -/ def MRT_TX_FRAMES_HI : Rg := ⟨0x40C00034, 0x10000, 0x0⟩
/-- MRT_RX_FRAMES_LO (R303). -/ def MRT_RX_FRAMES_LO : Rg := ⟨0x40C00038, 0x10000, 0x0⟩
/-- MRT_RX_FRAMES_HI (R303). -/ def MRT_RX_FRAMES_HI : Rg := ⟨0x40C0003C, 0x10000, 0x0⟩
/-- MRT_TX_BYTES_LO (R303). -/ def MRT_TX_BYTES_LO : Rg := ⟨0x40C00040, 0x10000, 0x0⟩
/-- MRT_TX_BYTES_HI (R303). -/ def MRT_TX_BYTES_HI : Rg := ⟨0x40C00044, 0x10000, 0x0⟩
/-- MRT_RX_BYTES_LO (R303). -/ def MRT_RX_BYTES_LO : Rg := ⟨0x40C00048, 0x10000, 0x0⟩
/-- MRT_RX_BYTES_HI (R303). -/ def MRT_RX_BYTES_HI : Rg := ⟨0x40C0004C, 0x10000, 0x0⟩
/-- MRT_FEC_CORR (R303). -/ def MRT_FEC_CORR : Rg := ⟨0x40C00050, 0x10000, 0x0⟩
/-- MRT_FEC_UNCORR (R303). -/ def MRT_FEC_UNCORR : Rg := ⟨0x40C00054, 0x10000, 0x0⟩
/-- MRT_BLK_ERR (R303). -/ def MRT_BLK_ERR : Rg := ⟨0x40C00058, 0x10000, 0x0⟩
/-- MRT_FRM_ERR (R303). -/ def MRT_FRM_ERR : Rg := ⟨0x40C0005C, 0x10000, 0x0⟩
/-- MRT_FWD_DROP (R303). -/ def MRT_FWD_DROP : Rg := ⟨0x40C00060, 0x10000, 0x0⟩
/-- MRT_POINT_SENT (R303). -/ def MRT_POINT_SENT : Rg := ⟨0x40C00064, 0x10000, 0x0⟩
/-- MRT_LINK_DOWN (R303). -/ def MRT_LINK_DOWN : Rg := ⟨0x40C00068, 0x10000, 0x0⟩
/-- MRT_DIAG (R303). -/ def MRT_DIAG : Rg := ⟨0x40C0006C, 0x10000, 0x0⟩
/-- MRT_RX_SNR (R303). -/ def MRT_RX_SNR : Rg := ⟨0x40C00070, 0x10000, 0x0⟩
/-- MRT_TRAIN (R303). -/ def MRT_TRAIN : Rg := ⟨0x40C00074, 0x10000, 0x0⟩
/-- MRT_PMC_CFG (R303). -/ def MRT_PMC_CFG : Rg := ⟨0x40C00078, 0x10000, 0x4⟩
/-- MRT_PMC0_LO (R303). -/ def MRT_PMC0_LO : Rg := ⟨0x40C00080, 0x10000, 0x0⟩
/-- MRT_PMC0_HI (R303). -/ def MRT_PMC0_HI : Rg := ⟨0x40C00084, 0x10000, 0x0⟩
/-- MRT_PMC1_LO (R303). -/ def MRT_PMC1_LO : Rg := ⟨0x40C00088, 0x10000, 0x0⟩
/-- MRT_PMC1_HI (R303). -/ def MRT_PMC1_HI : Rg := ⟨0x40C0008C, 0x10000, 0x0⟩
/-- MRT_PTP_TX (R303). -/ def MRT_PTP_TX : Rg := ⟨0x40C00090, 0x10000, 0x0⟩
/-- MRT_PTP_RX (R303). -/ def MRT_PTP_RX : Rg := ⟨0x40C00094, 0x10000, 0x0⟩
/-- MRT_HELLO_MISS (R303). -/ def MRT_HELLO_MISS : Rg := ⟨0x40C00098, 0x10000, 0x0⟩
/-- MRT_MSG_DROP (R303). -/ def MRT_MSG_DROP : Rg := ⟨0x40C0009C, 0x10000, 0x0⟩
/-- COX_CTL (R341). -/ def COX_CTL : Rg := ⟨0x40100000, 0x10000, 0x0⟩
/-- COX_STAT (R341). -/ def COX_STAT : Rg := ⟨0x40100004, 0x10000, 0x0⟩
/-- COX_BUDGET (R341). -/ def COX_BUDGET : Rg := ⟨0x40100008, 0x10000, 0x0⟩
/-- COX_USED (R341). -/ def COX_USED : Rg := ⟨0x4010000C, 0x10000, 0x0⟩
/-- COX_BLOCKS (R341). -/ def COX_BLOCKS : Rg := ⟨0x40100010, 0x10000, 0x0⟩
/-- COX_LOADED (R341). -/ def COX_LOADED : Rg := ⟨0x40100014, 0x10000, 0x0⟩
/-- COX_SWAP_LO (R341). -/ def COX_SWAP_LO : Rg := ⟨0x40100018, 0x10000, 0x0⟩
/-- COX_SWAP_HI (R341). -/ def COX_SWAP_HI : Rg := ⟨0x4010001C, 0x10000, 0x0⟩
/-- COX_WIN_BASE (R341). -/ def COX_WIN_BASE : Rg := ⟨0x40100020, 0x10000, 0x8⟩
/-- COX_WIN_CFG (R341). -/ def COX_WIN_CFG : Rg := ⟨0x40100024, 0x10000, 0x8⟩
/-- COX_EXC (R341). -/ def COX_EXC : Rg := ⟨0x40100060, 0x10000, 0x0⟩
/-- COX_EXC_PC_LO (R341). -/ def COX_EXC_PC_LO : Rg := ⟨0x40100064, 0x10000, 0x0⟩
/-- COX_EXC_PC_HI (R341). -/ def COX_EXC_PC_HI : Rg := ⟨0x40100068, 0x10000, 0x0⟩
/-- COX_EXC_ADDR_LO (R341). -/ def COX_EXC_ADDR_LO : Rg := ⟨0x4010006C, 0x10000, 0x0⟩
/-- COX_EXC_ADDR_HI (R341). -/ def COX_EXC_ADDR_HI : Rg := ⟨0x40100070, 0x10000, 0x0⟩
/-- COX_PMC_CFG (R341). -/ def COX_PMC_CFG : Rg := ⟨0x40100074, 0x10000, 0x0⟩
/-- COX_PMC_LO (R341). -/ def COX_PMC_LO : Rg := ⟨0x40100078, 0x10000, 0x0⟩
/-- COX_PMC_HI (R341). -/ def COX_PMC_HI : Rg := ⟨0x4010007C, 0x10000, 0x0⟩
/-- MBX_NOTICE_LO (R390). -/ def MBX_NOTICE_LO : Rg := ⟨0x40050000, 0x100, 0x0⟩
/-- MBX_NOTICE_HI (R390). -/ def MBX_NOTICE_HI : Rg := ⟨0x40050004, 0x100, 0x0⟩
/-- MBX_CFG (R390). -/ def MBX_CFG : Rg := ⟨0x40050008, 0x100, 0x0⟩
/-- MBX_TMO (R390). -/ def MBX_TMO : Rg := ⟨0x4005000C, 0x100, 0x0⟩
/-- MBX_STAT (R390). -/ def MBX_STAT : Rg := ⟨0x40050010, 0x100, 0x0⟩
/-- MBX_DOORBELL (R390). -/ def MBX_DOORBELL : Rg := ⟨0x40050014, 0x100, 0x0⟩
/-- MBX_MASK (R390). -/ def MBX_MASK : Rg := ⟨0x40050018, 0x100, 0x0⟩
/-- MBX_CTL (R390). -/ def MBX_CTL : Rg := ⟨0x4005001C, 0x100, 0x0⟩
/-- HOST_CTL (R398). -/ def HOST_CTL : Rg := ⟨0x400C0000, 0x0, 0x0⟩
/-- HOST_STAT (R398). -/ def HOST_STAT : Rg := ⟨0x400C0004, 0x0, 0x0⟩
/-- HOST_ID (R398). -/ def HOST_ID : Rg := ⟨0x400C0008, 0x0, 0x0⟩
/-- HOST_DB (R398). -/ def HOST_DB : Rg := ⟨0x400C000C, 0x0, 0x0⟩
/-- HOST_DB_REJ (R398). -/ def HOST_DB_REJ : Rg := ⟨0x400C0010, 0x0, 0x0⟩
/-- HOST_DWIN (R398). -/ def HOST_DWIN : Rg := ⟨0x400C0014, 0x0, 0x0⟩
/-- HOST_DMA_ERR (R398). -/ def HOST_DMA_ERR : Rg := ⟨0x400C0018, 0x0, 0x0⟩
/-- HOST_ERR (R398). -/ def HOST_ERR : Rg := ⟨0x400C001C, 0x0, 0x0⟩
/-- HOST_LINK_DOWN (R398). -/ def HOST_LINK_DOWN : Rg := ⟨0x400C0020, 0x0, 0x0⟩
/-- HOST_HWIN_LO (R398). -/ def HOST_HWIN_LO : Rg := ⟨0x400C0040, 0x0, 0x8⟩
/-- HOST_HWIN_HI (R398). -/ def HOST_HWIN_HI : Rg := ⟨0x400C0044, 0x0, 0x8⟩
/-- HOST_EVMAP (R398). -/ def HOST_EVMAP : Rg := ⟨0x400C0080, 0x0, 0x4⟩
/-- HOST_PMC_CFG (R398). -/ def HOST_PMC_CFG : Rg := ⟨0x400C00C0, 0x0, 0x0⟩
/-- HOST_PMC_LO (R398). -/ def HOST_PMC_LO : Rg := ⟨0x400C00C4, 0x0, 0x0⟩
/-- HOST_PMC_HI (R398). -/ def HOST_PMC_HI : Rg := ⟨0x400C00C8, 0x0, 0x0⟩
/-- RNG_SET_BASE_LO (R400). -/ def RNG_SET_BASE_LO : Rg := ⟨0x40310000, 0x0, 0x0⟩
/-- RNG_SET_BASE_HI (R400). -/ def RNG_SET_BASE_HI : Rg := ⟨0x40310004, 0x0, 0x0⟩
/-- RNG_SET_GEOM (R400). -/ def RNG_SET_GEOM : Rg := ⟨0x40310008, 0x0, 0x0⟩
/-- RNG_SET_BIND (R400). -/ def RNG_SET_BIND : Rg := ⟨0x4031000C, 0x0, 0x0⟩
/-- RNG_CMD (R400). -/ def RNG_CMD : Rg := ⟨0x40310010, 0x0, 0x0⟩
/-- RNG_RESULT (R400). -/ def RNG_RESULT : Rg := ⟨0x40310014, 0x0, 0x0⟩
/-- RNG_EV_RAISE (R400). -/ def RNG_EV_RAISE : Rg := ⟨0x40310018, 0x0, 0x0⟩
/-- RNG_DROP (R400). -/ def RNG_DROP : Rg := ⟨0x4031001C, 0x0, 0x0⟩
/-- RNG_LAST_DROP (R400). -/ def RNG_LAST_DROP : Rg := ⟨0x40310020, 0x0, 0x0⟩
/-- RNG_CEN_ATTN (R400). -/ def RNG_CEN_ATTN : Rg := ⟨0x40310024, 0x0, 0x4⟩
/-- RNG_PMC_CFG (R400). -/ def RNG_PMC_CFG : Rg := ⟨0x40310030, 0x0, 0x0⟩
/-- RNG_PMC_LO (R400). -/ def RNG_PMC_LO : Rg := ⟨0x40310034, 0x0, 0x0⟩
/-- RNG_PMC_HI (R400). -/ def RNG_PMC_HI : Rg := ⟨0x40310038, 0x0, 0x0⟩
/-- DRC_CTL (R427). -/ def DRC_CTL : Rg := ⟨0x40400000, 0x10000, 0x0⟩
/-- DRC_STAT (R427). -/ def DRC_STAT : Rg := ⟨0x40400004, 0x10000, 0x0⟩
/-- DRC_CFG (R427). -/ def DRC_CFG : Rg := ⟨0x40400008, 0x10000, 0x0⟩
/-- DRC_CAP (R427). -/ def DRC_CAP : Rg := ⟨0x4040000C, 0x10000, 0x0⟩
/-- DRC_TRAIN_CTL (R427). -/ def DRC_TRAIN_CTL : Rg := ⟨0x40400010, 0x10000, 0x0⟩
/-- DRC_TRAIN_STAT (R427). -/ def DRC_TRAIN_STAT : Rg := ⟨0x40400014, 0x10000, 0x0⟩
/-- DRC_PAT_LO (R427). -/ def DRC_PAT_LO : Rg := ⟨0x40400018, 0x10000, 0x0⟩
/-- DRC_PAT_HI (R427). -/ def DRC_PAT_HI : Rg := ⟨0x4040001C, 0x10000, 0x0⟩
/-- DRC_PAT_ADDR (R427). -/ def DRC_PAT_ADDR : Rg := ⟨0x40400020, 0x10000, 0x0⟩
/-- DRC_PAT_LEN (R427). -/ def DRC_PAT_LEN : Rg := ⟨0x40400024, 0x10000, 0x0⟩
/-- DRC_CMP_MASK (R427). -/ def DRC_CMP_MASK : Rg := ⟨0x40400028, 0x10000, 0x4⟩
/-- DRC_CMP_SEL (R427). -/ def DRC_CMP_SEL : Rg := ⟨0x40400034, 0x10000, 0x0⟩
/-- DRC_CMP_CNT (R427). -/ def DRC_CMP_CNT : Rg := ⟨0x40400038, 0x10000, 0x0⟩
/-- DRC_DLY_SEL (R427). -/ def DRC_DLY_SEL : Rg := ⟨0x4040003C, 0x10000, 0x0⟩
/-- DRC_DLY_VAL (R427). -/ def DRC_DLY_VAL : Rg := ⟨0x40400040, 0x10000, 0x0⟩
/-- DRC_SWEEP (R427). -/ def DRC_SWEEP : Rg := ⟨0x40400044, 0x10000, 0x0⟩
/-- DRC_VREF (R427). -/ def DRC_VREF : Rg := ⟨0x40400048, 0x10000, 0x0⟩
/-- DRC_TIM (R427). -/ def DRC_TIM : Rg := ⟨0x4040004C, 0x10000, 0x4⟩
/-- DRC_MR (R427). -/ def DRC_MR : Rg := ⟨0x4040005C, 0x10000, 0x0⟩
/-- DRC_MR_DATA (R427). -/ def DRC_MR_DATA : Rg := ⟨0x40400060, 0x10000, 0x0⟩
/-- DRC_PD (R427). -/ def DRC_PD : Rg := ⟨0x40400064, 0x10000, 0x0⟩
/-- DRC_SR (R427). -/ def DRC_SR : Rg := ⟨0x40400068, 0x10000, 0x0⟩
/-- DRC_LTR_SW (R427). -/ def DRC_LTR_SW : Rg := ⟨0x4040006C, 0x10000, 0x0⟩
/-- DRC_LTR_MIN (R427). -/ def DRC_LTR_MIN : Rg := ⟨0x40400070, 0x10000, 0x0⟩
/-- DRC_PANIC_WM (R427). -/ def DRC_PANIC_WM : Rg := ⟨0x40400074, 0x10000, 0x0⟩
/-- DRC_PANIC_STAT (R427). -/ def DRC_PANIC_STAT : Rg := ⟨0x40400078, 0x10000, 0x0⟩
/-- DRC_PANIC_CNT (R427). -/ def DRC_PANIC_CNT : Rg := ⟨0x4040007C, 0x10000, 0x0⟩
/-- DRC_ECC_CE (R427). -/ def DRC_ECC_CE : Rg := ⟨0x40400080, 0x10000, 0x0⟩
/-- DRC_ECC_UE (R427). -/ def DRC_ECC_UE : Rg := ⟨0x40400084, 0x10000, 0x0⟩
/-- DRC_ECC_ADDR_LO (R427). -/ def DRC_ECC_ADDR_LO : Rg := ⟨0x40400088, 0x10000, 0x0⟩
/-- DRC_ECC_ADDR_HI (R427). -/ def DRC_ECC_ADDR_HI : Rg := ⟨0x4040008C, 0x10000, 0x0⟩
/-- DRC_ECC_SYN (R427). -/ def DRC_ECC_SYN : Rg := ⟨0x40400090, 0x10000, 0x0⟩
/-- DRC_CAPAR (R427). -/ def DRC_CAPAR : Rg := ⟨0x40400094, 0x10000, 0x0⟩
/-- DRC_RETIRE (R427). -/ def DRC_RETIRE : Rg := ⟨0x40400098, 0x10000, 0x0⟩
/-- DRC_MIG_STAT (R427). -/ def DRC_MIG_STAT : Rg := ⟨0x4040009C, 0x10000, 0x0⟩
/-- DRC_MIG_POS (R427). -/ def DRC_MIG_POS : Rg := ⟨0x404000A0, 0x10000, 0x0⟩
/-- DRC_POISON_CNT (R427). -/ def DRC_POISON_CNT : Rg := ⟨0x404000A4, 0x10000, 0x0⟩
/-- DRC_SCRUB (R427). -/ def DRC_SCRUB : Rg := ⟨0x404000A8, 0x10000, 0x0⟩
/-- DRC_EVMASK (R427). -/ def DRC_EVMASK : Rg := ⟨0x404000AC, 0x10000, 0x0⟩
/-- DRC_RD_BYTES_LO (R427). -/ def DRC_RD_BYTES_LO : Rg := ⟨0x404000B0, 0x10000, 0x0⟩
/-- DRC_RD_BYTES_HI (R427). -/ def DRC_RD_BYTES_HI : Rg := ⟨0x404000B4, 0x10000, 0x0⟩
/-- DRC_WR_BYTES_LO (R427). -/ def DRC_WR_BYTES_LO : Rg := ⟨0x404000B8, 0x10000, 0x0⟩
/-- DRC_WR_BYTES_HI (R427). -/ def DRC_WR_BYTES_HI : Rg := ⟨0x404000BC, 0x10000, 0x0⟩
/-- DRC_YARD_CE (R427). -/ def DRC_YARD_CE : Rg := ⟨0x404000C0, 0x10000, 0x0⟩
/-- DRC_YARD_UE (R427). -/ def DRC_YARD_UE : Rg := ⟨0x404000C4, 0x10000, 0x0⟩
/-- DRC_YARD_ADDR (R427). -/ def DRC_YARD_ADDR : Rg := ⟨0x404000C8, 0x10000, 0x0⟩
/-- DRC_PMC_CFG (R427). -/ def DRC_PMC_CFG : Rg := ⟨0x404000CC, 0x10000, 0x0⟩
/-- DRC_PMC_LO (R427). -/ def DRC_PMC_LO : Rg := ⟨0x404000D0, 0x10000, 0x0⟩
/-- DRC_PMC_HI (R427). -/ def DRC_PMC_HI : Rg := ⟨0x404000D4, 0x10000, 0x0⟩
/-- DRC_SR_CNT (R427). -/ def DRC_SR_CNT : Rg := ⟨0x404000D8, 0x10000, 0x0⟩
/-- DRC_SWEEP_RES (R427). -/ def DRC_SWEEP_RES : Rg := ⟨0x404000DC, 0x10000, 0x0⟩
/-- TRW_CTL (R464). -/ def TRW_CTL : Rg := ⟨0x400F0000, 0x0, 0x0⟩
/-- TRW_STAT (R464). -/ def TRW_STAT : Rg := ⟨0x400F0004, 0x0, 0x0⟩
/-- TRW_RING (R464). -/ def TRW_RING : Rg := ⟨0x400F0008, 0x0, 0x0⟩
/-- TRW_DONE (R464). -/ def TRW_DONE : Rg := ⟨0x400F000C, 0x0, 0x0⟩
/-- TRW_EVMASK (R464). -/ def TRW_EVMASK : Rg := ⟨0x400F0010, 0x0, 0x0⟩
/-- TRW_LAST_ERR (R464). -/ def TRW_LAST_ERR : Rg := ⟨0x400F0014, 0x0, 0x0⟩
/-- TRW_LAST_TAG (R464). -/ def TRW_LAST_TAG : Rg := ⟨0x400F0018, 0x0, 0x0⟩
/-- TRW_LISTS (R464). -/ def TRW_LISTS : Rg := ⟨0x400F001C, 0x0, 0x0⟩
/-- TRW_ERRS (R464). -/ def TRW_ERRS : Rg := ⟨0x400F0020, 0x0, 0x0⟩
/-- TRW_CMDS_LO (R464). -/ def TRW_CMDS_LO : Rg := ⟨0x400F0024, 0x0, 0x0⟩
/-- TRW_CMDS_HI (R464). -/ def TRW_CMDS_HI : Rg := ⟨0x400F0028, 0x0, 0x0⟩
/-- TRW_PIX_LO (R464). -/ def TRW_PIX_LO : Rg := ⟨0x400F002C, 0x0, 0x0⟩
/-- TRW_PIX_HI (R464). -/ def TRW_PIX_HI : Rg := ⟨0x400F0030, 0x0, 0x0⟩
/-- TRW_PMC_CFG (R464). -/ def TRW_PMC_CFG : Rg := ⟨0x400F0034, 0x0, 0x0⟩
/-- TRW_PMC_LO (R464). -/ def TRW_PMC_LO : Rg := ⟨0x400F0038, 0x0, 0x0⟩
/-- TRW_PMC_HI (R464). -/ def TRW_PMC_HI : Rg := ⟨0x400F003C, 0x0, 0x0⟩
/-- ZIP_CTL (R467). -/ def ZIP_CTL : Rg := ⟨0x400E0000, 0x1000, 0x0⟩
/-- ZIP_STAT (R467). -/ def ZIP_STAT : Rg := ⟨0x400E0004, 0x1000, 0x0⟩
/-- ZIP_RING (R467). -/ def ZIP_RING : Rg := ⟨0x400E0008, 0x1000, 0x0⟩
/-- ZIP_DONE (R467). -/ def ZIP_DONE : Rg := ⟨0x400E000C, 0x1000, 0x0⟩
/-- ZIP_EVMASK (R467). -/ def ZIP_EVMASK : Rg := ⟨0x400E0010, 0x1000, 0x0⟩
/-- ZIP_LAST_ERR (R467). -/ def ZIP_LAST_ERR : Rg := ⟨0x400E0014, 0x1000, 0x0⟩
/-- ZIP_IN_LO (R467). -/ def ZIP_IN_LO : Rg := ⟨0x400E0018, 0x1000, 0x0⟩
/-- ZIP_IN_HI (R467). -/ def ZIP_IN_HI : Rg := ⟨0x400E001C, 0x1000, 0x0⟩
/-- ZIP_OUT_LO (R467). -/ def ZIP_OUT_LO : Rg := ⟨0x400E0020, 0x1000, 0x0⟩
/-- ZIP_OUT_HI (R467). -/ def ZIP_OUT_HI : Rg := ⟨0x400E0024, 0x1000, 0x0⟩
/-- ZIP_JOBS (R467). -/ def ZIP_JOBS : Rg := ⟨0x400E0028, 0x1000, 0x0⟩
/-- ZIP_ERRS (R467). -/ def ZIP_ERRS : Rg := ⟨0x400E002C, 0x1000, 0x0⟩
/-- ZIP_SUSPEND (R467). -/ def ZIP_SUSPEND : Rg := ⟨0x400E0030, 0x1000, 0x0⟩
/-- ZIP_PMC_CFG (R467). -/ def ZIP_PMC_CFG : Rg := ⟨0x400E0034, 0x1000, 0x0⟩
/-- ZIP_PMC_LO (R467). -/ def ZIP_PMC_LO : Rg := ⟨0x400E0038, 0x1000, 0x0⟩
/-- ZIP_PMC_HI (R467). -/ def ZIP_PMC_HI : Rg := ⟨0x400E003C, 0x1000, 0x0⟩
/-- CAM_P_CTL (R485). -/ def CAM_P_CTL : Rg := ⟨0x40300000, 0x40, 0x0⟩
/-- CAM_P_STAT (R485). -/ def CAM_P_STAT : Rg := ⟨0x40300004, 0x40, 0x0⟩
/-- CAM_P_SIZE (R485). -/ def CAM_P_SIZE : Rg := ⟨0x40300008, 0x40, 0x0⟩
/-- CAM_P_RAW_LO (R485). -/ def CAM_P_RAW_LO : Rg := ⟨0x4030000C, 0x40, 0x0⟩
/-- CAM_P_RAW_HI (R485). -/ def CAM_P_RAW_HI : Rg := ⟨0x40300010, 0x40, 0x0⟩
/-- CAM_P_RAW_STRIDE (R485). -/ def CAM_P_RAW_STRIDE : Rg := ⟨0x40300014, 0x40, 0x0⟩
/-- CAM_P_DELAY (R485). -/ def CAM_P_DELAY : Rg := ⟨0x40300018, 0x40, 0x0⟩
/-- CAM_P_SETSEQ (R485). -/ def CAM_P_SETSEQ : Rg := ⟨0x4030001C, 0x40, 0x0⟩
/-- CAM_P_SETNOW (R485). -/ def CAM_P_SETNOW : Rg := ⟨0x40300020, 0x40, 0x0⟩
/-- CAM_P_FRAME (R485). -/ def CAM_P_FRAME : Rg := ⟨0x40300024, 0x40, 0x0⟩
/-- CAM_P_SOF_LO (R485). -/ def CAM_P_SOF_LO : Rg := ⟨0x40300028, 0x40, 0x0⟩
/-- CAM_P_SOF_HI (R485). -/ def CAM_P_SOF_HI : Rg := ⟨0x4030002C, 0x40, 0x0⟩
/-- CAM_P_ERR (R485). -/ def CAM_P_ERR : Rg := ⟨0x40300030, 0x40, 0x0⟩
/-- CAM_P_ERRCNT (R485). -/ def CAM_P_ERRCNT : Rg := ⟨0x40300034, 0x40, 0x0⟩
/-- CAM_P_DROP (R485). -/ def CAM_P_DROP : Rg := ⟨0x40300038, 0x40, 0x0⟩
/-- CAM_P_PHY (R485). -/ def CAM_P_PHY : Rg := ⟨0x4030003C, 0x40, 0x0⟩
/-- CAM_K_CTL (R485). -/ def CAM_K_CTL : Rg := ⟨0x40300100, 0x180, 0x0⟩
/-- CAM_K_STAT (R485). -/ def CAM_K_STAT : Rg := ⟨0x40300104, 0x180, 0x0⟩
/-- CAM_K_EVMASK (R485). -/ def CAM_K_EVMASK : Rg := ⟨0x40300108, 0x180, 0x0⟩
/-- CAM_K_LAST_ERR (R485). -/ def CAM_K_LAST_ERR : Rg := ⟨0x4030010C, 0x180, 0x0⟩
/-- CAM_K_CUR (R485). -/ def CAM_K_CUR : Rg := ⟨0x40300110, 0x180, 0x0⟩
/-- CAM_K_OUT_RING (R485). -/ def CAM_K_OUT_RING : Rg := ⟨0x40300114, 0x180, 0x0⟩
/-- CAM_K_OUT_LO (R485). -/ def CAM_K_OUT_LO : Rg := ⟨0x40300118, 0x180, 0x0⟩
/-- CAM_K_OUT_HI (R485). -/ def CAM_K_OUT_HI : Rg := ⟨0x4030011C, 0x180, 0x0⟩
/-- CAM_K_OUT_CFG (R485). -/ def CAM_K_OUT_CFG : Rg := ⟨0x40300120, 0x180, 0x0⟩
/-- CAM_K_OUT_STRIDE (R485). -/ def CAM_K_OUT_STRIDE : Rg := ⟨0x40300124, 0x180, 0x0⟩
/-- CAM_K_OUT_PITCH (R485). -/ def CAM_K_OUT_PITCH : Rg := ⟨0x40300128, 0x180, 0x4⟩
/-- CAM_K_OUT_COFF (R485). -/ def CAM_K_OUT_COFF : Rg := ⟨0x40300130, 0x180, 0x0⟩
/-- CAM_K_STATS_LO (R485). -/ def CAM_K_STATS_LO : Rg := ⟨0x40300134, 0x180, 0x0⟩
/-- CAM_K_STATS_HI (R485). -/ def CAM_K_STATS_HI : Rg := ⟨0x40300138, 0x180, 0x0⟩
/-- CAM_K_STATS_CFG (R485). -/ def CAM_K_STATS_CFG : Rg := ⟨0x4030013C, 0x180, 0x0⟩
/-- CAM_K_APPLY (R485). -/ def CAM_K_APPLY : Rg := ⟨0x40300140, 0x180, 0x0⟩
/-- CAM_K_APPLY_FRAME (R485). -/ def CAM_K_APPLY_FRAME : Rg := ⟨0x40300144, 0x180, 0x0⟩
/-- CAM_K_APPLY_SEQ (R485). -/ def CAM_K_APPLY_SEQ : Rg := ⟨0x40300148, 0x180, 0x0⟩
/-- CAM_K_FRAMES (R485). -/ def CAM_K_FRAMES : Rg := ⟨0x4030014C, 0x180, 0x0⟩
/-- CAM_K_DROPS (R485). -/ def CAM_K_DROPS : Rg := ⟨0x40300150, 0x180, 0x0⟩
/-- CAM_K_LATE (R485). -/ def CAM_K_LATE : Rg := ⟨0x40300154, 0x180, 0x0⟩
/-- CAM_K_PSEQ (R485). -/ def CAM_K_PSEQ : Rg := ⟨0x40300158, 0x180, 0x4⟩
/-- CAM_K_PFRAME (R485). -/ def CAM_K_PFRAME : Rg := ⟨0x40300168, 0x180, 0x4⟩
/-- CAM_K_QUEUE (R485). -/ def CAM_K_QUEUE : Rg := ⟨0x40300178, 0x180, 0x0⟩
/-- CAM_K_TNR (R485). -/ def CAM_K_TNR : Rg := ⟨0x4030017C, 0x180, 0x0⟩
/-- CAM_K_BLACK (R485). -/ def CAM_K_BLACK : Rg := ⟨0x40300180, 0x180, 0x4⟩
/-- CAM_K_WB (R485). -/ def CAM_K_WB : Rg := ⟨0x40300190, 0x180, 0x4⟩
/-- CAM_K_SAT (R485). -/ def CAM_K_SAT : Rg := ⟨0x4030019C, 0x180, 0x0⟩
/-- CAM_K_CCM (R485). -/ def CAM_K_CCM : Rg := ⟨0x403001A0, 0x180, 0x4⟩
/-- CAM_K_CCM_OFF (R485). -/ def CAM_K_CCM_OFF : Rg := ⟨0x403001C4, 0x180, 0x4⟩
/-- CAM_K_NR (R485). -/ def CAM_K_NR : Rg := ⟨0x403001D0, 0x180, 0x0⟩
/-- CAM_K_DPC (R485). -/ def CAM_K_DPC : Rg := ⟨0x403001D4, 0x180, 0x0⟩
/-- CAM_K_DEFECT_LO (R485). -/ def CAM_K_DEFECT_LO : Rg := ⟨0x403001D8, 0x180, 0x0⟩
/-- CAM_K_DEFECT_HI (R485). -/ def CAM_K_DEFECT_HI : Rg := ⟨0x403001DC, 0x180, 0x0⟩
/-- CAM_K_SHADE_LO (R485). -/ def CAM_K_SHADE_LO : Rg := ⟨0x403001E0, 0x180, 0x0⟩
/-- CAM_K_SHADE_HI (R485). -/ def CAM_K_SHADE_HI : Rg := ⟨0x403001E4, 0x180, 0x0⟩
/-- CAM_K_TONE_LO (R485). -/ def CAM_K_TONE_LO : Rg := ⟨0x403001E8, 0x180, 0x0⟩
/-- CAM_K_TONE_HI (R485). -/ def CAM_K_TONE_HI : Rg := ⟨0x403001EC, 0x180, 0x0⟩
/-- CAM_K_FID_THRESH (R485). -/ def CAM_K_FID_THRESH : Rg := ⟨0x403001F0, 0x180, 0x0⟩
/-- CAM_K_FID_AREA (R485). -/ def CAM_K_FID_AREA : Rg := ⟨0x403001F4, 0x180, 0x0⟩
/-- CAM_K_FID_ROI0 (R485). -/ def CAM_K_FID_ROI0 : Rg := ⟨0x403001F8, 0x180, 0x0⟩
/-- CAM_K_FID_ROI1 (R485). -/ def CAM_K_FID_ROI1 : Rg := ⟨0x403001FC, 0x180, 0x0⟩
/-- CAM_K_CFA (R485). -/ def CAM_K_CFA : Rg := ⟨0x40300200, 0x180, 0x0⟩
/-- CAM_K_FID_LOST (R485). -/ def CAM_K_FID_LOST : Rg := ⟨0x40300204, 0x180, 0x0⟩
/-- CAM_K_PMC_CFG (R485). -/ def CAM_K_PMC_CFG : Rg := ⟨0x40300208, 0x180, 0x4⟩
/-- CAM_K_PMC_LO (R485). -/ def CAM_K_PMC_LO : Rg := ⟨0x40300228, 0x180, 0x8⟩
/-- CAM_K_PMC_HI (R485). -/ def CAM_K_PMC_HI : Rg := ⟨0x4030022C, 0x180, 0x8⟩
/-- CAM_K_PIX_LO (R485). -/ def CAM_K_PIX_LO : Rg := ⟨0x40300268, 0x180, 0x0⟩
/-- CAM_K_PIX_HI (R485). -/ def CAM_K_PIX_HI : Rg := ⟨0x4030026C, 0x180, 0x0⟩
/-- CAM_K_DROPS_P (R485). -/ def CAM_K_DROPS_P : Rg := ⟨0x40300270, 0x180, 0x4⟩
/-- PLB_CTL (R506). -/ def PLB_CTL : Rg := ⟨0x40040000, 0x0, 0x0⟩
/-- PLB_STAT (R506). -/ def PLB_STAT : Rg := ⟨0x40040004, 0x0, 0x0⟩
/-- PLB_TMO (R506). -/ def PLB_TMO : Rg := ⟨0x40040008, 0x0, 0x0⟩
/-- PLB_RUN (R506). -/ def PLB_RUN : Rg := ⟨0x4004000C, 0x0, 0x0⟩
/-- PLB_PEND (R506). -/ def PLB_PEND : Rg := ⟨0x40040010, 0x0, 0x0⟩
/-- PLB_READY (R506). -/ def PLB_READY : Rg := ⟨0x40040014, 0x0, 0x0⟩
/-- PLB_BAD (R506). -/ def PLB_BAD : Rg := ⟨0x40040018, 0x0, 0x0⟩
/-- PLB_MASK (R506). -/ def PLB_MASK : Rg := ⟨0x4004001C, 0x0, 0x0⟩
/-- PLB_LOAD_LO (R506). -/ def PLB_LOAD_LO : Rg := ⟨0x40040020, 0x0, 0x0⟩
/-- PLB_LOAD_HI (R506). -/ def PLB_LOAD_HI : Rg := ⟨0x40040024, 0x0, 0x0⟩
/-- PLB_LOAD_STAT (R506). -/ def PLB_LOAD_STAT : Rg := ⟨0x40040028, 0x0, 0x0⟩
/-- PLB_SEQ (R506). -/ def PLB_SEQ : Rg := ⟨0x4004002C, 0x0, 0x0⟩
/-- PLB_SRAM (R506). -/ def PLB_SRAM : Rg := ⟨0x40040030, 0x0, 0x0⟩
/-- PLB_RUNS (R506). -/ def PLB_RUNS : Rg := ⟨0x40040034, 0x0, 0x0⟩
/-- PLB_BAD_CNT (R506). -/ def PLB_BAD_CNT : Rg := ⟨0x40040038, 0x0, 0x0⟩
/-- PLB_EVMASK (R506). -/ def PLB_EVMASK : Rg := ⟨0x4004003C, 0x0, 0x0⟩
/-- PLB_DOM_TEMP (R506). -/ def PLB_DOM_TEMP : Rg := ⟨0x40040040, 0x0, 0x4⟩
/-- PLB_FID_RING (R506). -/ def PLB_FID_RING : Rg := ⟨0x400400C0, 0x0, 0x0⟩
/-- PLB_FID_DONE (R506). -/ def PLB_FID_DONE : Rg := ⟨0x400400C4, 0x0, 0x0⟩
/-- PLB_FID_STAT (R506). -/ def PLB_FID_STAT : Rg := ⟨0x400400C8, 0x0, 0x0⟩
/-- PLB_FID_SHOW (R506). -/ def PLB_FID_SHOW : Rg := ⟨0x400400CC, 0x0, 0x0⟩
/-- PLB_FID_RAYS (R506). -/ def PLB_FID_RAYS : Rg := ⟨0x400400D0, 0x0, 0x0⟩
/-- PLB_PMC_CFG (R506). -/ def PLB_PMC_CFG : Rg := ⟨0x400400D4, 0x0, 0x0⟩
/-- PLB_PMC_LO (R506). -/ def PLB_PMC_LO : Rg := ⟨0x400400D8, 0x0, 0x0⟩
/-- PLB_PMC_HI (R506). -/ def PLB_PMC_HI : Rg := ⟨0x400400DC, 0x0, 0x0⟩
/-- GLB_ID (R529). -/ def GLB_ID : Rg := ⟨0x40000000, 0x0, 0x0⟩
/-- GLB_CHIP (R529). -/ def GLB_CHIP : Rg := ⟨0x40000004, 0x0, 0x0⟩
/-- GLB_RST_CAUSE (R529). -/ def GLB_RST_CAUSE : Rg := ⟨0x40000008, 0x0, 0x0⟩
/-- GLB_RST_CTL (R529). -/ def GLB_RST_CTL : Rg := ⟨0x4000000C, 0x0, 0x0⟩
/-- GLB_BOOT (R529). -/ def GLB_BOOT : Rg := ⟨0x40000010, 0x0, 0x0⟩
/-- GLB_SHOW (R529). -/ def GLB_SHOW : Rg := ⟨0x40000014, 0x0, 0x0⟩
/-- GLB_PWR (R529). -/ def GLB_PWR : Rg := ⟨0x40000018, 0x0, 0x0⟩
/-- GLB_AVS (R529). -/ def GLB_AVS : Rg := ⟨0x4000001C, 0x0, 0x0⟩
/-- GLB_CLK_STAT (R529). -/ def GLB_CLK_STAT : Rg := ⟨0x40000020, 0x0, 0x0⟩
/-- GLB_WR_GATE (R529). -/ def GLB_WR_GATE : Rg := ⟨0x40000024, 0x0, 0x0⟩
/-- GLB_MILE (R529). -/ def GLB_MILE : Rg := ⟨0x40000028, 0x0, 0x4⟩
/-- GLB_GPIO_CFG (R529). -/ def GLB_GPIO_CFG : Rg := ⟨0x40000040, 0x0, 0x4⟩
/-- GLB_GPIO_IN (R529). -/ def GLB_GPIO_IN : Rg := ⟨0x400000C0, 0x0, 0x0⟩
/-- GLB_GPIO_OUT (R529). -/ def GLB_GPIO_OUT : Rg := ⟨0x400000C4, 0x0, 0x0⟩
/-- GLB_GPIO_SET (R529). -/ def GLB_GPIO_SET : Rg := ⟨0x400000C8, 0x0, 0x0⟩
/-- GLB_GPIO_CLR (R529). -/ def GLB_GPIO_CLR : Rg := ⟨0x400000CC, 0x0, 0x0⟩
/-- GLB_GPIO_EDGE (R529). -/ def GLB_GPIO_EDGE : Rg := ⟨0x400000D0, 0x0, 0x0⟩
/-- GLB_PMC_CFG (R529). -/ def GLB_PMC_CFG : Rg := ⟨0x400000D4, 0x0, 0x0⟩
/-- GLB_PMC_LO (R529). -/ def GLB_PMC_LO : Rg := ⟨0x400000D8, 0x0, 0x0⟩
/-- GLB_PMC_HI (R529). -/ def GLB_PMC_HI : Rg := ⟨0x400000DC, 0x0, 0x0⟩
/-- GLB_I2C_CTL (R529). -/ def GLB_I2C_CTL : Rg := ⟨0x400000E0, 0x0, 0x20⟩
/-- GLB_I2C_STAT (R529). -/ def GLB_I2C_STAT : Rg := ⟨0x400000E4, 0x0, 0x20⟩
/-- GLB_I2C_ADDR (R529). -/ def GLB_I2C_ADDR : Rg := ⟨0x400000E8, 0x0, 0x20⟩
/-- GLB_I2C_CMD (R529). -/ def GLB_I2C_CMD : Rg := ⟨0x400000EC, 0x0, 0x20⟩
/-- GLB_I2C_WDATA (R529). -/ def GLB_I2C_WDATA : Rg := ⟨0x400000F0, 0x0, 0x20⟩
/-- GLB_I2C_RDATA (R529). -/ def GLB_I2C_RDATA : Rg := ⟨0x400000F4, 0x0, 0x20⟩
/-- GLB_I2C_ERRCNT (R529). -/ def GLB_I2C_ERRCNT : Rg := ⟨0x400000F8, 0x0, 0x20⟩
/-- GLB_I2C_TMO (R529). -/ def GLB_I2C_TMO : Rg := ⟨0x400000FC, 0x0, 0x20⟩
/-- GLB_STICKY (R529). -/ def GLB_STICKY : Rg := ⟨0x40000120, 0x0, 0x4⟩
/-- GLB_PFAIL_LO (R529). -/ def GLB_PFAIL_LO : Rg := ⟨0x40000130, 0x0, 0x0⟩
/-- GLB_PFAIL_HI (R529). -/ def GLB_PFAIL_HI : Rg := ⟨0x40000134, 0x0, 0x0⟩
/-- GLB_PFAIL_CNT (R529). -/ def GLB_PFAIL_CNT : Rg := ⟨0x40000138, 0x0, 0x0⟩
/-- GLB_UPTIME_S (R529). -/ def GLB_UPTIME_S : Rg := ⟨0x4000013C, 0x0, 0x0⟩
/-- KLN_CTL (R532). -/ def KLN_CTL : Rg := ⟨0x40030000, 0x0, 0x0⟩
/-- KLN_STAT (R532). -/ def KLN_STAT : Rg := ⟨0x40030004, 0x0, 0x0⟩
/-- KLN_TJ (R532). -/ def KLN_TJ : Rg := ⟨0x40030008, 0x0, 0x0⟩
/-- KLN_TH0 (R532). -/ def KLN_TH0 : Rg := ⟨0x4003000C, 0x0, 0x0⟩
/-- KLN_TH1 (R532). -/ def KLN_TH1 : Rg := ⟨0x40030010, 0x0, 0x0⟩
/-- KLN_HOLD (R532). -/ def KLN_HOLD : Rg := ⟨0x40030014, 0x0, 0x0⟩
/-- KLN_XCHK (R532). -/ def KLN_XCHK : Rg := ⟨0x40030018, 0x0, 0x0⟩
/-- KLN_SFAULT (R532). -/ def KLN_SFAULT : Rg := ⟨0x4003001C, 0x0, 0x0⟩
/-- KLN_EVMASK (R532). -/ def KLN_EVMASK : Rg := ⟨0x40030020, 0x0, 0x0⟩
/-- KLN_TRIP_CNT (R532). -/ def KLN_TRIP_CNT : Rg := ⟨0x40030024, 0x0, 0x0⟩
/-- KLN_TRIP_LO (R532). -/ def KLN_TRIP_LO : Rg := ⟨0x40030028, 0x0, 0x0⟩
/-- KLN_TRIP_HI (R532). -/ def KLN_TRIP_HI : Rg := ⟨0x4003002C, 0x0, 0x0⟩
/-- KLN_PWR (R532). -/ def KLN_PWR : Rg := ⟨0x40030030, 0x0, 0x0⟩
/-- KLN_FLASH (R532). -/ def KLN_FLASH : Rg := ⟨0x40030034, 0x0, 0x0⟩
/-- KLN_FLASH_CFG (R532). -/ def KLN_FLASH_CFG : Rg := ⟨0x40030038, 0x0, 0x0⟩
/-- KLN_PMON_SEL (R532). -/ def KLN_PMON_SEL : Rg := ⟨0x4003003C, 0x0, 0x0⟩
/-- KLN_PMON_VAL (R532). -/ def KLN_PMON_VAL : Rg := ⟨0x40030040, 0x0, 0x0⟩
/-- KLN_VMON_STAT (R532). -/ def KLN_VMON_STAT : Rg := ⟨0x40030044, 0x0, 0x0⟩
/-- KLN_STAGE_CNT (R532). -/ def KLN_STAGE_CNT : Rg := ⟨0x40030048, 0x0, 0x0⟩
/-- KLN_STAGE2_MS (R532). -/ def KLN_STAGE2_MS : Rg := ⟨0x4003004C, 0x0, 0x0⟩
/-- KLN_MODEL_ERR (R532). -/ def KLN_MODEL_ERR : Rg := ⟨0x40030050, 0x0, 0x0⟩
/-- KLN_PMC_CFG (R532). -/ def KLN_PMC_CFG : Rg := ⟨0x40030054, 0x0, 0x0⟩
/-- KLN_PMC_LO (R532). -/ def KLN_PMC_LO : Rg := ⟨0x40030058, 0x0, 0x0⟩
/-- KLN_PMC_HI (R532). -/ def KLN_PMC_HI : Rg := ⟨0x4003005C, 0x0, 0x0⟩
/-- KLN_VMON (R532). -/ def KLN_VMON : Rg := ⟨0x40030060, 0x0, 0x4⟩
/-- KLN_PT (R532). -/ def KLN_PT : Rg := ⟨0x40030080, 0x0, 0x4⟩
/-- KLN_SENSOR (R532). -/ def KLN_SENSOR : Rg := ⟨0x40030180, 0x0, 0x4⟩
/-- TRU_STAT (R554). -/ def TRU_STAT : Rg := ⟨0x40020000, 0x0, 0x0⟩
/-- TRU_ROOTS (R554). -/ def TRU_ROOTS : Rg := ⟨0x40020004, 0x0, 0x0⟩
/-- TRU_VFY_LO (R554). -/ def TRU_VFY_LO : Rg := ⟨0x40020008, 0x0, 0x0⟩
/-- TRU_VFY_HI (R554). -/ def TRU_VFY_HI : Rg := ⟨0x4002000C, 0x0, 0x0⟩
/-- TRU_VFY_RES (R554). -/ def TRU_VFY_RES : Rg := ⟨0x40020010, 0x0, 0x0⟩
/-- TRU_OTP_CMD (R554). -/ def TRU_OTP_CMD : Rg := ⟨0x40020014, 0x0, 0x0⟩
/-- TRU_OTP_ADDR_LO (R554). -/ def TRU_OTP_ADDR_LO : Rg := ⟨0x40020018, 0x0, 0x0⟩
/-- TRU_OTP_ADDR_HI (R554). -/ def TRU_OTP_ADDR_HI : Rg := ⟨0x4002001C, 0x0, 0x0⟩
/-- TRU_OTP_STAT (R554). -/ def TRU_OTP_STAT : Rg := ⟨0x40020020, 0x0, 0x0⟩
/-- TRU_RB_SEL (R554). -/ def TRU_RB_SEL : Rg := ⟨0x40020024, 0x0, 0x0⟩
/-- TRU_RB_VAL (R554). -/ def TRU_RB_VAL : Rg := ⟨0x40020028, 0x0, 0x0⟩
/-- TRU_MEAS_CNT (R554). -/ def TRU_MEAS_CNT : Rg := ⟨0x4002002C, 0x0, 0x0⟩
/-- TRU_ATT_LO (R554). -/ def TRU_ATT_LO : Rg := ⟨0x40020030, 0x0, 0x0⟩
/-- TRU_ATT_HI (R554). -/ def TRU_ATT_HI : Rg := ⟨0x40020034, 0x0, 0x0⟩
/-- TRU_ATT_STAT (R554). -/ def TRU_ATT_STAT : Rg := ⟨0x40020038, 0x0, 0x0⟩
/-- TRU_LMS_Q (R554). -/ def TRU_LMS_Q : Rg := ⟨0x4002003C, 0x0, 0x0⟩
/-- TRU_LMS_LIMIT (R554). -/ def TRU_LMS_LIMIT : Rg := ⟨0x40020040, 0x0, 0x0⟩
/-- TRU_LMS_RESV (R554). -/ def TRU_LMS_RESV : Rg := ⟨0x40020044, 0x0, 0x0⟩
/-- TRU_LMS_LO (R554). -/ def TRU_LMS_LO : Rg := ⟨0x40020048, 0x0, 0x0⟩
/-- TRU_LMS_HI (R554). -/ def TRU_LMS_HI : Rg := ⟨0x4002004C, 0x0, 0x0⟩
/-- TRU_LMS_STAT (R554). -/ def TRU_LMS_STAT : Rg := ⟨0x40020050, 0x0, 0x0⟩
/-- TRU_DBG_LO (R554). -/ def TRU_DBG_LO : Rg := ⟨0x40020054, 0x0, 0x0⟩
/-- TRU_DBG_HI (R554). -/ def TRU_DBG_HI : Rg := ⟨0x40020058, 0x0, 0x0⟩
/-- TRU_DBG_STAT (R554). -/ def TRU_DBG_STAT : Rg := ⟨0x4002005C, 0x0, 0x0⟩
/-- TRU_DBG_CHAL (R554). -/ def TRU_DBG_CHAL : Rg := ⟨0x40020060, 0x0, 0x4⟩
/-- TRU_ACC (R554). -/ def TRU_ACC : Rg := ⟨0x40020080, 0x0, 0x4⟩
/-- TRU_ALERT (R554). -/ def TRU_ALERT : Rg := ⟨0x400200B0, 0x0, 0x0⟩
/-- TRU_EVMASK (R554). -/ def TRU_EVMASK : Rg := ⟨0x400200B4, 0x0, 0x0⟩
/-- TRU_UID_LO (R554). -/ def TRU_UID_LO : Rg := ⟨0x400200B8, 0x0, 0x0⟩
/-- TRU_UID_HI (R554). -/ def TRU_UID_HI : Rg := ⟨0x400200BC, 0x0, 0x0⟩
/-- TRU_PMC_CFG (R554). -/ def TRU_PMC_CFG : Rg := ⟨0x400200C0, 0x0, 0x0⟩
/-- TRU_PMC_LO (R554). -/ def TRU_PMC_LO : Rg := ⟨0x400200C4, 0x0, 0x0⟩
/-- TRU_PMC_HI (R554). -/ def TRU_PMC_HI : Rg := ⟨0x400200C8, 0x0, 0x0⟩
/-- LDG_CTL (R556). -/ def LDG_CTL : Rg := ⟨0x40070000, 0x0, 0x0⟩
/-- LDG_STAT (R556). -/ def LDG_STAT : Rg := ⟨0x40070004, 0x0, 0x0⟩
/-- LDG_CMD (R556). -/ def LDG_CMD : Rg := ⟨0x40070008, 0x0, 0x0⟩
/-- LDG_FADDR (R556). -/ def LDG_FADDR : Rg := ⟨0x4007000C, 0x0, 0x0⟩
/-- LDG_MADDR_LO (R556). -/ def LDG_MADDR_LO : Rg := ⟨0x40070010, 0x0, 0x0⟩
/-- LDG_MADDR_HI (R556). -/ def LDG_MADDR_HI : Rg := ⟨0x40070014, 0x0, 0x0⟩
/-- LDG_LEN (R556). -/ def LDG_LEN : Rg := ⟨0x40070018, 0x0, 0x0⟩
/-- LDG_DONE (R556). -/ def LDG_DONE : Rg := ⟨0x4007001C, 0x0, 0x0⟩
/-- LDG_CRC (R556). -/ def LDG_CRC : Rg := ⟨0x40070020, 0x0, 0x0⟩
/-- LDG_DEVID (R556). -/ def LDG_DEVID : Rg := ⟨0x40070024, 0x0, 0x4⟩
/-- LDG_EVMASK (R556). -/ def LDG_EVMASK : Rg := ⟨0x4007002C, 0x0, 0x0⟩
/-- LDG_ERASES (R556). -/ def LDG_ERASES : Rg := ⟨0x40070030, 0x0, 0x0⟩
/-- LDG_PROGS (R556). -/ def LDG_PROGS : Rg := ⟨0x40070034, 0x0, 0x0⟩
/-- LDG_REFUSED (R556). -/ def LDG_REFUSED : Rg := ⟨0x40070038, 0x0, 0x0⟩
/-- LDG_LAST (R556). -/ def LDG_LAST : Rg := ⟨0x4007003C, 0x0, 0x0⟩
/-- LDG_PMC_CFG (R556). -/ def LDG_PMC_CFG : Rg := ⟨0x40070040, 0x0, 0x0⟩
/-- LDG_PMC_LO (R556). -/ def LDG_PMC_LO : Rg := ⟨0x40070044, 0x0, 0x0⟩
/-- LDG_PMC_HI (R556). -/ def LDG_PMC_HI : Rg := ⟨0x40070048, 0x0, 0x0⟩
/-- PERF_CTL (R572). -/ def PERF_CTL : Rg := ⟨0x40060000, 0x0, 0x0⟩
/-- PERF_STAT (R572). -/ def PERF_STAT : Rg := ⟨0x40060004, 0x0, 0x0⟩
/-- PERF_EPOCH (R572). -/ def PERF_EPOCH : Rg := ⟨0x40060008, 0x0, 0x0⟩
/-- PERF_SNAP_TIME_LO (R572). -/ def PERF_SNAP_TIME_LO : Rg := ⟨0x4006000C, 0x0, 0x0⟩
/-- PERF_SNAP_TIME_HI (R572). -/ def PERF_SNAP_TIME_HI : Rg := ⟨0x40060010, 0x0, 0x0⟩
/-- PERF_SNAP_STROKE_LO (R572). -/ def PERF_SNAP_STROKE_LO : Rg := ⟨0x40060014, 0x0, 0x0⟩
/-- PERF_SNAP_STROKE_HI (R572). -/ def PERF_SNAP_STROKE_HI : Rg := ⟨0x40060018, 0x0, 0x0⟩
/-- PERF_SNAP_CAUSE (R572). -/ def PERF_SNAP_CAUSE : Rg := ⟨0x4006001C, 0x0, 0x0⟩
/-- PERF_DUMP_LO (R572). -/ def PERF_DUMP_LO : Rg := ⟨0x40060020, 0x0, 0x0⟩
/-- PERF_DUMP_HI (R572). -/ def PERF_DUMP_HI : Rg := ⟨0x40060024, 0x0, 0x0⟩
/-- PERF_SNAP_MISS (R572). -/ def PERF_SNAP_MISS : Rg := ⟨0x40060028, 0x0, 0x0⟩
/-- PERF_SH_SEL (R572). -/ def PERF_SH_SEL : Rg := ⟨0x4006002C, 0x0, 0x0⟩
/-- PERF_SH_LO (R572). -/ def PERF_SH_LO : Rg := ⟨0x40060030, 0x0, 0x0⟩
/-- PERF_SH_HI (R572). -/ def PERF_SH_HI : Rg := ⟨0x40060034, 0x0, 0x0⟩
/-- PERF_SH_EPOCH (R572). -/ def PERF_SH_EPOCH : Rg := ⟨0x40060038, 0x0, 0x0⟩
/-- PERF_OVF (R572). -/ def PERF_OVF : Rg := ⟨0x4006003C, 0x0, 0x4⟩
/-- PERF_AR_BASE (R572). -/ def PERF_AR_BASE : Rg := ⟨0x4006005C, 0x0, 0x8⟩
/-- PERF_AR_LIM (R572). -/ def PERF_AR_LIM : Rg := ⟨0x40060060, 0x0, 0x8⟩
/-- PERF_EVMASK (R572). -/ def PERF_EVMASK : Rg := ⟨0x4006007C, 0x0, 0x0⟩
/-- PERF_TD_SEL (R572). -/ def PERF_TD_SEL : Rg := ⟨0x40060080, 0x0, 0x0⟩
/-- PERF_TD_LO (R572). -/ def PERF_TD_LO : Rg := ⟨0x40060084, 0x0, 0x0⟩
/-- PERF_TD_HI (R572). -/ def PERF_TD_HI : Rg := ⟨0x40060088, 0x0, 0x0⟩
end R

namespace F
def TIME_STK_REQ_RATE : Fld := ⟨0x40010180, 0x0, 0x0, 0, 5⟩
def TIME_STK_REQ_SOURCE : Fld := ⟨0x40010180, 0x0, 0x0, 5, 2⟩
def TIME_STK_REQ_RECOVERY_US : Fld := ⟨0x40010180, 0x0, 0x0, 8, 13⟩
def TIME_STK_REQ_MARGIN_US : Fld := ⟨0x40010180, 0x0, 0x0, 21, 10⟩
def TIME_STK_REQ_GO : Fld := ⟨0x40010180, 0x0, 0x0, 31, 1⟩
def TIME_STK_STAT_RATE : Fld := ⟨0x40010184, 0x0, 0x0, 0, 5⟩
def TIME_STK_STAT_SOURCE : Fld := ⟨0x40010184, 0x0, 0x0, 5, 2⟩
def TIME_STK_STAT_STATE : Fld := ⟨0x40010184, 0x0, 0x0, 7, 3⟩
def TIME_STK_STAT_RESULT : Fld := ⟨0x40010184, 0x0, 0x0, 10, 3⟩
def TIME_STK_WIN_RECOVERY_US : Fld := ⟨0x40010188, 0x0, 0x0, 0, 13⟩
def TIME_STK_WIN_MARGIN_US : Fld := ⟨0x40010188, 0x0, 0x0, 13, 10⟩
def TIME_STK_HOLD_HOLD_EN : Fld := ⟨0x4001018C, 0x0, 0x0, 0, 1⟩
def TIME_STK_HOLD_HOLD_DIV : Fld := ⟨0x4001018C, 0x0, 0x0, 1, 8⟩
def TIME_STK_HOLD_HOLDING : Fld := ⟨0x4001018C, 0x0, 0x0, 9, 1⟩
def TIME_STK_HS_STAT_HS_STATE : Fld := ⟨0x400101A4, 0x0, 0x0, 0, 2⟩
def TIME_STK_HS_STAT_MISSES : Fld := ⟨0x400101A4, 0x0, 0x0, 2, 4⟩
def TIME_STK_HS_STAT_MISMATCH : Fld := ⟨0x400101A4, 0x0, 0x0, 6, 1⟩
def TIME_STK_HS_STAT_PERIOD : Fld := ⟨0x400101A4, 0x0, 0x0, 7, 25⟩
def ING_CTL_ENABLE : Fld := ⟨0x400D0000, 0x0, 0x0, 0, 1⟩
def ING_CTL_SEQ_EN : Fld := ⟨0x400D0000, 0x0, 0x0, 1, 1⟩
def ING_UDP_PORT : Fld := ⟨0x400D0004, 0x0, 0x0, 0, 16⟩
def ING_STEER_BASE : Fld := ⟨0x400D0008, 0x0, 0x0, 16, 12⟩
def ING_STAT_DSC_ACTIVE : Fld := ⟨0x400D000C, 0x0, 0x0, 0, 6⟩
def ING_LAST_DROP_STREAM : Fld := ⟨0x400D0010, 0x0, 0x0, 0, 12⟩
def ING_LAST_DROP_REASON : Fld := ⟨0x400D0010, 0x0, 0x0, 12, 5⟩
def ING_LAST_DROP_SOURCE : Fld := ⟨0x400D0010, 0x0, 0x0, 17, 4⟩
def ING_DSC_CTL_C0_RESERVE : Fld := ⟨0x400D001C, 0x0, 0x0, 0, 6⟩
def ING_DSC_INFO_STREAM : Fld := ⟨0x400D00D8, 0x0, 0x0, 0, 12⟩
def ING_DSC_INFO_DETAIL : Fld := ⟨0x400D00D8, 0x0, 0x0, 16, 8⟩
def ING_PMC_CFG_EVENT : Fld := ⟨0x400D0120, 0x0, 0x4, 0, 8⟩
def ING_PMC_CFG_EN : Fld := ⟨0x400D0120, 0x0, 0x4, 8, 1⟩
def ING_PMC_CFG_CHAIN : Fld := ⟨0x400D0120, 0x0, 0x4, 9, 1⟩
def ING_PMC_CFG_XPRIV : Fld := ⟨0x400D0120, 0x0, 0x4, 10, 3⟩
def ING_PMC_CFG_XCLASS : Fld := ⟨0x400D0120, 0x0, 0x4, 13, 4⟩
def ING_PMC_CFG_MASTER_EN : Fld := ⟨0x400D0120, 0x0, 0x4, 17, 1⟩
def ING_PMC_CFG_MASTER : Fld := ⟨0x400D0120, 0x0, 0x4, 18, 5⟩
def ING_PMC_CFG_ADDR_EN : Fld := ⟨0x400D0120, 0x0, 0x4, 23, 1⟩
def ING_PMC_CFG_ADDR_SEL : Fld := ⟨0x400D0120, 0x0, 0x4, 24, 2⟩
def ING_PMC_CFG_OVF_EV : Fld := ⟨0x400D0120, 0x0, 0x4, 26, 1⟩
def NET_CTL_SPEED : Fld := ⟨0x40080000, 0x10000, 0x0, 0, 3⟩
def NET_CTL_ENABLE : Fld := ⟨0x40080000, 0x10000, 0x0, 3, 1⟩
def NET_STAT_LINK : Fld := ⟨0x40080004, 0x10000, 0x0, 0, 1⟩
def NET_STAT_SPEED_ACT : Fld := ⟨0x40080004, 0x10000, 0x0, 1, 3⟩
def NET_STAT_AN_DONE : Fld := ⟨0x40080004, 0x10000, 0x0, 4, 1⟩
def NET_MAC_HI_ADDR_HI : Fld := ⟨0x4008000C, 0x10000, 0x0, 0, 16⟩
def NET_VLAN_VID : Fld := ⟨0x40080024, 0x10000, 0x0, 0, 12⟩
def NET_VLAN_TAG_EN : Fld := ⟨0x40080024, 0x10000, 0x0, 12, 1⟩
def NET_MGMT_RING_RING : Fld := ⟨0x40080048, 0x10000, 0x0, 0, 13⟩
def NET_MGMT_RING_EN : Fld := ⟨0x40080048, 0x10000, 0x0, 13, 1⟩
def NET_MCAST_HI_ADDR_HI : Fld := ⟨0x40080054, 0x10000, 0x8, 0, 16⟩
def NET_MCAST_HI_VALID : Fld := ⟨0x40080054, 0x10000, 0x8, 16, 1⟩
def NET_PCS_STAT_BLOCK_LOCK : Fld := ⟨0x40080150, 0x10000, 0x0, 0, 1⟩
def NET_PCS_STAT_HI_BER : Fld := ⟨0x40080150, 0x10000, 0x0, 1, 1⟩
def NET_AN_CTL_ADV : Fld := ⟨0x40080154, 0x10000, 0x0, 0, 4⟩
def SHL_CTL_GROUP_ROWS : Fld := ⟨0x40200000, 0x10000, 0x0, 0, 6⟩
def SHL_CTL_CHECK_EN : Fld := ⟨0x40200000, 0x10000, 0x0, 7, 1⟩
def SHL_CTL_CHECK_LOG : Fld := ⟨0x40200000, 0x10000, 0x0, 8, 4⟩
def SHL_CTL_ENABLE : Fld := ⟨0x40200000, 0x10000, 0x0, 12, 1⟩
def SHL_CTL_AUTO_RETIRE : Fld := ⟨0x40200000, 0x10000, 0x0, 13, 1⟩
def SHL_STAT_ACTIVE : Fld := ⟨0x40200004, 0x10000, 0x0, 0, 4⟩
def SHL_STAT_SPARE : Fld := ⟨0x40200004, 0x10000, 0x0, 4, 4⟩
def SHL_STAT_QUICK : Fld := ⟨0x40200004, 0x10000, 0x0, 8, 1⟩
def SHL_STAT_DEGRADED : Fld := ⟨0x40200004, 0x10000, 0x0, 9, 1⟩
def SHL_STAT_BEACHED : Fld := ⟨0x40200004, 0x10000, 0x0, 10, 1⟩
def SHL_STAT_CMD_RESULT : Fld := ⟨0x40200004, 0x10000, 0x0, 11, 3⟩
def SHL_MAP_ROLE : Fld := ⟨0x40200008, 0x10000, 0x0, 0, 18⟩
def SHL_CMD_OAR : Fld := ⟨0x4020000C, 0x10000, 0x0, 0, 4⟩
def SHL_CMD_OP : Fld := ⟨0x4020000C, 0x10000, 0x0, 4, 2⟩
def SHL_EVMASK_CLAMP_EN : Fld := ⟨0x40200014, 0x10000, 0x0, 0, 1⟩
def SHL_EVMASK_SOFT_EN : Fld := ⟨0x40200014, 0x10000, 0x0, 1, 1⟩
def SHL_FAIL_OAR : Fld := ⟨0x40200018, 0x10000, 0x0, 0, 4⟩
def SHL_FAIL_CAUSE : Fld := ⟨0x40200018, 0x10000, 0x0, 4, 2⟩
def SHL_QUICK_AT_BEFORE_US : Fld := ⟨0x4020004C, 0x10000, 0x0, 0, 16⟩
def SHL_QUICK_AT_STROKE : Fld := ⟨0x4020004C, 0x10000, 0x0, 16, 16⟩
def SHL_PMC_CFG_EVENT : Fld := ⟨0x40200054, 0x10000, 0x0, 0, 8⟩
def SHL_PMC_CFG_EN : Fld := ⟨0x40200054, 0x10000, 0x0, 8, 1⟩
def SHL_PMC_CFG_CHAIN : Fld := ⟨0x40200054, 0x10000, 0x0, 9, 1⟩
def SHL_PMC_CFG_XPRIV : Fld := ⟨0x40200054, 0x10000, 0x0, 10, 3⟩
def SHL_PMC_CFG_XCLASS : Fld := ⟨0x40200054, 0x10000, 0x0, 13, 4⟩
def SHL_PMC_CFG_MASTER_EN : Fld := ⟨0x40200054, 0x10000, 0x0, 17, 1⟩
def SHL_PMC_CFG_MASTER : Fld := ⟨0x40200054, 0x10000, 0x0, 18, 5⟩
def SHL_PMC_CFG_ADDR_EN : Fld := ⟨0x40200054, 0x10000, 0x0, 23, 1⟩
def SHL_PMC_CFG_ADDR_SEL : Fld := ⟨0x40200054, 0x10000, 0x0, 24, 2⟩
def SHL_PMC_CFG_OVF_EV : Fld := ⟨0x40200054, 0x10000, 0x0, 26, 1⟩
def OAR_CTL_TEST : Fld := ⟨0x40201000, 0x10000, 0x1000, 0, 1⟩
def OAR_STAT_ROLE : Fld := ⟨0x40201004, 0x10000, 0x1000, 0, 2⟩
def OAR_STAT_BUSY : Fld := ⟨0x40201004, 0x10000, 0x1000, 2, 1⟩
def OAR_STAT_CLAMP : Fld := ⟨0x40201004, 0x10000, 0x1000, 3, 1⟩
def OAR_STAT_SOFT : Fld := ⟨0x40201004, 0x10000, 0x1000, 4, 1⟩
def OAR_STAT_TEST : Fld := ⟨0x40201004, 0x10000, 0x1000, 5, 2⟩
def OAR_FAIL_RAY_RAY : Fld := ⟨0x40201028, 0x10000, 0x1000, 0, 29⟩
def STR_CTL_ENABLE : Fld := ⟨0x40600000, 0x10000, 0x0, 0, 1⟩
def STR_CTL_RATE : Fld := ⟨0x40600000, 0x10000, 0x0, 1, 8⟩
def STR_CTL_WIDE : Fld := ⟨0x40600000, 0x10000, 0x0, 9, 1⟩
def STR_CTL_DITHER_EN : Fld := ⟨0x40600000, 0x10000, 0x0, 10, 1⟩
def STR_CTL_RANGE_EN : Fld := ⟨0x40600000, 0x10000, 0x0, 11, 1⟩
def STR_CTL_AUTO_POL : Fld := ⟨0x40600000, 0x10000, 0x0, 12, 1⟩
def STR_STAT_STATE : Fld := ⟨0x40600004, 0x10000, 0x0, 0, 3⟩
def STR_STAT_RX_INV : Fld := ⟨0x40600004, 0x10000, 0x0, 3, 1⟩
def STR_STAT_WIDE_ACT : Fld := ⟨0x40600004, 0x10000, 0x0, 4, 1⟩
def STR_STAT_RESULT : Fld := ⟨0x40600004, 0x10000, 0x0, 5, 3⟩
def STR_TXEQ_PRE : Fld := ⟨0x40600008, 0x10000, 0x0, 0, 4⟩
def STR_TXEQ_POST : Fld := ⟨0x40600008, 0x10000, 0x0, 4, 4⟩
def STR_TXEQ_MAIN : Fld := ⟨0x40600008, 0x10000, 0x0, 8, 6⟩
def STR_CATCH_MARGIN_US : Fld := ⟨0x4060000C, 0x10000, 0x0, 0, 10⟩
def STR_LEAD_LEAD_NS : Fld := ⟨0x40600010, 0x10000, 0x0, 0, 20⟩
def STR_CHAIN_DEVICES : Fld := ⟨0x40600014, 0x10000, 0x0, 0, 12⟩
def STR_CHAIN_LAST_ACK : Fld := ⟨0x40600014, 0x10000, 0x0, 12, 12⟩
def STR_FAULT_CODE : Fld := ⟨0x40600018, 0x10000, 0x0, 0, 4⟩
def STR_FAULT_PEER : Fld := ⟨0x40600018, 0x10000, 0x0, 4, 7⟩
def STR_FAULT_PIN : Fld := ⟨0x40600018, 0x10000, 0x0, 11, 2⟩
def STR_FAULT_BREAK_AT : Fld := ⟨0x40600018, 0x10000, 0x0, 13, 12⟩
def STR_MGMT_RING : Fld := ⟨0x4060001C, 0x10000, 0x0, 0, 13⟩
def STR_MGMT_EN : Fld := ⟨0x4060001C, 0x10000, 0x0, 13, 1⟩
def STR_REPLY_RING : Fld := ⟨0x40600020, 0x10000, 0x0, 0, 13⟩
def STR_REPLY_EN : Fld := ⟨0x40600020, 0x10000, 0x0, 13, 1⟩
def STR_ECHO_FIRST_POS : Fld := ⟨0x40600038, 0x10000, 0x0, 0, 12⟩
def STR_ECHO_FIRST_STROKE : Fld := ⟨0x40600038, 0x10000, 0x0, 12, 16⟩
def STR_RANGE_POS : Fld := ⟨0x40600040, 0x10000, 0x0, 0, 12⟩
def STR_RANGE_GO : Fld := ⟨0x40600040, 0x10000, 0x0, 12, 1⟩
def STR_RANGE_RESULT : Fld := ⟨0x40600040, 0x10000, 0x0, 13, 2⟩
def STR_EVMASK_ECHO_EN : Fld := ⟨0x40600060, 0x10000, 0x0, 0, 1⟩
def STR_EVMASK_LATE_EN : Fld := ⟨0x40600060, 0x10000, 0x0, 1, 1⟩
def STR_EVMASK_FAULT_EN : Fld := ⟨0x40600060, 0x10000, 0x0, 2, 1⟩
def STR_EVMASK_NOSWAP_EN : Fld := ⟨0x40600060, 0x10000, 0x0, 3, 1⟩
def STR_FIFO_LEVEL : Fld := ⟨0x40600064, 0x10000, 0x0, 0, 19⟩
def STR_FIFO_STALL : Fld := ⟨0x40600064, 0x10000, 0x0, 19, 1⟩
def STR_PINTEST_GO : Fld := ⟨0x40600068, 0x10000, 0x0, 0, 1⟩
def STR_PINTEST_DONE : Fld := ⟨0x40600068, 0x10000, 0x0, 1, 1⟩
def STR_PINTEST_FAIL : Fld := ⟨0x40600068, 0x10000, 0x0, 2, 1⟩
def STR_DIAG_MODE : Fld := ⟨0x4060006C, 0x10000, 0x0, 0, 2⟩
def STR_DIAG_PRBS_ERR : Fld := ⟨0x4060006C, 0x10000, 0x0, 16, 16⟩
def STR_PMC_CFG_EVENT : Fld := ⟨0x40600070, 0x10000, 0x0, 0, 8⟩
def STR_PMC_CFG_EN : Fld := ⟨0x40600070, 0x10000, 0x0, 8, 1⟩
def STR_PMC_CFG_CHAIN : Fld := ⟨0x40600070, 0x10000, 0x0, 9, 1⟩
def STR_PMC_CFG_XPRIV : Fld := ⟨0x40600070, 0x10000, 0x0, 10, 3⟩
def STR_PMC_CFG_XCLASS : Fld := ⟨0x40600070, 0x10000, 0x0, 13, 4⟩
def STR_PMC_CFG_MASTER_EN : Fld := ⟨0x40600070, 0x10000, 0x0, 17, 1⟩
def STR_PMC_CFG_MASTER : Fld := ⟨0x40600070, 0x10000, 0x0, 18, 5⟩
def STR_PMC_CFG_ADDR_EN : Fld := ⟨0x40600070, 0x10000, 0x0, 23, 1⟩
def STR_PMC_CFG_ADDR_SEL : Fld := ⟨0x40600070, 0x10000, 0x0, 24, 2⟩
def STR_PMC_CFG_OVF_EV : Fld := ⟨0x40600070, 0x10000, 0x0, 26, 1⟩
def STR_DCHAIN_DCHAIN_NS : Fld := ⟨0x4060007C, 0x10000, 0x0, 0, 20⟩
def TIME_CTL_DOMAIN : Fld := ⟨0x40010000, 0x0, 0x0, 0, 1⟩
def TIME_CTL_AUTO_SW : Fld := ⟨0x40010000, 0x0, 0x0, 1, 1⟩
def TIME_CTL_REF_EN : Fld := ⟨0x40010000, 0x0, 0x0, 2, 1⟩
def TIME_CTL_HS_POL : Fld := ⟨0x40010000, 0x0, 0x0, 3, 1⟩
def TIME_CTL_SET_ARM : Fld := ⟨0x40010000, 0x0, 0x0, 4, 1⟩
def TIME_CTL_PTP_EN : Fld := ⟨0x40010000, 0x0, 0x0, 5, 1⟩
def TIME_STAT_DOM_ACT : Fld := ⟨0x40010004, 0x0, 0x0, 0, 1⟩
def TIME_STAT_FAR : Fld := ⟨0x40010004, 0x0, 0x0, 1, 1⟩
def TIME_STAT_MODE : Fld := ⟨0x40010004, 0x0, 0x0, 2, 1⟩
def TIME_STAT_REF_LOST : Fld := ⟨0x40010004, 0x0, 0x0, 3, 1⟩
def TIME_STAT_SW_REFUSED : Fld := ⟨0x40010004, 0x0, 0x0, 4, 1⟩
def TIME_STAT_GM : Fld := ⟨0x40010004, 0x0, 0x0, 5, 1⟩
def TIME_SLEW_SLEW_PPB : Fld := ⟨0x4001001C, 0x0, 0x0, 0, 14⟩
def TIME_SLEW_RAMP : Fld := ⟨0x4001001C, 0x0, 0x0, 14, 10⟩
def TIME_REF_PRESENT : Fld := ⟨0x40010024, 0x0, 0x0, 0, 1⟩
def TIME_REF_LOCKED : Fld := ⟨0x40010024, 0x0, 0x0, 1, 1⟩
def TIME_REF_LOSS_CNT : Fld := ⟨0x40010024, 0x0, 0x0, 16, 16⟩
def TIME_PPS_WIDTH_US : Fld := ⟨0x40010028, 0x0, 0x0, 0, 20⟩
def TIME_PPS_EN : Fld := ⟨0x40010028, 0x0, 0x0, 20, 1⟩
def TIME_PPS_LOCKED_ONLY : Fld := ⟨0x40010028, 0x0, 0x0, 21, 1⟩
def TIME_GM_CTL_DESIGNATED : Fld := ⟨0x4001002C, 0x0, 0x0, 0, 1⟩
def TIME_GM_CTL_WAIT_S : Fld := ⟨0x4001002C, 0x0, 0x0, 1, 6⟩
def TIME_GM_CTL_PRIORITY1 : Fld := ⟨0x4001002C, 0x0, 0x0, 8, 8⟩
def TIME_GM_CTL_PRIORITY2 : Fld := ⟨0x4001002C, 0x0, 0x0, 16, 8⟩
def TIME_GM_STAT_CLASS : Fld := ⟨0x40010030, 0x0, 0x0, 0, 8⟩
def TIME_GM_STAT_AWAY_S : Fld := ⟨0x40010030, 0x0, 0x0, 8, 24⟩
def TIME_EVMASK_EN : Fld := ⟨0x40010034, 0x0, 0x0, 0, 7⟩
def TIME_CONFLICT_CODE : Fld := ⟨0x40010038, 0x0, 0x0, 0, 3⟩
def TIME_CONFLICT_RESOURCE : Fld := ⟨0x40010038, 0x0, 0x0, 3, 7⟩
def TIME_CONFLICT_LOSER_CLASS : Fld := ⟨0x40010038, 0x0, 0x0, 10, 2⟩
def TIME_CONFLICT_HOLDER_CLASS : Fld := ⟨0x40010038, 0x0, 0x0, 12, 2⟩
def TIME_CONFLICT_HOLDER_REQ : Fld := ⟨0x40010038, 0x0, 0x0, 14, 5⟩
def TIME_PTP_RING_RING : Fld := ⟨0x4001003C, 0x0, 0x0, 0, 13⟩
def TIME_PTP_RING_EN : Fld := ⟨0x4001003C, 0x0, 0x0, 13, 1⟩
def TIME_TT_CTL_EN : Fld := ⟨0x40010040, 0x0, 0xC, 0, 1⟩
def TIME_TT_CTL_ANCHOR : Fld := ⟨0x40010040, 0x0, 0xC, 1, 2⟩
def TIME_TT_CTL_CLASS : Fld := ⟨0x40010040, 0x0, 0xC, 3, 2⟩
def TIME_TT_CTL_ROUTE : Fld := ⟨0x40010040, 0x0, 0xC, 5, 2⟩
def TIME_TT_CTL_PIN : Fld := ⟨0x40010040, 0x0, 0xC, 7, 5⟩
def TIME_TT_CTL_POL : Fld := ⟨0x40010040, 0x0, 0xC, 12, 1⟩
def TIME_TT_CTL_EV_EN : Fld := ⟨0x40010040, 0x0, 0xC, 13, 1⟩
def TIME_TT_CTL_WIDTH : Fld := ⟨0x40010040, 0x0, 0xC, 20, 12⟩
def TIME_DOM_CTL_NUMBER : Fld := ⟨0x40010100, 0x0, 0x40, 0, 8⟩
def TIME_DOM_CTL_EN : Fld := ⟨0x40010100, 0x0, 0x40, 8, 1⟩
def TIME_DOM_CTL_TRANSPORT : Fld := ⟨0x40010100, 0x0, 0x40, 9, 2⟩
def TIME_DOM_CTL_PROFILE : Fld := ⟨0x40010100, 0x0, 0x40, 11, 1⟩
def TIME_DOM_CTL_DREQ_UNI : Fld := ⟨0x40010100, 0x0, 0x40, 12, 1⟩
def TIME_DOM_CTL_TWO_STEP : Fld := ⟨0x40010100, 0x0, 0x40, 13, 1⟩
def TIME_DOM_STAT_STATE : Fld := ⟨0x40010104, 0x0, 0x40, 0, 3⟩
def TIME_DOM_STAT_SRC : Fld := ⟨0x40010104, 0x0, 0x40, 3, 4⟩
def TIME_DOM_STAT_MSTEP : Fld := ⟨0x40010104, 0x0, 0x40, 7, 1⟩
def TIME_DOM_KP_KP : Fld := ⟨0x40010108, 0x0, 0x40, 0, 24⟩
def TIME_DOM_KI_KI : Fld := ⟨0x4001010C, 0x0, 0x40, 0, 24⟩
def TIME_DOM_FMAX_FMAX : Fld := ⟨0x40010110, 0x0, 0x40, 0, 20⟩
def TIME_DOM_LOCK_LOCK_NS : Fld := ⟨0x40010114, 0x0, 0x40, 0, 16⟩
def TIME_DOM_LOCK_UNLOCK_NS : Fld := ⟨0x40010114, 0x0, 0x40, 16, 16⟩
def TIME_DOM_STEP_STEP_US : Fld := ⟨0x40010118, 0x0, 0x40, 0, 16⟩
def TIME_DOM_STEP_OUTLIER_NS : Fld := ⟨0x40010118, 0x0, 0x40, 16, 16⟩
def TIME_DOM_DLY_DLY_LOG : Fld := ⟨0x40010128, 0x0, 0x40, 0, 4⟩
def TIME_DOM_DLY_ASYM : Fld := ⟨0x40010128, 0x0, 0x40, 16, 16⟩
def TIME_DOM_MPORT_PORT_NUMBER : Fld := ⟨0x40010134, 0x0, 0x40, 0, 16⟩
def TIME_DOM_MPORT_SRC : Fld := ⟨0x40010134, 0x0, 0x40, 16, 4⟩
def TIME_DOM_MPORT_VALID : Fld := ⟨0x40010134, 0x0, 0x40, 20, 1⟩
def TIME_LAT_EGRESS : Fld := ⟨0x400101A8, 0x0, 0x4, 0, 16⟩
def TIME_LAT_INGRESS : Fld := ⟨0x400101A8, 0x0, 0x4, 16, 16⟩
def TIME_PORT_ROLE_MROLE : Fld := ⟨0x400101D8, 0x0, 0x0, 0, 16⟩
def TIME_PORT_ROLE_NROLE : Fld := ⟨0x400101D8, 0x0, 0x0, 16, 8⟩
def TIME_HOLD_HOLD_LOG : Fld := ⟨0x400101DC, 0x0, 0x0, 0, 4⟩
def TIME_HOLD_LOSS_MS : Fld := ⟨0x400101DC, 0x0, 0x0, 4, 12⟩
def TIME_INTERVALS_SYNC_LOG : Fld := ⟨0x400101E0, 0x0, 0x0, 0, 4⟩
def TIME_INTERVALS_DREQ_LOG : Fld := ⟨0x400101E0, 0x0, 0x0, 4, 4⟩
def TIME_TT_STAT_FIRED : Fld := ⟨0x400101EC, 0x0, 0x0, 0, 16⟩
def TIME_TT_STAT_HELD : Fld := ⟨0x400101EC, 0x0, 0x0, 16, 16⟩
def TIME_TC_CFG_SRC0 : Fld := ⟨0x400101F4, 0x0, 0x4, 0, 6⟩
def TIME_TC_CFG_SRC1 : Fld := ⟨0x400101F4, 0x0, 0x4, 8, 6⟩
def TIME_TC_CFG_SRC2 : Fld := ⟨0x400101F4, 0x0, 0x4, 16, 6⟩
def TIME_TC_CFG_SRC3 : Fld := ⟨0x400101F4, 0x0, 0x4, 24, 6⟩
def TIME_TC_CFG_EDGE0 : Fld := ⟨0x400101F4, 0x0, 0x4, 6, 2⟩
def TIME_TC_CFG_EDGE1 : Fld := ⟨0x400101F4, 0x0, 0x4, 14, 2⟩
def TIME_TC_CFG_EDGE2 : Fld := ⟨0x400101F4, 0x0, 0x4, 22, 2⟩
def TIME_TC_CFG_EDGE3 : Fld := ⟨0x400101F4, 0x0, 0x4, 30, 2⟩
def TIME_TC_STAT_VALID : Fld := ⟨0x400101FC, 0x0, 0x0, 0, 8⟩
def TIME_TC_STAT_OVF : Fld := ⟨0x400101FC, 0x0, 0x0, 8, 8⟩
def MRT_CTL_ENABLE : Fld := ⟨0x40C00000, 0x10000, 0x0, 0, 1⟩
def MRT_CTL_MODE : Fld := ⟨0x40C00000, 0x10000, 0x0, 1, 1⟩
def MRT_CTL_PRECODE : Fld := ⟨0x40C00000, 0x10000, 0x0, 2, 1⟩
def MRT_CTL_PTP_EN : Fld := ⟨0x40C00000, 0x10000, 0x0, 3, 1⟩
def MRT_CTL_POINT_EN : Fld := ⟨0x40C00000, 0x10000, 0x0, 4, 1⟩
def MRT_STAT_STATE : Fld := ⟨0x40C00004, 0x10000, 0x0, 0, 3⟩
def MRT_STAT_PRE_MISMATCH : Fld := ⟨0x40C00004, 0x10000, 0x0, 3, 1⟩
def MRT_STAT_DUP_INDEX : Fld := ⟨0x40C00004, 0x10000, 0x0, 4, 1⟩
def MRT_STAT_HI_BER : Fld := ⟨0x40C00004, 0x10000, 0x0, 5, 1⟩
def MRT_TXEQ_PRE : Fld := ⟨0x40C00008, 0x10000, 0x0, 0, 4⟩
def MRT_TXEQ_POST : Fld := ⟨0x40C00008, 0x10000, 0x0, 4, 4⟩
def MRT_TXEQ_MAIN : Fld := ⟨0x40C00008, 0x10000, 0x0, 8, 6⟩
def MRT_PEER_CHIP : Fld := ⟨0x40C0000C, 0x10000, 0x0, 0, 12⟩
def MRT_PEER_LINK : Fld := ⟨0x40C0000C, 0x10000, 0x0, 12, 3⟩
def MRT_PEER_VALID : Fld := ⟨0x40C0000C, 0x10000, 0x0, 15, 1⟩
def MRT_PEER_PRECODE : Fld := ⟨0x40C0000C, 0x10000, 0x0, 16, 1⟩
def MRT_HEALTH_HEALTH : Fld := ⟨0x40C00010, 0x10000, 0x0, 0, 7⟩
def MRT_FAULT_CODE : Fld := ⟨0x40C00014, 0x10000, 0x0, 0, 4⟩
def MRT_EVMASK_UP_EN : Fld := ⟨0x40C00018, 0x10000, 0x0, 0, 1⟩
def MRT_EVMASK_LOST_EN : Fld := ⟨0x40C00018, 0x10000, 0x0, 1, 1⟩
def MRT_EVMASK_FAULT_EN : Fld := ⟨0x40C00018, 0x10000, 0x0, 2, 1⟩
def MRT_EVMASK_DROP_EN : Fld := ⟨0x40C00018, 0x10000, 0x0, 3, 1⟩
def MRT_POINT_RING_RING : Fld := ⟨0x40C0001C, 0x10000, 0x0, 0, 13⟩
def MRT_POINT_RING_EN : Fld := ⟨0x40C0001C, 0x10000, 0x0, 13, 1⟩
def MRT_MSG_TX_RING : Fld := ⟨0x40C00020, 0x10000, 0x0, 0, 13⟩
def MRT_MSG_TX_EN : Fld := ⟨0x40C00020, 0x10000, 0x0, 13, 1⟩
def MRT_MSG_RX_RING : Fld := ⟨0x40C00024, 0x10000, 0x0, 0, 13⟩
def MRT_MSG_RX_EN : Fld := ⟨0x40C00024, 0x10000, 0x0, 13, 1⟩
def MRT_HELLO_PERIOD_US : Fld := ⟨0x40C00028, 0x10000, 0x0, 0, 10⟩
def MRT_HELLO_MISS : Fld := ⟨0x40C00028, 0x10000, 0x0, 10, 4⟩
def MRT_TXQ_LEVEL : Fld := ⟨0x40C0002C, 0x10000, 0x0, 0, 18⟩
def MRT_DIAG_MODE : Fld := ⟨0x40C0006C, 0x10000, 0x0, 0, 2⟩
def MRT_DIAG_PRBS_ERR : Fld := ⟨0x40C0006C, 0x10000, 0x0, 16, 16⟩
def MRT_RX_SNR_SNR : Fld := ⟨0x40C00070, 0x10000, 0x0, 0, 8⟩
def MRT_TRAIN_TIME_US : Fld := ⟨0x40C00074, 0x10000, 0x0, 0, 16⟩
def MRT_TRAIN_TRIES : Fld := ⟨0x40C00074, 0x10000, 0x0, 16, 4⟩
def MRT_PMC_CFG_EVENT : Fld := ⟨0x40C00078, 0x10000, 0x4, 0, 8⟩
def MRT_PMC_CFG_EN : Fld := ⟨0x40C00078, 0x10000, 0x4, 8, 1⟩
def MRT_PMC_CFG_CHAIN : Fld := ⟨0x40C00078, 0x10000, 0x4, 9, 1⟩
def MRT_PMC_CFG_XPRIV : Fld := ⟨0x40C00078, 0x10000, 0x4, 10, 3⟩
def MRT_PMC_CFG_XCLASS : Fld := ⟨0x40C00078, 0x10000, 0x4, 13, 4⟩
def MRT_PMC_CFG_MASTER_EN : Fld := ⟨0x40C00078, 0x10000, 0x4, 17, 1⟩
def MRT_PMC_CFG_MASTER : Fld := ⟨0x40C00078, 0x10000, 0x4, 18, 5⟩
def MRT_PMC_CFG_ADDR_EN : Fld := ⟨0x40C00078, 0x10000, 0x4, 23, 1⟩
def MRT_PMC_CFG_ADDR_SEL : Fld := ⟨0x40C00078, 0x10000, 0x4, 24, 2⟩
def MRT_PMC_CFG_OVF_EV : Fld := ⟨0x40C00078, 0x10000, 0x4, 26, 1⟩
def COX_CTL_RUN : Fld := ⟨0x40100000, 0x10000, 0x0, 0, 1⟩
def COX_CTL_RESET : Fld := ⟨0x40100000, 0x10000, 0x0, 1, 1⟩
def COX_CTL_BUDGET_HALT : Fld := ⟨0x40100000, 0x10000, 0x0, 2, 1⟩
def COX_STAT_STATE : Fld := ⟨0x40100004, 0x10000, 0x0, 0, 3⟩
def COX_STAT_PRIV : Fld := ⟨0x40100004, 0x10000, 0x0, 3, 2⟩
def COX_STAT_SWAP : Fld := ⟨0x40100004, 0x10000, 0x0, 5, 3⟩
def COX_STAT_SWAP_WHY : Fld := ⟨0x40100004, 0x10000, 0x0, 8, 4⟩
def COX_STAT_BUDGET_HIT : Fld := ⟨0x40100004, 0x10000, 0x0, 12, 1⟩
def COX_STAT_DOUBLE : Fld := ⟨0x40100004, 0x10000, 0x0, 13, 1⟩
def COX_BLOCKS_ALLOW : Fld := ⟨0x40100010, 0x10000, 0x0, 0, 20⟩
def COX_BLOCKS_READ_ALL : Fld := ⟨0x40100010, 0x10000, 0x0, 31, 1⟩
def COX_SWAP_LO_ADDR : Fld := ⟨0x40100018, 0x10000, 0x0, 0, 32⟩
def COX_SWAP_HI_ADDR_HI : Fld := ⟨0x4010001C, 0x10000, 0x0, 0, 16⟩
def COX_SWAP_HI_GO : Fld := ⟨0x4010001C, 0x10000, 0x0, 16, 1⟩
def COX_SWAP_HI_TRIES : Fld := ⟨0x4010001C, 0x10000, 0x0, 24, 8⟩
def COX_WIN_BASE_BASE : Fld := ⟨0x40100020, 0x10000, 0x8, 0, 32⟩
def COX_WIN_CFG_SIZE : Fld := ⟨0x40100024, 0x10000, 0x8, 0, 6⟩
def COX_WIN_CFG_R : Fld := ⟨0x40100024, 0x10000, 0x8, 6, 1⟩
def COX_WIN_CFG_W : Fld := ⟨0x40100024, 0x10000, 0x8, 7, 1⟩
def COX_WIN_CFG_X : Fld := ⟨0x40100024, 0x10000, 0x8, 8, 1⟩
def COX_WIN_CFG_U : Fld := ⟨0x40100024, 0x10000, 0x8, 9, 1⟩
def COX_WIN_CFG_C : Fld := ⟨0x40100024, 0x10000, 0x8, 10, 1⟩
def COX_WIN_CFG_EN : Fld := ⟨0x40100024, 0x10000, 0x8, 11, 1⟩
def COX_EXC_CAUSE : Fld := ⟨0x40100060, 0x10000, 0x0, 0, 3⟩
def COX_EXC_PRIV : Fld := ⟨0x40100060, 0x10000, 0x0, 3, 2⟩
def COX_EXC_COUNT : Fld := ⟨0x40100060, 0x10000, 0x0, 16, 16⟩
def COX_PMC_CFG_EVENT : Fld := ⟨0x40100074, 0x10000, 0x0, 0, 8⟩
def COX_PMC_CFG_EN : Fld := ⟨0x40100074, 0x10000, 0x0, 8, 1⟩
def COX_PMC_CFG_CHAIN : Fld := ⟨0x40100074, 0x10000, 0x0, 9, 1⟩
def COX_PMC_CFG_XPRIV : Fld := ⟨0x40100074, 0x10000, 0x0, 10, 3⟩
def COX_PMC_CFG_XCLASS : Fld := ⟨0x40100074, 0x10000, 0x0, 13, 4⟩
def COX_PMC_CFG_MASTER_EN : Fld := ⟨0x40100074, 0x10000, 0x0, 17, 1⟩
def COX_PMC_CFG_MASTER : Fld := ⟨0x40100074, 0x10000, 0x0, 18, 5⟩
def COX_PMC_CFG_ADDR_EN : Fld := ⟨0x40100074, 0x10000, 0x0, 23, 1⟩
def COX_PMC_CFG_ADDR_SEL : Fld := ⟨0x40100074, 0x10000, 0x0, 24, 2⟩
def COX_PMC_CFG_OVF_EV : Fld := ⟨0x40100074, 0x10000, 0x0, 26, 1⟩
def MBX_NOTICE_LO_PTR_LO : Fld := ⟨0x40050000, 0x100, 0x0, 0, 32⟩
def MBX_NOTICE_HI_PTR_HI : Fld := ⟨0x40050004, 0x100, 0x0, 0, 16⟩
def MBX_NOTICE_HI_TAG : Fld := ⟨0x40050004, 0x100, 0x0, 16, 16⟩
def MBX_CFG_SENDER : Fld := ⟨0x40050008, 0x100, 0x0, 0, 5⟩
def MBX_CFG_RECEIVER : Fld := ⟨0x40050008, 0x100, 0x0, 5, 5⟩
def MBX_CFG_RX_VEC : Fld := ⟨0x40050008, 0x100, 0x0, 10, 6⟩
def MBX_CFG_TX_VEC : Fld := ⟨0x40050008, 0x100, 0x0, 16, 6⟩
def MBX_CFG_EN : Fld := ⟨0x40050008, 0x100, 0x0, 22, 1⟩
def MBX_TMO_TIMEOUT_US : Fld := ⟨0x4005000C, 0x100, 0x0, 0, 20⟩
def MBX_STAT_FULL : Fld := ⟨0x40050010, 0x100, 0x0, 0, 1⟩
def MBX_STAT_TIMEOUT : Fld := ⟨0x40050010, 0x100, 0x0, 1, 1⟩
def MBX_STAT_REFUSED : Fld := ⟨0x40050010, 0x100, 0x0, 2, 1⟩
def MBX_STAT_WRONG : Fld := ⟨0x40050010, 0x100, 0x0, 3, 1⟩
def MBX_STAT_WITHDRAWN : Fld := ⟨0x40050010, 0x100, 0x0, 4, 1⟩
def MBX_STAT_POSTS : Fld := ⟨0x40050010, 0x100, 0x0, 16, 16⟩
def MBX_DOORBELL_BITS : Fld := ⟨0x40050014, 0x100, 0x0, 0, 32⟩
def MBX_MASK_EN : Fld := ⟨0x40050018, 0x100, 0x0, 0, 32⟩
def MBX_CTL_DBIT : Fld := ⟨0x4005001C, 0x100, 0x0, 0, 5⟩
def MBX_CTL_WITHDRAW : Fld := ⟨0x4005001C, 0x100, 0x0, 5, 1⟩
def HOST_CTL_DB_EN : Fld := ⟨0x400C0000, 0x0, 0x0, 0, 1⟩
def HOST_CTL_CPL_TO : Fld := ⟨0x400C0000, 0x0, 0x0, 1, 2⟩
def HOST_STAT_LINK_UP : Fld := ⟨0x400C0004, 0x0, 0x0, 0, 1⟩
def HOST_STAT_SPEED : Fld := ⟨0x400C0004, 0x0, 0x0, 1, 3⟩
def HOST_STAT_WIDTH : Fld := ⟨0x400C0004, 0x0, 0x0, 4, 3⟩
def HOST_STAT_BME : Fld := ⟨0x400C0004, 0x0, 0x0, 7, 1⟩
def HOST_STAT_D3HOT : Fld := ⟨0x400C0004, 0x0, 0x0, 8, 1⟩
def HOST_STAT_FLR_SEEN : Fld := ⟨0x400C0004, 0x0, 0x0, 9, 1⟩
def HOST_ID_VENDOR : Fld := ⟨0x400C0008, 0x0, 0x0, 0, 16⟩
def HOST_ID_DEVICE : Fld := ⟨0x400C0008, 0x0, 0x0, 16, 16⟩
def HOST_DB_RING : Fld := ⟨0x400C000C, 0x0, 0x0, 0, 13⟩
def HOST_DB_SIDE : Fld := ⟨0x400C000C, 0x0, 0x0, 13, 1⟩
def HOST_DB_COUNT : Fld := ⟨0x400C000C, 0x0, 0x0, 16, 16⟩
def HOST_DWIN_BASE_GIB : Fld := ⟨0x400C0014, 0x0, 0x0, 0, 8⟩
def HOST_DWIN_SIZE_LOG : Fld := ⟨0x400C0014, 0x0, 0x0, 8, 3⟩
def HOST_ERR_CPL_TIMEOUT : Fld := ⟨0x400C001C, 0x0, 0x0, 0, 1⟩
def HOST_ERR_UR : Fld := ⟨0x400C001C, 0x0, 0x0, 1, 1⟩
def HOST_ERR_POISONED : Fld := ⟨0x400C001C, 0x0, 0x0, 2, 1⟩
def HOST_ERR_SEG_OFF : Fld := ⟨0x400C001C, 0x0, 0x0, 3, 1⟩
def HOST_ERR_LINK_DOWN : Fld := ⟨0x400C001C, 0x0, 0x0, 4, 1⟩
def HOST_HWIN_LO_EN : Fld := ⟨0x400C0040, 0x0, 0x8, 0, 1⟩
def HOST_HWIN_LO_ADDR_LO : Fld := ⟨0x400C0040, 0x0, 0x8, 28, 4⟩
def HOST_HWIN_HI_ADDR_HI : Fld := ⟨0x400C0044, 0x0, 0x8, 0, 32⟩
def HOST_EVMAP_EVENT : Fld := ⟨0x400C0080, 0x0, 0x4, 0, 10⟩
def HOST_EVMAP_VEC : Fld := ⟨0x400C0080, 0x0, 0x4, 10, 6⟩
def HOST_EVMAP_EN : Fld := ⟨0x400C0080, 0x0, 0x4, 16, 1⟩
def HOST_PMC_CFG_EVENT : Fld := ⟨0x400C00C0, 0x0, 0x0, 0, 8⟩
def HOST_PMC_CFG_EN : Fld := ⟨0x400C00C0, 0x0, 0x0, 8, 1⟩
def HOST_PMC_CFG_CHAIN : Fld := ⟨0x400C00C0, 0x0, 0x0, 9, 1⟩
def HOST_PMC_CFG_XPRIV : Fld := ⟨0x400C00C0, 0x0, 0x0, 10, 3⟩
def HOST_PMC_CFG_XCLASS : Fld := ⟨0x400C00C0, 0x0, 0x0, 13, 4⟩
def HOST_PMC_CFG_MASTER_EN : Fld := ⟨0x400C00C0, 0x0, 0x0, 17, 1⟩
def HOST_PMC_CFG_MASTER : Fld := ⟨0x400C00C0, 0x0, 0x0, 18, 5⟩
def HOST_PMC_CFG_ADDR_EN : Fld := ⟨0x400C00C0, 0x0, 0x0, 23, 1⟩
def HOST_PMC_CFG_ADDR_SEL : Fld := ⟨0x400C00C0, 0x0, 0x0, 24, 2⟩
def HOST_PMC_CFG_OVF_EV : Fld := ⟨0x400C00C0, 0x0, 0x0, 26, 1⟩
def RNG_SET_BASE_HI_BASE_HI : Fld := ⟨0x40310004, 0x0, 0x0, 0, 16⟩
def RNG_SET_GEOM_LOG_CAP : Fld := ⟨0x40310008, 0x0, 0x0, 0, 5⟩
def RNG_SET_GEOM_ESIZE : Fld := ⟨0x40310008, 0x0, 0x0, 5, 4⟩
def RNG_SET_GEOM_CLASS : Fld := ⟨0x40310008, 0x0, 0x0, 9, 2⟩
def RNG_SET_BIND_PROD : Fld := ⟨0x4031000C, 0x0, 0x0, 0, 5⟩
def RNG_SET_BIND_CONS : Fld := ⟨0x4031000C, 0x0, 0x0, 5, 5⟩
def RNG_SET_BIND_EV : Fld := ⟨0x4031000C, 0x0, 0x0, 10, 6⟩
def RNG_SET_BIND_EV_PROD : Fld := ⟨0x4031000C, 0x0, 0x0, 16, 1⟩
def RNG_SET_BIND_VEC : Fld := ⟨0x4031000C, 0x0, 0x0, 17, 6⟩
def RNG_SET_BIND_VEC_EN : Fld := ⟨0x4031000C, 0x0, 0x0, 23, 1⟩
def RNG_CMD_RING : Fld := ⟨0x40310010, 0x0, 0x0, 0, 13⟩
def RNG_CMD_OP : Fld := ⟨0x40310010, 0x0, 0x0, 13, 3⟩
def RNG_RESULT_RESULT : Fld := ⟨0x40310014, 0x0, 0x0, 0, 3⟩
def RNG_RESULT_RING : Fld := ⟨0x40310014, 0x0, 0x0, 3, 13⟩
def RNG_EV_RAISE_SOFT : Fld := ⟨0x40310018, 0x0, 0x0, 0, 6⟩
def RNG_LAST_DROP_RING : Fld := ⟨0x40310020, 0x0, 0x0, 0, 13⟩
def RNG_LAST_DROP_REASON : Fld := ⟨0x40310020, 0x0, 0x0, 13, 3⟩
def RNG_CEN_ATTN_STRAND : Fld := ⟨0x40310024, 0x0, 0x4, 0, 32⟩
def RNG_PMC_CFG_EVENT : Fld := ⟨0x40310030, 0x0, 0x0, 0, 8⟩
def RNG_PMC_CFG_EN : Fld := ⟨0x40310030, 0x0, 0x0, 8, 1⟩
def RNG_PMC_CFG_CHAIN : Fld := ⟨0x40310030, 0x0, 0x0, 9, 1⟩
def RNG_PMC_CFG_XPRIV : Fld := ⟨0x40310030, 0x0, 0x0, 10, 3⟩
def RNG_PMC_CFG_XCLASS : Fld := ⟨0x40310030, 0x0, 0x0, 13, 4⟩
def RNG_PMC_CFG_MASTER_EN : Fld := ⟨0x40310030, 0x0, 0x0, 17, 1⟩
def RNG_PMC_CFG_MASTER : Fld := ⟨0x40310030, 0x0, 0x0, 18, 5⟩
def RNG_PMC_CFG_ADDR_EN : Fld := ⟨0x40310030, 0x0, 0x0, 23, 1⟩
def RNG_PMC_CFG_ADDR_SEL : Fld := ⟨0x40310030, 0x0, 0x0, 24, 2⟩
def RNG_PMC_CFG_OVF_EV : Fld := ⟨0x40310030, 0x0, 0x0, 26, 1⟩
def DRC_CTL_ENABLE : Fld := ⟨0x40400000, 0x10000, 0x0, 0, 1⟩
def DRC_CTL_FREQ : Fld := ⟨0x40400000, 0x10000, 0x0, 1, 2⟩
def DRC_CTL_DFC : Fld := ⟨0x40400000, 0x10000, 0x0, 3, 1⟩
def DRC_CTL_SPARE_EN : Fld := ⟨0x40400000, 0x10000, 0x0, 4, 1⟩
def DRC_CTL_AUTO_RETIRE : Fld := ⟨0x40400000, 0x10000, 0x0, 5, 1⟩
def DRC_STAT_STATE : Fld := ⟨0x40400004, 0x10000, 0x0, 0, 3⟩
def DRC_STAT_FREQ_ACT : Fld := ⟨0x40400004, 0x10000, 0x0, 3, 2⟩
def DRC_STAT_DFC_PENDING : Fld := ⟨0x40400004, 0x10000, 0x0, 5, 1⟩
def DRC_STAT_RETIRED0 : Fld := ⟨0x40400004, 0x10000, 0x0, 6, 1⟩
def DRC_STAT_RETIRED1 : Fld := ⟨0x40400004, 0x10000, 0x0, 7, 1⟩
def DRC_STAT_SPARE_ACT : Fld := ⟨0x40400004, 0x10000, 0x0, 8, 1⟩
def DRC_STAT_PANIC : Fld := ⟨0x40400004, 0x10000, 0x0, 9, 1⟩
def DRC_STAT_DFC_RESULT : Fld := ⟨0x40400004, 0x10000, 0x0, 10, 2⟩
def DRC_CFG_WIDTH : Fld := ⟨0x40400008, 0x10000, 0x0, 0, 2⟩
def DRC_CFG_DENSITY : Fld := ⟨0x40400008, 0x10000, 0x0, 2, 2⟩
def DRC_CFG_RANKS : Fld := ⟨0x40400008, 0x10000, 0x0, 4, 1⟩
def DRC_CFG_RDIMM : Fld := ⟨0x40400008, 0x10000, 0x0, 5, 1⟩
def DRC_CFG_RATE : Fld := ⟨0x40400008, 0x10000, 0x0, 6, 12⟩
def DRC_CAP_GIB : Fld := ⟨0x4040000C, 0x10000, 0x0, 0, 6⟩
def DRC_TRAIN_CTL_SESSION : Fld := ⟨0x40400010, 0x10000, 0x0, 0, 1⟩
def DRC_TRAIN_CTL_GO : Fld := ⟨0x40400010, 0x10000, 0x0, 1, 1⟩
def DRC_TRAIN_CTL_FIDX : Fld := ⟨0x40400010, 0x10000, 0x0, 2, 2⟩
def DRC_TRAIN_CTL_RANK : Fld := ⟨0x40400010, 0x10000, 0x0, 4, 1⟩
def DRC_TRAIN_CTL_PAT : Fld := ⟨0x40400010, 0x10000, 0x0, 5, 3⟩
def DRC_TRAIN_CTL_DIR : Fld := ⟨0x40400010, 0x10000, 0x0, 8, 1⟩
def DRC_TRAIN_CTL_CLEAR : Fld := ⟨0x40400010, 0x10000, 0x0, 9, 1⟩
def DRC_TRAIN_STAT_BUSY : Fld := ⟨0x40400014, 0x10000, 0x0, 0, 1⟩
def DRC_TRAIN_STAT_DONE : Fld := ⟨0x40400014, 0x10000, 0x0, 1, 1⟩
def DRC_TRAIN_STAT_FIDX : Fld := ⟨0x40400014, 0x10000, 0x0, 2, 2⟩
def DRC_TRAIN_STAT_WINDOW : Fld := ⟨0x40400014, 0x10000, 0x0, 4, 1⟩
def DRC_PAT_ADDR_ROW : Fld := ⟨0x40400020, 0x10000, 0x0, 0, 18⟩
def DRC_PAT_ADDR_BANK : Fld := ⟨0x40400020, 0x10000, 0x0, 18, 5⟩
def DRC_PAT_LEN_BURSTS : Fld := ⟨0x40400024, 0x10000, 0x0, 0, 16⟩
def DRC_CMP_SEL_BIT : Fld := ⟨0x40400034, 0x10000, 0x0, 0, 7⟩
def DRC_CMP_CNT_CNT : Fld := ⟨0x40400038, 0x10000, 0x0, 0, 16⟩
def DRC_DLY_SEL_TYPE : Fld := ⟨0x4040003C, 0x10000, 0x0, 0, 3⟩
def DRC_DLY_SEL_ELEM : Fld := ⟨0x4040003C, 0x10000, 0x0, 3, 7⟩
def DRC_DLY_SEL_RANK : Fld := ⟨0x4040003C, 0x10000, 0x0, 10, 1⟩
def DRC_DLY_VAL_DELAY : Fld := ⟨0x40400040, 0x10000, 0x0, 0, 10⟩
def DRC_SWEEP_START : Fld := ⟨0x40400044, 0x10000, 0x0, 0, 10⟩
def DRC_SWEEP_STEP : Fld := ⟨0x40400044, 0x10000, 0x0, 10, 6⟩
def DRC_SWEEP_COUNT : Fld := ⟨0x40400044, 0x10000, 0x0, 16, 10⟩
def DRC_SWEEP_GO : Fld := ⟨0x40400044, 0x10000, 0x0, 26, 1⟩
def DRC_SWEEP_ALL : Fld := ⟨0x40400044, 0x10000, 0x0, 27, 1⟩
def DRC_VREF_RX_VREF : Fld := ⟨0x40400048, 0x10000, 0x0, 0, 7⟩
def DRC_MR_MR : Fld := ⟨0x4040005C, 0x10000, 0x0, 0, 8⟩
def DRC_MR_READ : Fld := ⟨0x4040005C, 0x10000, 0x0, 8, 1⟩
def DRC_MR_RANK : Fld := ⟨0x4040005C, 0x10000, 0x0, 9, 1⟩
def DRC_MR_SUB : Fld := ⟨0x4040005C, 0x10000, 0x0, 10, 1⟩
def DRC_MR_GO : Fld := ⟨0x4040005C, 0x10000, 0x0, 11, 1⟩
def DRC_MR_BUSY : Fld := ⟨0x4040005C, 0x10000, 0x0, 12, 1⟩
def DRC_MR_DATA_DATA : Fld := ⟨0x40400060, 0x10000, 0x0, 0, 8⟩
def DRC_PD_TIMER : Fld := ⟨0x40400064, 0x10000, 0x0, 0, 20⟩
def DRC_PD_EN : Fld := ⟨0x40400064, 0x10000, 0x0, 20, 1⟩
def DRC_SR_EXIT_NS : Fld := ⟨0x40400068, 0x10000, 0x0, 0, 16⟩
def DRC_SR_IDLE_US : Fld := ⟨0x40400068, 0x10000, 0x0, 16, 14⟩
def DRC_SR_EN : Fld := ⟨0x40400068, 0x10000, 0x0, 30, 1⟩
def DRC_LTR_SW_TOL_NS : Fld := ⟨0x4040006C, 0x10000, 0x0, 0, 20⟩
def DRC_LTR_MIN_TOL_NS : Fld := ⟨0x40400070, 0x10000, 0x0, 0, 20⟩
def DRC_LTR_MIN_SRC : Fld := ⟨0x40400070, 0x10000, 0x0, 20, 4⟩
def DRC_PANIC_WM_BAND : Fld := ⟨0x40400074, 0x10000, 0x0, 0, 4⟩
def DRC_PANIC_WM_MAP : Fld := ⟨0x40400074, 0x10000, 0x0, 4, 4⟩
def DRC_PANIC_WM_STAGE : Fld := ⟨0x40400074, 0x10000, 0x0, 8, 4⟩
def DRC_PANIC_WM_CAM : Fld := ⟨0x40400074, 0x10000, 0x0, 12, 4⟩
def DRC_PANIC_STAT_PORTS : Fld := ⟨0x40400078, 0x10000, 0x0, 0, 7⟩
def DRC_ECC_CE_RANK0 : Fld := ⟨0x40400080, 0x10000, 0x0, 0, 16⟩
def DRC_ECC_CE_RANK1 : Fld := ⟨0x40400080, 0x10000, 0x0, 16, 16⟩
def DRC_ECC_UE_RANK0 : Fld := ⟨0x40400084, 0x10000, 0x0, 0, 16⟩
def DRC_ECC_UE_RANK1 : Fld := ⟨0x40400084, 0x10000, 0x0, 16, 16⟩
def DRC_ECC_ADDR_HI_ADDR_HI : Fld := ⟨0x4040008C, 0x10000, 0x0, 0, 16⟩
def DRC_ECC_ADDR_HI_UE : Fld := ⟨0x4040008C, 0x10000, 0x0, 16, 1⟩
def DRC_ECC_ADDR_HI_RANK : Fld := ⟨0x4040008C, 0x10000, 0x0, 17, 1⟩
def DRC_ECC_ADDR_HI_SUB : Fld := ⟨0x4040008C, 0x10000, 0x0, 18, 1⟩
def DRC_ECC_ADDR_HI_VALID : Fld := ⟨0x4040008C, 0x10000, 0x0, 19, 1⟩
def DRC_ECC_SYN_DEVICE : Fld := ⟨0x40400090, 0x10000, 0x0, 0, 5⟩
def DRC_ECC_SYN_SYMBOLS : Fld := ⟨0x40400090, 0x10000, 0x0, 5, 8⟩
def DRC_CAPAR_RANK0 : Fld := ⟨0x40400094, 0x10000, 0x0, 0, 16⟩
def DRC_CAPAR_RANK1 : Fld := ⟨0x40400094, 0x10000, 0x0, 16, 16⟩
def DRC_RETIRE_RANK : Fld := ⟨0x40400098, 0x10000, 0x0, 0, 1⟩
def DRC_RETIRE_GO : Fld := ⟨0x40400098, 0x10000, 0x0, 1, 1⟩
def DRC_RETIRE_CAPAR_LIMIT : Fld := ⟨0x40400098, 0x10000, 0x0, 2, 8⟩
def DRC_RETIRE_RESULT : Fld := ⟨0x40400098, 0x10000, 0x0, 10, 2⟩
def DRC_MIG_STAT_STATE : Fld := ⟨0x4040009C, 0x10000, 0x0, 0, 2⟩
def DRC_MIG_STAT_FROM : Fld := ⟨0x4040009C, 0x10000, 0x0, 2, 1⟩
def DRC_SCRUB_PERIOD_H : Fld := ⟨0x404000A8, 0x10000, 0x0, 0, 16⟩
def DRC_SCRUB_EN : Fld := ⟨0x404000A8, 0x10000, 0x0, 16, 1⟩
def DRC_EVMASK_CE_EN : Fld := ⟨0x404000AC, 0x10000, 0x0, 0, 1⟩
def DRC_EVMASK_TRAIN_EN : Fld := ⟨0x404000AC, 0x10000, 0x0, 1, 1⟩
def DRC_YARD_ADDR_OFFSET : Fld := ⟨0x404000C8, 0x10000, 0x0, 0, 28⟩
def DRC_YARD_ADDR_UE : Fld := ⟨0x404000C8, 0x10000, 0x0, 28, 1⟩
def DRC_PMC_CFG_EVENT : Fld := ⟨0x404000CC, 0x10000, 0x0, 0, 8⟩
def DRC_PMC_CFG_EN : Fld := ⟨0x404000CC, 0x10000, 0x0, 8, 1⟩
def DRC_PMC_CFG_CHAIN : Fld := ⟨0x404000CC, 0x10000, 0x0, 9, 1⟩
def DRC_PMC_CFG_XPRIV : Fld := ⟨0x404000CC, 0x10000, 0x0, 10, 3⟩
def DRC_PMC_CFG_XCLASS : Fld := ⟨0x404000CC, 0x10000, 0x0, 13, 4⟩
def DRC_PMC_CFG_MASTER_EN : Fld := ⟨0x404000CC, 0x10000, 0x0, 17, 1⟩
def DRC_PMC_CFG_MASTER : Fld := ⟨0x404000CC, 0x10000, 0x0, 18, 5⟩
def DRC_PMC_CFG_ADDR_EN : Fld := ⟨0x404000CC, 0x10000, 0x0, 23, 1⟩
def DRC_PMC_CFG_ADDR_SEL : Fld := ⟨0x404000CC, 0x10000, 0x0, 24, 2⟩
def DRC_PMC_CFG_OVF_EV : Fld := ⟨0x404000CC, 0x10000, 0x0, 26, 1⟩
def DRC_SR_CNT_ENTRIES : Fld := ⟨0x404000D8, 0x10000, 0x0, 0, 16⟩
def DRC_SR_CNT_LATE : Fld := ⟨0x404000D8, 0x10000, 0x0, 16, 16⟩
def DRC_SWEEP_RES_FIRST : Fld := ⟨0x404000DC, 0x10000, 0x0, 0, 10⟩
def DRC_SWEEP_RES_LAST : Fld := ⟨0x404000DC, 0x10000, 0x0, 10, 10⟩
def DRC_SWEEP_RES_ANY : Fld := ⟨0x404000DC, 0x10000, 0x0, 20, 1⟩
def TRW_CTL_ENABLE : Fld := ⟨0x400F0000, 0x0, 0x0, 0, 1⟩
def TRW_CTL_ABORT : Fld := ⟨0x400F0000, 0x0, 0x0, 1, 1⟩
def TRW_STAT_STATE : Fld := ⟨0x400F0004, 0x0, 0x0, 0, 2⟩
def TRW_STAT_RESULT : Fld := ⟨0x400F0004, 0x0, 0x0, 2, 2⟩
def TRW_STAT_INDEX : Fld := ⟨0x400F0004, 0x0, 0x0, 16, 16⟩
def TRW_RING_RING : Fld := ⟨0x400F0008, 0x0, 0x0, 0, 13⟩
def TRW_RING_EN : Fld := ⟨0x400F0008, 0x0, 0x0, 13, 1⟩
def TRW_DONE_RING : Fld := ⟨0x400F000C, 0x0, 0x0, 0, 13⟩
def TRW_DONE_EN : Fld := ⟨0x400F000C, 0x0, 0x0, 13, 1⟩
def TRW_EVMASK_ERR_EN : Fld := ⟨0x400F0010, 0x0, 0x0, 0, 1⟩
def TRW_LAST_ERR_STATUS : Fld := ⟨0x400F0014, 0x0, 0x0, 0, 3⟩
def TRW_LAST_ERR_INDEX : Fld := ⟨0x400F0014, 0x0, 0x0, 3, 16⟩
def TRW_PMC_CFG_EVENT : Fld := ⟨0x400F0034, 0x0, 0x0, 0, 8⟩
def TRW_PMC_CFG_EN : Fld := ⟨0x400F0034, 0x0, 0x0, 8, 1⟩
def TRW_PMC_CFG_CHAIN : Fld := ⟨0x400F0034, 0x0, 0x0, 9, 1⟩
def TRW_PMC_CFG_XPRIV : Fld := ⟨0x400F0034, 0x0, 0x0, 10, 3⟩
def TRW_PMC_CFG_XCLASS : Fld := ⟨0x400F0034, 0x0, 0x0, 13, 4⟩
def TRW_PMC_CFG_MASTER_EN : Fld := ⟨0x400F0034, 0x0, 0x0, 17, 1⟩
def TRW_PMC_CFG_MASTER : Fld := ⟨0x400F0034, 0x0, 0x0, 18, 5⟩
def TRW_PMC_CFG_ADDR_EN : Fld := ⟨0x400F0034, 0x0, 0x0, 23, 1⟩
def TRW_PMC_CFG_ADDR_SEL : Fld := ⟨0x400F0034, 0x0, 0x0, 24, 2⟩
def TRW_PMC_CFG_OVF_EV : Fld := ⟨0x400F0034, 0x0, 0x0, 26, 1⟩
def ZIP_CTL_ENABLE : Fld := ⟨0x400E0000, 0x1000, 0x0, 0, 1⟩
def ZIP_CTL_ABORT : Fld := ⟨0x400E0000, 0x1000, 0x0, 1, 1⟩
def ZIP_CTL_INGEST : Fld := ⟨0x400E0000, 0x1000, 0x0, 2, 1⟩
def ZIP_STAT_STATE : Fld := ⟨0x400E0004, 0x1000, 0x0, 0, 2⟩
def ZIP_STAT_CLASS : Fld := ⟨0x400E0004, 0x1000, 0x0, 2, 2⟩
def ZIP_STAT_SRC : Fld := ⟨0x400E0004, 0x1000, 0x0, 4, 1⟩
def ZIP_STAT_RESULT : Fld := ⟨0x400E0004, 0x1000, 0x0, 5, 2⟩
def ZIP_RING_RING : Fld := ⟨0x400E0008, 0x1000, 0x0, 0, 13⟩
def ZIP_RING_EN : Fld := ⟨0x400E0008, 0x1000, 0x0, 13, 1⟩
def ZIP_DONE_RING : Fld := ⟨0x400E000C, 0x1000, 0x0, 0, 13⟩
def ZIP_DONE_EN : Fld := ⟨0x400E000C, 0x1000, 0x0, 13, 1⟩
def ZIP_EVMASK_DONE_EN : Fld := ⟨0x400E0010, 0x1000, 0x0, 0, 1⟩
def ZIP_EVMASK_ERR_EN : Fld := ⟨0x400E0010, 0x1000, 0x0, 1, 1⟩
def ZIP_LAST_ERR_CODE : Fld := ⟨0x400E0014, 0x1000, 0x0, 0, 8⟩
def ZIP_LAST_ERR_TAG : Fld := ⟨0x400E0014, 0x1000, 0x0, 16, 16⟩
def ZIP_PMC_CFG_EVENT : Fld := ⟨0x400E0034, 0x1000, 0x0, 0, 8⟩
def ZIP_PMC_CFG_EN : Fld := ⟨0x400E0034, 0x1000, 0x0, 8, 1⟩
def ZIP_PMC_CFG_CHAIN : Fld := ⟨0x400E0034, 0x1000, 0x0, 9, 1⟩
def ZIP_PMC_CFG_XPRIV : Fld := ⟨0x400E0034, 0x1000, 0x0, 10, 3⟩
def ZIP_PMC_CFG_XCLASS : Fld := ⟨0x400E0034, 0x1000, 0x0, 13, 4⟩
def ZIP_PMC_CFG_MASTER_EN : Fld := ⟨0x400E0034, 0x1000, 0x0, 17, 1⟩
def ZIP_PMC_CFG_MASTER : Fld := ⟨0x400E0034, 0x1000, 0x0, 18, 5⟩
def ZIP_PMC_CFG_ADDR_EN : Fld := ⟨0x400E0034, 0x1000, 0x0, 23, 1⟩
def ZIP_PMC_CFG_ADDR_SEL : Fld := ⟨0x400E0034, 0x1000, 0x0, 24, 2⟩
def ZIP_PMC_CFG_OVF_EV : Fld := ⟨0x400E0034, 0x1000, 0x0, 26, 1⟩
def CAM_P_CTL_EN : Fld := ⟨0x40300000, 0x40, 0x0, 0, 1⟩
def CAM_P_CTL_LANES : Fld := ⟨0x40300000, 0x40, 0x0, 1, 2⟩
def CAM_P_CTL_DT : Fld := ⟨0x40300000, 0x40, 0x0, 3, 2⟩
def CAM_P_CTL_VC : Fld := ⟨0x40300000, 0x40, 0x0, 5, 4⟩
def CAM_P_CTL_ROUTE : Fld := ⟨0x40300000, 0x40, 0x0, 9, 2⟩
def CAM_P_STAT_STATE : Fld := ⟨0x40300004, 0x40, 0x0, 0, 2⟩
def CAM_P_STAT_LOCKED : Fld := ⟨0x40300004, 0x40, 0x0, 2, 4⟩
def CAM_P_STAT_RESULT : Fld := ⟨0x40300004, 0x40, 0x0, 6, 2⟩
def CAM_P_STAT_PEER : Fld := ⟨0x40300004, 0x40, 0x0, 8, 2⟩
def CAM_P_SIZE_WIDTH : Fld := ⟨0x40300008, 0x40, 0x0, 0, 16⟩
def CAM_P_SIZE_HEIGHT : Fld := ⟨0x40300008, 0x40, 0x0, 16, 16⟩
def CAM_P_RAW_HI_ADDR_HI : Fld := ⟨0x40300010, 0x40, 0x0, 0, 16⟩
def CAM_P_RAW_HI_SLOTS : Fld := ⟨0x40300010, 0x40, 0x0, 16, 4⟩
def CAM_P_DELAY_N : Fld := ⟨0x40300018, 0x40, 0x0, 0, 3⟩
def CAM_P_SETSEQ_SEQ : Fld := ⟨0x4030001C, 0x40, 0x0, 0, 16⟩
def CAM_P_SETNOW_SETSEQ : Fld := ⟨0x40300020, 0x40, 0x0, 0, 16⟩
def CAM_P_SETNOW_WAITING : Fld := ⟨0x40300020, 0x40, 0x0, 16, 4⟩
def CAM_P_ERR_FLAGS : Fld := ⟨0x40300030, 0x40, 0x0, 0, 8⟩
def CAM_P_ERRCNT_ECC : Fld := ⟨0x40300034, 0x40, 0x0, 0, 16⟩
def CAM_P_ERRCNT_DISC : Fld := ⟨0x40300034, 0x40, 0x0, 16, 16⟩
def CAM_P_PHY_SETTLE : Fld := ⟨0x4030003C, 0x40, 0x0, 0, 6⟩
def CAM_P_PHY_DESKEW_EN : Fld := ⟨0x4030003C, 0x40, 0x0, 6, 1⟩
def CAM_K_CTL_EN : Fld := ⟨0x40300100, 0x180, 0x0, 0, 1⟩
def CAM_K_CTL_ABORT : Fld := ⟨0x40300100, 0x180, 0x0, 1, 1⟩
def CAM_K_STAT_STATE : Fld := ⟨0x40300104, 0x180, 0x0, 0, 2⟩
def CAM_K_STAT_PORT : Fld := ⟨0x40300104, 0x180, 0x0, 2, 2⟩
def CAM_K_EVMASK_ERR_EN : Fld := ⟨0x40300108, 0x180, 0x0, 0, 1⟩
def CAM_K_LAST_ERR_STATUS : Fld := ⟨0x4030010C, 0x180, 0x0, 0, 3⟩
def CAM_K_LAST_ERR_PORT : Fld := ⟨0x4030010C, 0x180, 0x0, 3, 2⟩
def CAM_K_OUT_RING_RING : Fld := ⟨0x40300114, 0x180, 0x0, 0, 13⟩
def CAM_K_OUT_RING_EN : Fld := ⟨0x40300114, 0x180, 0x0, 13, 1⟩
def CAM_K_OUT_HI_ADDR_HI : Fld := ⟨0x4030011C, 0x180, 0x0, 0, 16⟩
def CAM_K_OUT_CFG_FMT : Fld := ⟨0x40300120, 0x180, 0x0, 0, 4⟩
def CAM_K_OUT_CFG_MATRIX : Fld := ⟨0x40300120, 0x180, 0x0, 4, 2⟩
def CAM_K_OUT_CFG_RANGE : Fld := ⟨0x40300120, 0x180, 0x0, 6, 1⟩
def CAM_K_OUT_CFG_SLOTS_M1 : Fld := ⟨0x40300120, 0x180, 0x0, 8, 3⟩
def CAM_K_OUT_PITCH_PITCH : Fld := ⟨0x40300128, 0x180, 0x4, 0, 20⟩
def CAM_K_STATS_HI_ADDR_HI : Fld := ⟨0x40300138, 0x180, 0x0, 0, 16⟩
def CAM_K_STATS_CFG_OUT_EN : Fld := ⟨0x4030013C, 0x180, 0x0, 0, 1⟩
def CAM_K_STATS_CFG_HIST_EN : Fld := ⟨0x4030013C, 0x180, 0x0, 1, 1⟩
def CAM_K_STATS_CFG_ZONE_EN : Fld := ⟨0x4030013C, 0x180, 0x0, 2, 1⟩
def CAM_K_STATS_CFG_FID_EN : Fld := ⟨0x4030013C, 0x180, 0x0, 3, 1⟩
def CAM_K_STATS_CFG_STEP : Fld := ⟨0x4030013C, 0x180, 0x0, 4, 2⟩
def CAM_K_APPLY_PORT : Fld := ⟨0x40300140, 0x180, 0x0, 0, 2⟩
def CAM_K_APPLY_GO : Fld := ⟨0x40300140, 0x180, 0x0, 2, 1⟩
def CAM_K_APPLY_BUSY : Fld := ⟨0x40300140, 0x180, 0x0, 3, 1⟩
def CAM_K_APPLY_WAITING : Fld := ⟨0x40300140, 0x180, 0x0, 4, 4⟩
def CAM_K_APPLY_REPLACED : Fld := ⟨0x40300140, 0x180, 0x0, 8, 1⟩
def CAM_K_APPLY_SEQ_PSEQ : Fld := ⟨0x40300148, 0x180, 0x0, 0, 16⟩
def CAM_K_PSEQ_PSEQ : Fld := ⟨0x40300158, 0x180, 0x4, 0, 16⟩
def CAM_K_QUEUE_WAITING : Fld := ⟨0x40300178, 0x180, 0x0, 0, 4⟩
def CAM_K_TNR_REF_VALID : Fld := ⟨0x4030017C, 0x180, 0x0, 0, 1⟩
def CAM_K_TNR_REF_PORT : Fld := ⟨0x4030017C, 0x180, 0x0, 1, 2⟩
def CAM_K_BLACK_LEVEL : Fld := ⟨0x40300180, 0x180, 0x4, 0, 16⟩
def CAM_K_WB_GAIN : Fld := ⟨0x40300190, 0x180, 0x4, 0, 16⟩
def CAM_K_SAT_LEVEL : Fld := ⟨0x4030019C, 0x180, 0x0, 0, 16⟩
def CAM_K_CCM_COEF : Fld := ⟨0x403001A0, 0x180, 0x4, 0, 16⟩
def CAM_K_CCM_OFF_OFF : Fld := ⟨0x403001C4, 0x180, 0x4, 0, 16⟩
def CAM_K_NR_SNR : Fld := ⟨0x403001D0, 0x180, 0x0, 0, 4⟩
def CAM_K_NR_TNR : Fld := ⟨0x403001D0, 0x180, 0x0, 4, 4⟩
def CAM_K_NR_MOTION : Fld := ⟨0x403001D0, 0x180, 0x0, 8, 8⟩
def CAM_K_DPC_THRESH : Fld := ⟨0x403001D4, 0x180, 0x0, 0, 8⟩
def CAM_K_DPC_DYN_EN : Fld := ⟨0x403001D4, 0x180, 0x0, 8, 1⟩
def CAM_K_DEFECT_HI_ADDR_HI : Fld := ⟨0x403001DC, 0x180, 0x0, 0, 16⟩
def CAM_K_DEFECT_HI_COUNT : Fld := ⟨0x403001DC, 0x180, 0x0, 16, 11⟩
def CAM_K_SHADE_HI_ADDR_HI : Fld := ⟨0x403001E4, 0x180, 0x0, 0, 16⟩
def CAM_K_SHADE_HI_EN : Fld := ⟨0x403001E4, 0x180, 0x0, 16, 1⟩
def CAM_K_TONE_HI_ADDR_HI : Fld := ⟨0x403001EC, 0x180, 0x0, 0, 16⟩
def CAM_K_TONE_HI_EN : Fld := ⟨0x403001EC, 0x180, 0x0, 16, 1⟩
def CAM_K_FID_THRESH_THRESH : Fld := ⟨0x403001F0, 0x180, 0x0, 0, 16⟩
def CAM_K_FID_AREA_MIN_AREA : Fld := ⟨0x403001F4, 0x180, 0x0, 0, 12⟩
def CAM_K_FID_AREA_MAX_AREA : Fld := ⟨0x403001F4, 0x180, 0x0, 16, 12⟩
def CAM_K_FID_ROI0_X : Fld := ⟨0x403001F8, 0x180, 0x0, 0, 16⟩
def CAM_K_FID_ROI0_Y : Fld := ⟨0x403001F8, 0x180, 0x0, 16, 16⟩
def CAM_K_FID_ROI1_W : Fld := ⟨0x403001FC, 0x180, 0x0, 0, 16⟩
def CAM_K_FID_ROI1_H : Fld := ⟨0x403001FC, 0x180, 0x0, 16, 16⟩
def CAM_K_CFA_ORDER : Fld := ⟨0x40300200, 0x180, 0x0, 0, 2⟩
def CAM_K_PMC_CFG_EVENT : Fld := ⟨0x40300208, 0x180, 0x4, 0, 8⟩
def CAM_K_PMC_CFG_EN : Fld := ⟨0x40300208, 0x180, 0x4, 8, 1⟩
def CAM_K_PMC_CFG_CHAIN : Fld := ⟨0x40300208, 0x180, 0x4, 9, 1⟩
def CAM_K_PMC_CFG_XPRIV : Fld := ⟨0x40300208, 0x180, 0x4, 10, 3⟩
def CAM_K_PMC_CFG_XCLASS : Fld := ⟨0x40300208, 0x180, 0x4, 13, 4⟩
def CAM_K_PMC_CFG_MASTER_EN : Fld := ⟨0x40300208, 0x180, 0x4, 17, 1⟩
def CAM_K_PMC_CFG_MASTER : Fld := ⟨0x40300208, 0x180, 0x4, 18, 5⟩
def CAM_K_PMC_CFG_ADDR_EN : Fld := ⟨0x40300208, 0x180, 0x4, 23, 1⟩
def CAM_K_PMC_CFG_ADDR_SEL : Fld := ⟨0x40300208, 0x180, 0x4, 24, 2⟩
def CAM_K_PMC_CFG_OVF_EV : Fld := ⟨0x40300208, 0x180, 0x4, 26, 1⟩
def PLB_CTL_AUTO_EN : Fld := ⟨0x40040000, 0x0, 0x0, 0, 1⟩
def PLB_CTL_DELTA : Fld := ⟨0x40040000, 0x0, 0x0, 1, 5⟩
def PLB_CTL_ABORT : Fld := ⟨0x40040000, 0x0, 0x0, 6, 1⟩
def PLB_STAT_STATE : Fld := ⟨0x40040004, 0x0, 0x0, 0, 2⟩
def PLB_STAT_DOMAIN : Fld := ⟨0x40040004, 0x0, 0x0, 2, 5⟩
def PLB_STAT_LAST_DOMAIN : Fld := ⟨0x40040004, 0x0, 0x0, 7, 5⟩
def PLB_STAT_LAST_RESULT : Fld := ⟨0x40040004, 0x0, 0x0, 12, 2⟩
def PLB_TMO_TMO_US : Fld := ⟨0x40040008, 0x0, 0x0, 0, 16⟩
def PLB_RUN_REQ : Fld := ⟨0x4004000C, 0x0, 0x0, 0, 32⟩
def PLB_BAD_BAD : Fld := ⟨0x40040018, 0x0, 0x0, 0, 32⟩
def PLB_LOAD_HI_ADDR_HI : Fld := ⟨0x40040024, 0x0, 0x0, 0, 16⟩
def PLB_LOAD_HI_GO : Fld := ⟨0x40040024, 0x0, 0x0, 16, 1⟩
def PLB_LOAD_HI_NOW : Fld := ⟨0x40040024, 0x0, 0x0, 17, 1⟩
def PLB_LOAD_STAT_RESULT : Fld := ⟨0x40040028, 0x0, 0x0, 0, 2⟩
def PLB_SRAM_ROWS_USED : Fld := ⟨0x40040030, 0x0, 0x0, 0, 12⟩
def PLB_SRAM_UNREPAIRED : Fld := ⟨0x40040030, 0x0, 0x0, 12, 1⟩
def PLB_SRAM_ARRAY : Fld := ⟨0x40040030, 0x0, 0x0, 16, 8⟩
def PLB_EVMASK_DONE_EN : Fld := ⟨0x4004003C, 0x0, 0x0, 0, 1⟩
def PLB_EVMASK_BAD_EN : Fld := ⟨0x4004003C, 0x0, 0x0, 1, 1⟩
def PLB_EVMASK_FIELD_EN : Fld := ⟨0x4004003C, 0x0, 0x0, 2, 1⟩
def PLB_DOM_TEMP_TEMP : Fld := ⟨0x40040040, 0x0, 0x4, 0, 16⟩
def PLB_FID_RING_RING : Fld := ⟨0x400400C0, 0x0, 0x0, 0, 13⟩
def PLB_FID_RING_EN : Fld := ⟨0x400400C0, 0x0, 0x0, 13, 1⟩
def PLB_FID_DONE_RING : Fld := ⟨0x400400C4, 0x0, 0x0, 0, 13⟩
def PLB_FID_DONE_EN : Fld := ⟨0x400400C4, 0x0, 0x0, 13, 1⟩
def PLB_FID_STAT_STATE : Fld := ⟨0x400400C8, 0x0, 0x0, 0, 2⟩
def PLB_FID_STAT_RESULT : Fld := ⟨0x400400C8, 0x0, 0x0, 2, 3⟩
def PLB_FID_STAT_RING_OK : Fld := ⟨0x400400C8, 0x0, 0x0, 5, 1⟩
def PLB_PMC_CFG_EVENT : Fld := ⟨0x400400D4, 0x0, 0x0, 0, 8⟩
def PLB_PMC_CFG_EN : Fld := ⟨0x400400D4, 0x0, 0x0, 8, 1⟩
def PLB_PMC_CFG_CHAIN : Fld := ⟨0x400400D4, 0x0, 0x0, 9, 1⟩
def PLB_PMC_CFG_XPRIV : Fld := ⟨0x400400D4, 0x0, 0x0, 10, 3⟩
def PLB_PMC_CFG_XCLASS : Fld := ⟨0x400400D4, 0x0, 0x0, 13, 4⟩
def PLB_PMC_CFG_MASTER_EN : Fld := ⟨0x400400D4, 0x0, 0x0, 17, 1⟩
def PLB_PMC_CFG_MASTER : Fld := ⟨0x400400D4, 0x0, 0x0, 18, 5⟩
def PLB_PMC_CFG_ADDR_EN : Fld := ⟨0x400400D4, 0x0, 0x0, 23, 1⟩
def PLB_PMC_CFG_ADDR_SEL : Fld := ⟨0x400400D4, 0x0, 0x0, 24, 2⟩
def PLB_PMC_CFG_OVF_EV : Fld := ⟨0x400400D4, 0x0, 0x0, 26, 1⟩
def GLB_ID_PART : Fld := ⟨0x40000000, 0x0, 0x0, 0, 16⟩
def GLB_ID_STEP : Fld := ⟨0x40000000, 0x0, 0x0, 16, 8⟩
def GLB_CHIP_INDEX : Fld := ⟨0x40000004, 0x0, 0x0, 0, 12⟩
def GLB_RST_CAUSE_CAUSE : Fld := ⟨0x40000008, 0x0, 0x0, 0, 6⟩
def GLB_RST_CTL_KEY : Fld := ⟨0x4000000C, 0x0, 0x0, 0, 16⟩
def GLB_BOOT_STAGE : Fld := ⟨0x40000010, 0x0, 0x0, 0, 4⟩
def GLB_BOOT_IMAGE_B : Fld := ⟨0x40000010, 0x0, 0x0, 4, 1⟩
def GLB_BOOT_RETRAINED : Fld := ⟨0x40000010, 0x0, 0x0, 5, 1⟩
def GLB_SHOW_STATE : Fld := ⟨0x40000014, 0x0, 0x0, 0, 3⟩
def GLB_SHOW_ARM : Fld := ⟨0x40000014, 0x0, 0x0, 3, 1⟩
def GLB_SHOW_DISARM : Fld := ⟨0x40000014, 0x0, 0x0, 4, 1⟩
def GLB_SHOW_RESULT : Fld := ⟨0x40000014, 0x0, 0x0, 5, 1⟩
def GLB_PWR_PWR_FAIL : Fld := ⟨0x40000018, 0x0, 0x0, 0, 1⟩
def GLB_PWR_PF_SEEN : Fld := ⟨0x40000018, 0x0, 0x0, 1, 1⟩
def GLB_AVS_CODE : Fld := ⟨0x4000001C, 0x0, 0x0, 0, 5⟩
def GLB_AVS_OVERRIDE : Fld := ⟨0x4000001C, 0x0, 0x0, 8, 5⟩
def GLB_AVS_OVR_EN : Fld := ⟨0x4000001C, 0x0, 0x0, 13, 1⟩
def GLB_CLK_STAT_PRESENT : Fld := ⟨0x40000020, 0x0, 0x0, 0, 7⟩
def GLB_WR_GATE_LEDGER_OK : Fld := ⟨0x40000024, 0x0, 0x0, 0, 1⟩
def GLB_WR_GATE_OTP_OK : Fld := ⟨0x40000024, 0x0, 0x0, 1, 1⟩
def GLB_WR_GATE_LEDGER_WHY : Fld := ⟨0x40000024, 0x0, 0x0, 2, 2⟩
def GLB_WR_GATE_OTP_WHY : Fld := ⟨0x40000024, 0x0, 0x0, 4, 2⟩
def GLB_WR_GATE_REFUSALS : Fld := ⟨0x40000024, 0x0, 0x0, 16, 16⟩
def GLB_GPIO_CFG_OWN : Fld := ⟨0x40000040, 0x0, 0x4, 0, 1⟩
def GLB_GPIO_CFG_CLASS : Fld := ⟨0x40000040, 0x0, 0x4, 1, 2⟩
def GLB_GPIO_CFG_OD : Fld := ⟨0x40000040, 0x0, 0x4, 3, 1⟩
def GLB_GPIO_CFG_PULL : Fld := ⟨0x40000040, 0x0, 0x4, 4, 2⟩
def GLB_GPIO_CFG_INV : Fld := ⟨0x40000040, 0x0, 0x4, 6, 1⟩
def GLB_GPIO_CFG_HOLDER : Fld := ⟨0x40000040, 0x0, 0x4, 8, 5⟩
def GLB_GPIO_CFG_HELD : Fld := ⟨0x40000040, 0x0, 0x4, 13, 1⟩
def GLB_PMC_CFG_EVENT : Fld := ⟨0x400000D4, 0x0, 0x0, 0, 8⟩
def GLB_PMC_CFG_EN : Fld := ⟨0x400000D4, 0x0, 0x0, 8, 1⟩
def GLB_PMC_CFG_CHAIN : Fld := ⟨0x400000D4, 0x0, 0x0, 9, 1⟩
def GLB_PMC_CFG_XPRIV : Fld := ⟨0x400000D4, 0x0, 0x0, 10, 3⟩
def GLB_PMC_CFG_XCLASS : Fld := ⟨0x400000D4, 0x0, 0x0, 13, 4⟩
def GLB_PMC_CFG_MASTER_EN : Fld := ⟨0x400000D4, 0x0, 0x0, 17, 1⟩
def GLB_PMC_CFG_MASTER : Fld := ⟨0x400000D4, 0x0, 0x0, 18, 5⟩
def GLB_PMC_CFG_ADDR_EN : Fld := ⟨0x400000D4, 0x0, 0x0, 23, 1⟩
def GLB_PMC_CFG_ADDR_SEL : Fld := ⟨0x400000D4, 0x0, 0x0, 24, 2⟩
def GLB_PMC_CFG_OVF_EV : Fld := ⟨0x400000D4, 0x0, 0x0, 26, 1⟩
def GLB_I2C_CTL_EN : Fld := ⟨0x400000E0, 0x0, 0x20, 0, 1⟩
def GLB_I2C_CTL_SPEED : Fld := ⟨0x400000E0, 0x0, 0x20, 1, 2⟩
def GLB_I2C_CTL_PEC : Fld := ⟨0x400000E0, 0x0, 0x20, 3, 1⟩
def GLB_I2C_STAT_BUSY : Fld := ⟨0x400000E4, 0x0, 0x20, 0, 1⟩
def GLB_I2C_STAT_RESULT : Fld := ⟨0x400000E4, 0x0, 0x20, 1, 3⟩
def GLB_I2C_ADDR_ADDR : Fld := ⟨0x400000E8, 0x0, 0x20, 0, 7⟩
def GLB_I2C_CMD_WLEN : Fld := ⟨0x400000EC, 0x0, 0x20, 0, 3⟩
def GLB_I2C_CMD_RLEN : Fld := ⟨0x400000EC, 0x0, 0x20, 3, 3⟩
def GLB_I2C_CMD_GO : Fld := ⟨0x400000EC, 0x0, 0x20, 6, 1⟩
def GLB_I2C_TMO_LIMIT : Fld := ⟨0x400000FC, 0x0, 0x20, 0, 8⟩
def KLN_CTL_FLOOR : Fld := ⟨0x40030000, 0x0, 0x0, 0, 2⟩
def KLN_STAT_STAGE : Fld := ⟨0x40030004, 0x0, 0x0, 0, 2⟩
def KLN_STAT_RELEASING : Fld := ⟨0x40030004, 0x0, 0x0, 2, 1⟩
def KLN_STAT_SENSOR_LOW : Fld := ⟨0x40030004, 0x0, 0x0, 3, 1⟩
def KLN_STAT_LEDGER_PEND : Fld := ⟨0x40030004, 0x0, 0x0, 4, 1⟩
def KLN_STAT_HEALTHY : Fld := ⟨0x40030004, 0x0, 0x0, 8, 5⟩
def KLN_TJ_TJ : Fld := ⟨0x40030008, 0x0, 0x0, 0, 16⟩
def KLN_TJ_POINT : Fld := ⟨0x40030008, 0x0, 0x0, 16, 6⟩
def KLN_TH0_WARN : Fld := ⟨0x4003000C, 0x0, 0x0, 0, 16⟩
def KLN_TH0_THROTTLE : Fld := ⟨0x4003000C, 0x0, 0x0, 16, 16⟩
def KLN_TH1_TRIP : Fld := ⟨0x40030010, 0x0, 0x0, 0, 16⟩
def KLN_TH1_RELEASE : Fld := ⟨0x40030010, 0x0, 0x0, 16, 16⟩
def KLN_HOLD_HOLD_S : Fld := ⟨0x40030014, 0x0, 0x0, 0, 8⟩
def KLN_HOLD_HYST : Fld := ⟨0x40030014, 0x0, 0x0, 8, 4⟩
def KLN_XCHK_LIMIT : Fld := ⟨0x40030018, 0x0, 0x0, 0, 8⟩
def KLN_XCHK_MODEL_LIM : Fld := ⟨0x40030018, 0x0, 0x0, 8, 8⟩
def KLN_SFAULT_FAULTY : Fld := ⟨0x4003001C, 0x0, 0x0, 0, 16⟩
def KLN_SFAULT_EXCLUDE : Fld := ⟨0x4003001C, 0x0, 0x0, 16, 16⟩
def KLN_EVMASK_WARN_EN : Fld := ⟨0x40030020, 0x0, 0x0, 0, 1⟩
def KLN_EVMASK_SENSOR_EN : Fld := ⟨0x40030020, 0x0, 0x0, 1, 1⟩
def KLN_FLASH_TEMP : Fld := ⟨0x40030034, 0x0, 0x0, 0, 16⟩
def KLN_FLASH_VALID : Fld := ⟨0x40030034, 0x0, 0x0, 16, 1⟩
def KLN_FLASH_IN_RANGE : Fld := ⟨0x40030034, 0x0, 0x0, 17, 1⟩
def KLN_FLASH_ERR : Fld := ⟨0x40030034, 0x0, 0x0, 18, 1⟩
def KLN_FLASH_CFG_ADDR : Fld := ⟨0x40030038, 0x0, 0x0, 0, 7⟩
def KLN_FLASH_CFG_FORMAT : Fld := ⟨0x40030038, 0x0, 0x0, 7, 1⟩
def KLN_FLASH_CFG_PTR : Fld := ⟨0x40030038, 0x0, 0x0, 8, 8⟩
def KLN_FLASH_CFG_EN : Fld := ⟨0x40030038, 0x0, 0x0, 16, 1⟩
def KLN_PMON_SEL_SEL : Fld := ⟨0x4003003C, 0x0, 0x0, 0, 6⟩
def KLN_PMON_VAL_MW : Fld := ⟨0x40030040, 0x0, 0x0, 0, 24⟩
def KLN_VMON_STAT_LOW : Fld := ⟨0x40030044, 0x0, 0x0, 0, 8⟩
def KLN_VMON_STAT_HIGH : Fld := ⟨0x40030044, 0x0, 0x0, 8, 8⟩
def KLN_STAGE_CNT_S1 : Fld := ⟨0x40030048, 0x0, 0x0, 0, 16⟩
def KLN_STAGE_CNT_S2 : Fld := ⟨0x40030048, 0x0, 0x0, 16, 16⟩
def KLN_MODEL_ERR_DIFF : Fld := ⟨0x40030050, 0x0, 0x0, 0, 16⟩
def KLN_PMC_CFG_EVENT : Fld := ⟨0x40030054, 0x0, 0x0, 0, 8⟩
def KLN_PMC_CFG_EN : Fld := ⟨0x40030054, 0x0, 0x0, 8, 1⟩
def KLN_PMC_CFG_CHAIN : Fld := ⟨0x40030054, 0x0, 0x0, 9, 1⟩
def KLN_PMC_CFG_XPRIV : Fld := ⟨0x40030054, 0x0, 0x0, 10, 3⟩
def KLN_PMC_CFG_XCLASS : Fld := ⟨0x40030054, 0x0, 0x0, 13, 4⟩
def KLN_PMC_CFG_MASTER_EN : Fld := ⟨0x40030054, 0x0, 0x0, 17, 1⟩
def KLN_PMC_CFG_MASTER : Fld := ⟨0x40030054, 0x0, 0x0, 18, 5⟩
def KLN_PMC_CFG_ADDR_EN : Fld := ⟨0x40030054, 0x0, 0x0, 23, 1⟩
def KLN_PMC_CFG_ADDR_SEL : Fld := ⟨0x40030054, 0x0, 0x0, 24, 2⟩
def KLN_PMC_CFG_OVF_EV : Fld := ⟨0x40030054, 0x0, 0x0, 26, 1⟩
def KLN_VMON_MV : Fld := ⟨0x40030060, 0x0, 0x4, 0, 16⟩
def KLN_PT_TEMP : Fld := ⟨0x40030080, 0x0, 0x4, 0, 16⟩
def KLN_SENSOR_TEMP : Fld := ⟨0x40030180, 0x0, 0x4, 0, 16⟩
def KLN_SENSOR_FAULTY : Fld := ⟨0x40030180, 0x0, 0x4, 16, 1⟩
def KLN_SENSOR_EXCLUDED : Fld := ⟨0x40030180, 0x0, 0x4, 17, 1⟩
def TRU_STAT_DBG_LEVEL : Fld := ⟨0x40020000, 0x0, 0x0, 0, 2⟩
def TRU_STAT_LOCKOUT : Fld := ⟨0x40020000, 0x0, 0x0, 2, 1⟩
def TRU_STAT_FAILS : Fld := ⟨0x40020000, 0x0, 0x0, 3, 4⟩
def TRU_ROOTS_REVOKED : Fld := ⟨0x40020004, 0x0, 0x0, 1, 4⟩
def TRU_ROOTS_PROG : Fld := ⟨0x40020004, 0x0, 0x0, 8, 5⟩
def TRU_VFY_HI_ADDR_HI : Fld := ⟨0x4002000C, 0x0, 0x0, 0, 16⟩
def TRU_VFY_HI_CORE : Fld := ⟨0x4002000C, 0x0, 0x0, 16, 4⟩
def TRU_VFY_HI_RECORD : Fld := ⟨0x4002000C, 0x0, 0x0, 20, 1⟩
def TRU_VFY_HI_GO : Fld := ⟨0x4002000C, 0x0, 0x0, 21, 1⟩
def TRU_VFY_RES_RESULT : Fld := ⟨0x40020010, 0x0, 0x0, 0, 3⟩
def TRU_VFY_RES_ECDSA_FAIL : Fld := ⟨0x40020010, 0x0, 0x0, 3, 1⟩
def TRU_VFY_RES_LMS_FAIL : Fld := ⟨0x40020010, 0x0, 0x0, 4, 1⟩
def TRU_VFY_RES_ROOT : Fld := ⟨0x40020010, 0x0, 0x0, 5, 3⟩
def TRU_OTP_CMD_OP : Fld := ⟨0x40020014, 0x0, 0x0, 0, 3⟩
def TRU_OTP_CMD_SLOT : Fld := ⟨0x40020014, 0x0, 0x0, 8, 3⟩
def TRU_OTP_CMD_INDEX : Fld := ⟨0x40020014, 0x0, 0x0, 16, 6⟩
def TRU_OTP_CMD_VALUE : Fld := ⟨0x40020014, 0x0, 0x0, 22, 9⟩
def TRU_OTP_CMD_GO : Fld := ⟨0x40020014, 0x0, 0x0, 31, 1⟩
def TRU_OTP_ADDR_HI_ADDR_HI : Fld := ⟨0x4002001C, 0x0, 0x0, 0, 16⟩
def TRU_OTP_STAT_RESULT : Fld := ⟨0x40020020, 0x0, 0x0, 0, 3⟩
def TRU_RB_SEL_SEL : Fld := ⟨0x40020024, 0x0, 0x0, 0, 6⟩
def TRU_RB_VAL_VAL : Fld := ⟨0x40020028, 0x0, 0x0, 0, 9⟩
def TRU_MEAS_CNT_CNT : Fld := ⟨0x4002002C, 0x0, 0x0, 0, 7⟩
def TRU_MEAS_CNT_OVERFLOW : Fld := ⟨0x4002002C, 0x0, 0x0, 7, 1⟩
def TRU_ATT_HI_ADDR_HI : Fld := ⟨0x40020034, 0x0, 0x0, 0, 16⟩
def TRU_ATT_HI_GO : Fld := ⟨0x40020034, 0x0, 0x0, 16, 1⟩
def TRU_ATT_STAT_STATUS : Fld := ⟨0x40020038, 0x0, 0x0, 0, 3⟩
def TRU_LMS_Q_Q : Fld := ⟨0x4002003C, 0x0, 0x0, 0, 21⟩
def TRU_LMS_LIMIT_LIMIT : Fld := ⟨0x40020040, 0x0, 0x0, 0, 21⟩
def TRU_LMS_RESV_RESV : Fld := ⟨0x40020044, 0x0, 0x0, 0, 9⟩
def TRU_LMS_HI_ADDR_HI : Fld := ⟨0x4002004C, 0x0, 0x0, 0, 16⟩
def TRU_LMS_HI_OP : Fld := ⟨0x4002004C, 0x0, 0x0, 16, 2⟩
def TRU_LMS_HI_GO : Fld := ⟨0x4002004C, 0x0, 0x0, 18, 1⟩
def TRU_LMS_STAT_STATUS : Fld := ⟨0x40020050, 0x0, 0x0, 0, 2⟩
def TRU_DBG_HI_ADDR_HI : Fld := ⟨0x40020058, 0x0, 0x0, 0, 16⟩
def TRU_DBG_HI_OP : Fld := ⟨0x40020058, 0x0, 0x0, 16, 2⟩
def TRU_DBG_HI_GO : Fld := ⟨0x40020058, 0x0, 0x0, 18, 1⟩
def TRU_DBG_STAT_STATUS : Fld := ⟨0x4002005C, 0x0, 0x0, 0, 3⟩
def TRU_ALERT_BITS : Fld := ⟨0x400200B0, 0x0, 0x0, 0, 6⟩
def TRU_EVMASK_BITS : Fld := ⟨0x400200B4, 0x0, 0x0, 0, 6⟩
def TRU_PMC_CFG_EVENT : Fld := ⟨0x400200C0, 0x0, 0x0, 0, 8⟩
def TRU_PMC_CFG_EN : Fld := ⟨0x400200C0, 0x0, 0x0, 8, 1⟩
def TRU_PMC_CFG_CHAIN : Fld := ⟨0x400200C0, 0x0, 0x0, 9, 1⟩
def TRU_PMC_CFG_XPRIV : Fld := ⟨0x400200C0, 0x0, 0x0, 10, 3⟩
def TRU_PMC_CFG_XCLASS : Fld := ⟨0x400200C0, 0x0, 0x0, 13, 4⟩
def TRU_PMC_CFG_MASTER_EN : Fld := ⟨0x400200C0, 0x0, 0x0, 17, 1⟩
def TRU_PMC_CFG_MASTER : Fld := ⟨0x400200C0, 0x0, 0x0, 18, 5⟩
def TRU_PMC_CFG_ADDR_EN : Fld := ⟨0x400200C0, 0x0, 0x0, 23, 1⟩
def TRU_PMC_CFG_ADDR_SEL : Fld := ⟨0x400200C0, 0x0, 0x0, 24, 2⟩
def TRU_PMC_CFG_OVF_EV : Fld := ⟨0x400200C0, 0x0, 0x0, 26, 1⟩
def LDG_CTL_EN : Fld := ⟨0x40070000, 0x0, 0x0, 0, 1⟩
def LDG_CTL_BOOT_WE : Fld := ⟨0x40070000, 0x0, 0x0, 1, 1⟩
def LDG_CTL_CLK : Fld := ⟨0x40070000, 0x0, 0x0, 2, 2⟩
def LDG_STAT_STATE : Fld := ⟨0x40070004, 0x0, 0x0, 0, 2⟩
def LDG_STAT_RESULT : Fld := ⟨0x40070004, 0x0, 0x0, 2, 4⟩
def LDG_CMD_OP : Fld := ⟨0x40070008, 0x0, 0x0, 0, 2⟩
def LDG_CMD_CS : Fld := ⟨0x40070008, 0x0, 0x0, 2, 1⟩
def LDG_CMD_GO : Fld := ⟨0x40070008, 0x0, 0x0, 3, 1⟩
def LDG_FADDR_ADDR : Fld := ⟨0x4007000C, 0x0, 0x0, 0, 26⟩
def LDG_MADDR_HI_ADDR_HI : Fld := ⟨0x40070014, 0x0, 0x0, 0, 16⟩
def LDG_EVMASK_DONE_EN : Fld := ⟨0x4007002C, 0x0, 0x0, 0, 1⟩
def LDG_EVMASK_ERR_EN : Fld := ⟨0x4007002C, 0x0, 0x0, 1, 1⟩
def LDG_LAST_RESULT : Fld := ⟨0x4007003C, 0x0, 0x0, 0, 4⟩
def LDG_LAST_CS : Fld := ⟨0x4007003C, 0x0, 0x0, 4, 1⟩
def LDG_LAST_FADDR : Fld := ⟨0x4007003C, 0x0, 0x0, 5, 26⟩
def LDG_PMC_CFG_EVENT : Fld := ⟨0x40070040, 0x0, 0x0, 0, 8⟩
def LDG_PMC_CFG_EN : Fld := ⟨0x40070040, 0x0, 0x0, 8, 1⟩
def LDG_PMC_CFG_CHAIN : Fld := ⟨0x40070040, 0x0, 0x0, 9, 1⟩
def LDG_PMC_CFG_XPRIV : Fld := ⟨0x40070040, 0x0, 0x0, 10, 3⟩
def LDG_PMC_CFG_XCLASS : Fld := ⟨0x40070040, 0x0, 0x0, 13, 4⟩
def LDG_PMC_CFG_MASTER_EN : Fld := ⟨0x40070040, 0x0, 0x0, 17, 1⟩
def LDG_PMC_CFG_MASTER : Fld := ⟨0x40070040, 0x0, 0x0, 18, 5⟩
def LDG_PMC_CFG_ADDR_EN : Fld := ⟨0x40070040, 0x0, 0x0, 23, 1⟩
def LDG_PMC_CFG_ADDR_SEL : Fld := ⟨0x40070040, 0x0, 0x0, 24, 2⟩
def LDG_PMC_CFG_OVF_EV : Fld := ⟨0x40070040, 0x0, 0x0, 26, 1⟩
def PERF_CTL_SNAP : Fld := ⟨0x40060000, 0x0, 0x0, 0, 1⟩
def PERF_CTL_AUTO_CATCH : Fld := ⟨0x40060000, 0x0, 0x0, 1, 1⟩
def PERF_CTL_DUMP_EN : Fld := ⟨0x40060000, 0x0, 0x0, 2, 1⟩
def PERF_CTL_DUMP_SLOTS : Fld := ⟨0x40060000, 0x0, 0x0, 3, 4⟩
def PERF_CTL_ZERO : Fld := ⟨0x40060000, 0x0, 0x0, 7, 1⟩
def PERF_STAT_SNAP_BUSY : Fld := ⟨0x40060004, 0x0, 0x0, 0, 1⟩
def PERF_STAT_DUMP_BUSY : Fld := ⟨0x40060004, 0x0, 0x0, 1, 1⟩
def PERF_STAT_CFG_PENDING : Fld := ⟨0x40060004, 0x0, 0x0, 2, 1⟩
def PERF_STAT_ZERO_PENDING : Fld := ⟨0x40060004, 0x0, 0x0, 3, 1⟩
def PERF_SNAP_CAUSE_CAUSE : Fld := ⟨0x4006001C, 0x0, 0x0, 0, 2⟩
def PERF_SNAP_CAUSE_REQ : Fld := ⟨0x4006001C, 0x0, 0x0, 2, 5⟩
def PERF_DUMP_HI_ADDR_HI : Fld := ⟨0x40060024, 0x0, 0x0, 0, 16⟩
def PERF_SH_SEL_SEL : Fld := ⟨0x4006002C, 0x0, 0x0, 0, 8⟩
def PERF_SH_HI_VALUE_HI : Fld := ⟨0x40060034, 0x0, 0x0, 0, 16⟩
def PERF_SH_HI_OVF : Fld := ⟨0x40060034, 0x0, 0x0, 16, 1⟩
def PERF_EVMASK_SNAP_EN : Fld := ⟨0x4006007C, 0x0, 0x0, 0, 1⟩
def PERF_EVMASK_OVF_EN : Fld := ⟨0x4006007C, 0x0, 0x0, 1, 1⟩
def PERF_TD_SEL_CORE : Fld := ⟨0x40060080, 0x0, 0x0, 0, 4⟩
def PERF_TD_SEL_T : Fld := ⟨0x40060080, 0x0, 0x0, 4, 2⟩
end F

end Sys2Proof.Machine
end

