-- ==== Sys2Proof/Machine/State.lean ====
section
/-!
DEFINITION. The state of the device, as plain data: the register window, memory, the cores, the internal state of every unit,
the pins, and the queue of the commands that wait.
-/
namespace Sys2Proof.Machine

/-- Why a command stops with a fault: no command does. Where the spec gives no result the machine goes on with free values (R3, R601). -/
inductive Fault where
deriving DecidableEq, Repr

/-- Why a command is refused by the model. -/
inductive Refusal where
  /-- The command has no meaning in the model yet: raised by no arm of `exec`. Safe. -/
  | notModelled (mnemonic : String)
deriving DecidableEq, Repr

/-- What leaves the device. -/
inductive Out where
  /-- One MSI-X message with its vector (R396). -/
  | msix (vec : Nat)
  /-- A brick sent down strand `s` (R175–R190): its bytes from the header to the CRC, the bits on the lane from the last idle bit to the last
  bit of the CRC, and the transmit taps PRE, MAIN, POST as they act (R213). -/
  | brick (s : Nat) (bytes : List Byte) (line : List Bool) (taps : Nat × Nat × Nat)
  /-- A pattern begins on lane `lane`, a strand's below 96, then a mortar link's: 0 idle, 1 training, 2 PRBS31 inside the port, 3 PRBS31 on
  the pins (R206, R213, R292, R305). -/
  | pattern (lane kind : Nat)
  /-- A census frame, or a pulse, on census wire `s` (R215–R220). -/
  | census (s : Nat) (bytes : List Byte)
  /-- A block sent on mortar link `m` (R282–R288): its header, its 640 data bytes, its line (PAM4 symbols, or bits from the marker to the last
  bit of the CRC), the UI of idle that fill its period, the last of them 0, and the transmit taps. -/
  | mortar (m hdr : Nat) (data : List Byte) (line : List Nat) (fill : Nat) (taps : Nat × Nat × Nat)
  /-- A PTP message of type `mtype` sent on network port `n`, in its domain's transport (R249–R255). -/
  | ptp (n mtype : Nat) (bytes : List Byte)
  /-- A frame sent on network port `n`. -/
  | net (n : Nat) (bytes : List Byte)
  /-- A management frame handed on, an I²C byte string or another serial exchange of unit `u`. -/
  | serial (u : Nat) (bytes : List Byte)
  /-- A data word returned to the requester of a read through the host interface. -/
  | reply (who : Nat) (v : Nat)
  /-- A poisoned completion of a read of memory by an agent (R409). -/
  | poisonedCpl (who : Nat) (a : Nat)
deriving DecidableEq, Repr

/-- Privilege of a core (R309). -/
inductive Priv where
  | u | m | w
deriving DecidableEq, Repr

/-- PRIV code of R307. -/
def Priv.code : Priv → Nat
  | .u => 0 | .m => 1 | .w => 2

/-- Privilege of a PRIV code (R307); code 3 names none, and no register comes to hold it. -/
def Priv.ofCode : Nat → Priv
  | 1 => .m | 2 => .w | _ => .u

/-- What a core that has begun an instruction waits for (R368). -/
inductive CoreWait where
  /-- Nothing: the core runs. -/
  | none
  /-- WAIT: destination, slot mask, and the time of the timeout (R321). -/
  | wait (d : Nat) (mask : Nat) (deadline : Option Nat)
  /-- TICK: destination (R322). -/
  | tick (d : Nat)
  /-- SYS: service and the time of the 10 ms limit (R331). -/
  | sys (svc : Nat) (deadline : Nat)
  /-- ISSUE: source register, ring and count (R365). -/
  | issue (a ring n : Nat)
deriving DecidableEq, Repr

/-- Whether a core runs (COX_STAT.STATE, R343); a running core may wait. -/
inductive CoreRun where
  | halted | running | faulted
deriving DecidableEq, Repr

/-- One line of a core's data cache (R314): its 64 bytes and whether they are dirty. -/
structure CacheLine where
  bytes : List Byte
  dirty : Bool
deriving DecidableEq, Repr

/-- The results that an atomic writes when its round trip ends (R361): gd, and p7 for ACAS. -/
structure AtomicWait where
  d : Nat
  old : Word
  p7 : Option Bool
deriving DecidableEq, Repr

/-- What the last instruction of a core leaves for the pairing rules of R371. -/
structure PairInfo where
  /-- The registers (0–31) and predicates (32–39) that it writes. -/
  writes : List Nat
  mem : Bool
  mul : Bool
deriving DecidableEq, Repr

/-- A cox core (R306, R307), its caches (R314), its event slots (R320), its waits and its cycle counts. -/
structure Core where
  /-- g1–g31; g0 reads 0. -/
  g : KMap Word
  /-- p1–p7 in bits 7–1; p0 reads 1. -/
  p : Nat
  pc : Word
  priv : Priv
  ppriv : Nat
  inexc : Bool
  epc : Word
  cause : Nat
  tval : Word
  tvec : Word
  scratch : Word
  umask : Nat
  watch0 : Word
  watch1 : Word
  /-- Bit k: slot k is latched. -/
  evpend : Nat
  /-- EVENT and EN of each slot: bits [9:0] and [16]. -/
  evslot : KMap Nat
  run : CoreRun
  wait : CoreWait
  /-- Destinations of the outstanding loads, oldest first, with the cycle in which each returns (R360). -/
  loads : List (Nat × Nat)
  /-- The cycles in which the entries of the store buffer fall free (R360). -/
  stores : List Nat
  /-- Lines that FLUSH has written back and that no FENCE has made visible (R316). -/
  flushed : KMap (List Byte)
  /-- An atomic whose round trip has not ended (R361). -/
  atomic : Option AtomicWait
  dcache : KMap CacheLine
  icache : List Nat
  /-- Cycles counted against the budget in this stroke (R324). -/
  bcount : Nat
  /-- The budget in force (R323). -/
  budget : Nat
  /-- BUDGET has been raised in this stroke. -/
  budgetHit : Bool
  /-- BUDGET is due at the next boundary outside an exception (R325). -/
  budgetDue : Bool
  /-- Cycle, on the core's own count, from which each register may be read (R372). -/
  ready : KMap Nat
  /-- The core's own count of issue cycles. -/
  cyc : Nat
  /-- The last instruction, while the second slot of its cycle is open (R371). -/
  pair : Option PairInfo
  /-- Ends of waits whose slots the core's programmable counter has yet to count. -/
  owed : Nat
  /-- Header address of the running image, 0 for none (R338). -/
  image : Nat
  /-- Finishes that a pending replacement has been examined at. -/
  swapTries : Nat
  /-- The submitted image and the finishes allowed to it (R338). -/
  swapAddr : Nat
  swapMax : Nat
  /-- Header address of an image that starts at the next catch. -/
  swapStart : Option Nat
deriving DecidableEq, Repr

/-- State of the counters (R558–R574) beside the registers. -/
structure Perf where
  /-- The configuration that each counter counts under (R564). -/
  cfg : KMap Nat
  /-- Counters whose written configuration waits for the epoch. -/
  waiting : List Nat
  /-- Shadow of each counter: value and wrap flag in bit 48. -/
  shadow : KMap Nat
  /-- Top-down counters, 4n + t (R571). -/
  td : KMap Nat
  /-- The trigger that waits for its epoch: time, cause, requester. -/
  trigger : Option (Nat × Nat × Nat)
  /-- DUMP_SLOTS and base address latched while a dump runs (R573). -/
  dumpBase : Nat
  dumpSlots : Nat
  /-- Local time of the last epoch (R568). -/
  epochAt : Nat
  /-- Local time up to which the CYCLES counters have counted (R562). -/
  cycAt : Nat
deriving DecidableEq, Repr, Inhabited

/-- A DRAM channel (R410–R426) beside its registers. -/
structure Dram where
  /-- The four timing sets: 8 × index + register (0–3 DRC_TIM, 4 DRC_VREF). -/
  tim : KMap Nat
  /-- The delays of the four sets: 2048 × index + DRC_DLY_SEL. -/
  dly : KMap Nat
  /-- The failure counters of bits 0–79 (R415). -/
  bitCnt : KMap Nat
  /-- Index at which a capture runs. -/
  capture : Option Nat
  /-- Captures of a running sweep that have ended, and length of the passing run that ends at the last one. -/
  sweep : Option (Nat × Nat)
  /-- Longest passing run of the sweep, in steps, and its last step. -/
  best : Nat × Nat
  /-- Failures of the selected bit when the running capture began. -/
  failsBefore : Nat
  /-- A DFC that waits for the capture window to close (R417). -/
  heldDfc : Option Nat
  /-- The index that a running frequency change goes to, and the state it returns to. -/
  freqTo : Option (Nat × Nat)
  /-- Mode registers of the devices: 512 × rank + 256 × subchannel + register. -/
  mr : KMap Nat
  /-- Ranks in power-down, bit per rank (R419). -/
  powerDown : Nat
  /-- Times of the parity errors of the last 1 ms, per rank: (rank, time). -/
  capar : List (Nat × Nat)
  /-- The channel is leaving self-refresh. -/
  leaving : Bool
  /-- RESET_N of the channel's devices has been released since PWR_OK (R418, R597). -/
  released : Bool
  /-- State to return to after migration or self-refresh. -/
  under : Nat
  /-- Local time of the last command to each rank (R419, R420), and of the start of the running migration (R426). -/
  cmdAt : KMap Nat
  migAt : Nat
deriving DecidableEq, Repr, Inhabited

/-- The host endpoint (R392–R397) beside its registers. -/
structure HostPort where
  /-- MSI-X: masked vectors and pending bits, bit per vector (R396). -/
  masked : Nat
  pend : Nat
  /-- MSI-X table: words 0–2 of entry v at 4v … 4v + 2 (R393, R396). -/
  table : KMap Nat
  /-- Class code in configuration space (R392). -/
  classCode : Nat
  /-- Subsystem IDs in configuration space (R392, R537). -/
  subsystem : Nat
  /-- Max_Payload_Size in bytes (R392). -/
  maxPayload : Nat
  /-- The host has failed a unit's request that is yet to come: no completion, or Unsupported Request (R394). -/
  failed : Bool
deriving DecidableEq, Repr, Inhabited

/-- A request of R50: RATE, SOURCE, RECOVERY_US and MARGIN_US as the write with GO carried them. -/
structure StrokeReq where
  rate : Nat
  source : Nat
  recovery : Nat
  margin : Nat
deriving DecidableEq, Repr

/-- An accepted request (R51): the windows in µs that take effect, whether it runs a seam, and the HSOFF sampled. -/
structure StrokeAccept where
  rate : Nat
  source : Nat
  recovery : Nat
  margin : Nat
  seam : Bool
  /-- TIME_CTL.SET_ARM read 1 at the check, and the counter is loaded from the domain clock in force (R248). -/
  setArm : Bool
  load : Bool
  hsoff : Nat
  /-- The device's own relock seam (R37): RESULT does not change. -/
  own : Bool
deriving DecidableEq, Repr

/-- The stroke engine (R28–R51) beside its registers. -/
structure Stroke where
  /-- Time of the catch that began the stroke. -/
  lastCatch : Nat
  /-- The recovery window is open. -/
  recovery : Bool
  /-- A request that waits for its check, and whether its GO landed after the finish of the stroke. -/
  req : Option StrokeReq
  reqLate : Bool
  /-- The request accepted in the open recovery window. -/
  accept : Option StrokeAccept
  /-- Time of catch A while a transition interval runs (R51). -/
  trans : Option Nat
  /-- The bond of catch A's show time has been admitted. -/
  admitted : Bool
  /-- HSOFF in force, as TIME_STK_HSOFF encodes it. -/
  hsoff : Nat
  /-- A number that software loaded for the next catch (R38). -/
  numLoad : Option Nat
  /-- HOUSE_SYNC (R36, R37), on the local timebase, which no load of the time counter moves: time of the last counted edge; spacings since
  the lock or the count began, newest first; predicted time of the open slot and PERIOD, in twelfths of a ns. -/
  hsLast : Nat
  hsSpacings : List Nat
  hsPred : Nat
  hsPeriod : Nat
  /-- Predicted time of the slot before the open one, and how many slots the next catch's slot lies after that one. -/
  hsOld : Nat
  hsLead : Nat
  /-- An edge was accepted for the slot before the open one. -/
  hsPrevHit : Bool
  /-- Free-run of R36 after 8 misses under SOURCE 2: predicted time of the next catch's slot and the kept period, in twelfths of a ns. -/
  hsFree : Option (Nat × Nat)
  /-- A relock seam of R37 waits. -/
  relock : Bool
  /-- Qualifying show times in the running run, and the number of the held show time (R46); 0: not holding. -/
  qual : Nat
  held : Nat
  /-- The next catch lights a held show time that is no refresh: no swap. -/
  noSwap : Bool
  /-- Something of R46's list takes effect at the last catch: the show time being decided does not qualify. -/
  changed : Bool
  /-- STROKE_OUT is high. -/
  strokeOut : Bool
  /-- The shells and conditioning state a tolerance of 0 ahead of a catch that ends or refreshes a hold (R421). -/
  wake : Bool
deriving DecidableEq, Repr, Inhabited

/-- A PTP domain clock and its servo (R246, R256–R258). Times in 2^-16 ns, frequencies in 2^-16 ppb. -/
structure PtpDomain where
  /-- The domain clock: ns, and the 32-bit fraction. -/
  clk : Nat
  clkFrac : Nat
  /-- Servo output, integrator, and the last 4,096 values of the integrator, newest first. -/
  y : Int
  i : Int
  iHist : List Int
  /-- mpdf; none before the first exchange. -/
  mpdf : Option Int
  /-- A two-step Sync that waits for its Follow_Up: sequenceId, t2, correctionField. -/
  sync : Option (Nat × Int × Int)
  /-- sm of an exchange that ended since the last complete Sync (R256). -/
  sm : Option Int
  /-- The Delay_Req that waits for its Delay_Resp: sequenceId and t3. -/
  dreq : Option (Nat × Int)
  dreqSeq : Nat
  syncSeq : Nat
  /-- logMessageInterval of the master's last Delay_Resp; below every interval before the first. -/
  respLog : Int
  /-- Local time of the next Delay_Req (R252). -/
  dreqAt : Nat
  /-- The master in force, clockIdentity, portNumber and source, and the one named since the last Sync (R259). -/
  master : Option (Nat × Nat × Nat)
  named : Option (Nat × Nat × Nat)
  everLocked : Bool
  /-- Consecutive offsets within LOCK_NS, beyond UNLOCK_NS, and discarded as outliers. -/
  good : Nat
  bad : Nat
  outl : Nat
  /-- Local time of the last accepted Sync, and of the entry to the state. -/
  lastSync : Nat
  since : Nat
  /-- It was LOCKED when it entered HOLDOVER, and is still there (R265). -/
  heldLocked : Bool
deriving DecidableEq, Repr

/-- A claim of R272: class, requester, and the trigger whose route holds the pin (none: owner use, or the trigger itself). -/
structure Claim where
  cls : Nat
  req : Nat
  trig : Option Nat
deriving DecidableEq, Repr

/-- What a trigger has beside its registers (R269). -/
structure Trig where
  /-- Local time of the write that enabled or changed it, and counter time of its last firing. -/
  changed : Nat
  lastFire : Option Nat
  /-- A ONCE that has fired or missed. -/
  done : Bool
deriving DecidableEq, Repr

/-- The TIME unit (R246–R275) beside its registers. -/
structure TimeUnit where
  /-- Rate of the time counter against nominal, in 10^-6 ppb. -/
  rate : Int
  dom : KMap PtpDomain
  /-- Local time at which a domain was last LOCKED. -/
  lockedAt : Nat
  trig : KMap Trig
  /-- Claims by resource: 0–15 TTn, 32–63 GPIO, 64–67 CAM_TRIG (R272). -/
  claims : KMap (Option Claim)
  /-- A trigger pulse on a pin, by resource: local time of its end, its active level, the trigger. -/
  pulse : KMap (Option (Nat × Bool × Nat))
  /-- Local time of the last captured edge of each capture. -/
  capLast : KMap (Option Nat)
  /-- Local time at which PPS_OUT falls while it is high, and the whole second of the counter at which it rose last. -/
  pps : Option Nat
  ppsAt : Option Nat
  /-- Local time of the next Sync, by 2 × source + domain (R301). -/
  syncAt : KMap Nat
deriving DecidableEq, Repr, Inhabited

/-- A frame in a mortar link's transmit queue (R288–R291). -/
structure MortarFrame where
  ftype : Nat
  cls : Nat
  arg0 : Nat
  arg1 : Nat
  payload : List Byte
  /-- Priority of R291: 1 to 6, classes 1–3 last. -/
  prio : Nat
  /-- A PTP event message of this device, stamped at its departure: (kind, domain); kind 1 one-step Sync, 2 two-step Sync,
  3 Delay_Req (R254, R255). -/
  stamp : Option (Nat × Nat)
  /-- The last frame of a point job: address of its job element (R297). -/
  jobEnd : Option Nat
deriving DecidableEq, Repr

/-- A mortar link (R282–R302) beside its registers. -/
structure Mortar where
  queue : List MortarFrame
  /-- MODE, PRECODE and MRT_TXEQ in force since ENABLE (R292). -/
  mode : Nat
  precode : Bool
  txeq : Nat
  enabledAt : Nat
  /-- Local time at which the running attempt began. -/
  tryAt : Nat
  adapted : Bool
  /-- Consecutive good blocks, the last BSEQ, and the bytes of the frame being assembled from an 8-byte boundary. -/
  good : Nat
  bseq : Option Nat
  asm : Option (List Byte)
  lastGood : Nat
  /-- Local times of the last 17 discarded blocks, newest first (R287). -/
  discards : List Nat
  everUp : Bool
  /-- Local time of the last valid HELLO received, and of the last one queued. -/
  helloAt : Nat
  helloTx : Nat
  /-- A point job being sent: element address, next fragment. -/
  job : Option (Nat × Nat)
  /-- The transmitter: local time in 2^-32 ns at which block 0 began, the next block's number, the data already laid into it and FIRST, and
  the last precoded symbol (R283, R284, R288). -/
  txAt : Nat
  txBlk : Nat
  txPart : List Byte
  txFirst : Nat
  txLast : Nat
  /-- The receiver: its last symbol, and whether it inverts its input (R180, R284). -/
  rxLast : Nat
  rxInv : Bool
deriving DecidableEq, Repr, Inhabited

/-- An object that a landing entry holds (R63, R73): the fields its pallets share, and how far it is. -/
structure IngObj where
  stream : Nat
  kind : Nat
  object : Nat
  cls : Nat
  /-- SHOW_TIME as sent and extended (R72). -/
  show32 : Nat
  showTime : Nat
  /-- The shared fields that OBJ_MISMATCH compares. -/
  fields : List Nat
  objLen : Nat
  user : Nat
  ochk : Bool
  crc : Nat
  nfrag : Nat
  /-- Source of the last fragment. -/
  source : Nat
  outBytes : Nat
  /-- Slices that have not ended, and whether one had a rate-buffer fault. -/
  slices : Nat
  sliceErr : Bool
deriving DecidableEq, Repr

/-- A slice that waits for a decoder or is in one (R80): landing entry, slice index, class. -/
structure DscSlice where
  entry : Nat
  idx : Nat
  cls : Nat
deriving DecidableEq, Repr

/-- Ingest (R60–R88) beside its registers and its tables in the yard. -/
structure Ingest where
  /-- Objects by the address of their landing entry. -/
  objs : KMap (Option IngObj)
  dscWait : List DscSlice
  dscRun : List DscSlice
  /-- COURSE_Z objects that wait for a zip engine: landing entry and class (R81). -/
  zWait : List (Nat × Nat)
deriving DecidableEq, Repr, Inhabited

/-- A fiducial job loaded into the on-chip table (R499–R503). -/
structure FidJob where
  showTime : Nat
  tag : Nat
  add : Bool
  neg : Bool
  count : Nat
  /-- Entries: ray, components, value. -/
  entries : List (Nat × Nat × Nat)
  /-- Rays substituted so far. -/
  rays : Nat
  /-- A seam was accepted for the catch that would begin its stroke: nothing is substituted (R502). -/
  notLit : Bool
deriving DecidableEq, Repr

/-- Plumb (R488–R503) beside its registers. -/
structure Plumb where
  /-- Local time at which the running run began, and the domain's temperature then. -/
  runAt : Nat
  runTemp : Nat
  /-- Active and shadow sets of the domains: 56 bytes, in a form private to the device. -/
  active : KMap (List Byte)
  shadow : KMap (List Byte)
  /-- Temperatures at the start of the runs whose sets wait. -/
  waitTemp : KMap Nat
  /-- The counter 1 ns before a set was last ready. -/
  readyAt : Nat
  /-- VALID of the trim record, and STROKE of each domain (R497). -/
  valid : Nat
  stroke : KMap Nat
  fid : Option FidJob
  /-- PI of the fiducial ring at the last finish, and whether a job was loaded in the open recovery window. -/
  fidPi : Nat
  fidDone : Bool
deriving DecidableEq, Repr, Inhabited
/-- A course descriptor (R97), its fields as the device reads them. -/
structure CourseDesc where
  fmt : Nat
  alpha : Nat
  geom : Nat
  static : Bool
  overlay : Bool
  matrix : Nat
  range : Nat
  keyInv : Bool
  waitEn : Bool
  cObj : Bool
  waitStream : Nat
  w : Nat
  h : Nat
  x0 : Int
  y0 : Int
  wmm : Nat
  hmm : Nat
  depth : Int
  constAlpha : Nat
  bandRows : Nat
  keyLo : Nat
  keySlope : Nat
  plane0 : Nat
  plane1 : Nat
  planeA : Nat
  pitch0 : Nat
  pitch1 : Nat
  pitchA : Nat
  hom : List Int
deriving DecidableEq, Repr

/-- A course of an admitted bond, with what its admission derived (R104–R106, R119): the filter radii, required_rows, the rows
allocated, and the yard address of the flattened course that stands in the run's place (R112). -/
structure Course where
  idx : Nat
  desc : CourseDesc
  kv : Nat
  ku : Nat
  need : Nat
  rows : Nat
  flat : Option Nat
deriving DecidableEq, Repr

/-- A bond as admitted (R102): the background in Q12.4, and the courses that are rendered, in bond order. -/
structure Bond where
  bg : List Nat
  courses : List Course
deriving DecidableEq, Repr

/-- A run with space in the flattening area (R110–R112): its first member, its length, the geometry it was formed with, the yard
address and bytes of its pixels, and whether its build is complete. -/
structure FlatRun where
  first : Nat
  count : Nat
  addr : Nat
  size : Nat
  built : Bool
deriving DecidableEq, Repr

/-- A rendered ray on its way to conditioning (R127). -/
structure Ray where
  addr : Nat
  c : List Nat
  quick : Bool
  clamp : Bool
  term : Bool
deriving DecidableEq, Repr

/-- A bundle (R131): the rays of the hogel at column `col`, row `row` of the tile with record index `tile`; `top` is the line that
was at the top of the shell's group when an oar took it, `quick` whether it is rendered in quick mode. -/
structure Bundle where
  tile : Nat
  row : Nat
  col : Nat
  /-- Record index and row of the first entry of the group's top line (R132). -/
  topTile : Nat
  topRow : Nat
  quick : Bool
deriving DecidableEq, Repr

/-- A bundle being checked (R135): the oars of the first and the checking render. -/
structure Check where
  bundle : Bundle
  oar : Nat
  checker : Nat
deriving DecidableEq, Repr

/-- A shell (R130–R138) beside its registers. -/
structure Shell where
  /-- Lines of its share that are not rendered, from the top: entries (record index, row). -/
  lines : List (List (Nat × Nat))
  /-- Next hogel column of the first entry left in the top line, and that line's own first entry. -/
  col : Nat
  topTile : Nat
  topRow : Nat
  unrendered : Nat
  /-- EV_SHELL_CLAMP has been raised in this stroke. -/
  clampEv : Bool
  /-- Quick mode ran in this stroke. -/
  late : Bool
  samp : Nat
  /-- Bundles taken, and the oar whose turn it is to check another. -/
  taken : Nat
  turn : Nat
  /-- Bundles of oars that wait for a band row. -/
  stalled : KMap (Option Bundle)
  /-- Bundles to render again (R136). -/
  again : List Bundle
  check : Option Check
  /-- The command that waits for its catch: oar and OP. -/
  cmd : Option (Nat × Nat)
  /-- Oars with a self-test requested; the result of a restore's self-test. -/
  tests : Nat
  passed : Option Bool
  /-- GROUP_ROWS, CHECK_EN, CHECK_LOG, ENABLE and AUTO_RETIRE in force since the last admission (R140). -/
  ctl : Nat
deriving DecidableEq, Repr, Inhabited

/-- The rendering of rays (R20–R27, R93–R146) beside its registers and its tables in the yard. -/
structure Render where
  /-- Tile bank in force, and its copy of the view tables: 512 × table + word (R407). -/
  bank : Nat
  views : KMap Nat
  /-- Bank and copy accepted in the open recovery window. -/
  nextBank : Option (Nat × KMap Nat)
  /-- TT_REQ, CD_REQ and CD_CURVE as they stood at the finish (R22, R162, R167). -/
  ttReq : Nat
  cdReq : Nat
  cdCurve : Nat
  /-- The line list (R130): lines of entries (record index, row), from the top. -/
  lines : List (List (Nat × Nat))
  /-- pv_max, pu_max and the smallest and largest vertical slope of the bank in force (R104). -/
  pv : Nat
  pu : Nat
  sMin : Int
  sMax : Int
  /-- The bond lit, or being rendered; none since power-on or warm reset (R43). -/
  bond : Option Bond
  /-- The bond table of the bond admitted before, header and descriptors (R46, R109). -/
  table : List Byte
  /-- Stability counts by course index (R109). -/
  counts : KMap Nat
  flats : List FlatRun
  /-- FLAT_BASE and FLAT_SIZE as read at the previous admission. -/
  flatArea : Nat × Nat
  /-- Show time whose rays are being rendered, while rays are rendered in this stroke. -/
  showT : Option Nat
  /-- Kiln stage 2 applies (R524), by its latch at the catch. -/
  stage2 : Bool
  /-- Since a warm reset: the tile bank, the map set, the curve are to be reinstated (bits 0, 1, 2), and are not yet in force. -/
  reinstate : Nat
  missing : Nat
  /-- Rays that wait for conditioning, oldest first. -/
  rays : List Ray
  /-- Devices (strand, position) to be bled and switched off in the next recovery window (R243). -/
  toBleed : List (Nat × Nat)
  shells : KMap Shell
deriving DecidableEq, Repr

/-- A map set as it came into force (R157). -/
structure MapSet where
  set : Nat
  gainEn : Bool
  gain : Nat
  dir : Nat
deriving DecidableEq, Repr

/-- What a ray in conditioning waits for. -/
inductive CondWait where
  | none
  | map
  | fifo (s : Nat)
deriving DecidableEq, Repr

/-- Ray conditioning (R147–R173) beside its header in the yard. -/
structure Cond where
  /-- Map set in force; none before the first accepted request. -/
  map : Option MapSet
  /-- Curve slot copy in force, as bytes. -/
  curve : List Byte
  /-- The mirror in force, its width, and whether it writes. -/
  mirror : Bool
  mirWide : Bool
  mirOn : Bool
  /-- Accepted in the open recovery window: a map set with mirror and width; a curve copy. -/
  nextMap : Option (MapSet × Bool × Bool)
  nextCurve : Option (List Byte)
  /-- The dither frame counter (R155). -/
  fcount : Nat
  /-- Rays moved, dark and orphan entries counted in this stroke. -/
  moved : Nat
  dark : Nat
  orphan : Nat
  /-- Addresses of the poisoned reads counted in this stroke; EV_COND_POISON has been raised. -/
  poisonSeen : List Nat
  poisonEv : Bool
  wait : CondWait
  /-- A mirror record has been written in this stroke; a ray has been conditioned; a ray has been staged. -/
  mirrored : Bool
  rendered : Bool
  sent : Bool
deriving DecidableEq, Repr

/-- A management brick that waits or is outstanding (R204, R205): the descriptor's header and reply fields. -/
structure MgmtReq where
  header : List Byte
  addr : Nat
  cap : Nat
  payload : List Byte
  /-- A RANGE that answers a request of STR_RANGE. -/
  own : Bool
  /-- Local time at which it left. -/
  sentAt : Nat
  /-- Local time at which it was taken from the ring. -/
  since : Nat
deriving DecidableEq, Repr

/-- A census operation in progress (R224). -/
structure CenOp where
  op : Nat
  pos : Nat
  key : Nat
  /-- Most devices to address, 0 for no limit; replies taken; the last frame has been retried; a reply is awaited. -/
  count : Nat
  replies : Nat
  retried : Bool
  waiting : Bool
  /-- RESULT, once the operation has ended. -/
  done : Option Nat
  seq : Nat
  /-- Local time at which the port's last frame ended, and the earliest for its next one (R221). -/
  sentAt : Nat
  idleTo : Nat
deriving DecidableEq, Repr

/-- A strand port (R174–R213) and its census (R214–R225) beside the registers and the yard. -/
structure Strand where
  /-- RATE in force since ENABLE (R206). -/
  rate : Nat
  /-- Local time of ENABLE, and of the last down brick. -/
  enabledAt : Nat
  lastDown : Nat
  /-- STR_CTL at the finish, WIDE and DITHER_EN accepted for the next catch, and the dither setting in force (R212). -/
  ctlReq : Nat
  nextFmt : Option (Bool × Bool)
  dither : Bool
  /-- The FIFO: the three fields of slot `slot` of position `pos` under 2^20 × pos + slot (R156, R203). -/
  fifo : KMap (Option Nat)
  /-- Word 0 of the driver contexts as latched at the last catch (R227). -/
  latched : KMap Nat
  /-- For the show time being sent: the next slot of each position, and its transmit tap (a CRC register). -/
  next : KMap Nat
  tap : KMap (Option Nat)
  /-- The show time of the last CATCH, its taps, the ACKs taken for it (RESULT and ECHO), and whether its cutoff is still to come. -/
  catchT : Option Nat
  chkTap : KMap (Option Nat)
  acks : KMap (Option (Nat × Nat))
  open_ : Bool
  /-- Consecutive cutoffs without an ACK, by position. -/
  silent : KMap Nat
  /-- Ranging: w and d of each position in 1/16 UI, positions whose last RANGE failed, the RANGE bricks that are out
  (position, local time, whether it answers STR_RANGE), the next position of rolling and initial ranging, the request that waits. -/
  w : KMap (Option Int)
  d : KMap (Option Int)
  failed : KMap Bool
  ranges : List (Nat × Nat × Bool)
  rangeNext : Nat
  rangeReq : Option Nat
  /-- Rolling ranging has sent its RANGE in this recovery window. -/
  rolled : Bool
  /-- Initial ranging runs; it has met a position that does not answer. -/
  ranging : Bool
  /-- Management bricks held back, in order, and those that are outstanding, oldest first. -/
  held : List MgmtReq
  out : List MgmtReq
  census : Option CenOp
  /-- The lane: counter time in 2^-32 ns at which the last bit of the last brick leaves (R175). -/
  laneEnd : Nat
  /-- Devices whose next brick is ready, in the order in which they became so (R201). -/
  ready : List Nat
  /-- Time of the last catch that had its CATCH or KEEP (R192, R199). -/
  keptTo : Nat
  /-- D_chain + MARGIN_US lay above 1,000 µs when LEAD was set last (R207). -/
  long : Bool
  /-- Local time of the last RANGE_R, of the last retry of a faulted port (R207), and of the next reading of CEN_REQ (R224). -/
  lastR : Nat
  retryAt : Nat
  cenPoll : Nat
  /-- Earliest local time for the next frame on the census wire: 20 µs after the last reply (R221). -/
  cenIdle : Nat
deriving DecidableEq, Repr, Inhabited


/-- A held mailbox notice (R386, R388): the configuration that its post took, and the local time of its timeout while one is to come. -/
structure MboxHeld where
  sender : Nat
  receiver : Nat
  txVec : Nat
  deadline : Option Nat
deriving DecidableEq, Repr, Inhabited

/-- The list that the trowel runs (R433, R434): the descriptor's fields, the next command, the pixels written, and the status that ends
it once a command has failed or an abort has taken effect. -/
structure TrwList where
  addr : Nat
  count : Nat
  ev : Bool
  tag : Nat
  index : Nat
  pixels : Nat
  status : Option Nat
deriving DecidableEq, Repr

/-- The trowel (R433–R450) beside its registers. -/
structure Trowel where
  list : Option TrwList
deriving DecidableEq, Repr, Inhabited

/-- A zip job that an engine has started (R451, R461): its descriptor, or the landing entry of ingest's job; its result where it is
decided before the end (BAD_JOB, POISON); and the output bytes at which an abort stopped it. -/
structure ZipJob where
  desc : Nat
  entry : Option Nat
  tag : Nat
  cls : Nat
  deflate : Bool
  code : Option Nat
  abort : Option Nat
deriving DecidableEq, Repr

/-- A zip engine: the running job, the suspended one, and the source of the last job taken (true ingest). -/
structure ZipEngine where
  job : Option ZipJob
  susp : Option ZipJob
  lastIngest : Bool
deriving DecidableEq, Repr

/-- A stream held between its jobs (R453, R459). INFLATE: `bits` is its input so far, `nbits` bits with the first bit of the stream the
least significant. DEFLATE: `data` is its uncompressed bytes so far, `nbits` the bits of output made. `part` is BITS of the last job,
`outMade` the uncompressed bytes before the next job, `outFull` says that the last job ended as OUT_FULL, and `check` is the running CHECK. -/
structure ZipStream where
  /-- Which free bytes the engine left in the buffer. -/
  key : Nat
  deflate : Bool
  wrap : Nat
  bits : Nat
  nbits : Nat
  data : List Byte
  part : Nat
  outMade : Nat
  outFull : Bool
  check : Nat
deriving DecidableEq, Repr

/-- Zip (R451–R463) beside its registers: the engines, and the resumable streams by the address of their state buffer. -/
structure Zip where
  engines : KMap ZipEngine
  streams : KMap (Option ZipStream)
deriving DecidableEq, Repr, Inhabited

/-- A frame of a camera port (R471, R472): frame number, times, the sensor's number, the settings sequence, a bit for each STATUS code met,
the lines so far as 16-bit samples, its raw slot where the port writes raw frames, whether it was dropped for want of one, whether it
has ended, and whether its predecessor on the port was dropped, truncated or absent (R477). -/
structure CamFrame where
  num : Nat
  sof : Nat
  eof : Nat
  fn : Nat
  setseq : Nat
  faults : Nat
  lines : List (List Nat)
  slot : Nat
  dropped : Bool
  ended : Bool
  fresh : Bool
deriving DecidableEq, Repr

/-- A camera port (R470–R475) beside its registers: what took effect at its enable, the frame in capture, the frames that wait for
pipe B, the raw slots in use (bit per slot), the settings records that wait (frame of force, SEQ) and the SEQ in force. -/
structure CamPort where
  lanes : Nat
  dt : Nat
  vc : Nat
  route : Nat
  w : Nat
  h : Nat
  cap : Option CamFrame
  wait : List CamFrame
  used : Nat
  setq : List (Nat × Nat)
  setNow : Nat
  lastBad : Bool
deriving DecidableEq, Repr

/-- A parameter set (R483): the staging registers from CAM_K_BLACK to CAM_K_CFA, and the tables that they name; `bad` says that a table
was read poisoned. -/
structure CamSet where
  black : List Nat
  wb : List Nat
  sat : Nat
  ccm : List Int
  off : List Int
  nr : Nat
  dpc : Nat
  defects : List (Nat × Nat)
  shade : Option (List Nat)
  tone : Option (List Nat)
  thresh : Nat
  area : Nat
  roi0 : Nat
  roi1 : Nat
  cfa : Nat
  bad : Bool
deriving DecidableEq, Repr

/-- A set being read or waiting: its port, target frame, sequence, the set, and the addresses of its defect list, shading and tone tables. -/
structure CamWait where
  port : Nat
  frame : Nat
  seq : Nat
  set : CamSet
  tabs : Nat × Nat × Nat
deriving DecidableEq, Repr

/-- A frame that a pipe processes: its port, the frame, the output slot, the output and statistics registers as they stood when the pipe
began it, its parameter set and PSEQ, LATE, whether a temporal reference is used and where it lies, and the lines processed when an abort
stopped it. -/
structure CamJob where
  port : Nat
  /-- The output ring that gave the frame its slot. -/
  ring : Nat
  frame : CamFrame
  w : Nat
  h : Nat
  raw : Nat
  slot : Nat
  out : Nat
  cfg : Nat
  pitch0 : Nat
  pitch1 : Nat
  coff : Nat
  stats : Nat
  statsCfg : Nat
  set : CamSet
  pseq : Nat
  late : Bool
  tnr : Bool
  refAt : Nat
  abort : Option Nat
deriving DecidableEq, Repr

/-- An image pipe (R474–R484) beside its registers: frames in order, sets in force and waiting by port (pipe A: under 0), the set being
read, and the port whose frame it processed just before. -/
structure CamPipe where
  jobs : List CamJob
  sets : KMap CamSet
  wait : KMap (Option CamWait)
  reading : Option CamWait
  ref : Option Nat
deriving DecidableEq, Repr

/-- The camera ports and pipes. -/
structure Cam where
  ports : KMap CamPort
  pipes : KMap CamPipe
deriving DecidableEq, Repr, Inhabited

/-- A transaction of an I²C bus (R531): target, bytes to read, and the bytes on the bus. -/
structure I2cXfer where
  addr : Nat
  rlen : Nat
deriving DecidableEq, Repr

/-- The board side of the device and the kiln (R509–R534) beside their registers. -/
structure Board where
  /-- PWR_OK is high, RESET_N is low, THERM_TRIP_N is driven low. -/
  pwrOk : Bool
  resetLow : Bool
  thermTrip : Bool
  /-- A DISARM waits for Off 1 in the next recovery window (R516). -/
  disarm : Bool
  /-- A boundary-scan instruction holds the pins (R596). -/
  bscan : Bool
  /-- Power monitors, mW; model values m_p and sensor errors e_i, Q8.8 (R519, R520). -/
  pmon : KMap Nat
  model : KMap Int
  errs : KMap Int
  /-- Local time of the last kiln evaluation (R519). -/
  kilnAt : Nat
  /-- Local time since which stage 3's readings lie below RELEASE (R523), and quarter milliseconds of stage 2 not yet counted. -/
  below : Option Nat
  quarter : Nat
  /-- Local time of the last good flash temperature reading (R527). -/
  flashAt : Nat
  i2c : KMap (Option I2cXfer)
deriving DecidableEq, Repr, Inhabited

/-- A ledger command in progress (R547): operation, chip select, first flash address, memory address, bytes; the bytes done; the data of the
page being programmed. -/
structure LdgOp where
  op : Nat
  cs : Nat
  faddr : Nat
  maddr : Nat
  len : Nat
  done : Nat
  page : List Byte
deriving DecidableEq, Repr

/-- The ledger unit (R542–R547) beside its registers: the command in progress, the size of a flash device, the bytes transferred by it. -/
structure Ledger where
  op : Option LdgOp
  flashBytes : Nat
  moved : List Byte
  /-- Retirements of oars that the device has still to record (R136, R543). -/
  retired : Nat
  /-- When the operation in progress was suspended for a read (R542). -/
  suspended : Option Nat
deriving DecidableEq, Repr

/-- A measurement (R541, R550): core, ROOT and WARDEN byte, IMAGE_ID, IMAGE_VER, low stroke bits of its start, SHA-384. -/
structure Meas where
  who : Nat
  image : Nat
  ver : Nat
  stroke : Nat
  hash : List Byte
deriving DecidableEq, Repr

/-- An OTP operation in progress (R538). -/
inductive OtpWork where
  | enrol (slot : Nat) (hash : List Byte)
  | revoke (slot : Nat)
  | advance (i v : Nat)
  | reserve
deriving DecidableEq, Repr

/-- The trust unit (R535–R555) beside its registers: the running verification (address, core, RECORD), OTP operation and attestation
(buffer), the log, whether the LMS state was set since power-on, and whether a challenge stands. -/
structure Trust where
  vfy : Option (Nat × Nat × Bool)
  otp : Option OtpWork
  att : Option Nat
  log : List Meas
  lmsSet : Bool
  /-- The last LMS_RESERVE was refused by R528 (R549). -/
  resvRefused : Bool
  chal : Bool
deriving DecidableEq, Repr

/-- A core at reset (R340, R343): core 0 runs at W, the others are halted. -/
def Core.reset (n : Nat) : Core :=
  { g := [], p := 1, pc := if n = 0 then 0x30000000 else 0, priv := if n = 0 then .w else .u, ppriv := 0, inexc := false,
    epc := 0, cause := 0, tval := 0, tvec := 0, scratch := 0, umask := 0, watch0 := 0, watch1 := 0, evpend := 0, evslot := [],
    run := if n = 0 then .running else .halted, wait := .none, loads := [], stores := [], flushed := [], atomic := none, dcache := [], icache := [],
    bcount := 0, budget := 0, budgetHit := false, budgetDue := false, ready := [], cyc := 0, pair := none, owed := 0,
    image := 0, swapTries := 0, swapAddr := 0, swapMax := 0, swapStart := none }

/-- The counters at reset: all 0, nothing waits (R558). -/
def Perf.reset : Perf :=
  { cfg := [], waiting := [], shadow := [], td := [], trigger := none, dumpBase := 0, dumpSlots := 0, epochAt := 0, cycAt := 0 }

/-- A DRAM channel at reset. -/
def Dram.reset : Dram :=
  { tim := [], dly := [], bitCnt := [], capture := none, sweep := none, best := (0, 0), failsBefore := 0, heldDfc := none,
    freqTo := none, mr := [], powerDown := 0, capar := [], leaving := false, released := false, under := 0, cmdAt := [], migAt := 0 }

/-- The endpoint at reset: every vector masked. -/
def HostPort.reset : HostPort :=
  { masked := 2 ^ 64 - 1, pend := 0, table := [], classCode := 0x118000, subsystem := 0, maxPayload := 128, failed := false }

/-- The stroke engine at reset: stroke 0 runs from time 0. -/
def Stroke.reset : Stroke :=
  { lastCatch := 0, recovery := false, req := none, reqLate := false, accept := none, trans := none, admitted := false, hsoff := 0,
    numLoad := none, hsLast := 0, hsSpacings := [], hsPred := 0, hsPeriod := 0, hsOld := 0, hsLead := 0, hsPrevHit := false, hsFree := none,
    relock := false, qual := 0, held := 0, noSwap := false, changed := false, strokeOut := false, wake := false }

/-- A domain clock at reset. -/
def PtpDomain.reset : PtpDomain :=
  { clk := 0, clkFrac := 0, y := 0, i := 0, iHist := [], mpdf := none, sync := none, sm := none, dreq := none, dreqSeq := 0,
    syncSeq := 0, respLog := -128, dreqAt := 0, master := none, named := none, everLocked := false, good := 0, bad := 0, outl := 0, lastSync := 0, since := 0, heldLocked := false }

/-- A trigger at reset. -/
def Trig.reset : Trig := { changed := 0, lastFire := none, done := false }

/-- The TIME unit at reset. -/
def TimeUnit.reset : TimeUnit :=
  { rate := 0, dom := [], lockedAt := 0, trig := [], claims := [], pulse := [], capLast := [], pps := none, ppsAt := none, syncAt := [] }

/-- A mortar link at reset. -/
def Mortar.reset : Mortar :=
  { queue := [], mode := 0, precode := true, txeq := 0, enabledAt := 0, tryAt := 0, adapted := false, good := 0, bseq := none,
    asm := none, lastGood := 0, discards := [], everUp := false, helloAt := 0, helloTx := 0, job := none, txAt := 0, txBlk := 0, txPart := [],
    txFirst := 127, txLast := 0, rxLast := 0, rxInv := false }

/-- Ingest at reset: nothing in progress. -/
def Ingest.reset : Ingest := { objs := [], dscWait := [], dscRun := [], zWait := [] }

/-- Plumb at reset. -/
def Plumb.reset : Plumb :=
  { runAt := 0, runTemp := 0, active := [], shadow := [], waitTemp := [], readyAt := 0, valid := 0, stroke := [], fid := none, fidPi := 0, fidDone := false }
/-- A shell at reset: it has no lines; SHL_CTL's reset value is in force. -/
def Shell.reset : Shell :=
  { lines := [], col := 0, topTile := 0, topRow := 0, unrendered := 0, clampEv := false, late := false, samp := 0, taken := 0, turn := 0,
    stalled := [], again := [], check := none, cmd := none, tests := 0, passed := none, ctl := 0x3AA0 }

/-- Rendering at reset: bank A, which enables no tile, no bond lit (R43), no course counted. -/
def Render.reset : Render :=
  { bank := 0, views := [], nextBank := none, ttReq := 0, cdReq := 0, cdCurve := 0, lines := [], pv := 0, pu := 0, sMin := 0, sMax := 0, bond := none, table := [], counts := [],
    flats := [], flatArea := (0, 0), showT := none, stage2 := false, reinstate := 0, missing := 0, rays := [],
    toBleed := [], shells := [] }

/-- Conditioning at reset: no map set, a curve copy of zeros, the mirror off, the frame counter 0 (R155). -/
def Cond.reset : Cond :=
  { map := none, curve := [], mirror := false, mirWide := false, mirOn := false, nextMap := none, nextCurve := none, fcount := 0,
    moved := 0, dark := 0, orphan := 0, poisonSeen := [], poisonEv := false, wait := .none, mirrored := false, rendered := false, sent := false }

/-- A strand at reset: OFF, nothing staged, dither on (R211). -/
def Strand.reset : Strand :=
  { rate := 80, enabledAt := 0, lastDown := 0, ctlReq := 0x1CA0, nextFmt := none, dither := true, fifo := [], latched := [], next := [],
    tap := [], catchT := none, chkTap := [], acks := [], open_ := false, silent := [], w := [], d := [], failed := [], ranges := [],
    rangeNext := 0, rangeReq := none, rolled := false, ranging := false, held := [], out := [], census := none, laneEnd := 0, ready := [],
    keptTo := 0, long := false, lastR := 0, retryAt := 0, cenPoll := 0, cenIdle := 0 }


/-- The trowel at reset. -/
def Trowel.reset : Trowel := { list := none }

/-- A zip engine at reset, and zip. -/
def ZipEngine.reset : ZipEngine := { job := none, susp := none, lastIngest := true }
def Zip.reset : Zip := { engines := [], streams := [] }

/-- A camera port at reset. -/
def CamPort.reset : CamPort :=
  { lanes := 0, dt := 0, vc := 0, route := 0, w := 0, h := 0, cap := none, wait := [], used := 0, setq := [], setNow := 0, lastBad := true }

/-- The parameter set that the staging registers' reset values make. -/
def CamSet.reset : CamSet :=
  { black := [0x1000, 0x1000, 0x1000, 0x1000], wb := [0x1000, 0x1000, 0x1000], sat := 0xFF00,
    ccm := [0x1000, 0, 0, 0, 0x1000, 0, 0, 0, 0x1000], off := [0, 0, 0], nr := 0, dpc := 0, defects := [], shade := none, tone := none,
    thresh := 0x8000, area := 0x0FFF0004, roi0 := 0, roi1 := 0x20002000, cfa := 0, bad := false }

/-- A pipe at reset, and the camera block. -/
def CamPipe.reset : CamPipe := { jobs := [], sets := [], wait := [], reading := none, ref := none }
def Cam.reset : Cam := { ports := [], pipes := [] }

/-- The board side at reset: power is on, nothing measured. -/
def Board.reset : Board :=
  { pwrOk := true, resetLow := false, thermTrip := false, disarm := false, kilnAt := 0, bscan := false, pmon := [], model := [], errs := [],
    below := none, quarter := 0, flashAt := 0, i2c := [] }

/-- The ledger unit at reset; two 64 MiB flash devices are fitted (the board's choice, R542). -/
def Ledger.reset : Ledger := { op := none, flashBytes := 0x4000000, moved := [], retired := 0, suspended := none }

/-- The trust unit at reset. -/
def Trust.reset : Trust := { vfy := none, otp := none, att := none, log := [], lmsSet := false, resvRefused := false, chal := false }

end Sys2Proof.Machine

/-! What a host error may leave in the units that its block controls (R3, R601), by the counter of free values. -/
namespace Sys2Proof.Config

open Sys2Proof.Machine

/-- What leaves the device. -/
opaque freeOuts (n : Nat) : List Out
/-- The strand ports, the mortar links, the shells, the DRAM channels, the mailboxes. -/
opaque freeStrands (n : Nat) : KMap Strand
opaque freeMortars (n : Nat) : KMap Mortar
opaque freeShells (n : Nat) : KMap Shell
opaque freeDrams (n : Nat) : KMap Dram
opaque freeMboxes (n : Nat) : KMap (Option MboxHeld)
/-- The units of one instance. -/
opaque freeTime (n : Nat) : TimeUnit
opaque freeStroke (n : Nat) : Stroke
opaque freeIngest (n : Nat) : Ingest
opaque freePlumb (n : Nat) : Plumb
opaque freeTrowel (n : Nat) : Trowel
opaque freeZip (n : Nat) : Zip
opaque freeCam (n : Nat) : Cam
opaque freeHost (n : Nat) : HostPort
opaque freePerf (n : Nat) : Perf
opaque freeBoard (n : Nat) : Board

end Sys2Proof.Config

namespace Sys2Proof.Machine

/-- The state of the device. `pending` is the queue of the commands that wait, first in, first out. -/
structure State where
  /-- Registers that differ from their reset value, by address (R575). -/
  regs : KMap RegWord
  /-- R7's read latches: the latched _HI plus 2^32, by 2^32 × requester code + address of the _LO register. -/
  latches : KMap Nat
  /-- R7's holding registers: the held _LO by 2^32 × requester code + address of the _LO register. -/
  holds : KMap Nat
  /-- Memory of the whole 48-bit map (R402); the host's own memory lies from 2^64 on. -/
  mem : List Host.Cell
  /-- Poisoned 64-byte lines (R409), by line number. -/
  poison : KMap Bool
  /-- The time counter, ns since the PTP epoch (R246). -/
  now : Nat
  /-- The 32-bit fraction of the time counter (R246). -/
  nowFrac : Nat
  /-- Nanoseconds of the local timebase since PWR_OK, and its fraction in 2^-32 ns. -/
  upNs : Nat
  upFrac : Nat
  /-- The model's own counter of free values taken (no state of the spec). -/
  freeCtr : Nat
  /-- What the last register or memory read returned to its requester. -/
  readData : Nat
  /-- What has left the device, newest first. -/
  out : List Out
  /-- The cox cores. -/
  cores : KMap Core
  /-- Snapshot and configuration state of the counters. -/
  perf : Perf
  /-- The DRAM channels. -/
  dram : KMap Dram
  /-- MSI-X. -/
  host : HostPort
  /-- The stroke engine. -/
  stroke : Stroke
  /-- The TIME unit. -/
  time : TimeUnit
  /-- The mortar links. -/
  mortar : KMap Mortar
  /-- Ingest. -/
  ingest : Ingest
  /-- Plumb. -/
  plumb : Plumb
  /-- The rendering of rays. -/
  render : Render
  /-- Ray conditioning. -/
  cond : Cond
  /-- The strand ports. -/
  strands : KMap Strand
  /-- The trowel. -/
  trowel : Trowel
  /-- Zip. -/
  zip : Zip
  /-- The camera ports and pipes. -/
  cam : Cam
  /-- Held mailbox notices. -/
  mbox : KMap (Option MboxHeld)
  /-- Pins of the board, kiln, I²C. -/
  board : Board
  /-- The ledger unit. -/
  ledger : Ledger
  /-- The trust unit. -/
  trust : Trust
  /-- The commands that wait, first in, first out. -/
  pending : List Instr
deriving DecidableEq, Repr

/-- The machine right after power-on reset: every register at its reset value, memory with nothing listed, no command waiting. -/
def State.reset : State where
  regs := []
  latches := []
  holds := []
  mem := []
  poison := []
  now := 0
  nowFrac := 0
  upNs := 0
  upFrac := 0
  freeCtr := 0
  readData := 0
  out := []
  cores := []
  perf := Perf.reset
  dram := []
  host := HostPort.reset
  stroke := Stroke.reset
  time := TimeUnit.reset
  mortar := []
  ingest := Ingest.reset
  plumb := Plumb.reset
  render := Render.reset
  cond := Cond.reset
  strands := []
  trowel := Trowel.reset
  zip := Zip.reset
  cam := Cam.reset
  mbox := []
  board := Board.reset
  ledger := Ledger.reset
  trust := Trust.reset
  pending := []

end Sys2Proof.Machine
end

