-- ==== Sys2Proof/Machine/Ops.lean ====
section
/-!
DEFINITION. The named operations over registers, memory, counters, events, rings and time that every meaning is built from.
-/
namespace Sys2Proof.Machine

open Sys2Proof

/-! ## Registers -/

/-- The stored value of the register at address `a`. -/
def State.rdReg (s : State) (a : Nat) : RegWord := KMap.get regReset s.regs a

/-- The state with the register at address `a` set. -/
def State.wrReg (s : State) (a : Nat) (v : RegWord) : State := { s with regs := KMap.put regReset s.regs a v }

/-- A field of element `j` of instance `i`. -/
def State.get (s : State) (f : Fld) (i : Nat := 0) (j : Nat := 0) : Nat :=
  bitsOf (s.rdReg (f.at i j)).toNat f.lsb f.width

/-- The state with that field set. -/
def State.set (s : State) (f : Fld) (v : Nat) (i : Nat := 0) (j : Nat := 0) : State :=
  s.wrReg (f.at i j) (BitVec.ofNat 32 (setBits (s.rdReg (f.at i j)).toNat f.lsb f.width v))

/-- Whether a one-bit field reads 1. -/
def State.flag (s : State) (f : Fld) (i : Nat := 0) (j : Nat := 0) : Bool := s.get f i j != 0

/-- A whole register. -/
def State.rd (s : State) (r : Rg) (i : Nat := 0) (j : Nat := 0) : Nat := (s.rdReg (r.at i j)).toNat

/-- The state with a whole register set. -/
def State.wr (s : State) (r : Rg) (v : Nat) (i : Nat := 0) (j : Nat := 0) : State :=
  s.wrReg (r.at i j) (BitVec.ofNat 32 v)

/-- A 64-bit pair, named by its _LO register; _HI lies in the next word (R7). -/
def State.rd64 (s : State) (r : Rg) (i : Nat := 0) (j : Nat := 0) : Nat :=
  (s.rdReg (r.at i j)).toNat + 2 ^ 32 * (s.rdReg (r.at i j + 4)).toNat

/-- The state with a 64-bit pair set. -/
def State.wr64 (s : State) (r : Rg) (v : Nat) (i : Nat := 0) (j : Nat := 0) : State :=
  (s.wrReg (r.at i j) (BitVec.ofNat 32 v)).wrReg (r.at i j + 4) (BitVec.ofNat 32 (v / 2 ^ 32))

/-- A count that wraps. -/
def State.incWrap (s : State) (r : Rg) (n : Nat := 1) (i : Nat := 0) (j : Nat := 0) : State :=
  s.wr r ((s.rd r i j + n) % 2 ^ 32) i j

/-- A count that saturates at 0xFFFF_FFFF. -/
def State.incSat (s : State) (r : Rg) (n : Nat := 1) (i : Nat := 0) (j : Nat := 0) : State :=
  s.wr r (Nat.min (s.rd r i j + n) 0xFFFFFFFF) i j

/-- A 64-bit count that wraps. -/
def State.inc64 (s : State) (r : Rg) (n : Nat := 1) (i : Nat := 0) (j : Nat := 0) : State :=
  s.wr64 r ((s.rd64 r i j + n) % 2 ^ 64) i j

/-- A field that counts and saturates. -/
def State.incFld (s : State) (f : Fld) (n : Nat := 1) (i : Nat := 0) (j : Nat := 0) : State :=
  s.set f (Nat.min (s.get f i j + n) (2 ^ f.width - 1)) i j

/-- A field that counts and wraps. -/
def State.incFldWrap (s : State) (f : Fld) (n : Nat := 1) (i : Nat := 0) (j : Nat := 0) : State :=
  s.set f ((s.get f i j + n) % 2 ^ f.width) i j

/-! ## Free values and output -/

/-- A fresh free value of an open point, and the state with the model's counter advanced. -/
def State.free (s : State) (k : Config.Open) : Nat × State :=
  (Config.freeNat k s.freeCtr, { s with freeCtr := s.freeCtr + 1 })

/-- The state after the device has sent `o`. Nothing leaves while PWR_OK is low (R510), while RESET_N is low (R597), and while a
boundary-scan instruction holds the pins (R596). -/
def State.emit (s : State) (o : Out) : State := if s.board.bscan || s.board.resetLow || !s.board.pwrOk then s else { s with out := o :: s.out }

/-! ## Memory -/

/-- What an unlisted byte of memory reads as: the yard is zero-filled at power-on (R408); erased flash reads 0xFF in the ledger
window; elsewhere 0 (a DESIGN CHOICE). -/
def memDefault (a : Nat) : Byte := if 0x38000000 ≤ a ∧ a < 0x40000000 then 0xFF else 0

/-- Whether an address lies in the host window (R394). -/
def hostWin (a : Nat) : Bool := decide (0x80000000 ≤ a) && decide (a < 0x100000000)

/-- Segment of an address of the host window. -/
def hostSeg (a : Nat) : Nat := (a - 0x80000000) / 0x10000000

/-- Whether the segment of `a` is disabled, and whether the link is down or Bus Master Enable clear (R394). -/
def State.segOff (s : State) (a : Nat) : Bool := !s.flag F.HOST_HWIN_LO_EN 0 (hostSeg a)
def State.linkOff (s : State) : Bool := !s.flag F.HOST_STAT_LINK_UP || !s.flag F.HOST_STAT_BME

/-- Whether an access to `a` through the host window fails: its segment is disabled, the link is down, or the host's completion of the access
has failed (R394). -/
def State.hostOff (s : State) (a : Nat) : Bool := hostWin a && (s.segOff a || s.linkOff || s.host.failed)

/-- Where the byte at an address lies: the host window maps to host memory, kept from 2^64 on (R394). -/
def State.physAddr (s : State) (a : Nat) : Nat :=
  if hostWin a then 2 ^ 64 + (s.rd64 R.HOST_HWIN_LO 0 (hostSeg a) / 2 ^ 28 * 2 ^ 28) + a % 0x10000000 else a

/-- One byte of memory. -/
def State.rdB (s : State) (a : Nat) : Byte := KMap.get memDefault s.mem (s.physAddr a)

/-- The boot ROM, the OTP read image and the ledger's read window (R402), which only OTP operations and the flash devices change (R537,
R538, R542). -/
def fixedMem (a : Nat) : Bool := decide (0x30000000 ≤ a) && decide (a < 0x40000000)

/-- The state with one byte of memory written; a write through a disabled segment or a link that is down is discarded (R394), and so is
one to memory that no store reaches. -/
def State.wrB (s : State) (a : Nat) (b : Byte) : State :=
  if s.hostOff a || fixedMem a then s else { s with mem := KMap.put memDefault s.mem (s.physAddr a) b }

/-- `n` bytes of memory from `a`. -/
def State.rdBytes (s : State) (a : Nat) : Nat → List Byte
  | 0 => []
  | n + 1 => s.rdB a :: s.rdBytes (a + 1) n

/-- The state with a byte of OTP or flash changed. -/
def State.burn (s : State) (a : Nat) (b : Byte) : State := { s with mem := KMap.put memDefault s.mem a b }

/-- The state with bytes of OTP or flash changed from `a`. -/
def State.burnBytes (s : State) (a : Nat) : List Byte → State
  | [] => s
  | b :: l => (s.burn a b).burnBytes (a + 1) l

/-- The state with bytes written from `a`. -/
def State.putBytes (s : State) (a : Nat) : List Byte → State
  | [] => s
  | b :: l => (s.wrB a b).putBytes (a + 1) l

/-- `n` bytes of memory as a little-endian number. -/
def State.rdN (s : State) (a n : Nat) : Nat := leVal (s.rdBytes a n)

/-- A 32-bit word of memory. -/
def State.rd32 (s : State) (a : Nat) : Nat := s.rdN a 4

/-- A field of the 32-bit word of memory at `a`. -/
def State.memFld (s : State) (a lo w : Nat) : Nat := bitsOf (s.rd32 a) lo w

/-- Whether some line of the `n` bytes from `a` is poisoned (R409), or reads through a failing host segment (R394). -/
def State.poisoned (s : State) (a n : Nat) : Bool :=
  s.poison.any (fun e => e.2 && decide (a / 64 ≤ e.1) && decide (e.1 * 64 < a + n)) ||
    (n != 0 && (s.hostOff a || s.hostOff (a + n - 1)))

/-- The state with the line that holds `a` poisoned or not. -/
def State.setPoison (s : State) (a : Nat) (p : Bool) : State :=
  { s with poison := KMap.put (fun _ => false) s.poison (a / 64) p }

/-- The state with the poison of every line that lies whole in the `n` bytes from `a` cleared (R409). -/
def State.clearPoison (s : State) (a n : Nat) : State :=
  { s with poison := s.poison.filter (fun e => !(decide (a ≤ e.1 * 64) && decide (e.1 * 64 + 64 ≤ a + n))) }

/-- A write of bytes by a unit or a core: a whole line written clears its poison (R409). -/
def State.wrBytes (s : State) (a : Nat) (l : List Byte) : State := (s.putBytes a l).clearPoison a l.length

/-- A write of an `n`-byte little-endian number. -/
def State.wrN (s : State) (a n v : Nat) : State := s.wrBytes a (leBytes n v)

/-- A write of a 32-bit word. -/
def State.wr32 (s : State) (a v : Nat) : State := s.wrN a 4 v

/-- The state with a field of the 32-bit word at `a` written. -/
def State.setMemFld (s : State) (a lo w v : Nat) : State := s.wr32 a (setBits (s.rd32 a) lo w v)

/-- The parts of the address map (R402). -/
inductive Region where
  | yard | localStore (n : Nat) | bootRom | otp | ledger | regs | host | dram | hole
deriving DecidableEq, Repr

/-- Installed DRAM capacity in bytes: eight times what one channel reports (R410). -/
def State.dramBytes (s : State) : Nat := 8 * s.get F.DRC_CAP_GIB 0 * 2 ^ 30

/-- The part of the map that holds `a` (R402); DRAM beyond the installed capacity is a hole. The alias of the executing core's own
local store is resolved before (`coreAddr`). -/
def State.region (s : State) (a : Nat) : Region :=
  if a < 0x0E000000 then .yard
  else if 0x20000000 ≤ a ∧ a < 0x21000000 then (if a % 0x100000 < 0x10000 then .localStore ((a - 0x20000000) / 0x100000) else .hole)
  else if 0x30000000 ≤ a ∧ a < 0x30040000 then .bootRom
  else if 0x31000000 ≤ a ∧ a < 0x31010000 then .otp
  else if 0x38000000 ≤ a ∧ a < 0x40000000 then .ledger
  else if 0x40000000 ≤ a ∧ a < 0x41000000 then .regs
  else if 0x80000000 ≤ a ∧ a < 0x100000000 then .host
  else if 0x100000000 ≤ a ∧ a < 0x100000000 + s.dramBytes then .dram
  else .hole

/-- The address that core `c` reaches at `a`: the alias at 0x2FF0_0000 names its own local store (R313). -/
def coreAddr (c a : Nat) : Nat := if 0x2FF00000 ≤ a ∧ a < 0x2FF10000 then 0x20000000 + c * 0x100000 + (a - 0x2FF00000) else a

/-! ## Counters (R558–R566) -/

/-- What an event carries (R561). -/
structure Attr where
  priv : Option Priv := none
  req : Option Nat := none
  cls : Option Nat := none
  addr : Option Nat := none

/-- Address of the PMC_CFG register of a programmable counter (R558). -/
def pmcCfgAddr (i : Nat) : Nat :=
  if i < 8 then
    ([R.GLB_PMC_CFG, R.KLN_PMC_CFG, R.PLB_PMC_CFG, R.LDG_PMC_CFG, R.TRU_PMC_CFG, R.HOST_PMC_CFG, R.RNG_PMC_CFG, R.TRW_PMC_CFG].getD i
      R.GLB_PMC_CFG).at 0 0
  else if i < 16 then R.ING_PMC_CFG.at 0 (i - 8)
  else if i < 20 then R.ZIP_PMC_CFG.at (i - 16) 0
  else if i < 36 then R.COX_PMC_CFG.at (i - 20) 0
  else if i < 40 then R.SHL_PMC_CFG.at (i - 36) 0
  else if i < 56 then R.CAM_K_PMC_CFG.at ((i - 40) / 8) ((i - 40) % 8)
  else if i < 64 then R.DRC_PMC_CFG.at (i - 56) 0
  else if i < 160 then R.STR_PMC_CFG.at (i - 64) 0
  else R.MRT_PMC_CFG.at ((i - 160) / 2) ((i - 160) % 2)

/-- Address of the _LO register of a programmable counter's pair (R558). -/
def pmcLoAddr (i : Nat) : Nat :=
  if i < 8 then
    ([R.GLB_PMC_LO, R.KLN_PMC_LO, R.PLB_PMC_LO, R.LDG_PMC_LO, R.TRU_PMC_LO, R.HOST_PMC_LO, R.RNG_PMC_LO, R.TRW_PMC_LO].getD i
      R.GLB_PMC_LO).at 0 0
  else if i < 16 then R.ING_PMC_LO.at 0 (i - 8)
  else if i < 20 then R.ZIP_PMC_LO.at (i - 16) 0
  else if i < 36 then R.COX_PMC_LO.at (i - 20) 0
  else if i < 40 then R.SHL_PMC_LO.at (i - 36) 0
  else if i < 56 then R.CAM_K_PMC_LO.at ((i - 40) / 8) ((i - 40) % 8)
  else if i < 64 then R.DRC_PMC_LO.at (i - 56) 0
  else if i < 160 then R.STR_PMC_LO.at (i - 64) 0
  else if (i - 160) % 2 = 0 then R.MRT_PMC0_LO.at ((i - 160) / 2) 0 else R.MRT_PMC1_LO.at ((i - 160) / 2) 0

/-- Whether counter `i + 1` follows counter `i` in the same block (R565; several counters stand in INGEST, the camera pipes, the
shells and the other blocks of more than one instance). -/
def sameBlockNext (i : Nat) : Bool :=
  (decide (8 ≤ i) && decide (i < 15)) || (decide (16 ≤ i) && decide (i < 19)) || (decide (20 ≤ i) && decide (i < 35)) ||
  (decide (36 ≤ i) && decide (i < 39)) || (decide (40 ≤ i) && decide (i < 55)) || (decide (56 ≤ i) && decide (i < 63)) ||
  (decide (64 ≤ i) && decide (i < 159)) || (decide (160 ≤ i) && decide (i < 175))

/-- The 48-bit value of a counter: a programmable one in its registers, a top-down one in the state. -/
def State.ctr (s : State) (i : Nat) : Nat :=
  if i < 176 then (s.rdReg (pmcLoAddr i)).toNat + 2 ^ 32 * ((s.rdReg (pmcLoAddr i + 4)).toNat % 2 ^ 16)
  else KMap.get (fun _ => 0) s.perf.td (i - 176)

/-- The state with a counter set. -/
def State.setCtr (s : State) (i v : Nat) : State :=
  if i < 176 then (s.wrReg (pmcLoAddr i) (BitVec.ofNat 32 v)).wrReg (pmcLoAddr i + 4) (BitVec.ofNat 32 (v / 2 ^ 32 % 2 ^ 16))
  else { s with perf := { s.perf with td := KMap.put (fun _ => 0) s.perf.td (i - 176) (v % 2 ^ 48) } }

/-- The configuration that counter `i` counts under (R564). -/
def State.pmcCfg (s : State) (i : Nat) : Nat := KMap.get (fun _ => 0) s.perf.cfg i

/-- Whether the filters of a configuration pass an event (R561). -/
def State.pmcPass (s : State) (cfg : Nat) (at' : Attr) : Bool :=
  (match at'.priv with
    | none => bitsOf cfg 10 3 == 0
    | some .w => !bitAt cfg 10
    | some .m => !bitAt cfg 11
    | some .u => !bitAt cfg 12) &&
  (match at'.cls with
    | none => bitsOf cfg 13 4 == 0
    | some k => !bitAt cfg (13 + k)) &&
  (!bitAt cfg 17 || (match at'.req with
    | none => false
    | some r => r == bitsOf cfg 18 5)) &&
  (!bitAt cfg 23 || (match at'.addr with
    | none => false
    | some a => decide (s.rd R.PERF_AR_BASE 0 (bitsOf cfg 24 2) ≤ bitsOf a 16 32) &&
        decide (bitsOf a 16 32 ≤ s.rd R.PERF_AR_LIM 0 (bitsOf cfg 24 2))))

/-! ## Stopped clocks -/

/-- Shells, conditioning, decoders, zip, trowel and camera pipes stand still: GLB_SHOW.STATE reads HALTED or POWER_FAIL (R517, R525). -/
def State.clocksOff (s : State) : Bool := decide (3 ≤ s.get F.GLB_SHOW_STATE)

/-- Clock input `b` of GLB_CLK_STAT is present: 1–4 SDREF0–SDREF3, 5 PEREF. An interface whose reference is absent does not train (R592). -/
def State.refPresent (s : State) (b : Nat) : Bool := bitAt (s.get F.GLB_CLK_STAT_PRESENT) b

/-! ## Cores -/

/-- Core `n`. -/
def State.core (s : State) (n : Nat) : Core := KMap.get Core.reset s.cores n

/-- The state with core `n` set. -/
def State.setCore (s : State) (n : Nat) (c : Core) : State := { s with cores := KMap.put Core.reset s.cores n c }

/-- General register `k`; g0 reads 0 (R306). -/
def Core.getG (c : Core) (k : Nat) : Word := if k = 0 then 0 else KMap.get (fun _ => 0) c.g k

/-- The core with general register `k` written; a write of g0 is discarded (R348). -/
def Core.setG (c : Core) (k : Nat) (v : Word) : Core := if k = 0 then c else { c with g := KMap.put (fun _ => 0) c.g k v }

/-- Predicate `k`; p0 reads 1 (R306). -/
def Core.getP (c : Core) (k : Nat) : Bool := k == 0 || bitAt c.p k

/-- The core with predicate `k` written; a write of p0 is discarded (R348). -/
def Core.setP (c : Core) (k : Nat) (v : Bool) : Core := if k = 0 then c else { c with p := setBits c.p k 1 (b2n v) }

/-- The lowest latched slot of a mask: its number. -/
def lowestSlot (pend mask : Nat) : Option Nat := (List.range 64).find? (fun k => bitAt pend k && bitAt mask k)

/-- A raised line latches every enabled slot of a core that is bound to it (R320). -/
def Core.latch (c : Core) (line : Nat) : Core :=
  { c with evpend := c.evslot.foldl (fun p e => if bitAt e.2 16 && bitsOf e.2 0 10 == line then setBits p e.1 1 1 else p) c.evpend }

/-- Adds `k` slots to top-down counter `t` of core `n`; a wrap sets its PERF_OVF bit and raises nothing (R566, R571). -/
def State.tdAdd (s : State) (n t k : Nat) : State :=
  let i := 176 + 4 * n + t
  let v := s.ctr i + k
  if v < 2 ^ 48 then s.setCtr i v
  else (s.setCtr i (v % 2 ^ 48)).wr R.PERF_OVF (setBits (s.rd R.PERF_OVF 0 (i / 32)) (i % 32) 1 1) 0 (i / 32)

/-- A wait of core `n` ends with `v` in register `d`, 4 cycles later, of which the last counts against the budget: the cycles of the wait
do not (R324, R372). Its slots are one retired and one back-starved (R571). -/
def State.endWait (s : State) (n d : Nat) (v : Word) : State :=
  let s := (s.tdAdd n 0 1).tdAdd n 3 1
  let c := s.core n
  s.setCore n { c.setG d v with
    wait := .none, pc := c.pc + 4, bcount := c.bcount + 1, cyc := c.cyc + 4, owed := c.owed + 1, ready := KMap.put (fun _ => 0) c.ready d (c.cyc + 4) }

/-- A WAIT whose mask holds a latched slot ends: it returns the event number of the lowest one and clears its latch (R321). -/
def State.wake (s : State) (n : Nat) : State :=
  let c := s.core n
  match c.run, c.wait with
  | .running, .wait d mask _ =>
    match lowestSlot c.evpend mask with
    | some k =>
      let s := s.setCore n { c with evpend := setBits c.evpend k 1 0 }
      s.endWait n d (BitVec.ofNat 64 (bitsOf (KMap.get (fun _ => 0) c.evslot k) 0 10))
    | none => s
  | _, _ => s

/-- Every core after a line is raised. -/
def State.latchAll (s : State) (line : Nat) : State :=
  forN 16 (fun n s => (s.setCore n ((s.core n).latch line)).wake n) s

/-- Sends the message of a vector, or sets its pending bit while it is masked (R396). -/
def State.msix (s : State) (vec : Nat) : State :=
  if bitAt s.host.masked vec then { s with host := { s.host with pend := setBits s.host.pend vec 1 1 } }
  else s.emit (.msix vec)

/-- The vectors of the enabled HOST_EVMAP entries that name a line. -/
def State.evmapVecs (s : State) (line : Nat) : List Nat :=
  (List.range 16).filterMap (fun j =>
    if s.flag F.HOST_EVMAP_EN 0 j && s.get F.HOST_EVMAP_EVENT 0 j == line then some (s.get F.HOST_EVMAP_VEC 0 j) else none)

/-- A line is raised: slots latch, waits end, mapped vectors are sent (R320, R396). -/
def State.raise0 (s : State) (line : Nat) : State :=
  (s.evmapVecs line).foldl State.msix (s.latchAll line)

/-- Whether the counter with a configuration counts event `ev`: enabled, not chained, set to it (R560–R562). -/
def pmcCounts (cfg ev : Nat) : Bool := bitAt cfg 8 && !bitAt cfg 9 && bitsOf cfg 0 8 == ev

/-- Adds `n` to counter `i`: at a wrap its PERF_OVF bit is set, EV_PERF_OVF is raised where allowed (R566) with the messages that it sends
counted (R563), and a chained next counter adds the carry (R565). `fuel` bounds the chain. -/
def State.addCtr (fuel : Nat) (s : State) (i n : Nat) : State :=
  match fuel with
  | 0 => s
  | fuel + 1 =>
    let v := s.ctr i + n
    if v < 2 ^ 48 then s.setCtr i v
    else
      let s := s.setCtr i (v % 2 ^ 48)
      let s := s.wr R.PERF_OVF (setBits (s.rd R.PERF_OVF 0 (i / 32)) (i % 32) 1 1) 0 (i / 32)
      let s := if decide (i < 176) && bitAt (s.pmcCfg i) 26 && s.flag F.PERF_EVMASK_OVF_EN then
          let sent := ((s.evmapVecs 0xE1).filter (fun v => !bitAt s.host.masked v)).length
          let s := s.raise0 0xE1
          if sent != 0 && pmcCounts (s.pmcCfg 5) 0x13 && s.pmcPass (s.pmcCfg 5) {} then s.addCtr fuel 5 sent else s
        else s
      if sameBlockNext i && bitAt (s.pmcCfg (i + 1)) 8 && bitAt (s.pmcCfg (i + 1)) 9 then s.addCtr fuel (i + 1) 1 else s

/-- An event `ev` of `n` counts at counter `i`: counted when the counter is enabled, not chained, set to the event and its filters
pass (R560–R563). -/
def State.count (s : State) (i ev : Nat) (n : Nat := 1) (at' : Attr := {}) : State :=
  let cfg := s.pmcCfg i
  if n != 0 && pmcCounts cfg ev && s.pmcPass cfg at' then s.addCtr 176 i n else s

/-- The clock of counter `i`'s unit in MHz: the cores' 1,600 (R372) and the oars' 1,200; the spec names no other unit's, whose clock is free. -/
def unitMHz (i : Nat) : Nat :=
  if 20 ≤ i ∧ i < 36 then 1600 else if 36 ≤ i ∧ i < 40 then 1200 else 1 + Config.freeFun .tick [0, i]

/-- Whether kiln stage 3 stops the clock of counter `i`'s unit: zip, trowel, shells and camera pipes (R525). -/
def renderClock (i : Nat) : Bool := i == 7 || (decide (16 ≤ i) && decide (i < 20)) || (decide (36 ≤ i) && decide (i < 56))

/-- The counters set to CYCLES take the cycles of their units' clocks up to now (R562). -/
def State.cyclesPass (s : State) : State :=
  let from' := s.perf.cycAt
  forN 176 (fun i s =>
    if pmcCounts (s.pmcCfg i) 0x01 && !(s.clocksOff && renderClock i) then s.count i 0x01 (s.upNs * unitMHz i / 1000 - from' * unitMHz i / 1000) else s)
    { s with perf := { s.perf with cycAt := s.upNs } }

/-- An event at each counter of a range. -/
def State.countAll (s : State) (i0 k ev : Nat) (n : Nat := 1) (at' : Attr := {}) : State :=
  forN k (fun j s => s.count (i0 + j) ev n at') s

/-- Sends a vector and counts the message (R396, R563). -/
def State.sendVec (s : State) (vec : Nat) : State :=
  if bitAt s.host.masked vec then s.msix vec else (s.msix vec).count 5 0x13

/-- A line is raised (R320, R383), and the messages it sends are counted. -/
def State.raise (s : State) (line : Nat) : State :=
  (s.evmapVecs line).foldl State.sendVec (s.latchAll line)

/-- A line is raised where its enable allows it. -/
def State.raiseIf (s : State) (c : Bool) (line : Nat) : State := if c then s.raise line else s

/-! ## Cycles and slots of a core (R324, R571) -/

/-- `k` slots of core `n` go to top-down counter `t`; COX events 0x18–0x1B count them too (R563). -/
def State.slots (s : State) (n t k : Nat) : State :=
  if k = 0 then s else (s.tdAdd n t k).count (20 + n) (0x18 + t) k { priv := some (s.core n).priv, req := some n }

/-- An open second slot of core `n` was left empty by the pairing rules, and the ends of waits are counted. -/
def State.settle (s : State) (n : Nat) : State :=
  let c := s.core n
  let at' : Attr := { priv := some c.priv, req := some n }
  let s := if c.pair.isSome || c.owed != 0 then s.setCore n { c with pair := none, owed := 0 } else s
  let s := if c.pair.isSome then s.slots n 3 1 else s
  ((s.count (20 + n) 0x10 c.owed at').count (20 + n) 0x18 c.owed at').count (20 + n) 0x1B c.owed at'

/-- Core `n` spends `cyc` cycles that count against its budget: `r` of their slots retired, `w` wasted, `f` front-starved, and the rest
back-starved. -/
def State.spend (s : State) (n cyc r w f : Nat) : State :=
  let s := s.settle n
  let c := s.core n
  let s := s.setCore n { c with bcount := c.bcount + cyc, cyc := c.cyc + cyc }
  (((s.slots n 0 r).slots n 1 w).slots n 2 f).slots n 3 (2 * cyc - r - w - f)

/-! ## Unpredictable results (R3, R600–R602) -/

/-- What one host error may disturb: R3 as the last column of R601 narrows it. -/
structure Reach where
  /-- Registers, by address, and bytes of memory that may take any value. -/
  reg : Nat → Bool := fun _ => false
  mem : Nat → Bool := fun _ => false
  /-- Outputs that may appear. -/
  out : Out → Bool := fun _ => false
  /-- The block whose units may come to any state. -/
  unit : Option Block := none

/-- The fields of the register at `a`. -/
def fieldsAt (a : Nat) : List FieldDef :=
  match decodeReg a with
  | some h => match h.row with
    | some r => r.fields
    | none => []
  | none => []

/-- A register with free values in the fields that software can write; the others keep theirs. -/
def typedPoke (fs : List FieldDef) (old v : Nat) : Nat :=
  fs.foldl (fun x f => match f.ty with
    | .ro => x
    | .rc => x
    | .wo => x
    | _ => setBits x f.lsb f.width (bitsOf v f.lsb f.width)) old

/-- One free write, where it lies within the reach: never OTP, the boot ROM or flash (R3). -/
def State.freeWrite (x : Reach) (s : State) (e : Nat × Nat) : State :=
  match s.region e.1 with
  | .regs => if e.1 % 4 = 0 && x.reg e.1 then s.wrReg e.1 (BitVec.ofNat 32 (typedPoke (fieldsAt e.1) (s.rdReg e.1).toNat e.2)) else s
  | .hole => s
  | .bootRom => s
  | .otp => s
  | .ledger => s
  | _ => if x.mem e.1 then s.wrB e.1 (BitVec.ofNat 8 e.2) else s

/-- The board side with another's power readings and model. -/
def Board.kilnOf (b x : Board) : Board := { b with pmon := x.pmon, model := x.model, errs := x.errs, below := x.below }

/-- The units of a block in a free state. The cores' general registers are free too; what a core runs, its privilege, the trust unit and
flash are not (R3). -/
def State.freeUnit (s : State) (b : Block) : State :=
  let n := s.freeCtr
  match b with
  | .time => { s with time := Config.freeTime n, stroke := Config.freeStroke n }
  | .kiln => { s with board := s.board.kilnOf (Config.freeBoard n) }
  | .global => { s with board := { s.board with i2c := (Config.freeBoard n).i2c } }
  | .plumb => { s with plumb := Config.freePlumb n }
  | .mbox => { s with mbox := Config.freeMboxes n }
  | .perf => { s with perf := Config.freePerf n }
  | .host => { s with host := { Config.freeHost n with classCode := s.host.classCode, subsystem := s.host.subsystem, failed := s.host.failed } }
  | .net => s
  | .ingest => { s with ingest := Config.freeIngest n }
  | .zip => { s with zip := Config.freeZip n }
  | .trowel => { s with trowel := Config.freeTrowel n }
  | .cox => (Config.freeWrites n).foldl (fun s e => s.setCore (e.1 / 32) ((s.core (e.1 / 32)).setG (e.1 % 32) (BitVec.ofNat 64 e.2))) s
  | .shell => { s with render := { s.render with shells := Config.freeShells n } }
  | .oar => { s with render := { s.render with shells := Config.freeShells n } }
  | .cam => { s with cam := Config.freeCam n }
  | .dramc => { s with dram := Config.freeDrams n }
  | .strand => { s with strands := Config.freeStrands n }
  | .mortar => { s with mortar := Config.freeMortars n }
  | .ring => s
  | .trust => s
  | .ledger => s

/-- An unpredictable result (R3): free writes of registers and memory, free outputs and free units, all within the reach. -/
def State.unpredictable (s : State) (x : Reach) : State :=
  let n := s.freeCtr
  let u := (Config.freeWrites n).foldl (State.freeWrite x) { s with freeCtr := n + 1 }
  let u := ((Config.freeOuts n).filter x.out).foldl State.emit u
  match x.unit with
  | some b => u.freeUnit b
  | none => u

/-! ## Rings (R374–R381) -/

/-- Address of the context of ring `r` (R374, R405). -/
def ringCtx (r : Nat) : Nat := 0x0D800000 + 64 * r

def State.ringBase (s : State) (r : Nat) : Nat := s.rdN (ringCtx r) 6
def State.ringLogCap (s : State) (r : Nat) : Nat := s.memFld (ringCtx r + 8) 0 5
def State.ringEsize (s : State) (r : Nat) : Nat := 8 * 2 ^ s.memFld (ringCtx r + 8) 5 4
def State.ringClass (s : State) (r : Nat) : Nat := s.memFld (ringCtx r + 8) 9 2
def State.ringProd (s : State) (r : Nat) : Nat := s.memFld (ringCtx r + 8) 11 5
def State.ringCons (s : State) (r : Nat) : Nat := s.memFld (ringCtx r + 8) 16 5
def State.ringEv (s : State) (r : Nat) : Nat := s.memFld (ringCtx r + 8) 21 6
def State.ringEvProd (s : State) (r : Nat) : Bool := s.memFld (ringCtx r + 8) 27 1 != 0
def State.ringEn (s : State) (r : Nat) : Bool := s.memFld (ringCtx r + 8) 28 1 != 0
def State.ringVec (s : State) (r : Nat) : Nat := s.memFld (ringCtx r + 0xC) 0 6
def State.ringVecEn (s : State) (r : Nat) : Bool := s.memFld (ringCtx r + 0xC) 6 1 != 0
def State.ringPI (s : State) (r : Nat) : Nat := s.rd32 (ringCtx r + 0x10)
def State.ringCI (s : State) (r : Nat) : Nat := s.rd32 (ringCtx r + 0x14)

/-- The fill: (PI − CI) mod 2^32 (R375). -/
def State.ringFill (s : State) (r : Nat) : Nat := (s.ringPI r + 2 ^ 32 - s.ringCI r) % 2 ^ 32

/-- The free count: the capacity minus the fill (R375). -/
def State.ringFree (s : State) (r : Nat) : Nat := 2 ^ s.ringLogCap r - s.ringFill r

/-- Address of element `i` (R375). -/
def State.ringElem (s : State) (r i : Nat) : Nat := s.ringBase r + (i % 2 ^ s.ringLogCap r) * s.ringEsize r

/-- The notification of one end of a ring (R378). -/
def State.notify (s : State) (r agent : Nat) : State :=
  if agent < 16 then s.raise (0x180 + s.ringEv r)
  else if agent = 16 then (if s.ringVecEn r then s.sendVec (s.ringVec r) else s)
  else s

/-- `n` elements of ring `r` from index `first` on are counted, each with its own address (R561, R563). -/
def State.countElems (s : State) (r ev first n req : Nat) : State :=
  forN n (fun j s => s.count 6 ev 1 { req := some req, cls := some (s.ringClass r), addr := some (s.ringElem r (first + j)) }) s

/-- PI advances by `n`: elements are counted, and the consumer of an enabled ring is notified (R378). -/
def State.advancePI (s : State) (r n : Nat) : State :=
  if n = 0 then s else
  let s := (s.wr32 (ringCtx r + 0x10) ((s.ringPI r + n) % 2 ^ 32)).countElems r 0x10 (s.ringPI r) n (s.ringProd r)
  if s.ringEn r then s.notify r (s.ringCons r) else s

/-- The reach of an error in a ring (R601): its elements, PI and CI; `all` adds the rest of its context. -/
def State.ringReach (s : State) (r : Nat) (all : Bool) : Reach :=
  { mem := fun a => (decide (s.ringBase r ≤ a) && decide (a < s.ringBase r + 2 ^ s.ringLogCap r * s.ringEsize r)) ||
      (decide (ringCtx r + (if all then 0 else 0x10) ≤ a) && decide (a < ringCtx r + (if all then 64 else 0x18))) }

/-- A ring in force whose element memory overlaps that of ring `r` (R375). Its context lists EN. -/
def State.ringClash (s : State) (r : Nat) : Option Nat :=
  ((s.mem.filter (fun e => decide (0x0D800000 ≤ e.1) && decide (e.1 < 0x0D880000) && e.1 % 64 == 0xB)).map (fun e => (e.1 - 0x0D800000) / 64)).find? (fun q =>
    q != r && s.ringEn q && decide (s.ringBase q < s.ringBase r + 2 ^ s.ringLogCap r * s.ringEsize r) &&
      decide (s.ringBase r < s.ringBase q + 2 ^ s.ringLogCap q * s.ringEsize q))

/-- `n` elements are added to ring `r`. Where its memory overlaps another ring's, the elements of both are unpredictable (R601). -/
def State.produce (s : State) (r n : Nat) : State :=
  match s.ringClash r with
  | some q => (s.advancePI r n).unpredictable { mem := fun a => (s.ringReach r false).mem a || (s.ringReach q false).mem a }
  | none => s.advancePI r n

/-- CI is set to `ci`: elements freed are counted, and the producer is notified when EV_PROD is 1 (R377, R378). -/
def State.setCI (s : State) (r ci : Nat) : State :=
  let n := (ci + 2 ^ 32 - s.ringCI r) % 2 ^ 32
  if n = 0 then s else
  let s := (s.wr32 (ringCtx r + 0x14) (ci % 2 ^ 32)).countElems r 0x11 (s.ringCI r) n (s.ringCons r)
  if s.ringEvProd r then s.notify r (s.ringProd r) else s

/-- Why a unit's record is lost (R380): 1 FULL, 2 DISABLED, 3 SMALL, 4 NOT_DEVICE. -/
def State.ringLoss (s : State) (r len : Nat) : Option Nat :=
  if s.ringProd r != 18 then some 4
  else if !s.ringEn r then some 2
  else if s.ringEsize r < len then some 3
  else if s.ringFree r = 0 then some 1
  else none

/-- A unit has made an access of `n` bytes at `a`: one through the host window that failed is counted and flagged, and EV_HOST_DMA_ERR is raised
(R394). A failed completion has been counted when it came. -/
def State.unitTouch (s : State) (a n : Nat) : State :=
  if n != 0 && (s.hostOff a || s.hostOff (a + n - 1)) then
    if s.host.failed then { s with host := { s.host with failed := false } } else
    let s := s.incSat R.HOST_DMA_ERR
    let s := if s.linkOff then s.set F.HOST_ERR_LINK_DOWN 1 else s.set F.HOST_ERR_SEG_OFF 1
    s.raise 0xEA
  else s

/-- A unit adds its record to ring `r`, or loses it (R380). The flag says that the record was written. -/
def State.unitRecord (s : State) (r : Nat) (rec : List Byte) : Bool × State :=
  match s.ringLoss r rec.length with
  | none => (true, ((s.wrBytes (s.ringElem r (s.ringPI r)) rec).unitTouch (s.ringElem r (s.ringPI r)) rec.length).produce r 1)
  | some why =>
    let d := s.rd32 (ringCtx r + 0x18)
    let s := s.wr32 (ringCtx r + 0x18) (Nat.min (d + 1) 0xFFFFFFFF)
    let s := s.incSat R.RNG_DROP
    let s := s.set F.RNG_LAST_DROP_RING r
    let s := s.set F.RNG_LAST_DROP_REASON why
    let s := s.count 6 0x12 1 { req := some 18, cls := some (s.ringClass r), addr := some (s.ringElem r (s.ringPI r)) }
    (false, s.raise 0x32)

/-- Whether a unit may take an element from ring `r`: enabled, its consumer the device, and not empty (R379). -/
def State.unitCanTake (s : State) (r : Nat) : Bool := s.ringEn r && s.ringCons r == 18 && s.ringFill r != 0

/-- The unit has finished with `n` elements (R377). -/
def State.unitTaken (s : State) (r n : Nat) : State :=
  (s.unitTouch (s.ringElem r (s.ringCI r)) (s.ringEsize r)).setCI r ((s.ringCI r + n) % 2 ^ 32)

/-- The check that a write setting EN in a unit's ring register makes (R466): the ring is configured, its element is large enough, and
the device is its consumer, or its producer. -/
def State.ringFits (s : State) (r minElem : Nat) (consumer : Bool) : Bool :=
  s.ringLogCap r != 0 && decide (minElem ≤ s.ringEsize r) && (if consumer then s.ringCons r == 18 else s.ringProd r == 18)

/-! ## Time -/

/-- Domain clock `d`. -/
def State.dom (s : State) (d : Nat) : PtpDomain := KMap.get (fun _ => PtpDomain.reset) s.time.dom d

/-- The state with domain clock `d` set. -/
def State.setDom (s : State) (d : Nat) (x : PtpDomain) : State :=
  { s with time := { s.time with dom := KMap.put (fun _ => PtpDomain.reset) s.time.dom d x } }

/-- The time counter, and the local timebase, in 2^-32 ns. -/
def State.nowQ (s : State) : Nat := s.now * 2 ^ 32 + s.nowFrac
def State.upQ (s : State) : Nat := s.upNs * 2 ^ 32 + s.upFrac

/-- A domain clock `dt` × 2^-32 ns of the local timebase later: nominal × (1 − y × 10^-9), y in 2^-16 ppb (R257). -/
def PtpDomain.run (x : PtpDomain) (dt : Nat) : PtpDomain :=
  let sum := x.clkFrac + (dt * (65536000000000 - x.y).toNat) / 65536000000000
  { x with clk := (x.clk + sum / 2 ^ 32) % 2 ^ 64, clkFrac := sum % 2 ^ 32 }

/-- d of R262, the time counter minus the domain clock in force: in 2^-32 ns, and in ns. -/
def State.clkDiffQ (s : State) : Int :=
  let x := s.dom (s.get F.TIME_STAT_DOM_ACT)
  (s.nowQ - (x.clk * 2 ^ 32 + x.clkFrac : Nat) : Int)
def State.clkDiff (s : State) : Int := s.clkDiffQ / 4294967296

/-- RAMP, at least 1: ppb per ms, which is 10^-15 per ns (R278). -/
def State.ramp (s : State) : Nat := Nat.max 1 (s.get F.TIME_SLEW_RAMP)

/-- The rate of the domain in force against nominal, in 10^-15 (R257). -/
def State.baseRate (s : State) : Int := -((s.dom (s.get F.TIME_STAT_DOM_ACT)).y * 1000000 / 65536)

/-- What a slew comes to in the time of one move of the clocks: the counter's new speed towards the domain clock, and what it comes nearer,
in 2^-32 ns. -/
structure Slew where
  speed : Int
  near : Int

/-- A slew of R262 over `t` × 2^-32 ns. The counter has the speed `u` (10^-15) towards the domain clock, lies `d` × 2^-32 ns from it, may
change its speed by `a` × 10^-15 per ns, and takes no more than `lim`. The spec leaves the course of the slew open: the wanted speed, at
least 1, and what is covered are free (`f1`, `f2`), between what that change of speed can cover at least and at most, and always so that the
speed that is left can be given up before the domain clock is reached. Where it cannot, the counter gives up speed as fast as it may. -/
def slewOver (u a lim d t : Int) (f1 f2 : Nat) : Slew :=
  let room := a * t / 4294967296
  let mean (v : Int) : Int := (u + v) * t / 2000000000000000
  let wide (v : Int) : Int := (room * room - (v - u) * (v - u)) * 4294967296 / (4 * a * 1000000000000000)
  let stop (v : Int) : Int := v * v.natAbs * 4294967296 / (2 * a * 1000000000000000)
  let most (v : Int) : Int := max (mean v - wide v) (Min.min (mean v + wide v) (lim * t / 1000000000000000))
  let v := clampI (u - room) (u + room) (1 + f1 % lim)
  let lo := max (mean v - wide v) (Min.min 1 (most v))
  let hi := Min.min (most v) (d - stop v)
  if lo ≤ hi then { speed := v, near := lo + f2 % (hi - lo + 1) }
  else
    let v := clampI (u - room) (u + room) 0
    { speed := v, near := clampI (mean v - wide v) (most v) d }

/-- The counter's slew over `dt` × 2^-32 ns (R262). With FAR it gives up what slew it has (R263). -/
def State.slew (s : State) (dt : Nat) : Slew :=
  let d := s.clkDiffQ
  let r := s.time.rate - s.baseRate
  let u := if d < 0 then r else -r
  let lim : Int := (Nat.max 1 (s.get F.TIME_SLEW_SLEW_PPB) * 1000000 : Nat)
  if s.flag F.TIME_STAT_FAR then
    let room : Int := s.ramp * dt / 4294967296
    let v := clampI (u - room) (u + room) 0
    { speed := v, near := v * dt / 1000000000000000 + (u - v) * (u - v).natAbs * 4294967296 / (2 * s.ramp * 1000000000000000) }
  else slewOver u s.ramp lim d.natAbs dt (Config.freeFun .result [1, s.now, s.nowFrac, dt]) (Config.freeFun .result [2, s.now, s.nowFrac, dt])

/-- The counter's rate against nominal `dt` × 2^-32 ns later, in 10^-15: 0 in FREE (R247); in FOLLOW the rate of the domain in force and
the slew (R262). -/
def State.counterRate (s : State) (dt : Nat) : Int :=
  if s.flag F.TIME_STAT_MODE then s.baseRate + (if s.clkDiffQ < 0 then (s.slew dt).speed else -(s.slew dt).speed) else 0

/-- What the slew adds to the counter, in 2^-32 ns, over `dt` × 2^-32 ns. -/
def State.slewGain (s : State) (dt : Nat) : Int :=
  if s.flag F.TIME_STAT_MODE then (if s.clkDiffQ < 0 then (s.slew dt).near else -(s.slew dt).near) else 0

/-- What the counter gains in `dt` × 2^-32 ns against nominal but for the slew. -/
def State.baseGain (s : State) (dt : Nat) : Int :=
  if s.flag F.TIME_STAT_MODE then dt * s.baseRate / 1000000000000000 else 0

/-- The state with the clocks at given values. -/
def State.withClocks (s : State) (now frac up upFrac : Nat) (x : TimeUnit) : State :=
  { s with now := now, nowFrac := frac, upNs := up, upFrac := upFrac, time := x }

/-- The domain clocks `dt` × 2^-32 ns of the local timebase later, with the counter's rate `rate`. -/
def State.clocksAfter (s : State) (dt : Nat) (rate : Int) : TimeUnit :=
  let d := KMap.put (fun _ => PtpDomain.reset) s.time.dom 0 ((s.dom 0).run dt)
  { s.time with rate := rate, dom := KMap.put (fun _ => PtpDomain.reset) d 1 ((s.dom 1).run dt) }

/-- The fraction of the time counter, with the ns it has gained, `dt` × 2^-32 ns of the local timebase later (R246, R262). -/
def State.counterSum (s : State) (dt : Nat) : Nat := s.nowFrac + (dt + s.baseGain dt + s.slewGain dt).toNat

/-- `dt` × 2^-32 ns of the local timebase pass: the domain clocks and the time counter run at their rates (R246, R257, R262). -/
def State.advanceQ (s : State) (dt : Nat) : State :=
  s.withClocks ((s.now + s.counterSum dt / 2 ^ 32) % 2 ^ 64) (s.counterSum dt % 2 ^ 32)
    ((s.upQ + dt) / 2 ^ 32) ((s.upQ + dt) % 2 ^ 32) (s.clocksAfter dt (s.counterRate dt))

/-- `dt` ns of the local timebase pass. -/
def State.advance (s : State) (dt : Nat) : State := s.advanceQ (dt * 2 ^ 32)

/-- Local time, in 2^-32 ns, until the counter gains `g` × 2^-32 ns at the rate of the domain in force, and with its slew: the inverse of
`counterSum`. -/
def State.baseUntil (s : State) (g : Nat) : Nat :=
  if s.flag F.TIME_STAT_MODE then g * 1000000000000000 / (1000000000000000 + s.baseRate).toNat else g
def State.untilQ (s : State) (g : Nat) : Nat := ((s.baseUntil g : Int) - s.slewGain (s.baseUntil g)).toNat

/-- Local time, in 2^-32 ns, at which the counter reaches `q` × 2^-32 ns. -/
def State.localQ (s : State) (q : Nat) : Nat := s.upQ + s.untilQ (q - s.nowQ)

/-- The event that the time counter dates at `q` × 2^-32 ns happens: the counter has reached it by then. -/
def State.advanceToQ (s : State) (q : Nat) : State :=
  if s.nowQ < q then
    s.withClocks (q / 2 ^ 32) (q % 2 ^ 32) (s.localQ q / 2 ^ 32) (s.localQ q % 2 ^ 32)
      (s.clocksAfter (s.untilQ (q - s.nowQ)) (s.counterRate (s.baseUntil (q - s.nowQ))))
  else s

/-- The event that the time counter dates at `t` ns happens. -/
def State.advanceTo (s : State) (t : Nat) : State := s.advanceToQ (t * 2 ^ 32)

/-- The event that the local timebase dates at `t` happens. -/
def State.advanceUp (s : State) (t : Nat) : State := s.advanceQ (t * 2 ^ 32 - s.upQ)

/-- The outcome of a command. -/
abbrev Res := Host.Outcome State Fault Refusal

/-! ## Exceptions of a cox core (R326–R328) -/

/-- Cause codes of R326. -/
def causeIllegal : Nat := 1
def causePriv : Nat := 2
def causeAlign : Nat := 3
def causeAccess : Nat := 4
def causeBudget : Nat := 5
def causeWatch : Nat := 6

/-- Core `n` takes an exception (R328): cc.EPC, cc.CAUSE and cc.TVAL are written, PRIV goes to PPRIV and becomes M (W stays on cores
0–3), INEXC is set, the core jumps to cc.TVEC, and COX_EXC, COX_EXC_PC and COX_EXC_ADDR record it. With INEXC already 1 it is a
double fault: the core stops FAULTED, DOUBLE is set and EV_COX_FAULT is raised. -/
def State.takeException (s : State) (n cause : Nat) (epc tval : Word) : State :=
  let c := s.core n
  if c.inexc then
    ((s.setCore n { c with run := .faulted, wait := .none }).set F.COX_STAT_DOUBLE 1 n).raise (0x90 + n)
  else
    let s := s.settle n
    let s := s.setCore n { s.core n with
      epc := epc, cause := cause, tval := tval, ppriv := c.priv.code, priv := if n < 4 then .w else .m, inexc := true, pc := c.tvec &&& ~~~3, wait := .none }
    let s := s.set F.COX_EXC_CAUSE cause n
    let s := s.set F.COX_EXC_PRIV c.priv.code n
    let s := s.incFld F.COX_EXC_COUNT 1 n
    let s := s.wr64 R.COX_EXC_PC_LO epc.toNat n
    let s := s.wr64 R.COX_EXC_ADDR_LO tval.toNat n
    (s.count (20 + n) 0x16 1 { priv := some c.priv, req := some n }).spend n 6 0 (b2n (cause != causeBudget)) (12 - b2n (cause != causeBudget))

/-! ## Who reaches which register (R309–R311, R578, R579) -/

/-- Privilege of a requester; the host and the debug port have none. -/
def State.reqPriv (s : State) : Requester → Option Priv
  | .core n => some (s.core n.val).priv
  | _ => none

/-- Bit of a block in COX_BLOCKS (R344). -/
def blockBit : Block → Nat
  | .global => 0 | .time => 1 | .trust => 2 | .kiln => 3 | .plumb => 4 | .mbox => 5 | .perf => 6 | .ledger => 7 | .net => 8
  | .host => 9 | .ingest => 10 | .zip => 11 | .trowel => 12 | .cox => 13 | .shell => 14 | .oar => 14 | .cam => 15 | .ring => 16
  | .dramc => 17 | .strand => 18 | .mortar => 19

/-- Whether an owner core's COX_BLOCKS gives it a block (R311, R578). -/
def State.blockAllowed (s : State) (n : Nat) (b : Block) (write : Bool) : Bool :=
  bitAt (s.get F.COX_BLOCKS_ALLOW n) (blockBit b) || (!write && s.flag F.COX_BLOCKS_READ_ALL n)

/-- The registers of TRUST that the debug port reaches at every level (R579), by offset. -/
def dbgWords (w : Nat) : Bool := w == 0 || w == 0x54 || w == 0x58 || w == 0x5C || (decide (0x60 ≤ w) && decide (w ≤ 0x7C))

/-- Whether R578 and R579 allow an access to a decoded register. -/
def State.regAllowed (s : State) (who : Requester) (b : Block) (inst w : Nat) (write : Bool) : Bool :=
  match who with
  | .core n =>
    match (s.core n.val).priv with
    | .w => true
    | .u => false
    | .m =>
      match b with
      | .trust => false
      | .ledger => false
      | .cox => !write && inst == n.val
      | .kiln => !write && s.blockAllowed n.val b write
      | .plumb => !write && s.blockAllowed n.val b write
      | .perf => !write && s.blockAllowed n.val b write
      | .global => s.blockAllowed n.val b write &&
          (!write || (decide (0x40 ≤ w) && decide (w ≤ 0xBC)) || w == 0xC4 || w == 0xC8 || w == 0xCC)
      | .mbox => s.blockAllowed n.val b write && (!write || (w != 0x8 && w != 0xC))
      | _ => s.blockAllowed n.val b write
  | .host =>
    match b with
    | .trust => !write || w == 0x54 || w == 0x58
    | .ledger => !write
    | .cox => !write
    | _ => true
  | .debug =>
    let lv := s.get F.TRU_STAT_DBG_LEVEL
    if lv ≤ 1 then b == .trust && dbgWords w && (!write || w == 0x54 || w == 0x58)
    else
      match b with
      | .trust => (!write || w == 0x54 || w == 0x58) && (lv == 3 || dbgWords w)
      | .ledger => !write && lv == 3
      | .cox => lv == 3 || decide (4 ≤ inst)
      | _ => true

/-- A refused access: an owner core takes ACCESS (R312); the host's and the debug port's is ignored (R578). -/
def State.refuseAccess (s : State) (who : Requester) (a : Nat) : State :=
  match who with
  | .core n => s.takeException n.val causeAccess (s.core n.val).pc (BitVec.ofNat 64 a)
  | _ => s

/-- A command that stands for a write, by `who`, of the register at `a`: refused accesses as above, allowed ones do `k`. -/
def State.ifWrite (s : State) (who : Requester) (a : Nat) (k : State → Res) : Res :=
  match decodeReg a with
  | some h => if s.regAllowed who h.block h.inst h.word true then k s else .next (s.refuseAccess who a)
  | none => k s

/-! ## The field types (R5) -/

/-- The value of a register after a write of `v` by the field types alone: RW takes the bits, W1C clears where `v` has 1, W1S
sets there. -/
def typedWrite (fs : List FieldDef) (old v : Nat) : Nat :=
  fs.foldl (fun x f => match f.ty with
    | .rw => setBits x f.lsb f.width (bitsOf v f.lsb f.width)
    | .w1c => setBits x f.lsb f.width (bitsOf x f.lsb f.width &&& (2 ^ f.width - 1 - bitsOf v f.lsb f.width))
    | .w1s => setBits x f.lsb f.width (bitsOf x f.lsb f.width ||| bitsOf v f.lsb f.width)
    | _ => x) old

/-- What a read returns by the field types alone: WO and RSVD bits read 0. -/
def typedRead (fs : List FieldDef) (x : Nat) : Nat :=
  fs.foldl (fun r f => match f.ty with
    | .wo => r
    | _ => setBits r f.lsb f.width (bitsOf x f.lsb f.width)) 0

/-- The value left by a read: RC fields become 0, plus what the hardware adds in the same cycle, saturating (R6). -/
def typedClear (fs : List FieldDef) (x added : Nat) : Nat :=
  fs.foldl (fun r f => match f.ty with
    | .rc => setBits r f.lsb f.width (bitsOf added f.lsb f.width)
    | _ => r) x

/-- The write of a register by its field types (R5). -/
def State.typedWr (s : State) (a : Nat) (v : RegWord) : State :=
  s.wrReg a (BitVec.ofNat 32 (typedWrite (fieldsAt a) (s.rdReg a).toNat v.toNat))

/-! ## What a host error may disturb (R601) -/

/-- The block whose unit makes an output. -/
def Out.block : Out → Block
  | .msix _ => .host
  | .brick _ _ _ _ => .strand
  | .pattern l _ => if l < 96 then .strand else .mortar
  | .census _ _ => .strand
  | .mortar _ _ _ _ _ _ => .mortar
  | .ptp _ _ _ => .net
  | .net _ _ => .net
  | .serial _ _ => .global
  | .reply _ _ => .host
  | .poisonedCpl _ _ => .host

/-- The block that a register belongs to: the oars are part of SHELL (R575). -/
def Block.whole : Block → Block
  | .oar => .shell
  | b => b

/-- Whether a requester is an owner core at M. -/
def State.atM (s : State) : Requester → Bool
  | .core n => (s.core n.val).priv != .w
  | _ => false

/-- Whether `a` is one of the first `n` elements of register `r`. -/
def inSpan (r : Rg) (n a : Nat) : Bool := (upTo n).any (fun j => a == r.at 0 j)

/-- What an error of `who` in block `b` may disturb: the registers of the block that it could write, and what the block controls. -/
def State.blockRegs (s : State) (who : Requester) (b : Block) (a : Nat) : Bool :=
  match decodeReg a with
  | some h => h.block.whole == b.whole && s.regAllowed who h.block h.inst h.word true &&
      (h.block != .ring || !s.atM who || inSpan R.RNG_CEN_ATTN 3 a)
  | none => false

/-- The reach of a reserved field or code written to a register of block `b` (R601). The ring contexts are what RING controls; a core at M
reaches neither them nor the I²C buses of GLOBAL (R382, R530, R578). -/
def State.blockReach (s : State) (who : Requester) (b : Block) : Reach :=
  { reg := s.blockRegs who b, mem := fun a => b == .ring && !s.atM who && decide (0x0D800000 ≤ a) && decide (a < 0x0D880000),
    out := fun o => o.block == b.whole, unit := if b == .global && s.atM who then none else some b }

/-- A reserved field or code written by `who` to the register at `a` (R601). -/
def State.reservedCode (s : State) (who : Requester) (a : Nat) : State :=
  match decodeReg a with
  | some h => s.unpredictable (s.blockReach who h.block)
  | none => s

/-- A write by `who` at `a` of the register window that is not an aligned word: any register of the addressed block that it could write
(R601). -/
def State.wrongWrite (s : State) (who : Requester) (a : Nat) : State :=
  match decodeReg (a / 4 * 4) with
  | some h => s.unpredictable { reg := s.blockRegs who h.block }
  | none => s

/-- Address ranges that a unit may write: no hole of the map, no device window (R402). -/
def State.unitRange (s : State) (a n : Nat) : Bool :=
  match s.region a, s.region (a + n - 1) with
  | .yard, .yard => true
  | .dram, .dram => true
  | .host, .host => true
  | .localStore m, .localStore k => m == k
  | _, _ => false

/-- What an element of ring `r` that names a hole of the map may disturb (R601): the ring's later jobs, the memory `m` that the unit could
write for the job, and its outputs `o`. -/
def State.jobReach (s : State) (r : Nat) (m : Nat → Bool) (o : Out → Bool) : Reach :=
  { mem := fun a => (s.ringReach r false).mem a || m a, out := o }

/-- Addresses from `a` on, `n` of them. -/
def inRange (a n x : Nat) : Bool := decide (a ≤ x) && decide (x < a + n)

/-- The outcome with its next state changed. -/
def onNext (r : Res) (f : State → State) : Res :=
  match r with
  | .next s => .next (f s)
  | r => r

/-- A read that is not of an aligned word: the value it returns (R601). -/
def State.wrongRead (s : State) : State := { (s.free .result).2 with readData := (s.free .result).1 }

/-- Whether `a` is an element of a register of `n` instances and `m` elements. -/
def rgHas (r : Rg) (n m a : Nat) : Bool :=
  (upTo n).any (fun i =>
    let b := r.at i 0
    decide (b ≤ a) && (if r.estr = 0 then a == b else (a - b) % r.estr == 0 && decide ((a - b) / r.estr < m)))

/-- The codes that the field maps call reserved or not used: field, instances, elements, first and last such code. -/
def reservedCodes : List (Fld × Nat × Nat × Nat × Nat) := [
  (F.TIME_STK_REQ_RATE, 1, 1, 21, 31), (F.TIME_STK_REQ_SOURCE, 1, 1, 3, 3), (F.TIME_DOM_CTL_TRANSPORT, 1, 2, 3, 3),
  (F.TIME_TC_CFG_SRC0, 1, 2, 4, 31), (F.TIME_TC_CFG_SRC1, 1, 2, 4, 31), (F.TIME_TC_CFG_SRC2, 1, 2, 4, 31), (F.TIME_TC_CFG_SRC3, 1, 2, 4, 31),
  (F.TIME_TC_CFG_EDGE0, 1, 2, 3, 3), (F.TIME_TC_CFG_EDGE1, 1, 2, 3, 3), (F.TIME_TC_CFG_EDGE2, 1, 2, 3, 3), (F.TIME_TC_CFG_EDGE3, 1, 2, 3, 3),
  (F.GLB_GPIO_CFG_PULL, 1, 32, 3, 3), (F.GLB_I2C_CTL_SPEED, 1, 2, 3, 3), (F.GLB_I2C_CMD_WLEN, 1, 2, 5, 7),
  (F.GLB_I2C_CMD_RLEN, 1, 2, 5, 7), (F.NET_CTL_SPEED, 4, 1, 5, 7), (F.SHL_CMD_OP, 4, 1, 3, 3),
  (F.STR_DIAG_MODE, 96, 1, 3, 3), (F.MRT_DIAG_MODE, 8, 1, 3, 3), (F.DRC_CFG_WIDTH, 8, 1, 2, 3), (F.DRC_CFG_DENSITY, 8, 1, 3, 3),
  (F.DRC_TRAIN_CTL_PAT, 8, 1, 4, 7), (F.DRC_DLY_SEL_TYPE, 8, 1, 6, 7), (F.CAM_P_CTL_LANES, 4, 1, 3, 3), (F.CAM_P_CTL_ROUTE, 4, 1, 3, 3),
  (F.CAM_K_OUT_CFG_FMT, 2, 1, 11, 15), (F.CAM_K_OUT_CFG_MATRIX, 2, 1, 3, 3),
  (F.TRU_LMS_HI_OP, 1, 1, 3, 3)] ++
  [(⟨(R.DRC_TIM.at 0 2), 0x10000, 0, 30, 2⟩, 8, 1, 1, 3), (⟨(R.DRC_TIM.at 0 3), 0x10000, 0, 28, 4⟩, 8, 1, 1, 15)] ++
  (upTo 8).map (fun m => ({ F.TIME_PORT_ROLE_MROLE with lsb := 2 * m, width := 2 }, 1, 1, 3, 3)) ++
  (upTo 4).map (fun n => ({ F.TIME_PORT_ROLE_NROLE with lsb := 16 + 2 * n, width := 2 }, 1, 1, 3, 3)) ++
  (upTo 4).map (fun i => ({ F.DRC_CFG_RATE with lsb := 6 + 3 * i, width := 3 }, 8, 1, 7, 7))

/-- Whether a value written to the register at `a` has such a code. -/
def codeReserved (a v : Nat) : Bool :=
  reservedCodes.any (fun e => rgHas ⟨e.1.base, e.1.istr, e.1.estr⟩ e.2.1 e.2.2.1 a &&
    decide (e.2.2.2.1 ≤ bitsOf v e.1.lsb e.1.width) && decide (bitsOf v e.1.lsb e.1.width ≤ e.2.2.2.2))

/-- Whether a written value has a 1 in a bit that no field of the register covers, or a reserved code in a field (R5, R601). -/
def rsvdWritten (a : Nat) (v : RegWord) : Bool :=
  match decodeReg a with
  | some h => match h.row with
    | some r => r.fields.foldl (fun x f => setBits x f.lsb f.width 0) v.toNat != 0 || codeReserved a v.toNat
    | none => false
  | none => false

/-- As `ifWrite`, of a written value: a reserved field written other than 0 has an unpredictable
result (R601). -/
def State.ifWriteV (s : State) (who : Requester) (a : Nat) (v : RegWord) (k : State → Res) : Res :=
  s.ifWrite who a (fun s => if rsvdWritten a v then .next (s.reservedCode who a) else k s)

/-- A command that stands for a read, by `who`, of the register at `a`: a refused read by the host or the debug port returns 0 (R578). -/
def State.ifRead (s : State) (who : Requester) (a : Nat) (k : State → Res) : Res :=
  match decodeReg a with
  | some h => if s.regAllowed who h.block h.inst h.word false then k s else .next { s.refuseAccess who a with readData := 0 }
  | none => k s

/-! ## 64-bit pairs (R7) -/

/-- The key of a requester's latch or holding register for the pair whose _LO lies at `a`. -/
def pairKey (who : Requester) (a : Nat) : Nat := 2 ^ 32 * who.code + a

/-- The _LO that a requester's holding register holds; 0 where it has written none since reset. -/
def State.held (s : State) (who : Requester) (a : Nat) : Nat := KMap.get (fun _ => 0) s.holds (pairKey who a)

/-- A write of a _LO register loads the requester's holding register and has no other effect. -/
def State.hold (s : State) (who : Requester) (a v : Nat) : State :=
  { s with holds := KMap.put (fun _ => 0) s.holds (pairKey who a) v }

/-- The commit of a pair's write: the held _LO and the written _HI, together, by the field types of the pair. -/
def State.commitPair (s : State) (who : Requester) (a : Nat) (hi : RegWord) : State :=
  (s.typedWr a (BitVec.ofNat 32 (s.held who a))).typedWr (a + 4) hi


end Sys2Proof.Machine
end

