-- ==== Sys2Proof/Machine/Ring.lean ====
section
/-!
DEFINITION. Ring configuration, consumer indices, software events, doorbells, mailboxes, MSI-X and the host link (R373–R401).
-/
namespace Sys2Proof.Machine

open Sys2Proof

/-! ## Configuring a ring (R382) -/

/-- Whether a writer's commands to the RING block take effect: not those of a core at M (R382). -/
def State.ringWriter (s : State) : Requester → Bool
  | .core n => (s.core n.val).priv == .w
  | _ => true

/-- Whether an agent code may not be configured (R373). -/
def badAgent (a : Nat) : Bool := decide (19 ≤ a) && decide (a ≤ 30)

/-- RNG_RESULT of a command. -/
def State.ringResult (s : State) (r code : Nat) : State := (s.set F.RNG_RESULT_RESULT code).set F.RNG_RESULT_RING r

/-- EN of a ring's context. -/
def State.setRingEn (s : State) (r : Nat) (b : Bool) : State := s.setMemFld (ringCtx r + 8) 28 1 (b2n b)

/-- CONFIGURE. -/
def State.ringConfigure (s : State) (r : Nat) : State :=
  let base := s.rd64 R.RNG_SET_BASE_LO % 2 ^ 48
  let lc := s.get F.RNG_SET_GEOM_LOG_CAP
  let es := s.get F.RNG_SET_GEOM_ESIZE
  let prod := s.get F.RNG_SET_BIND_PROD
  let cons := s.get F.RNG_SET_BIND_CONS
  if s.ringEn r then s.ringResult r 2
  else if lc = 0 ∨ 16 < lc ∨ 11 < es ∨ base % 64 ≠ 0 ∨ badAgent prod ∨ badAgent cons then s.ringResult r 1
  else
    let w := lc + es * 2 ^ 5 + s.get F.RNG_SET_GEOM_CLASS * 2 ^ 9 + prod * 2 ^ 11 + cons * 2 ^ 16 + s.get F.RNG_SET_BIND_EV * 2 ^ 21 +
      s.get F.RNG_SET_BIND_EV_PROD * 2 ^ 27 + 2 ^ 28
    let v := s.get F.RNG_SET_BIND_VEC + s.get F.RNG_SET_BIND_VEC_EN * 2 ^ 6
    (s.wrBytes (ringCtx r) (leBytes 8 base ++ leBytes 4 w ++ leBytes 4 v ++ leBytes 12 0)).ringResult r 0

/-- A write of RNG_CMD: OP and the ring. -/
def State.ringCommand (s : State) (op r : Nat) : State :=
  if op = 1 then s.ringConfigure r
  else if op = 2 then (if s.ringLogCap r = 0 then s.ringResult r 1 else (s.setRingEn r true).ringResult r 0)
  else if op = 3 then (s.setRingEn r false).ringResult r 0
  else s.ringResult r 3

/-- A write of RNG_CMD by `who`, where R578 lets it through. -/
def State.writeRngCmd (s : State) (who : Requester) (op r : Nat) : State := if s.ringWriter who then s.ringCommand op r else s

/-- R382: RNG_CMD CONFIGURE, ENABLE and DISABLE. -/
def execRingConfigure (who : Requester) (ring : Fin 8192) (s : State) : Res :=
  s.ifWrite who (R.RNG_CMD.at 0 0) (fun s => .next (s.writeRngCmd who 1 ring.val))
def execRingEnable (who : Requester) (ring : Fin 8192) (s : State) : Res :=
  s.ifWrite who (R.RNG_CMD.at 0 0) (fun s => .next (s.writeRngCmd who 2 ring.val))
def execRingDisable (who : Requester) (ring : Fin 8192) (s : State) : Res :=
  s.ifWrite who (R.RNG_CMD.at 0 0) (fun s => .next (s.writeRngCmd who 3 ring.val))

/-! ## Consumer indices and events -/

/-- Whether `ci` lies past PI (R375, R601). -/
def State.pastPI (s : State) (r ci : Nat) : Bool := decide (s.ringFill r < (ci + 2 ^ 32 - s.ringCI r) % 2 ^ 32)

/-- CI is set to `ci`; one past PI is a host error, which may leave anything in the ring (R375, R601). -/
def State.consume (s : State) (r ci : Nat) : State :=
  if s.pastPI r ci then (s.setCI r ci).unpredictable (s.ringReach r false) else s.setCI r ci

/-- R377: a write of the CI word of a ring's context. -/
def execRingCiWrite (_who : Requester) (ring : Fin 8192) (ci : RegWord) (s : State) : Res := .next (s.consume ring.val ci.toNat)

/-- A write of RNG_EV_RAISE (R383, R401). -/
def State.softRaise (s : State) (v : RegWord) : State := s.raise (0x1C0 + bitsOf v.toNat 0 6)

/-- R383: software raises EV_SOFT + SOFT. -/
def execSoftEventRaise (who : Requester) (v : RegWord) (s : State) : Res :=
  s.ifWriteV who (R.RNG_EV_RAISE.at 0 0) v (fun s => .next (s.softRaise v))

/-! ## Doorbells (R395) -/

/-- A write of HOST_DB by `who`. -/
def State.doorbell (s : State) (who : Requester) (side : Bool) (r n : Nat) : Res :=
  let a := who.code
  let ok := (a == 16 || a == 17) && s.flag F.HOST_CTL_DB_EN && (if side then s.ringCons r == a else s.ringProd r == a) && s.ringEn r
  if !ok then .next (s.incSat R.HOST_DB_REJ)
  else
    let s := s.count 5 0x12
    if side then .next (s.consume r ((s.ringCI r + n) % 2 ^ 32)) else .next (s.produce r n)

/-- R395: HOST_DB with SIDE 0, and with SIDE 1. -/
def execHostDoorbellProduce (who : Requester) (ring : Fin 8192) (count : BitVec 16) (s : State) : Res :=
  s.ifWrite who (R.HOST_DB.at 0 0) (fun s => s.doorbell who false ring.val count.toNat)
def execHostDoorbellConsume (who : Requester) (ring : Fin 8192) (count : BitVec 16) (s : State) : Res :=
  s.ifWrite who (R.HOST_DB.at 0 0) (fun s => s.doorbell who true ring.val count.toNat)

/-! ## Mailboxes (R385–R391) -/

/-- The held notice of mailbox `n`. -/
def State.mboxHeld (s : State) (n : Nat) : Option MboxHeld := KMap.get (fun _ => none) s.mbox n
def State.setMbox (s : State) (n : Nat) (x : Option MboxHeld) : State := { s with mbox := KMap.put (fun _ => none) s.mbox n x }

/-- The commit of a notice by a write of MBX_NOTICE_HI (R386). -/
def State.mboxPost (s : State) (who : Requester) (n : Nat) (hi : RegWord) : State :=
  let wrong := !s.flag F.MBX_CFG_EN n || s.get F.MBX_CFG_SENDER n != who.code
  if wrong || s.flag F.MBX_STAT_FULL n then
    let s := if s.flag F.MBX_STAT_FULL n then s.set F.MBX_STAT_REFUSED 1 n else s
    if wrong then s.set F.MBX_STAT_WRONG 1 n else s
  else
    let bit := s.get F.MBX_CTL_DBIT n
    let t := Nat.min (s.get F.MBX_TMO_TIMEOUT_US n) 1000000
    let s := (s.wr R.MBX_NOTICE_LO (s.held who (R.MBX_NOTICE_LO.at n 0)) n).wr R.MBX_NOTICE_HI hi.toNat n
    let s := ((s.set F.MBX_STAT_FULL 1 n).wr R.MBX_DOORBELL (2 ^ bit) n).set F.MBX_STAT_TIMEOUT 0 n
    let s := s.incFldWrap F.MBX_STAT_POSTS 1 n
    let s := s.setMbox n (some {
      sender := who.code, receiver := s.get F.MBX_CFG_RECEIVER n, txVec := s.get F.MBX_CFG_TX_VEC n, deadline := if t = 0 then none else some (s.upNs + 1000 * t) })
    if !bitAt (s.rd R.MBX_MASK n) bit then s
    else if s.get F.MBX_CFG_RECEIVER n = 16 then s.sendVec (s.get F.MBX_CFG_RX_VEC n)
    else s.raise (0x100 + n)

/-- R386: a sender's write of MBX_NOTICE_HI. -/
def execMailboxPost (who : Requester) (n : Fin 64) (hi : RegWord) (s : State) : Res :=
  s.ifWriteV who (R.MBX_NOTICE_HI.at n.val 0) hi (fun s => .next (s.mboxPost who n.val hi))

/-- FULL and the doorbell bit clear, and the timer stops. -/
def State.mboxClear (s : State) (n : Nat) : State := ((s.set F.MBX_STAT_FULL 0 n).wr R.MBX_DOORBELL 0 n).setMbox n none

/-- What a read of a _HI register returns: the half that the requester's read of _LO latched (R7), else the register. -/
def State.latchedHi (s : State) (who : Requester) (lo : Nat) : Nat :=
  let l := KMap.get (fun _ => 0) s.latches (pairKey who lo)
  if l = 0 then (s.rdReg (lo + 4)).toNat else l - 2 ^ 32

/-- A read of MBX_NOTICE_HI: the receiver's clears the notice (R387). -/
def State.mboxTake (s : State) (who : Requester) (n : Nat) : State :=
  let s := { s with readData := s.latchedHi who (R.MBX_NOTICE_LO.at n 0) }
  match s.mboxHeld n with
  | some h => if h.receiver = who.code then s.mboxClear n else s
  | none => s

/-- R387: a read of MBX_NOTICE_HI. -/
def execMailboxTake (who : Requester) (n : Fin 64) (s : State) : Res :=
  s.ifRead who (R.MBX_NOTICE_HI.at n.val 0) (fun s => .next (s.mboxTake who n.val))

/-- R388: a notice is still held when its timeout comes. -/
def execMailboxTimeout (n : Fin 64) (s : State) : Res :=
  let n := n.val
  match s.mboxHeld n with
  | some h =>
    match h.deadline with
    | some t =>
      let s := ((s.advanceUp t).set F.MBX_STAT_TIMEOUT 1 n).setMbox n (some { h with deadline := none })
      .next (if h.sender = 16 then s.sendVec h.txVec else s.raise (0x140 + n))
    | none => .next s
  | none => .next s

/-- A write of MBX_CTL: DBIT, and WITHDRAW, which only the sender's write performs (R388). -/
def State.writeMbxCtl (s : State) (who : Requester) (n : Nat) (v : RegWord) : State :=
  let s := s.set F.MBX_CTL_DBIT (bitsOf v.toNat 0 5) n
  match s.mboxHeld n with
  | some h => if bitAt v.toNat 5 ∧ h.sender = who.code then (s.mboxClear n).set F.MBX_STAT_WITHDRAWN 1 n else s
  | none => s

/-- R388: MBX_CTL.WITHDRAW. The write leaves DBIT as it stands. -/
def execMailboxWithdraw (who : Requester) (n : Fin 64) (s : State) : Res :=
  s.ifWrite who (R.MBX_CTL.at n.val 0) (fun s => .next (s.writeMbxCtl who n.val (BitVec.ofNat 32 (s.get F.MBX_CTL_DBIT n.val + 32))))

/-! ## The host (R392–R397) -/

/-- A vector is unmasked, and its pending bit sends one message (R396). -/
def State.unmask (s : State) (v : Nat) : State :=
  let s' := { s with host := { s.host with masked := setBits s.host.masked v 1 0, pend := setBits s.host.pend v 1 0 } }
  if bitAt s.host.masked v ∧ bitAt s.host.pend v then s'.sendVec v else s'

/-- R396: a vector is unmasked. -/
def execMsixUnmask (vec : Fin 64) (s : State) : Res := .next (s.unmask vec.val)

/-- The HOST block returns to its reset values, but for what the link, OTP and the ledger give it (R397). -/
def State.hostReset (s : State) : State :=
  let keep : List Nat := [R.HOST_STAT.at 0 0, R.HOST_ID.at 0 0, R.HOST_DWIN.at 0 0]
  let inHost (a : Nat) : Bool := decide (0x400C0000 ≤ a) && decide (a < 0x400C1000) && !keep.contains a
  let s := { s with regs := s.regs.filter (fun e => !inHost e.1), host := { HostPort.reset with subsystem := s.host.subsystem }
                    perf := { s.perf with cfg := KMap.put (fun _ => 0) s.perf.cfg 5 0, waiting := s.perf.waiting.filter (· != 5) } }
  let s := s.set F.PERF_STAT_CFG_PENDING (b2n !s.perf.waiting.isEmpty)
  ((s.set F.HOST_DWIN_BASE_GIB 0).set F.HOST_STAT_BME 0).set F.HOST_STAT_D3HOT 0

/-- R397: a Function Level Reset. -/
def execHostFlr (s : State) : Res := .next ((s.hostReset.set F.HOST_STAT_FLR_SEEN 1).raise 0xE9)

/-- R397: the link is lost: the same effect on the host path; it is counted and EV_HOST_LINK is raised. -/
def execHostLinkDown (s : State) : Res :=
  if s.flag F.HOST_STAT_LINK_UP then
    let n := s.rd R.HOST_LINK_DOWN
    let s := ((s.hostReset.set F.HOST_STAT_LINK_UP 0).set F.HOST_STAT_SPEED 0).set F.HOST_STAT_WIDTH 0
    .next (((s.wr R.HOST_LINK_DOWN n).incSat R.HOST_LINK_DOWN).raise 0xE8)
  else .next s

/-- R392: the link trains to a speed of 2.5–32 GT/s and 1, 2 or 4 lanes and enters L0; the host's configuration of the function gives
Bus Master Enable and the power state. The link does not train without its references (R592). -/
def execHostLinkUp (speed : Fin 5) (lanes : Fin 3) (bme d3hot : Bool) (s : State) : Res :=
  if !s.refPresent 4 || !s.refPresent 5 then .next s else
  let s := ((s.set F.HOST_STAT_LINK_UP 1).set F.HOST_STAT_SPEED (speed.val + 1)).set F.HOST_STAT_WIDTH (2 ^ lanes.val)
  .next ((s.set F.HOST_STAT_BME (b2n bme)).set F.HOST_STAT_D3HOT (b2n d3hot))

/-- R394: a unit's request through the host window gets no completion within CPL_TO, or Unsupported Request: the next access that a unit makes
through the window reads poisoned data, or its write is discarded. -/
def execHostCplTimeout (unsupported : Bool) (s : State) : Res :=
  let s := { s with host := { s.host with failed := true } }.incSat R.HOST_DMA_ERR
  .next ((if unsupported then s.set F.HOST_ERR_UR 1 else s.set F.HOST_ERR_CPL_TIMEOUT 1).raise 0xEA)

end Sys2Proof.Machine
end

