-- ==== Sys2Proof/Machine/Board.lean ====
section
/-!
DEFINITION. The board side: I²C, GPIO inputs, clock inputs, boundary scan, the kiln's sensors and flash temperature, and the gate of ledger
and OTP writes (R519–R531, R592, R596).
-/
namespace Sys2Proof.Machine

open Sys2Proof

/-! ## I²C (R531) -/

/-- Transaction in progress on bus `b`. -/
def State.i2c (s : State) (b : Nat) : Option I2cXfer := KMap.get (fun _ => none) s.board.i2c b

/-- The state with it set; BUSY follows it. -/
def State.setI2c (s : State) (b : Nat) (x : Option I2cXfer) : State :=
  ({ s with board := { s.board with i2c := KMap.put (fun _ => none) s.board.i2c b x } }).set F.GLB_I2C_STAT_BUSY (b2n x.isSome) 0 b

/-- The bytes that a transaction puts on the bus: target and write bytes, the packet error check of SMBus after a transaction that only
writes, the target again for a read. -/
def i2cBytes (addr : Nat) (w : List Byte) (rlen : Nat) (pec : Bool) : List Byte :=
  let first : List Byte := if w.isEmpty && rlen != 0 then [] else BitVec.ofNat 8 (2 * addr) :: w
  if rlen = 0 then first ++ (if pec then [BitVec.ofNat 8 (crcMsbBytes 8 0x07 0 first)] else [])
  else first ++ [BitVec.ofNat 8 (2 * addr + 1)]

/-- A write of GLB_I2C_CMD: GO starts a transaction on an enabled bus, and is ignored while BUSY. Lengths above 4 and SPEED 3 are
reserved codes (R601). -/
def State.writeI2cCmd (s : State) (b : Nat) (v : RegWord) : Res :=
  let s := s.typedWr (R.GLB_I2C_CMD.at 0 b) v
  if !bitAt v.toNat 6 || (s.i2c b).isSome || !s.flag F.GLB_I2C_CTL_EN 0 b then .next s
  else
    let w := s.get F.GLB_I2C_CMD_WLEN 0 b
    let r := s.get F.GLB_I2C_CMD_RLEN 0 b
    let addr := s.get F.GLB_I2C_ADDR_ADDR 0 b
    let s := s.emit (.serial b (i2cBytes addr (leBytes w (s.rd R.GLB_I2C_WDATA 0 b)) r (s.flag F.GLB_I2C_CTL_PEC 0 b)))
    .next (s.setI2c b (some { addr := addr, rlen := r }))

/-- R531: a write of GLB_I2C_CMD. -/
def execI2cTransaction (who : Requester) (b : Fin 2) (v : RegWord) (s : State) : Res :=
  s.ifWriteV who (R.GLB_I2C_CMD.at 0 b.val) v (fun s => s.writeI2cCmd b.val v)

/-- R531: the transaction ends with a result, the bytes read in `data` where it is OK. -/
def execI2cDone (b : Fin 2) (result : Fin 5) (data : RegWord) (s : State) : Res :=
  let k := b.val
  match s.i2c k with
  | none => .next s
  | some x =>
    let s := (s.setI2c k none).set F.GLB_I2C_STAT_RESULT result.val 0 k
    let s := s.count 0 0x11
    .next (if result.val = 0 then s.wr R.GLB_I2C_RDATA (setBits (s.rd R.GLB_I2C_RDATA 0 k) 0 (8 * x.rlen) data.toNat) 0 k
      else s.incSat R.GLB_I2C_ERRCNT 1 0 k)

/-! ## GPIO inputs, clock inputs, boundary scan -/

/-- R529: the level of a pin changes: GLB_GPIO_IN follows, inverted under INV, and the edge is recorded and counted. -/
def execGpioInputEdge (n : Fin 32) (level : Bool) (s : State) : Res :=
  let n := n.val
  let l := level != s.flag F.GLB_GPIO_CFG_INV 0 n
  if bitAt (s.rd R.GLB_GPIO_IN) n == l then .next s
  else
    let s := s.wr R.GLB_GPIO_IN (setBits (s.rd R.GLB_GPIO_IN) n 1 (b2n l))
    .next ((s.wr R.GLB_GPIO_EDGE (setBits (s.rd R.GLB_GPIO_EDGE) n 1 1)).count 0 0x10)

/-- R592: a clock input appears or disappears. -/
def execClockPresenceChange (c : Fin 7) (present : Bool) (s : State) : Res :=
  .next (s.set F.GLB_CLK_STAT_PRESENT (setBits (s.get F.GLB_CLK_STAT_PRESENT) c.val 1 (b2n present)))

/-- R596: an instruction is loaded through JTAG. From debug level 1 on, an instruction other than BYPASS, IDCODE and SAMPLE/PRELOAD
takes the pins; one of these releases them. -/
def execBoundaryScanInstruction (holds : Bool) (s : State) : Res :=
  if s.get F.TRU_STAT_DBG_LEVEL = 0 then .next s else .next { s with board := { s.board with bscan := holds } }

/-! ## Sensors (R519–R522) -/

/-- Point of sensor `i` (R520). -/
def sensorPoint (i : Nat) : Nat := [1, 5, 9, 13, 17, 21, 25, 29, 33, 39, 45, 51, 55, 59, 62, 63].getD i 63

/-- Anchor sensor of point `p` (R519). -/
def anchorOf (p : Nat) : Nat :=
  if p < 16 then p / 4
  else if p < 20 then 4
  else if p < 24 then 5
  else if p < 28 then 6
  else if p < 32 then 7
  else if p < 36 then 8
  else if p < 44 then 9
  else if p < 49 then 10
  else if p < 54 then 11
  else if p < 58 then 12
  else if p < 62 then 13
  else if p = 62 then 14
  else 15

/-- A sensor is healthy unless marked faulty or excluded (R520). -/
def State.healthy (s : State) (i : Nat) : Bool := !bitAt (s.get F.KLN_SFAULT_FAULTY) i && !bitAt (s.get F.KLN_SFAULT_EXCLUDE) i

/-- How many sensors are healthy. -/
def State.healthyCount (s : State) : Nat := ((List.range 16).filter s.healthy).length

/-- The sensors' states follow KLN_SFAULT: FAULTY and EXCLUDED of each, HEALTHY and SENSOR_LOW (R521). -/
def State.sensorStates (s : State) : State :=
  let s := forN 16 (fun i s => (s.set F.KLN_SENSOR_FAULTY (s.get F.KLN_SFAULT_FAULTY / 2 ^ i) 0 i).set F.KLN_SENSOR_EXCLUDED
    (s.get F.KLN_SFAULT_EXCLUDE / 2 ^ i) 0 i) s
  (s.set F.KLN_STAT_HEALTHY s.healthyCount).set F.KLN_STAT_SENSOR_LOW (b2n (decide (s.healthyCount < 4)))

/-- Last reading of sensor `i`, Q8.8. -/
def State.reading (s : State) (i : Nat) : Int := sgn 16 (s.get F.KLN_SENSOR_TEMP 0 i)

/-- The nearest healthy sensor other than `i` after it, or before it, counting modulo 16. -/
def State.neighbour (s : State) (i : Nat) (after : Bool) : Option Nat :=
  ((List.range 15).map (fun k => (if after then i + k + 1 else i + 15 - k) % 16)).find? s.healthy

/-- Whether a healthy sensor differs by more than LIMIT from both of its neighbours. -/
def State.sensorOdd (s : State) (i : Nat) : Bool :=
  let lim : Nat := s.get F.KLN_XCHK_LIMIT * 256
  let far (n : Option Nat) : Bool := match n with
    | some k => decide (lim < (s.reading i - s.reading k).natAbs)
    | none => false
  s.healthy i && far (s.neighbour i true) && far (s.neighbour i false)

/-- Nominal voltage of rail `j` in mV, and its allowed deviation in tenths of a mV (R590). -/
def State.railRange (s : State) (j : Nat) : Nat × Nat :=
  let code := if s.flag F.GLB_AVS_OVR_EN then Nat.min 16 (s.get F.GLB_AVS_OVERRIDE) else s.get F.GLB_AVS_CODE
  [(720 + 5 * code, 150), (750, 225), (800, 240), (850, 255), (1200, 600), (1100, 330), (1800, 900), (3300, 1650)].getD j (0, 0)

/-- A voltage monitor is read: outside its range it sets LOW or HIGH and raises EV_KILN_SENSOR (R522). -/
def State.readRail (s : State) (j mv : Nat) : State :=
  let s := s.set F.KLN_VMON_MV mv 0 j
  let (nom, dev) := s.railRange j
  if 10 * mv + dev < 10 * nom then
    (s.set F.KLN_VMON_STAT_LOW (setBits (s.get F.KLN_VMON_STAT_LOW) j 1 1)).raiseIf (s.flag F.KLN_EVMASK_SENSOR_EN) 0xCB
  else if 10 * nom + dev < 10 * mv then
    (s.set F.KLN_VMON_STAT_HIGH (setBits (s.get F.KLN_VMON_STAT_HIGH) j 1 1)).raiseIf (s.flag F.KLN_EVMASK_SENSOR_EN) 0xCB
  else s

/-- m_p, the model's value at point `p` (R519). -/
def State.modelAt (s : State) (p : Nat) : Int := KMap.get (fun _ => 0) s.board.model p

/-- e_i of the healthy sensors, and the largest difference of the round (R520). -/
def State.modelErrors (s : State) : State :=
  let lim : Int := s.get F.KLN_XCHK_MODEL_LIM * 256
  let hs := (List.range 16).filter s.healthy
  let diff (i : Nat) : Int := s.reading i - s.modelAt (sensorPoint i)
  let s := { s with board := { s.board with errs := hs.foldl (fun m i => KMap.put (fun _ => 0) m i (clampI (-lim) lim (diff i))) s.board.errs } }
  s.set F.KLN_MODEL_ERR_DIFF (hs.foldl (fun m i => Nat.max m (diff i).natAbs) 0)

/-- R520: the housekeeping round reads the sensors and the voltage monitors, marks the odd sensors, and sets the model errors. -/
def execSensorRound (temps : List (BitVec 16)) (volts : List (BitVec 16)) (s : State) : Res :=
  let s := forN 16 (fun i s => s.set F.KLN_SENSOR_TEMP ((temps[i]?).getD 0).toNat 0 i) s
  let odd := (List.range 16).filter s.sensorOdd
  let s := odd.foldl (fun s i => (s.set F.KLN_SFAULT_FAULTY (setBits (s.get F.KLN_SFAULT_FAULTY) i 1 1)).raiseIf
    (s.flag F.KLN_EVMASK_SENSOR_EN) 0xCB) s
  let s := forN 8 (fun j s => s.readRail j ((volts[j]?).getD 0).toNat) s
  .next s.sensorStates.modelErrors

/-! ## Flash temperature and the write gate (R527, R528) -/

/-- VALID and IN_RANGE of the flash temperature. -/
def State.setFlashValid (s : State) (v : Bool) : State :=
  let t := sgn 16 (s.get F.KLN_FLASH_TEMP)
  (s.set F.KLN_FLASH_VALID (b2n v)).set F.KLN_FLASH_IN_RANGE (b2n (v && decide (-6400 ≤ t) && decide (t ≤ 21760)))

/-- R527: the kiln reads the board flash temperature over bus 0, between software's transactions; `word` is the answer, none where the
read fails. With EN 0 nothing is read. -/
def execFlashTempRead (word : Option (BitVec 16)) (s : State) : Res :=
  if !s.flag F.KLN_FLASH_CFG_EN || (s.i2c 0).isSome then .next s
  else
    let a := s.get F.KLN_FLASH_CFG_ADDR
    let s := s.emit (.serial 0 (i2cBytes a [BitVec.ofNat 8 (s.get F.KLN_FLASH_CFG_PTR)] 2 false))
    match word with
    | none => .next (s.set F.KLN_FLASH_ERR 1)
    | some w =>
      let s := s.set F.KLN_FLASH_TEMP (if s.flag F.KLN_FLASH_CFG_FORMAT then w.toNat / 16 * 16 else w.toNat)
      .next ({ s with board := { s.board with flashAt := s.upNs } }.setFlashValid true)

/-- R527: 2 s after it was taken, a reading stops being valid. -/
def execFlashReadingExpired (s : State) : Res :=
  if s.flag F.KLN_FLASH_VALID then .next ((s.advanceUp (s.board.flashAt + 2000000000)).setFlashValid false) else .next s

/-- A write of KLN_FLASH_CFG: with EN 0 no reading is valid. -/
def State.writeFlashCfg (s : State) (v : RegWord) : State :=
  let s := s.typedWr (R.KLN_FLASH_CFG.at 0 0) v
  if s.flag F.KLN_FLASH_CFG_EN then s else s.setFlashValid false

/-- Why a ledger program or erase is refused (R528): 0 permitted, 1 TEMP, 2 PWR_FAIL, 3 TRIP. The trip record may be written in stage 3. -/
def State.ledgerWhy (s : State) (trip : Bool) : Nat :=
  if !s.flag F.KLN_FLASH_IN_RANGE then 1
  else if s.flag F.GLB_PWR_PWR_FAIL then 2
  else if s.get F.KLN_STAT_STAGE = 3 ∧ !trip then 3
  else 0

/-- Why OTP programming is refused (R528): 0 permitted, 1 TEMP, 2 PWR_FAIL. -/
def State.otpWhy (s : State) : Nat :=
  let t := sgn 16 (s.get F.KLN_TJ_TJ)
  if t < 0 ∨ 21760 < t then 1 else if s.flag F.GLB_PWR_PWR_FAIL then 2 else 0

/-- GLB_WR_GATE as it stands now (R528, R531). -/
def State.gateShow (s : State) : State :=
  let why := if !s.flag F.KLN_FLASH_VALID then 2 else if !s.flag F.KLN_FLASH_IN_RANGE then 1 else if s.ledgerWhy false = 0 then 0 else 3
  let s := (s.set F.GLB_WR_GATE_LEDGER_OK (b2n (s.ledgerWhy false == 0))).set F.GLB_WR_GATE_LEDGER_WHY why
  (s.set F.GLB_WR_GATE_OTP_OK (b2n (s.otpWhy == 0))).set F.GLB_WR_GATE_OTP_WHY s.otpWhy

end Sys2Proof.Machine
end

