-- ==== Sys2Proof/Machine/Dram.lean ====
section
/-!
DEFINITION. The DRAM channels: enable, training, frequency changes, mode registers, power-down, self-refresh and latency tolerance, ECC,
scrub, retirement and migration (R408–R432).
-/
namespace Sys2Proof.Machine

open Sys2Proof

def State.drc (s : State) (c : Nat) : Dram := KMap.get (fun _ => Dram.reset) s.dram c
def State.setDrc (s : State) (c : Nat) (d : Dram) : State := { s with dram := KMap.put (fun _ => Dram.reset) s.dram c d }

/-- STATE codes of DRC_STAT. -/
def drcOff : Nat := 0
def drcTraining : Nat := 1
def drcRun : Nat := 2
def drcSelfRefresh : Nat := 3
def drcMigrating : Nat := 4
def drcFreqChange : Nat := 5
def drcFailed : Nat := 6

def State.drcState (s : State) (c : Nat) : Nat := s.get F.DRC_STAT_STATE c
def State.setDrcState (s : State) (c x : Nat) : State := s.set F.DRC_STAT_STATE x c

/-! ## Capacity and mapping (R410, R411) -/

/-- GiB of one rank. -/
def State.rankGib (s : State) (c : Nat) : Nat := (2 + s.get F.DRC_CFG_DENSITY c) * (if s.flag F.DRC_CFG_WIDTH c then 8 else 16)

/-- GiB that a channel uses as data. -/
def State.channelGib (s : State) (c : Nat) : Nat :=
  Nat.min 32 (s.rankGib c * (if s.flag F.DRC_CFG_RANKS c && !s.flag F.DRC_CTL_SPARE_EN c then 2 else 1))

/-- Channel, subchannel and offset within the channel of a DRAM address. -/
def dramChannel (a : Nat) : Nat := let x := a - 0x100000000; bitsOf x 7 3 ^^^ bitsOf x 18 3 ^^^ bitsOf x 29 3
def dramSub (a : Nat) : Nat := bitsOf (a - 0x100000000) 6 1
def dramOffset (a : Nat) : Nat := bitsOf (a - 0x100000000) 10 28 * 128 + bitsOf (a - 0x100000000) 0 7

/-- Bytes that the running migration of channel `c` has copied: 18 GB/s (R426). -/
def State.migBytes (s : State) (c : Nat) : Nat := Nat.min (18 * (s.upNs - (s.drc c).migAt)) (s.rankGib c * 2 ^ 30)

/-- The rank that serves an address: the spare once it holds the data, and below the copy position while it is being filled (R426). -/
def State.dramRank (s : State) (c a : Nat) : Nat :=
  if s.flag F.DRC_STAT_SPARE_ACT c then 1
  else if s.drcState c = drcMigrating then (if dramOffset a < s.migBytes c then 1 else 0)
  else if s.flag F.DRC_CFG_RANKS c && !s.flag F.DRC_CTL_SPARE_EN c && decide (s.rankGib c * 2 ^ 30 ≤ dramOffset a) then 1 else 0

/-! ## Enable and sessions (R414, R429) -/

/-- STATE as ENABLE and SESSION ask for it. -/
def State.drcWanted (s : State) (c : Nat) : Nat :=
  if s.flag F.DRC_TRAIN_CTL_SESSION c then drcTraining else if s.flag F.DRC_CTL_ENABLE c then drcRun else drcOff

/-- The channel's STATE after a change of ENABLE or SESSION: a running frequency change and a migration go on, and return to it. -/
def State.drcSettle (s : State) (c : Nat) : State :=
  let next := s.drcWanted c
  let d := { s.drc c with
    freqTo := (s.drc c).freqTo.map (fun f => (f.1, next)), leaving := false, released := (s.drc c).released || next != drcOff }
  if s.drcState c = drcMigrating then s.setDrc c { d with under := next }
  else if s.drcState c = drcFreqChange then s.setDrc c d
  else (s.setDrc c d).setDrcState c next

/-- ENABLE is set or cleared; a channel that starts reports its capacity. -/
def State.drcEnable (s : State) (c : Nat) (on : Bool) : State :=
  let was := s.flag F.DRC_CTL_ENABLE c
  let s := s.set F.DRC_CTL_ENABLE (b2n on) c
  if on == was then s else (if on then s.set F.DRC_CAP_GIB (s.channelGib c) c else s).drcSettle c

/-- SESSION is written (R414). -/
def State.drcSession (s : State) (c : Nat) (on : Bool) : State :=
  if on && s.flag F.DRC_CTL_ENABLE c then s
  else if on == s.flag F.DRC_TRAIN_CTL_SESSION c then s
  else (s.set F.DRC_TRAIN_CTL_SESSION (b2n on) c).drcSettle c

/-! ## Frequency change (R417) -/

/-- A change to index `i` begins; the state to return to is kept. -/
def State.drcChange (s : State) (c i : Nat) : State :=
  let d := s.drc c
  ((s.setDrc c { d with freqTo := some (i, if s.drcState c = drcTraining then drcTraining else drcRun), heldDfc := none, leaving := false }).setDrcState c drcFreqChange).set
    F.DRC_STAT_DFC_PENDING 0 c

/-- The change held behind a capture or another change: carried out, or refused where the channel has become OFF, FAILED or MIGRATING. -/
def State.drcHeld (s : State) (c i : Nat) : State :=
  let st := s.drcState c
  let drop := (s.setDrc c { s.drc c with heldDfc := none }).set F.DRC_STAT_DFC_PENDING 0 c
  if st = drcOff ∨ st = drcFailed ∨ st = drcMigrating then drop.set F.DRC_STAT_DFC_RESULT 1 c
  else if i = s.get F.DRC_STAT_FREQ_ACT c then drop
  else s.drcChange c i

/-- DFC to index `i`: refused, SAME, held behind a capture or a running change, or carried out. -/
def State.drcDfc (s : State) (c i : Nat) : State :=
  let st := s.drcState c
  if st = drcOff ∨ st = drcFailed ∨ st = drcMigrating then s.set F.DRC_STAT_DFC_RESULT 1 c
  else if i = s.get F.DRC_STAT_FREQ_ACT c then s.set F.DRC_STAT_DFC_RESULT 2 c
  else
    let s := s.set F.DRC_STAT_DFC_RESULT 0 c
    if (s.drc c).capture.isSome ∨ st = drcFreqChange then
      (s.setDrc c { s.drc c with heldDfc := some i }).set F.DRC_STAT_DFC_PENDING 1 c
    else s.drcChange c i

/-! ## Captures and sweeps (R415, R416) -/

/-- A capture begins at the index in force. -/
def State.drcCapture (s : State) (c : Nat) : State :=
  let d := s.drc c
  (s.setDrc c { d with
    capture := some (s.get F.DRC_STAT_FREQ_ACT c)
    failsBefore := KMap.get (fun _ => 0) d.bitCnt (s.get F.DRC_CMP_SEL_BIT c) }).set F.DRC_TRAIN_STAT_BUSY 1 c

/-- GO: the capture begins, or waits for the end of a running frequency change, at whose end the index in force is known (R415, R417). -/
def State.drcGo (s : State) (c : Nat) : State :=
  if s.drcState c = drcFreqChange then s.set F.DRC_TRAIN_STAT_BUSY 1 c else s.drcCapture c

/-- The delays that a sweep sets before its capture `i`: one element, or every element of its TYPE and rank. -/
def State.drcSweepSet (s : State) (c i : Nat) : State :=
  let d := s.drc c
  let v := (s.get F.DRC_SWEEP_START c + i * Nat.max 1 (s.get F.DRC_SWEEP_STEP c)) % 1024
  let base := 2048 * s.get F.DRC_TRAIN_CTL_FIDX c
  let sel := bitsOf (s.rd R.DRC_DLY_SEL c) 0 11
  let els := if s.flag F.DRC_SWEEP_ALL c then (upTo 128).map (fun e => setBits sel 3 7 e) else [sel]
  s.setDrc c { d with dly := els.foldl (fun m e => KMap.put (fun _ => 0) m (base + e) v) d.dly }

/-- DRC_CMP_CNT shows the counter of the selected bit. -/
def State.drcShow (s : State) (c : Nat) : State :=
  s.set F.DRC_CMP_CNT_CNT (KMap.get (fun _ => 0) (s.drc c).bitCnt (s.get F.DRC_CMP_SEL_BIT c)) c

/-- Failure masks and counters cleared. -/
def State.drcClear (s : State) (c : Nat) : State :=
  ((forN 3 (fun j s => s.wr R.DRC_CMP_MASK 0 c j) s).setDrc c { s.drc c with bitCnt := [] }).drcShow c

/-- A write of DRC_TRAIN_CTL. -/
def State.writeTrainCtl (s : State) (c : Nat) (v : RegWord) : State :=
  let w := v.toNat
  let s := s.drcSession c (bitAt w 0)
  let s := s.wr R.DRC_TRAIN_CTL (setBits (bitsOf w 0 9 / 4 * 4) 0 1 (s.get F.DRC_TRAIN_CTL_SESSION c)) c
  let s := if bitAt w 9 then s.drcClear c else s
  if !bitAt w 1 ∨ !s.flag F.DRC_TRAIN_CTL_SESSION c ∨ s.flag F.DRC_TRAIN_STAT_BUSY c then s else s.drcGo c

/-- A write of DRC_SWEEP. -/
def State.writeSweep (s : State) (c : Nat) (v : RegWord) : State :=
  let s := s.wr R.DRC_SWEEP (setBits (bitsOf v.toNat 0 28) 26 1 0) c
  if bitAt v.toNat 26 && s.flag F.DRC_TRAIN_CTL_SESSION c && !s.flag F.DRC_TRAIN_STAT_BUSY c then
    ((s.setDrc c { s.drc c with sweep := some (0, 0), best := (0, 0) }).drcSweepSet c 0).drcGo c
  else s

/-- The failures of bit `k` in a capture of `bursts` bursts of 16 beats: what the board and the devices give, a free value. -/
def drcFails (x k bursts : Nat) : Nat := Config.freeFun .dram [1, x, k] % (16 * bursts + 1)

/-- The line of burst `b` of a capture on subchannel `sub`. Which address a rank, bank, row and column have belongs to the controller (R411):
a free function of them. -/
def State.drcLine (s : State) (c sub b : Nat) : Nat :=
  Config.freeFun .dram [5, c, s.get F.DRC_TRAIN_CTL_RANK c, s.get F.DRC_PAT_ADDR_ROW c, s.get F.DRC_PAT_ADDR_BANK c, b, sub] * 64

/-- A capture with DIR 0 has written the pattern of PAT to BURSTS bursts from ROW and BANK of RANK on both subchannels. What the devices hold
of it is the board's, as the failures are. -/
def State.drcPattern (s : State) (c bursts : Nat) : State :=
  let mine (a : Nat) : Bool := decide (0x100000000 ≤ a) && dramChannel a == c && s.dramRank c a == s.get F.DRC_TRAIN_CTL_RANK c
  let hit (a : Nat) : Bool := (upTo bursts).any (fun b => s.drcLine c (dramSub a) b == a / 64 * 64)
  if s.flag F.DRC_TRAIN_CTL_DIR c then s else s.unpredictable { mem := fun a => mine a && hit a }

/-- What the end of a capture does to a sweep. -/
def State.drcSweepEnd (s : State) (c : Nat) (pass : Bool) : State :=
  match (s.drc c).sweep with
  | none => s.set F.DRC_TRAIN_STAT_BUSY 0 c
  | some (i, run) =>
    let d := s.drc c
    let run := if pass then run + 1 else 0
    let best := if d.best.1 < run then (run, i) else d.best
    let last := decide (Nat.max 1 (s.get F.DRC_SWEEP_COUNT c) ≤ i + 1)
    let s := s.setDrc c { d with sweep := if last then none else some (i + 1, run), best := best }
    if last then
      let at' (k : Nat) : Nat := (s.get F.DRC_SWEEP_START c + k * Nat.max 1 (s.get F.DRC_SWEEP_STEP c)) % 1024
      let any := decide (best.1 ≠ 0)
      let v := if any then at' (best.2 + 1 - best.1) + at' best.2 * 2 ^ 10 + 2 ^ 20 else 0
      (s.wr R.DRC_SWEEP_RES v c).set F.DRC_TRAIN_STAT_BUSY 0 c
    else s.drcSweepSet c (i + 1)

/-- R415: a capture ends, by its bursts or by the 64 µs window. A DFC held behind it is carried out before the next capture (R417). -/
def execCaptureEnd (ch : Fin 8) (window : Bool) (s : State) : Res :=
  let c := ch.val
  match (s.drc c).capture with
  | none => .next s
  | some idx =>
    let f := s.free .dram
    let s := f.2
    let d := s.drc c
    let bursts := Nat.max 1 (s.get F.DRC_PAT_LEN_BURSTS c)
    let n (k : Nat) : Nat := drcFails f.1 k bursts
    let s := forN 3 (fun j s => s.wr R.DRC_CMP_MASK
      ((upTo 32).foldl (fun m b => if n (32 * j + b) ≠ 0 ∧ 32 * j + b < 80 then setBits m b 1 1 else m) (s.rd R.DRC_CMP_MASK c j)) c j) s
    let cnt := (upTo 80).foldl (fun m k => KMap.put (fun _ => 0) m k (Nat.min 65535 (KMap.get (fun _ => 0) m k + n k))) d.bitCnt
    let pass := decide (n (s.get F.DRC_CMP_SEL_BIT c) = 0)
    let s := ((s.setDrc c { d with bitCnt := cnt, capture := none }).drcPattern c bursts).drcShow c
    let s := ((s.set F.DRC_TRAIN_STAT_DONE 1 c).set F.DRC_TRAIN_STAT_FIDX idx c).set F.DRC_TRAIN_STAT_WINDOW (b2n window) c
    let s := (s.drcSweepEnd c pass).raiseIf (s.flag F.DRC_EVMASK_TRAIN_EN c) 0xC4
    match (s.drc c).heldDfc with
    | some i => .next (s.drcHeld c i)
    | none => .next (if (s.drc c).sweep.isSome then s.drcCapture c else s)

/-- R417: the change completes; a capture that waits for it, or a change held meanwhile, begins. -/
def execFrequencyChangeDone (ch : Fin 8) (s : State) : Res :=
  let c := ch.val
  match (s.drc c).freqTo with
  | none => .next s
  | some (i, back) =>
    let s := (s.setDrc c { s.drc c with freqTo := none }).setDrcState c (if s.drcState c = drcMigrating then drcMigrating else back)
    let s := s.set F.DRC_STAT_FREQ_ACT i c
    match (s.drc c).heldDfc with
    | some j => .next (s.drcHeld c j)
    | none => .next (if s.flag F.DRC_TRAIN_STAT_BUSY c then s.drcCapture c else s)

/-! ## Mode registers (R430) -/

/-- Key of a mode register of a channel's devices. -/
def mrKey (w : Nat) : Nat := 512 * bitsOf w 9 1 + 256 * bitsOf w 10 1 + bitsOf w 0 8

/-- A mode register: what MRW wrote, else the device's own value. -/
def State.modeReg (s : State) (c k : Nat) : Nat := KMap.get (fun k => Config.freeFun .dram [2, c, k] % 256) (s.drc c).mr k

/-- A write of a timing register, `t` after it: outside a session it is a host error that may disturb every access to DRAM, and with them
every unit, the picture and every ring in DRAM (R414, R601). -/
def State.timingWrite (s : State) (c : Nat) (t : State) : State :=
  if s.flag F.DRC_TRAIN_CTL_SESSION c then t
  else t.unpredictable { mem := fun a => decide (0x100000000 ≤ a), out := fun _ => true }

/-- A write of DRC_MR. -/
def State.writeMr (s : State) (c : Nat) (v : RegWord) : State :=
  let busy := s.get F.DRC_MR_BUSY c
  let t := s.wr R.DRC_MR (bitsOf v.toNat 0 11 + busy * 2 ^ 12) c
  s.timingWrite c (if bitAt v.toNat 11 then t.set F.DRC_MR_BUSY 1 c else t)

/-- R430: the access completes. -/
def execModeRegisterAccessDone (ch : Fin 8) (s : State) : Res :=
  let c := ch.val
  if !s.flag F.DRC_MR_BUSY c then .next s
  else
    let s := s.set F.DRC_MR_BUSY 0 c
    let k := mrKey (s.rd R.DRC_MR c)
    if s.flag F.DRC_MR_READ c then .next (s.set F.DRC_MR_DATA_DATA (s.modeReg c k) c)
    else
      let d := s.drc c
      .next (s.setDrc c { d with mr := KMap.put (fun k => Config.freeFun .dram [2, c, k] % 256) d.mr k (s.get F.DRC_MR_DATA_DATA c) })

/-! ## Latency tolerance and self-refresh (R419–R421) -/

/-- The tolerance that means unlimited. -/
def ltrNone : Nat := 0xFFFFF

/-- The tolerance that source `k` of DRC_LTR_MIN states, ns (R420). -/
def State.ltrOf (s : State) (k : Nat) : Nat :=
  if k = 0 then s.get F.DRC_LTR_SW_TOL_NS 0
  else if k ≤ 4 then
    let sh := KMap.get (fun _ => Shell.reset) s.render.shells (k - 1)
    if s.stroke.wake || s.render.flats.any (fun f => !f.built) || (s.render.showT.isSome &&
        (sh.unrendered != 0 || !sh.lines.isEmpty || !sh.again.isEmpty || !sh.stalled.isEmpty || sh.check.isSome)) then 0
    else ltrNone
  else if k = 5 then (if s.stroke.wake || !s.render.rays.isEmpty then 0 else ltrNone)
  else if k = 6 then (if (upTo 2).any (fun p => !(KMap.get (fun _ => CamPipe.reset) s.cam.pipes p).jobs.isEmpty) then 5000 else ltrNone)
  else if k = 7 then (if s.flag F.ING_CTL_ENABLE then 20000 else ltrNone)
  else if k = 8 then (if (upTo 4).any (fun e => (KMap.get (fun _ => ZipEngine.reset) s.zip.engines e).job.isSome) then 50000 else ltrNone)
  else if s.trowel.list.isSome then 50000 else ltrNone

/-- DRC_LTR_MIN: the smallest tolerance stated, and the first unit that states it. -/
def State.ltrMin (s : State) : Nat × Nat :=
  (upTo 10).foldl (fun b k => if s.ltrOf k < b.1 then (s.ltrOf k, k) else b) (ltrNone, 0)

/-- Local time of the last command to a rank. -/
def State.cmdAt (s : State) (c rank : Nat) : Nat := KMap.get (fun _ => 0) (s.drc c).cmdAt rank

/-- R419: a rank that has had no command for TIMER ns, within its limits, enters power-down. -/
def execRankPowerDown (ch : Fin 8) (rank : Fin 2) (s : State) : Res :=
  let c := ch.val
  if s.flag F.DRC_PD_EN c && (s.drcState c == drcRun || s.drcState c == drcMigrating) then
    let s := s.advanceUp (s.cmdAt c rank.val + clampN 16 1000000 (s.get F.DRC_PD_TIMER c))
    .next (s.setDrc c { s.drc c with powerDown := setBits (s.drc c).powerDown rank.val 1 1 })
  else .next s

/-- R420: a channel that has had no request for IDLE_US enters self-refresh. -/
def execSelfRefreshEntry (ch : Fin 8) (s : State) : Res :=
  let c := ch.val
  if s.drcState c == drcRun && s.flag F.DRC_SR_EN c && decide (s.get F.DRC_SR_EXIT_NS c < s.ltrMin.1) then
    let s := s.advanceUp (Nat.max (s.cmdAt c 0) (s.cmdAt c 1) + 1000 * Nat.max 1 (s.get F.DRC_SR_IDLE_US c))
    .next ((s.setDrcState c drcSelfRefresh).incFldWrap F.DRC_SR_CNT_ENTRIES 1 c)
  else .next s

/-- A request of unit `u` meets a channel in self-refresh: it is late while the unit's tolerance still exceeds EXIT_NS, and the exit begins
(R420). -/
def State.srRequest (s : State) (c u : Nat) : State :=
  let s := if s.get F.DRC_SR_EXIT_NS c < s.ltrOf u then s.incFld F.DRC_SR_CNT_LATE 1 c else s
  s.setDrc c { s.drc c with leaving := true }

/-- R420: the exit begins, by a request of a unit or by the fall of LTR_MIN. A request under a tolerance that still exceeds EXIT_NS is late. -/
def execSelfRefreshExit (ch : Fin 8) (request : Option (Fin 10)) (s : State) : Res :=
  let c := ch.val
  let lim := s.get F.DRC_SR_EXIT_NS c
  if s.drcState c != drcSelfRefresh then .next s
  else match request with
    | some u => .next (s.srRequest c u.val)
    | none => .next (if s.ltrMin.1 ≤ lim then s.setDrc c { s.drc c with leaving := true } else s)

/-- R420: the channel has left self-refresh. -/
def execSelfRefreshExitDone (ch : Fin 8) (s : State) : Res :=
  let c := ch.val
  if (s.drc c).leaving then .next ((s.setDrc c { s.drc c with leaving := false, powerDown := 0 }).setDrcState c drcRun)
  else .next s

/-- A request to DRAM at `a` of `n` bytes by software or by the unit `u` of DRC_LTR_MIN: counted, power-down ends, and self-refresh begins to
end (R419, R420). -/
def State.dramTouch (s : State) (a n : Nat) (write : Bool) (at' : Attr) (u : Nat := 0) : State :=
  let c := dramChannel a
  let s := if write then (s.inc64 R.DRC_WR_BYTES_LO n c).count (56 + c) 0x11 1 at' else (s.inc64 R.DRC_RD_BYTES_LO n c).count (56 + c) 0x10 1 at'
  let s := if s.drcState c == drcSelfRefresh then s.srRequest c u else s
  let d := s.drc c
  s.setDrc c { d with
    powerDown := setBits d.powerDown (s.dramRank c a) 1 0
    cmdAt := KMap.put (fun _ => 0) d.cmdAt (s.dramRank c a) s.upNs }

/-! ## Errors, retirement and migration (R412, R413, R425, R426) -/

/-- Whether a spare stands ready: two ranks, SPARE_EN, and it holds no data. -/
def State.spareReady (s : State) (c : Nat) : Bool :=
  s.flag F.DRC_CFG_RANKS c && s.flag F.DRC_CTL_SPARE_EN c && !s.flag F.DRC_STAT_SPARE_ACT c

/-- Migration of rank 0 begins. -/
def State.drcMigrate (s : State) (c : Nat) : State :=
  let d := s.drc c
  let s := (s.setDrc c { d with
    under := if s.drcState c = drcSelfRefresh then drcRun else if s.drcState c = drcFreqChange then (d.freqTo.getD (0, drcRun)).2 else s.drcState c
    leaving := false, migAt := s.upNs }).setDrcState c drcMigrating
  let s := ((s.set F.DRC_RETIRE_RESULT 0 c).set F.DRC_MIG_STAT_STATE 1 c).set F.DRC_MIG_STAT_FROM 0 c
  ((s.wr R.DRC_MIG_POS 0 c).wr R.DRC_POISON_CNT 0 c).raise 0xC2

/-- The device retires a rank by itself, or finds no spare. -/
def State.drcAutoRetire (s : State) (c rank : Nat) : State :=
  if s.drcState c = drcMigrating then s
  else if s.spareReady c ∧ rank = 0 then s.drcMigrate c else s.set F.DRC_RETIRE_RESULT 1 c

/-- A write of DRC_RETIRE. -/
def State.writeRetire (s : State) (c : Nat) (v : RegWord) : State :=
  let s := (s.set F.DRC_RETIRE_RANK (bitsOf v.toNat 0 1) c).set F.DRC_RETIRE_CAPAR_LIMIT (bitsOf v.toNat 2 8) c
  if !bitAt v.toNat 1 then s
  else if bitAt v.toNat 0 && (s.flag F.DRC_CTL_SPARE_EN c || !s.flag F.DRC_CFG_RANKS c) then s.set F.DRC_RETIRE_RESULT 3 c
  else if s.drcState c = drcMigrating then s.set F.DRC_RETIRE_RESULT 2 c
  else if !s.spareReady c then s.set F.DRC_RETIRE_RESULT 1 c
  else s.drcMigrate c

/-- Devices of a codeword on a subchannel: 10 of ×4, 5 of ×8 (R432). -/
def State.drcDevices (s : State) (c : Nat) : Nat := if s.flag F.DRC_CFG_WIDTH c then 5 else 10

/-- Whether a codeword can be corrected with this report (R412): one device, of ×4 up to its 8 symbols, of ×8 one symbol. -/
def State.correctable (s : State) (c dev sym : Nat) : Bool :=
  decide (dev < s.drcDevices c) && decide (1 ≤ sym) && decide (sym ≤ if s.flag F.DRC_CFG_WIDTH c then 1 else 8)

/-- The address and the place of an ECC error are recorded: a device that is none of the rank's is not located (R432). -/
def State.eccRecord (s : State) (c a rank dev sym : Nat) (ue : Bool) : State :=
  let line := a / 64 * 64
  let s := (s.wr R.DRC_ECC_ADDR_LO line c).wr R.DRC_ECC_ADDR_HI (line / 2 ^ 32 % 2 ^ 16 + b2n ue * 2 ^ 16 + rank * 2 ^ 17 + dramSub a * 2 ^ 18 + 2 ^ 19) c
  s.wr R.DRC_ECC_SYN ((if dev < s.drcDevices c then dev else 31) + sym * 32) c

/-- The codeword of the line at `a` cannot be corrected (R412): no symbol of it is. -/
def State.eccBad (s : State) (c a dev : Nat) : State :=
  let rank := s.dramRank c a
  let s := s.incFld (if rank = 0 then F.DRC_ECC_UE_RANK0 else F.DRC_ECC_UE_RANK1) 1 c
  let s := ((s.eccRecord c a rank dev 0 true).raise 0xC1).setPoison a true
  if s.flag F.DRC_CTL_AUTO_RETIRE c then s.drcAutoRetire c rank else s

/-- R412: what the codeword of the line at `a` reports on a read. An error that the code does not correct is none that it reports as
corrected. -/
def State.eccRead (s : State) (c a : Nat) (err : EccError) : State :=
  match err with
  | .clean => s
  | .corrected dev sym =>
    if s.correctable c dev sym then
      let rank := s.dramRank c a
      let s := s.incFld (if rank = 0 then F.DRC_ECC_CE_RANK0 else F.DRC_ECC_CE_RANK1) 1 c
      let s := (s.eccRecord c a rank dev sym false).count (56 + c) 0x16 1 { req := some 18, cls := some 3, addr := some a }
      s.raiseIf (s.flag F.DRC_EVMASK_CE_EN c) 0xC0
    else s.eccBad c a dev
  | .uncorrectable dev _ => s.eccBad c a dev

/-- R413: the patrol scrub reads a line of the channel. -/
def execScrubRead (ch : Fin 8) (addr : Nat) (err : EccError) (s : State) : Res :=
  let c := ch.val
  let live := s.drcState c == drcRun || s.drcState c == drcMigrating
  if s.flag F.DRC_SCRUB_EN c && live && s.region addr == .dram && dramChannel addr == c then
    .next ((s.dramTouch addr 64 false { req := some 18, cls := some 3, addr := some addr }).eccRead c addr err)
  else .next s

/-- R425: a rank reports a command and address parity error. -/
def execCaparError (ch : Fin 8) (rank : Fin 2) (s : State) : Res :=
  let c := ch.val
  let s := s.incFld (if rank.val = 0 then F.DRC_CAPAR_RANK0 else F.DRC_CAPAR_RANK1) 1 c
  let l := (rank.val, s.upNs) :: (s.drc c).capar.filter (fun e => decide (s.upNs ≤ e.2 + 1000000))
  let s := s.setDrc c { s.drc c with capar := l }
  let n := (l.filter (fun e => e.1 == rank.val)).length
  .next (if Nat.max 1 (s.get F.DRC_RETIRE_CAPAR_LIMIT c) ≤ n ∧ s.flag F.DRC_CTL_AUTO_RETIRE c then s.drcAutoRetire c rank.val else s)

/-- The lines of channel `c` that migration has written to the spare as poisoned: those that cannot be read below the copy position (R426). -/
def State.migPoison (s : State) (c lim : Nat) : Nat :=
  (s.poison.filter (fun e => e.2 && s.region (e.1 * 64) == .dram && dramChannel (e.1 * 64) == c && decide (dramOffset (e.1 * 64) < lim))).length

/-- R426: migration ends; `poisoned` lists the lines that it found uncorrectable; those of the channel are written to the spare as poisoned.
A spare that fails leaves the data in rank 0, and STATE reads RUN. -/
def execMigrationDone (ch : Fin 8) (failed : Bool) (poisoned : List Nat) (s : State) : Res :=
  let c := ch.val
  if s.drcState c ≠ drcMigrating then .next s
  else
    let size := s.rankGib c * 2 ^ 30
    if failed then
      let s := s.wr R.DRC_POISON_CNT (Nat.min (s.migPoison c (s.migBytes c)) 0xFFFFFFFF) c
      .next ((s.set F.DRC_MIG_STAT_STATE 3 c).setDrcState c drcRun)
    else
      let s := s.advanceUp ((s.drc c).migAt + (size + 17) / 18)
      let bad := poisoned.filter (fun a => s.region a == .dram && dramChannel a == c && decide (dramOffset a < size))
      let s := bad.foldl (fun s a => s.setPoison a true) s
      let s := s.wr R.DRC_POISON_CNT (Nat.min (s.migPoison c size) 0xFFFFFFFF) c
      let s := (s.set F.DRC_STAT_RETIRED0 1 c).set F.DRC_STAT_SPARE_ACT 1 c
      let s := (s.set F.DRC_MIG_STAT_STATE 2 c).wr R.DRC_MIG_POS (s.rankGib c * 1024) c
      .next ((s.setDrcState c (s.drc c).under).raise 0xC3)

/-- R408: what the check bits of a yard word report on a read. -/
def State.yardRead (s : State) (a : Nat) (bad : Bool) : State :=
  let s := (s.set F.DRC_YARD_ADDR_OFFSET (a / 8 * 8) 0).set F.DRC_YARD_ADDR_UE (b2n bad) 0
  if bad then ((s.incSat R.DRC_YARD_UE 1 0).setPoison a true).raise 0xC1 else s.incSat R.DRC_YARD_CE 1 0

/-- The first poisoned line of some ranges of memory. -/
def State.poisonIn (s : State) (l : List (Nat × Nat)) : Option Nat :=
  (s.poison.find? (fun e => e.2 && l.any (fun r => decide (r.1 < e.1 * 64 + 64) && decide (e.1 * 64 < r.1 + r.2)))).map (·.1 * 64)

/-- Reads of the poisoned line at `a`: each is an uncorrectable read (R408, R412, R617). Their number is free from `min` up. The device and the
symbols that DRC_ECC_SYN names for them are free. -/
def State.poisonReads (s : State) (a min : Nat) : State :=
  let f := s.free .dram
  let n := min + f.1 % 65536
  let s := f.2
  if n = 0 then s
  else if s.region a == .yard then (s.yardRead a true).incSat R.DRC_YARD_UE (n - 1) 0
  else if s.region a == .dram then
    let c := dramChannel a
    let s := s.eccRead c a (.uncorrectable (Config.freeFun .dram [3, f.1]) (Config.freeFun .dram [4, f.1]))
    s.incFld (if s.dramRank c a = 0 then F.DRC_ECC_UE_RANK0 else F.DRC_ECC_UE_RANK1) (n - 1) c
  else s

/-! ## Panic (R422, R423) -/

/-- The bytes of a real-time port's buffer, by its bit in DRC_PANIC_STAT, and its watermark. -/
def panicBuffer (p : Nat) : Nat := if p < 4 then 65536 else if p = 4 then 262144 else if p = 5 then 65536 else 32768
def State.panicMark (s : State) (p : Nat) : Nat :=
  if p < 4 then s.get F.DRC_PANIC_WM_BAND 0 else if p = 4 then s.get F.DRC_PANIC_WM_MAP 0 else if p = 5 then s.get F.DRC_PANIC_WM_STAGE 0
  else s.get F.DRC_PANIC_WM_CAM 0

/-- The ports whose level lies below WM × buffer / 16. -/
def State.panicPorts (s : State) (level : Nat → Nat) : Nat :=
  (upTo 7).foldl (fun x p => setBits x p 1 (b2n (decide (16 * level p < s.panicMark p * panicBuffer p)))) 0

/-- The ports' levels are `level`; a panic request may wait on the channels of `wait`. -/
def State.panicShow (s : State) (level : Nat → Nat) (wait : Nat) : State :=
  let ports := s.panicPorts level
  forN 8 (fun c s => s.set F.DRC_STAT_PANIC (b2n (decide (ports ≠ 0) && bitAt wait c)) c) (s.set F.DRC_PANIC_STAT_PORTS ports 0)

/-- A write of DRC_PANIC_WM: the ports are judged by the new watermarks; their levels are free (R422). -/
def State.panicMarks (s : State) : State :=
  let f := s.free .dram
  f.2.panicShow (fun p => Config.freeFun .dram [7, f.1, p]) (f.1 % 256)

/-- `dt` ns pass: they count on every channel on which a panic request waits. -/
def State.panicTime (s : State) (dt : Nat) : State :=
  forN 8 (fun c s => if s.flag F.DRC_STAT_PANIC c then s.incSat R.DRC_PANIC_CNT dt c else s) s

/-! ## Writes -/

/-- A write of DRC_CTL (R429). -/
def State.writeDrcCtl (s : State) (c : Nat) (v : RegWord) : State :=
  let w := v.toNat
  let s := ((s.set F.DRC_CTL_FREQ (bitsOf w 1 2) c).set F.DRC_CTL_SPARE_EN (bitsOf w 4 1) c).set F.DRC_CTL_AUTO_RETIRE (bitsOf w 5 1) c
  let s := s.drcEnable c (bitAt w 0)
  if bitAt w 3 then s.drcDfc c (bitsOf w 1 2) else s

/-- R429: a write of DRC_CTL that sets or clears ENABLE. -/
def execDramChannelEnable (who : Requester) (ch : Fin 8) (on : Bool) (s : State) : Res :=
  s.ifWrite who (R.DRC_CTL.at ch.val 0) (fun s => .next (s.writeDrcCtl ch.val (BitVec.ofNat 32 (setBits (s.rd R.DRC_CTL ch.val) 0 1 (b2n on)))))

/-- R417: a write of DRC_CTL with DFC. -/
def execFrequencyChange (who : Requester) (ch : Fin 8) (idx : Fin 4) (s : State) : Res :=
  s.ifWrite who (R.DRC_CTL.at ch.val 0) (fun s =>
    .next (s.writeDrcCtl ch.val (BitVec.ofNat 32 (setBits (setBits (s.rd R.DRC_CTL ch.val) 1 2 idx.val) 3 1 1))))

/-- R414: a write of DRC_TRAIN_CTL that opens or closes a session. -/
def execTrainingSession (who : Requester) (ch : Fin 8) (on : Bool) (s : State) : Res :=
  s.ifWrite who (R.DRC_TRAIN_CTL.at ch.val 0) (fun s =>
    .next (s.writeTrainCtl ch.val (BitVec.ofNat 32 (setBits (s.rd R.DRC_TRAIN_CTL ch.val) 0 1 (b2n on)))))

/-- R415: a write of DRC_TRAIN_CTL with GO. -/
def execTrainingCapture (who : Requester) (ch : Fin 8) (v : RegWord) (s : State) : Res :=
  s.ifWriteV who (R.DRC_TRAIN_CTL.at ch.val 0) v (fun s => .next (s.writeTrainCtl ch.val v))

/-- R416: a write of DRC_SWEEP with GO. -/
def execTrainingSweep (who : Requester) (ch : Fin 8) (v : RegWord) (s : State) : Res :=
  s.ifWriteV who (R.DRC_SWEEP.at ch.val 0) v (fun s => .next (s.writeSweep ch.val v))

/-- R430: a write of DRC_MR with GO. -/
def execModeRegisterAccess (who : Requester) (ch : Fin 8) (v : RegWord) (s : State) : Res :=
  s.ifWriteV who (R.DRC_MR.at ch.val 0) v (fun s => .next (s.writeMr ch.val v))

/-- R425: a write of DRC_RETIRE with GO. -/
def execRankRetire (who : Requester) (ch : Fin 8) (rank : Fin 2) (s : State) : Res :=
  s.ifWrite who (R.DRC_RETIRE.at ch.val 0) (fun s =>
    .next (s.writeRetire ch.val (BitVec.ofNat 32 (setBits (s.rd R.DRC_RETIRE ch.val) 0 2 (rank.val + 2)))))

/-- The timing register `r` (0–3 DRC_TIM, 4 DRC_VREF) of the set that FIDX names; DRC_VREF resets to 80. -/
def drcTimReset (k : Nat) : Nat := if k % 8 = 4 then 80 else 0
def State.rdTim (s : State) (c r : Nat) : Nat := KMap.get drcTimReset (s.drc c).tim (8 * s.get F.DRC_TRAIN_CTL_FIDX c + r)
def State.wrTim (s : State) (c r v : Nat) : State :=
  s.timingWrite c (s.setDrc c { s.drc c with tim := KMap.put drcTimReset (s.drc c).tim (8 * s.get F.DRC_TRAIN_CTL_FIDX c + r) v })

/-- The delay of the selected element in the set that FIDX names. -/
def State.rdDly (s : State) (c : Nat) : Nat :=
  KMap.get (fun _ => 0) (s.drc c).dly (2048 * s.get F.DRC_TRAIN_CTL_FIDX c + bitsOf (s.rd R.DRC_DLY_SEL c) 0 11)
def State.wrDly (s : State) (c v : Nat) : State :=
  s.timingWrite c (s.setDrc c { s.drc c with
    dly := KMap.put (fun _ => 0) (s.drc c).dly (2048 * s.get F.DRC_TRAIN_CTL_FIDX c + bitsOf (s.rd R.DRC_DLY_SEL c) 0 11) (v % 1024) })

end Sys2Proof.Machine
end

