-- ==== Sys2Proof/Machine/Lane.lean ====
section
/-!
DEFINITION. The line codes of the strands and the mortar links: scrambling, start markers and stuffing (R176–R180), bricks as bits
(R182–R185), and mortar blocks as bits or PAM4 symbols, with RS(544,514) (R282–R286). A line is a list of bits in the order sent.
-/
namespace Sys2Proof.Machine

open Sys2Proof

/-! ## Bits of bytes -/

/-- The `n` low bits of `v`, most significant first. -/
def bitsMsb (n v : Nat) : List Bool := (upTo n).map (fun i => bitAt v (n - 1 - i))

/-- The `n` low bits of `v`, bit 0 first. -/
def bitsLsb (n v : Nat) : List Bool := (upTo n).map (fun i => bitAt v i)

/-- The bits of bytes, each byte most significant bit first (R176). -/
def lineBits (l : List Byte) : List Bool := l.flatMap (fun b => bitsMsb 8 b.toNat)

/-- The value of bits, most significant first. -/
def msbVal (l : List Bool) : Nat := l.foldl (fun n b => 2 * n + b2n b) 0

/-- The value of bits, bit 0 first. -/
def lsbVal (l : List Bool) : Nat := msbVal l.reverse

/-- Bits taken `w` at a time as numbers, most significant first; `k` bits with value `acc` are already taken. A last part is dropped. -/
def packMsb (w : Nat) : List Bool → Nat → Nat → List Nat
  | [], _, _ => []
  | b :: r, k, acc => if k + 1 = w then (2 * acc + b2n b) :: packMsb w r 0 0 else packMsb w r (k + 1) (2 * acc + b2n b)

/-- Bits as bytes (R176). -/
def lineBytes (l : List Bool) : List Byte := (packMsb 8 l 0 0).map (BitVec.ofNat 8)

/-! ## Scrambling, markers, stuffing (R177–R180) -/

/-- The scrambler's state at the first bit after a marker. -/
def prbsLoad : Nat := 0x7FFFFFFF

/-- One step of PRBS31: the bit and the next state. -/
def prbsStep (s : Nat) : Bool × Nat := (bitAt s 30 != bitAt s 27, (2 * s + b2n (bitAt s 30 != bitAt s 27)) % 2 ^ 31)

/-- Bits scrambled from state `s`; the same operation undoes it. -/
def scramble : List Bool → Nat → List Bool
  | [], _ => []
  | b :: r, s => (b != (prbsStep s).1) :: scramble r (prbsStep s).2

/-- The tail of a marker after its 21 ones, and the marker. -/
def markTail : List Bool := bitsMsb 11 0x0B4
def marker : List Bool := bitsMsb 32 0xFFFFF8B4

/-- Stuffing: after a run of 20 identical bits the complement is inserted, the first bit of a new run. The last bits sent are `n` times
`l`. -/
def stuff : List Bool → Bool → Nat → List Bool
  | [], _, _ => []
  | b :: r, l, n =>
    if b = l then (if n + 1 = 20 then b :: (!b) :: stuff r (!b) 1 else b :: stuff r b (n + 1))
    else b :: stuff r b 1

/-- What a receiver makes of a line (R180): data bits, markers (true inverted), stuff errors. -/
inductive LineSym where
  | bit (b : Bool)
  | mark (inv : Bool)
  | bad
deriving DecidableEq, Repr

/-- The symbols of a line: the first `skip` bits are the rest of a marker; the last bits before are `n` times `l`. -/
def lineSyms : List Bool → Nat → Bool → Nat → List LineSym
  | [], _, _, _ => []
  | _ :: r, skip + 1, l, n => lineSyms r skip l n
  | b :: r, 0, l, n =>
    if b != l then (if n = 20 then lineSyms r 0 b 1 else .bit b :: lineSyms r 0 b 1)
    else if n < 20 then .bit b :: lineSyms r 0 b (n + 1)
    else if n = 20 ∧ r.take 11 = markTail.map (· == l) then .mark (!l) :: lineSyms r 11 (!l) 2
    else if n = 20 then .bad :: lineSyms r 0 b 21
    else lineSyms r 0 b 21

/-- The data bits up to the next marker or error. -/
def symBits : List LineSym → List Bool
  | .bit b :: r => b :: symBits r
  | _ => []

/-- Whether a stuff error ends them. -/
def symsBad : List LineSym → Bool
  | .bit _ :: r => symsBad r
  | .bad :: _ => true
  | _ => false

/-- What follows each marker of a line: whether it is inverted, the data bits up to the next marker or error with the inversion undone
and unscrambled, and whether an error ends them. -/
def segments : List LineSym → List (Bool × List Bool × Bool)
  | [] => []
  | .mark inv :: r => (inv, scramble ((symBits r).map (· != inv)) prbsLoad, symsBad r) :: segments r
  | _ :: r => segments r

/-- The segments of a line, which an input that inverts takes inverted. -/
def lineSegs (inv : Bool) (line : List Bool) : List (Bool × List Bool × Bool) :=
  match line.map (· != inv) with
  | [] => []
  | b :: r => segments (lineSyms r 0 b 1)

/-- PRE, MAIN and POST of a transmit equaliser as they act: MAIN at most 63 − PRE − POST (R213). -/
def txTaps (v : Nat) : Nat × Nat × Nat :=
  let pre := bitsOf v 0 4
  let post := bitsOf v 4 4
  (pre, Nat.min (bitsOf v 8 6) (63 - pre - post), post)

/-! ## Bricks (R182–R185) -/

/-- The header's check: CRC-8, x⁸ + x² + x + 1, over the 16 bytes with HCRC taken as 0 (R183). -/
def hcrc (h : List Byte) : Nat := crcMsbBytes 8 0x07 0 (h.take 7 ++ [0] ++ h.drop 8)

/-- A header with its mutable fields taken as 0: HOP and HCRC, ARG0 of CATCH, RANGE and RANGE_R, ARG1 of RANGE_R (R183). -/
def headerFixed (h : List Byte) : List Byte :=
  let t := byteAt h 0 % 16
  let w0 := leAt h 0 4
  let z (b : Bool) (v : Nat) : Nat := if b then 0 else v
  leBytes 4 (setBits w0 4 12 0) ++ leBytes 4 (setBits (leAt h 4 4) 24 8 0) ++
    leBytes 4 (z (t == 1 || t == 6 || t == 11) (leAt h 8 4)) ++ leBytes 4 (z (t == 11) (leAt h 12 4))

/-- The CRC of a brick (R183). -/
def brickCrc (h payload : List Byte) : Nat := crc32c (headerFixed h ++ payload)

/-- A whole brick: header with its HCRC, payload, CRC. -/
def brickBytes (h payload : List Byte) : List Byte :=
  let h := h.take 7 ++ [BitVec.ofNat 8 (hcrc h)] ++ h.drop 8
  h ++ payload ++ leBytes 4 (brickCrc h payload)

/-- The header of a brick (R182), HCRC left 0. -/
def brickHeader (ty hop len : Nat) (bcast : Bool) (stroke tag arg0 arg1 : Nat) : List Byte :=
  leBytes 4 (ty + hop % 4096 * 2 ^ 4 + len * 2 ^ 16 + b2n bcast * 2 ^ 30) ++ leBytes 4 (stroke % 65536 + tag % 256 * 2 ^ 16) ++
    leBytes 4 arg0 ++ leBytes 4 arg1

/-- The last idle bits before a marker, after `z` zeros of idle: a forced 0, and where it completes a run of 20 its complement and one
more (R178, R179). -/
def idleEnd (z : Nat) : List Bool := if z = 19 then [false, true, false] else [false]

/-- A brick on the lane: its marker, then header, payload and CRC scrambled and stuffed; the run goes on from the marker's two zeros. -/
def brickLine (b : List Byte) : List Bool := marker ++ stuff (scramble (lineBits b) prbsLoad) false 2

/-- Why the port discards a brick (R185). -/
inductive BrickError where
  | stuffing | headerCheck | length | direction | crc
deriving DecidableEq, Repr

/-- The port's checks of the bits after a marker, in the order of R185: the header and payload of a good up brick, the first failing
check, or none while the brick is not whole. -/
def checkUpBrick (d : List Bool) (bad : Bool) : Option (Except BrickError (List Byte × List Byte)) :=
  let h := lineBytes (d.take 128)
  let len := bitsOf (leAt h 0 4) 16 14
  let short : Option (Except BrickError (List Byte × List Byte)) := if bad then some (.error .stuffing) else none
  if d.length < 128 then short
  else if bad && (hcrc h != byteAt h 7 || decide (8192 < len) || len % 4 != 0 || decide (d.length < 160 + 8 * len)) then short
  else if hcrc h ≠ byteAt h 7 then some (.error .headerCheck)
  else if 8192 < len ∨ len % 4 ≠ 0 then some (.error .length)
  else if d.length < 160 + 8 * len then short
  else
    let payload := lineBytes ((d.drop 128).take (8 * len))
    let t := byteAt h 0 % 16
    if t < 8 ∨ 12 < t then some (.error .direction)
    else if brickCrc h payload ≠ leVal (lineBytes ((d.drop (128 + 8 * len)).take 32)) then some (.error .crc)
    else some (.ok (h, payload))

/-- What the port takes from the bits on S<s>X (R180, R185): whether a marker came inverted, and the brick. `inv` says that the port
inverts its input, `auto` that it follows an inverted marker; without it no inverted marker is recognised. -/
def upLine (inv auto : Bool) (line : List Bool) : Bool × Option (Except BrickError (List Byte × List Byte)) :=
  let segs := (lineSegs inv line).filter (fun g => auto || !g.1)
  (segs.any (·.1), segs.findSome? (fun g => checkUpBrick g.2.1 g.2.2))

/-! ## Mortar blocks (R282–R286) -/

/-- The CRC-32C over the header's 20 bits, bit 0 first, and the data bytes as R62 takes bytes (R286). -/
def blockCrc (hdr : Nat) (data : List Byte) : Nat :=
  (crcBytes 0x82F63B78 ((upTo 20).foldl (fun c k => crcStep 0x82F63B78 (c ^^^ b2n (bitAt hdr k))) 0xFFFFFFFF) data) ^^^ 0xFFFFFFFF

/-- Even parity of the low `n` bits. -/
def parity (v n : Nat) : Nat := ((upTo n).foldl (fun c k => c + v / 2 ^ k) 0) % 2

/-- A block header: BSEQ, FIRST and PAR, which makes the ones of bits [19:0] even (R283). -/
def blockHeader (bseq first : Nat) : Nat :=
  let v := bseq % 4096 + first % 128 * 2 ^ 12
  v + parity v 19 * 2 ^ 19

/-- A MODE 1 block: marker, then header, data and CRC scrambled and stuffed; idle fills its 5,500 UI. -/
def nrzBlock (hdr : Nat) (data : List Byte) : List Bool :=
  marker ++ stuff (scramble (bitsLsb 20 hdr ++ lineBits data ++ lineBits (leBytes 4 (blockCrc hdr data))) prbsLoad) false 2

/-- The header and data of a MODE 1 block, the 5,172 bits after its marker; none where its CRC is wrong. -/
def nrzParse (d : List Bool) : Option (Nat × List Byte) :=
  let hdr := lsbVal (d.take 20)
  let data := lineBytes ((d.drop 20).take 5120)
  if d.length < 5172 ∨ blockCrc hdr data ≠ leVal (lineBytes ((d.drop 5140).take 32)) then none else some (hdr, data)

/-- Multiplication by x in GF(2¹⁰), x¹⁰ + x³ + 1 (IEEE 802.3 clause 91). -/
def gfX (a : Nat) : Nat := if 512 ≤ a then (2 * a) ^^^ 0x409 else 2 * a

/-- Multiplication in GF(2¹⁰). -/
def gfMul (a b : Nat) : Nat := (bitsMsb 10 b).foldl (fun r k => if k then gfX r ^^^ a else gfX r) 0

/-- Powers of α = x, and of an element. -/
def gfExp (n : Nat) : Nat := (upTo (n % 1023)).foldl (fun r _ => gfX r) 1
def gfPow (a n : Nat) : Nat := (bitsMsb 10 n).foldl (fun r k => if k then gfMul (gfMul r r) a else gfMul r r) 1

/-- The inverse of an element that is not 0. -/
def gfInv (a : Nat) : Nat := gfPow a 1022

/-- The value at `x` of a polynomial given from its highest coefficient. -/
def polyAt (p : List Nat) (x : Nat) : Nat := p.foldl (fun r c => gfMul r x ^^^ c) 0

/-- The generator (x − 1)(x − α) … (x − α²⁹) without its leading 1, highest coefficient first. -/
def rsGen : List Nat :=
  ((upTo 30).foldl (fun p j => List.zipWith (· ^^^ ·) (p ++ [0]) (0 :: p.map (gfMul (gfExp j)))) [1]).drop 1

/-- The 30 parity symbols of a message of 514 symbols, first symbol first (R284). -/
def rsParity (msg : List Nat) : List Nat :=
  msg.foldl (fun r m =>
    let f := m ^^^ r.headD 0
    List.zipWith (· ^^^ ·) (r.drop 1 ++ [0]) (rsGen.map (gfMul f))) (List.replicate 30 0)

/-- The 30 syndromes of a received word. -/
def rsSyndromes (word : List Nat) : List Nat := (upTo 30).map (fun j => polyAt word (gfExp j))

/-- The error locator under construction: itself and the last one changed, lowest coefficient first, its length, the shift, the last
discrepancy. -/
structure RsLocator where
  c : List Nat
  b : List Nat
  len : Nat
  m : Nat
  d : Nat

/-- One step over syndrome `n` (Berlekamp–Massey). -/
def RsLocator.step (syn : List Nat) (x : RsLocator) (n : Nat) : RsLocator :=
  let d := (upTo (x.len + 1)).foldl (fun v i => v ^^^ gfMul (x.c.getD i 0) (if i ≤ n then syn.getD (n - i) 0 else 0)) 0
  if d = 0 then { x with m := x.m + 1 }
  else
    let f := gfMul d (gfInv x.d)
    let sh := List.replicate x.m 0 ++ x.b.map (gfMul f)
    let w := Nat.max x.c.length sh.length
    let c := (upTo w).map (fun i => x.c.getD i 0 ^^^ sh.getD i 0)
    if 2 * x.len ≤ n then { c := c, b := x.c, len := n + 1 - x.len, m := 1, d := d } else { x with c := c, m := x.m + 1 }

/-- The corrections of a received word of 544 symbols, by symbol number, or none where it cannot be corrected: 15 symbols at most. -/
def rsCorrections (word : List Nat) : Option (List (Nat × Nat)) :=
  let syn := rsSyndromes word
  if syn.all (· == 0) then some []
  else
    let x := (upTo 30).foldl (fun x n => RsLocator.step syn x n) { c := [1], b := [1], len := 0, m := 1, d := 1 }
    let at_ (p : List Nat) (v : Nat) : Nat := polyAt p.reverse v
    -- the symbol that x^p multiplies is number 543 − p
    let pos := (upTo 544).filter (fun p => at_ x.c (gfExp (1023 - p)) == 0)
    let omega := (upTo 30).map (fun n => (upTo (n + 1)).foldl (fun v i => v ^^^ gfMul (x.c.getD i 0) (syn.getD (n - i) 0)) 0)
    let deriv := (upTo x.c.length).map (fun i => if i % 2 = 0 then x.c.getD (i + 1) 0 else 0)
    let fix := pos.map (fun p =>
      let i := gfExp (1023 - p)
      (543 - p, gfMul (gfExp p) (gfMul (at_ omega i) (gfInv (at_ deriv i)))))
    if x.len ≤ 15 ∧ pos.length = x.len then some fix else none

/-- A received word decoded: its 514 message symbols and how many of all symbols were corrected. -/
def rsDecode (word : List Nat) : Option (List Nat × Nat) :=
  if word.length = 544 then
    (rsCorrections word).map (fun fix =>
      (((upTo 514).map (fun i => word.getD i 0 ^^^ ((fix.find? (fun e => e.1 == i)).map (·.2)).getD 0)), fix.length))
  else none

/-- The Gray-coded symbol of two bits, the first more significant, and its two bits (R284). -/
def gray (a b : Bool) : Nat := if a then (if b then 2 else 3) else b2n b
def ungray (g : Nat) : List Bool := if g = 0 then [false, false] else if g = 1 then [false, true] else if g = 2 then [true, true] else [true, false]

/-- PAM4 symbols of bits. -/
def graySyms : List Bool → List Nat
  | a :: b :: r => gray a b :: graySyms r
  | _ => []

/-- Precoding after the symbol `p`: p(j) = (g(j) − p(j − 1)) mod 4; and its undoing. -/
def precode : List Nat → Nat → List Nat
  | [], _ => []
  | g :: r, p => ((g + 4 - p) % 4) :: precode r ((g + 4 - p) % 4)
def unprecode : List Nat → Nat → List Nat
  | [], _ => []
  | x :: r, p => ((x + p) % 4) :: unprecode r x

/-- The 544 symbols of a block: the header's bits and the scrambled data, ten at a time, and their parity (R284). -/
def pamWord (hdr : Nat) (data : List Byte) : List Nat :=
  let msg := packMsb 10 (bitsLsb 20 hdr ++ scramble (lineBits data) prbsLoad) 0 0
  msg ++ rsParity msg

/-- A MODE 0 block: 2,720 PAM4 symbols, precoded after the symbol `p` where `pre` says so. -/
def pamBlock (pre : Bool) (p hdr : Nat) (data : List Byte) : List Nat :=
  let g := graySyms ((pamWord hdr data).flatMap (bitsMsb 10))
  if pre then precode g p else g

/-- The header and data of a received MODE 0 block, and the number of corrected symbols; none where it cannot be corrected. -/
def pamParse (pre : Bool) (p : Nat) (line : List Nat) : Option (Nat × List Byte × Nat) :=
  let g := if pre then unprecode line p else line
  (rsDecode (packMsb 10 (g.flatMap ungray) 0 0)).map (fun w =>
    let d := w.1.flatMap (bitsMsb 10)
    (lsbVal (d.take 20), lineBytes (scramble (d.drop 20) prbsLoad), w.2))

/-- The number of data bytes of a block (R283). -/
def blockBytes : Nat := 640

end Sys2Proof.Machine
end

