-- ==== Sys2Proof/Machine/MortarTx.lean ====
section
/-!
DEFINITION. What every unit needs of the mortar links: their state, their transmit queues (R291), and the bytes of a frame (R288).
-/
namespace Sys2Proof.Machine

open Sys2Proof

/-- Link `m`. -/
def State.link (s : State) (m : Nat) : Mortar := KMap.get (fun _ => Mortar.reset) s.mortar m

/-- The state with link `m` set. -/
def State.setLink (s : State) (m : Nat) (l : Mortar) : State :=
  { s with mortar := KMap.put (fun _ => Mortar.reset) s.mortar m l }

/-- STATE codes of MRT_STAT (R305). -/
def mrtOff : Nat := 0
def mrtTraining : Nat := 1
def mrtLocked : Nat := 2
def mrtUp : Nat := 3
def mrtLost : Nat := 4

def State.linkState (s : State) (m : Nat) : Nat := s.get F.MRT_STAT_STATE m

/-- Whether the link has block lock. -/
def State.linkLocked (s : State) (m : Nat) : Bool := decide (mrtLocked ≤ s.linkState m) && decide (s.linkState m ≤ mrtLost)

/-- Whether link `m` is UP. -/
def State.linkUp (s : State) (m : Nat) : Bool := s.get F.MRT_STAT_STATE m == mrtUp

/-- Bytes that a frame takes on the link: header, payload and check, padded to 8 bytes (R288). -/
def MortarFrame.size (f : MortarFrame) : Nat := ceilDiv (16 + f.payload.length + 4) 8 * 8

/-- Whether a frame takes room in the 128 KiB queue: PALLET, POINT and MSG; the device's own HELLO and PTP frames always find a place. -/
def MortarFrame.roomy (f : MortarFrame) : Bool := f.ftype != 3 && f.ftype != 4

/-- Bytes of the frames that take room on a link, and of all frames queued on it (MRT_TXQ.LEVEL). -/
def Mortar.level (l : Mortar) : Nat := l.queue.foldl (fun n f => if f.roomy then n + f.size else n) 0
def Mortar.queued (l : Mortar) : Nat := l.queue.foldl (fun n f => n + f.size) 0

/-- Class attribute of an event. -/
def attrCls (k : Nat) : Attr := { cls := some k }

/-- The state with the level register of link `m` following its queue, and the queue-full count of the link. -/
def State.putQueue (s : State) (m : Nat) (q : List MortarFrame) : State :=
  let s := s.setLink m { s.link m with queue := q }
  s.set F.MRT_TXQ_LEVEL (Nat.min (s.link m).queued 131072) m

/-- A frame is put at the end of the transmit queue of link `m`, 128 KiB in all (R291). The flag says that it found room. -/
def State.mortarPush (s : State) (m : Nat) (f : MortarFrame) : Bool × State :=
  let l := s.link m
  if !f.roomy ∨ l.level + f.size ≤ 131072 then (true, s.putQueue m (l.queue ++ [f]))
  else (false, s)

/-- A forwarded pallet that is dropped (R291). -/
def State.forwardDrop (s : State) (m : Nat) : State :=
  (s.incSat R.MRT_FWD_DROP 1 m).raiseIf (s.flag F.MRT_EVMASK_DROP_EN m) (0x78 + m)

/-- The frames of class 1 to 3 that joined a queue last give way until `need` bytes are free; the queue comes newest first. What is left, and
what gave way. -/
def giveWay (need : Nat) : List MortarFrame → List MortarFrame × List MortarFrame
  | [] => ([], [])
  | f :: q =>
    if need = 0 then (f :: q, [])
    else if f.roomy && f.cls != 0 then ((giveWay (need - f.size) q).1, f :: (giveWay (need - f.size) q).2)
    else (f :: (giveWay need q).1, (giveWay need q).2)

/-- Room for a class-0 pallet of `size` bytes: it never lacks room for what the other classes queued (R291); their frames that give way are
dropped and counted, pallets and messages (DESIGN CHOICE, log entry 136). -/
def State.makeRoom (s : State) (m size : Nat) : State :=
  let l := s.link m
  let own := (l.queue.filter (fun f => f.roomy && f.cls == 0)).foldl (fun n f => n + f.size) 0
  if own + size ≤ 131072 ∧ 131072 < l.level + size then
    let r := giveWay (l.level + size - 131072) l.queue.reverse
    r.2.foldl (fun s f => if f.ftype = 1 then s.forwardDrop m else s.incSat R.MRT_MSG_DROP 1 m) (s.putQueue m r.1.reverse)
  else s

/-- A forwarded pallet (R82, R291): queued on an UP link that has room, or dropped, counted and reported under DROP_EN. -/
def State.forwardPallet (s : State) (m cls : Nat) (pallet : List Byte) : State :=
  let f : MortarFrame := { ftype := 1, cls := cls, arg0 := 0, arg1 := 0, payload := pallet, prio := if cls = 0 then 2 else 3 + cls, stamp := none, jobEnd := none }
  let s := if s.linkUp m && cls == 0 then s.makeRoom m f.size else s
  let r := s.mortarPush m f
  if s.linkUp m && r.1 then r.2.count (160 + 2 * m) 0x12 |>.count (161 + 2 * m) 0x12
  else s.forwardDrop m

/-- The chip index (R529). -/
def State.chipIndex (s : State) : Nat := s.get F.GLB_CHIP_INDEX

/-- The bytes of a frame that link `m` sends: header, payload, check and padding (R288). -/
def State.frameBytes (s : State) (m : Nat) (f : MortarFrame) : List Byte :=
  let body := leBytes 4 (f.ftype + f.cls * 2 ^ 4 + f.payload.length * 2 ^ 8 + 0xB7 * 2 ^ 24)
    ++ leBytes 4 (s.chipIndex + m * 2 ^ 12) ++ leBytes 4 f.arg0 ++ leBytes 4 f.arg1 ++ f.payload
  let all := body ++ leBytes 4 (crc32c body)
  all ++ List.replicate (f.size - all.length) 0

/-! ## Blocks (R282–R288) -/

/-- The block period of a MODE in ns, as a fraction: 51.2 or 213.333 (R282). -/
def blockPeriod (mode : Nat) : Nat × Nat := if mode = 0 then (256, 5) else (640, 3)

/-- Local time in 2^-32 ns at which block `n` begins. -/
def Mortar.blockStart (l : Mortar) (n : Nat) : Nat := l.txAt + ceilDiv (n * (blockPeriod l.mode).1 * 2 ^ 32) (blockPeriod l.mode).2

/-- The first block that has not been sent and does not begin before the local time `t`. -/
def Mortar.blockAfter (l : Mortar) (t : Nat) : Nat :=
  Nat.max l.txBlk (ceilDiv ((t - l.txAt) * (blockPeriod l.mode).2) ((blockPeriod l.mode).1 * 2 ^ 32))

/-- Block `n` of a link on the line, after the precoded symbol `p`, and the last symbol then. -/
def Mortar.block (l : Mortar) (m n first p : Nat) (data : List Byte) : Out × Nat :=
  let hdr := blockHeader n first
  if l.mode = 0 then
    let line := pamBlock l.precode p hdr data
    (.mortar m hdr data line 0 (txTaps l.txeq), line.getLastD 0)
  else
    let line := (nrzBlock hdr data).map b2n
    (.mortar m hdr data line (5500 - line.length) (txTaps l.txeq), p)

/-- The data of an idle block. -/
def idleData : List Byte := List.replicate blockBytes 0

/-- `k` blocks of idle from number `n` on, newest first, and the last symbol then. -/
def Mortar.idleBlocks (l : Mortar) (m : Nat) : Nat → Nat → Nat → List Out → List Out × Nat
  | 0, _, p, o => (o, p)
  | k + 1, n, p, o => l.idleBlocks m k (n + 1) (l.block m n 127 p idleData).2 ((l.block m n 127 p idleData).1 :: o)

/-- Whether the pins of the device drive what its units send. -/
def State.driven (s : State) : Bool := !(s.board.bscan || s.board.resetLow || !s.board.pwrOk)

/-- Link `m` sends `k` blocks of idle (R292). -/
def State.sendIdle (s : State) (m k : Nat) : State :=
  let l := s.link m
  let r := l.idleBlocks m k l.txBlk l.txLast []
  { s with out := if s.driven then r.1 ++ s.out else s.out }.setLink m { l with txBlk := l.txBlk + k, txLast := r.2 }

/-- Link `m` sends its next block, with these data. -/
def State.sendBlock (s : State) (m first : Nat) (data : List Byte) : State :=
  let l := s.link m
  let r := l.block m l.txBlk first l.txLast data
  (s.emit r.1).setLink m { l with txBlk := l.txBlk + 1, txLast := r.2, txPart := [], txFirst := 127 }

/-- The block that is partly laid is filled with zeros and sent. -/
def State.flushBlock (s : State) (m : Nat) : State :=
  let l := s.link m
  if l.txPart.isEmpty then s else s.sendBlock m l.txFirst (l.txPart ++ List.replicate (blockBytes - l.txPart.length) 0)

/-- The bytes laid so far go into blocks: full ones are sent, the rest stays (R288). `n` bounds the blocks. -/
def State.layBlocks : Nat → State → Nat → State
  | 0, s, _ => s
  | n + 1, s, m =>
    let l := s.link m
    if l.txPart.length < blockBytes then s
    else
      let s := s.sendBlock m l.txFirst (l.txPart.take blockBytes)
      State.layBlocks n (s.setLink m { s.link m with txPart := l.txPart.drop blockBytes }) m

/-- Time comes to the block in which the next frame begins: the one that is partly laid, unless it has begun or the frame must begin a
block (`fresh`, R291); else the next block, with idle before it. -/
def State.frameBlock (s : State) (m : Nat) (fresh : Bool) : State :=
  let l := s.link m
  let s := if fresh || decide (l.blockStart l.txBlk < s.upQ) then s.flushBlock m else s
  let l := s.link m
  if l.txPart.isEmpty then
    let n := l.blockAfter s.upQ
    (s.advanceQ (l.blockStart n - s.upQ)).sendIdle m (n - l.txBlk)
  else s.advanceQ (l.blockStart l.txBlk - s.upQ)

/-- A frame is laid from the next 8-byte boundary on (R288). -/
def State.layFrame (s : State) (m : Nat) (b : List Byte) : State :=
  let l := s.link m
  let first := if l.txFirst = 127 then l.txPart.length / 8 else l.txFirst
  let s := s.setLink m { l with txPart := l.txPart ++ b, txFirst := first }
  State.layBlocks ((l.txPart.length + b.length) / blockBytes) s m

end Sys2Proof.Machine
end

