-- ==== Sys2Proof/Machine/WallTime.lean ====
section
/-!
DEFINITION. Wall time: the PTP domains and their servo, the time counter, triggers, captures, claims, PPS and the 10 MHz reference
(R246–R281).
-/
namespace Sys2Proof.Machine

open Sys2Proof

/-! ## Domain clocks -/

/-- States of a domain (R258). -/
def domDisabled : Nat := 0
def domListen : Nat := 1
def domAcquire : Nat := 2
def domLocked : Nat := 3
def domHoldover : Nat := 4

def State.domState (s : State) (d : Nat) : Nat := s.get F.TIME_DOM_STAT_STATE 0 d

/-- An event of TIME_EVMASK bit `k`: EV_TIME_LOCK + k (R279, R383). -/
def State.timeEv (s : State) (k : Nat) : State := s.raiseIf (bitAt (s.get F.TIME_EVMASK_EN) k) (0x10 + k)

/-- Domain clock `d` in 2^-16 ns. -/
def PtpDomain.q16 (x : PtpDomain) : Int := (x.clk * 65536 + x.clkFrac / 65536 : Nat)

/-- A step of the servo: `o`, in 2^-16 ns, is taken from a domain clock (R257). -/
def PtpDomain.minus (x : PtpDomain) (o : Int) : PtpDomain :=
  let v : Int := (x.clk * 4294967296 + x.clkFrac : Nat) - o * 65536
  { x with clk := enc 64 (v / 4294967296), clkFrac := (v % 4294967296).toNat }

/-- A timestamp of domain `d` at source `src`, to 0.25 ns, corrected to the ball: INGRESS subtracted on receipt, EGRESS added on
transmission (R253). -/
def State.stampQ16 (s : State) (d src : Nat) (tx : Bool) : Int :=
  let t := (s.dom d).q16 / 16384 * 16384
  if tx then t + s.get F.TIME_LAT_EGRESS 0 src * 4096 else t - s.get F.TIME_LAT_INGRESS 0 src * 4096

/-- Mean of the last 2^HOLD_LOG values of the integrator, or of as many as there are (R258). -/
def State.holdMean (s : State) (x : PtpDomain) : Int :=
  let l := x.iHist.take (2 ^ Nat.min 12 (s.get F.TIME_HOLD_HOLD_LOG))
  if l.isEmpty then x.y else l.foldl (· + ·) 0 / (l.length : Int)

/-- Whether PPS_OUT is held low (R273): EN 0, or LOCKED_ONLY with the domain in force not LOCKED or FAR. -/
def State.ppsLow (s : State) : Bool :=
  !s.flag F.TIME_PPS_EN || (s.flag F.TIME_PPS_LOCKED_ONLY && (s.domState (s.get F.TIME_STAT_DOM_ACT) != domLocked || s.flag F.TIME_STAT_FAR))

/-- A pulse of PPS_OUT ends where the output is held low, or not driven (R510). -/
def State.ppsHold (s : State) : State := if s.ppsLow || !s.driven then { s with time := { s.time with pps := none } } else s

/-- The counter switches to domain `d` if it is LOCKED and within 1 µs of the counter; otherwise the switch is refused (R261). -/
def State.switchDomain (s : State) (d : Nat) : State :=
  if d = s.get F.TIME_STAT_DOM_ACT then s
  else
    let x := s.dom d
    let diff : Int := (s.nowQ : Int) - (x.clk * 2 ^ 32 + x.clkFrac : Nat)
    if s.domState d = domLocked ∧ diff.natAbs ≤ 1000 * 2 ^ 32 then (s.set F.TIME_STAT_DOM_ACT d).ppsHold.timeEv 6
    else s.set F.TIME_STAT_SW_REFUSED 1

/-- Domain `d` enters a state (R258): EV_TIME_LOCK on entry to or exit from LOCKED, the mean of i and EV_TIME_HOLDOVER on entry to
HOLDOVER, and the automatic switch when the domain in force leaves LOCKED while the other is LOCKED (R261). -/
def State.setDomState (s : State) (d st : Nat) : State :=
  let old := s.domState d
  if old = st then s
  else
    let x := s.dom d
    let x := { x with since := s.upNs, heldLocked := decide (st = domHoldover) && decide (old = domLocked), good := 0, bad := 0, outl := 0, everLocked := x.everLocked || decide (st = domLocked) }
    let x := if st = domHoldover then { x with y := s.holdMean x } else x
    let s := (s.setDom d x).set F.TIME_DOM_STAT_STATE st 0 d
    let s := if st = domHoldover then s.wr R.TIME_DOM_FREQ (enc 32 (x.y / 64)) 0 d else s
    let s := if old = domLocked then { s with time := { s.time with lockedAt := s.upNs } } else s
    let s := if old = domLocked ∨ st = domLocked then s.timeEv 0 else s
    let s := if st = domHoldover then s.timeEv 1 else s
    let s := s.ppsHold
    if old = domLocked ∧ s.flag F.TIME_CTL_AUTO_SW ∧ s.get F.TIME_STAT_DOM_ACT = d ∧ s.domState (1 - d) = domLocked then
      let s := s.switchDomain (1 - d)
      if s.get F.TIME_STAT_DOM_ACT = 1 - d then s.set F.TIME_CTL_DOMAIN (1 - d) else s
    else s

/-- An offset `o` of domain `d` (R257, R258): a step in ACQUIRE, a discarded outlier in LOCKED, or the servo's update and the state's
counts. -/
def State.servo (s : State) (d : Nat) (o : Int) : State :=
  let s := s.wr R.TIME_DOM_OFFSET (enc 32 (satS 32 (o / 256))) 0 d
  let s := if s.domState d = domListen ∨ s.domState d = domHoldover then s.setDomState d domAcquire else s
  let x := s.dom d
  let st := s.domState d
  let fmax : Int := s.get F.TIME_DOM_FMAX_FMAX 0 d * 65536
  let good := if o.natAbs ≤ s.get F.TIME_DOM_LOCK_LOCK_NS 0 d * 65536 then x.good + 1 else 0
  if st = domAcquire ∧ o.natAbs > s.get F.TIME_DOM_STEP_STEP_US 0 d * 1000 * 65536 then
    let s := s.setDom d { x.minus o with good := good }
    if 16 ≤ good then s.setDomState d domLocked else s
  else if st = domLocked ∧ o.natAbs > s.get F.TIME_DOM_STEP_OUTLIER_NS 0 d * 65536 then
    let s := s.incSat R.TIME_DOM_OUTLIER_CNT 1 0 d
    let s := s.setDom d { x with outl := x.outl + 1 }
    if x.outl + 1 ≥ 8 then s.setDomState d domAcquire else s
  else
    let i := clampI (-fmax) fmax (x.i + (s.get F.TIME_DOM_KI_KI 0 d * o) / 65536)
    let y := clampI (-fmax) fmax ((s.get F.TIME_DOM_KP_KP 0 d * o) / 65536 + i)
    let bad := if o.natAbs > s.get F.TIME_DOM_LOCK_UNLOCK_NS 0 d * 65536 then x.bad + 1 else 0
    let s := s.setDom d { x with i := i, y := y, iHist := (i :: x.iHist).take 4096, good := good, bad := bad, outl := 0 }
    let s := s.wr R.TIME_DOM_FREQ (enc 32 (y / 64)) 0 d
    if st = domAcquire ∧ 16 ≤ good then s.setDomState d domLocked
    else if st = domLocked ∧ 4 ≤ bad then s.setDomState d domHoldover
    else s

/-- The path delay after a Sync with `ms`, where an exchange has ended since the last one: mpd joins the filter (R256). -/
def State.pathDelay (s : State) (d : Nat) (ms : Int) : State :=
  let x := s.dom d
  match x.sm with
  | none => s
  | some sm =>
    let mpd := (ms + sm) / 2
    let mpdf := match x.mpdf with
      | none => mpd
      | some f => f + (mpd - f) / (2 ^ Nat.min 8 (s.get F.TIME_DOM_DLY_DLY_LOG 0 d) : Nat)
    (s.setDom d { x with mpdf := some mpdf, sm := none }).wr R.TIME_DOM_MPD (enc 32 (mpdf / 256)) 0 d

/-- A complete Sync (R256): ms, the path delay of the exchange that ended since the last Sync, and one offset. A Sync that arrives before
the first Delay_Resp is not used. That the exchange of a Sync is the one that ended before it is DEDUCED (the servo's update stands for
the whole time to the next Sync). -/
def State.syncDone (s : State) (d src : Nat) (t1 t2 cf : Int) (two : Bool) : State :=
  let s := s.setDom d { s.dom d with sync := none, lastSync := s.upNs }
  let s := (s.set F.TIME_DOM_STAT_SRC src 0 d).set F.TIME_DOM_STAT_MSTEP (b2n two) 0 d
  let ms := t2 - t1 - cf
  let s := s.pathDelay d ms
  match (s.dom d).mpdf with
  | some mpdf => (s.incWrap R.TIME_DOM_SYNC_CNT 1 0 d).servo d (ms - mpdf - sgn 16 (s.get F.TIME_DOM_DLY_ASYM 0 d) * 65536)
  | none => s

/-- The message's timestamp in 2^-16 ns. -/
def ptpTs (m : PtpMsg) : Int := ((m.sec * 1000000000 + m.ns) * 65536 : Nat)

/-- PTP frames dropped are counted (R249). -/
def State.ptpDrop (s : State) : State := s.incSat R.TIME_PTP_DROP

/-- The enabled domain that a message belongs to: its domainNumber, and on network ports its transport (R249, R300). -/
def State.ptpDomain (s : State) (src transport : Nat) (m : PtpMsg) : Option Nat :=
  [0, 1].find? (fun d => s.flag F.TIME_DOM_CTL_EN 0 d && s.get F.TIME_DOM_CTL_NUMBER 0 d == m.domain &&
    (decide (4 ≤ src) || s.get F.TIME_DOM_CTL_TRANSPORT 0 d == transport))

/-- Whether a source may be that of a domain's master: a network port, or a mortar link with MROLE 1 (R301). -/
def State.slavePort (s : State) (src : Nat) : Bool :=
  decide (src < 4) || bitsOf (s.get F.TIME_PORT_ROLE_MROLE) (2 * (src - 4)) 2 == 1

/-- Whether a message comes from the domain's master, at its source (R249, R301). -/
def State.fromMaster (s : State) (d src : Nat) (m : PtpMsg) : Bool :=
  (s.dom d).master == some (m.srcId, m.srcPort, src) && s.slavePort src

/-- A master that was named takes effect at the next Sync (R259). -/
def State.takeMaster (s : State) (d : Nat) : State :=
  match (s.dom d).named with
  | some m => s.setDom d { s.dom d with master := some m, named := none }
  | none => s

/-- Whether PTP frames are taken at a source: TIME_CTL.PTP_EN on network ports (R249), MRT_CTL.PTP_EN on links (R305). -/
def State.ptpTaken (s : State) (src : Nat) : Bool :=
  if src < 4 then s.flag F.TIME_CTL_PTP_EN else s.flag F.MRT_CTL_PTP_EN (src - 4)

/-- The checks of R249 that precede every message; `k` handles it in its domain. -/
def State.ptpChecked (s : State) (src transport : Nat) (m : PtpMsg) (k : Nat → State → State) : State :=
  if !s.ptpTaken src then s
  else if m.version ≠ 2 ∨ (m.minor ≠ 0 ∧ m.minor ≠ 1) ∨ m.sdo ≠ 0 then s.ptpDrop
  else match s.ptpDomain src transport m with
    | none => s.ptpDrop
    | some d => k d s

/-- Sync (R250, R251, R256, R259). A logMessageInterval of 0x7F names no interval: IEEE 1588-2019 gives it to unicast Syncs. -/
def State.ptpSync (s : State) (src transport : Nat) (m : PtpMsg) : State :=
  s.ptpChecked src transport m (fun d s =>
    let s := s.takeMaster d
    if !s.fromMaster d src m ∨ (m.log ≠ 0x7F ∧ (sgn 8 m.log < -7 ∨ 1 < sgn 8 m.log)) then s.ptpDrop
    else
      let t2 := s.stampQ16 d src false
      if m.twoStep then s.setDom d { s.dom d with sync := some (m.seq, t2, sgn 64 m.cf), lastSync := s.upNs }
      else s.syncDone d src (ptpTs m) t2 (sgn 64 m.cf) false)

/-- Follow_Up: matched to its Sync by sequenceId (R250). -/
def State.ptpFollowUp (s : State) (src transport : Nat) (m : PtpMsg) : State :=
  s.ptpChecked src transport m (fun d s =>
    if !s.fromMaster d src m then s.ptpDrop
    else match (s.dom d).sync with
      | some (seq, t2, cf) => if seq = m.seq then s.syncDone d src (ptpTs m) t2 (cf + sgn 64 m.cf) true else s
      | none => s)

/-- The chip's clockIdentity, and the portNumber of a source. -/
def State.clockId (s : State) : Nat := s.rd64 R.TIME_CLKID_LO

/-- The bytes of a PTP message (IEEE 1588-2019): the 34-byte header, the timestamp, and for Delay_Resp the requesting port. -/
def ptpBytes (mtype : Nat) (m : PtpMsg) : List Byte :=
  let len := if mtype = 9 then 54 else 44
  leBytes 1 mtype ++ leBytes 1 (m.version + 16 * m.minor) ++ beBytes 2 len ++ leBytes 1 m.domain ++ [0] ++
    [if m.twoStep then 2 else 0, 0] ++ beBytes 8 m.cf ++ beBytes 4 0 ++ beBytes 8 m.srcId ++ beBytes 2 m.srcPort ++ beBytes 2 m.seq ++
    [if mtype = 0 then 0 else if mtype = 1 then 1 else if mtype = 8 then 2 else if mtype = 9 then 3 else 5] ++ leBytes 1 m.log ++
    beBytes 6 m.sec ++ beBytes 4 m.ns ++ (if mtype = 9 then beBytes 8 m.reqId ++ beBytes 2 m.reqPort else [])

/-- The fields of a PTP message's bytes. -/
def ptpParse (b : List Byte) : PtpMsg :=
  { version := byteAt b 1 % 16, minor := byteAt b 1 / 16, sdo := byteAt b 0 / 16, domain := byteAt b 4,
    twoStep := bitAt (byteAt b 6) 1, cf := beAt b 8 8, srcId := beAt b 20 8, srcPort := beAt b 28 2, seq := beAt b 30 2,
    log := byteAt b 33, sec := beAt b 34 6, ns := beAt b 40 4, reqId := beAt b 44 8, reqPort := beAt b 52 2 }

/-- A message of this chip in domain `d` from source `src`. -/
def State.ownMsg (s : State) (d src : Nat) : PtpMsg :=
  { version := 2, minor := 1, sdo := 0, domain := s.get F.TIME_DOM_CTL_NUMBER 0 d, twoStep := false, cf := 0, srcId := s.clockId,
    srcPort := src + 1, seq := 0, log := 0, sec := 0, ns := 0, reqId := 0, reqPort := 0 }

/-- A message with a time in 2^-16 ns: whole nanoseconds in the timestamp, the fraction in correctionField (R254). -/
def ptpWithTime (m : PtpMsg) (t : Int) : PtpMsg :=
  { m with
    sec := (t / 65536).toNat / 1000000000, ns := (t / 65536).toNat % 1000000000, cf := enc 64 (sgn 64 m.cf + t % 65536) }

/-- Bits [47:0] of the port's station address. -/
def State.netMac (s : State) (n : Nat) : Nat := s.rd64 R.NET_MAC_LO n % 2 ^ 48

/-- Whether a destination address matches a valid NET_MCAST entry. -/
def State.netMcast (s : State) (n mac : Nat) : Bool :=
  (upTo 32).any (fun k => s.flag F.NET_MCAST_HI_VALID n k && s.rd R.NET_MCAST_LO n k + 2 ^ 32 * s.get F.NET_MCAST_HI_ADDR_HI n k == mac)

/-- The Ethernet frame of a PTP message in a transport (R249–R251, R254), without its FCS: 0 UDP over IPv4, 1 UDP over IPv6, 2 Ethernet.
`oneStep` adds the two octets of R254 over IPv6: the checksum is that of the message before the departure time was written (`m0`), and
they keep it right. `uni` is the master that a unicast Delay_Req goes to. How the device comes to know its addresses the spec does not say:
they are free, but the same for every message to that master, and no group addresses. Where the spec gives no value the frame takes free
ones: the scope of the IPv6 group, the IP identification, traffic class and hop limit. -/
def State.ptpEth (s : State) (src mtype tr : Nat) (m0 m : List Byte) (oneStep : Bool) (uni : Option (Nat × Nat × Nat)) : List Byte :=
  let free (k n : Nat) : Nat := Config.freeFun .lane [k, src, s.freeCtr] % n
  let peer (k n : Nat) : Nat := match uni with
    | some (id, port, _) => Config.freeFun .lane [k, src, id, port] % n
    | none => 0
  let v6 := tr == 1
  let port := if mtype < 8 then 319 else 320
  let mac := if uni.isSome then setBits (peer 0 (2 ^ 48)) 40 1 0 else if tr = 0 then 0x01005E000181 else if v6 then 0x333300000181 else 0x011B19000000
  let eth (e : Nat) : List Byte := beBytes 6 mac ++ beBytes 6 (s.netMac src) ++ beBytes 2 e
  let ip6 := s.rd R.NET_IPV6 src 0 * 2 ^ 96 + s.rd R.NET_IPV6 src 1 * 2 ^ 64 + s.rd R.NET_IPV6 src 2 * 2 ^ 32 + s.rd R.NET_IPV6 src 3
  let len := 8 + m.length + (if v6 && oneStep then 2 else 0)
  let pseudo := beBytes 16 ip6 ++ beBytes 16 (if uni.isSome then peer 1 (2 ^ 120 * 255) else 0xFF00 * 2 ^ 112 + free 2 16 * 2 ^ 112 + 0x181)
  let hdr (c : Nat) : List Byte := beBytes 2 port ++ beBytes 2 port ++ beBytes 2 len ++ beBytes 2 c
  let sumOf (b : List Byte) : Nat := fold16 (sum16 pseudo + 17 + len + sum16 (hdr 0) + sum16 b)
  let c0 := 65535 - sumOf m0
  let c := if c0 = 0 then 65535 else c0
  let fix := beBytes 2 (fold16 (65535 - sumOf m + (65535 - c)))
  let ip4a := [0x45, BitVec.ofNat 8 (free 3 256)] ++ beBytes 2 (20 + len) ++ beBytes 2 (free 4 65536) ++ [0x40, 0, BitVec.ofNat 8 (free 5 256), 17]
  let ip4b := beBytes 4 (s.rd R.NET_IPV4 src) ++ beBytes 4 (if uni.isSome then peer 6 (2 ^ 24 * 224) else 0xE0000181)
  let body := if tr = 2 then eth 0x88F7 ++ m
    else if v6 then
      eth 0x86DD ++ beBytes 4 (6 * 2 ^ 28 + free 7 (2 ^ 28)) ++ beBytes 2 len ++ [17, BitVec.ofNat 8 (free 8 256)] ++ pseudo ++ hdr c ++ m ++
        (if oneStep then fix else [])
    else eth 0x0800 ++ ip4a ++ beBytes 2 (65535 - fold16 (sum16 ip4a + sum16 ip4b)) ++ ip4b ++ hdr 0 ++ m
  body ++ List.replicate (60 - body.length) 0

/-- The FCS of a frame (IEEE 802.3): the CRC-32, least significant byte first. -/
def ethFcs (b : List Byte) : List Byte := leBytes 4 (crc32 b)

/-- A PTP message in domain `d` leaves network port `src`, its link being up; `m0` is the message before its departure time was written. -/
def State.ptpEmit (s : State) (src mtype d : Nat) (m0 m : PtpMsg) : State :=
  if s.flag F.NET_STAT_LINK src then
    let b := s.ptpEth src mtype (s.get F.TIME_DOM_CTL_TRANSPORT 0 d) (ptpBytes mtype m0) (ptpBytes mtype m)
      (mtype == 0 && !m.twoStep) (if mtype == 1 && s.flag F.TIME_DOM_CTL_DREQ_UNI 0 d then (s.dom d).master else none)
    let s := s.inc64 R.NET_TX_FRAMES_LO 1 src
    { s.emit (.ptp src mtype (b ++ ethFcs b)) with freeCtr := s.freeCtr + 1 }
  else s

/-- Bytes padded with zeros to a multiple of 4, as LEN of a frame must be (R288). -/
def padWords (b : List Byte) : List Byte := b ++ List.replicate ((4 - b.length % 4) % 4) 0

/-- A PTP message in domain `d` leaves: at once on a network port; on a mortar link it is queued, event messages at priority 1 and general
ones as class 1 (R291), and stamped as it departs. -/
def State.ptpSend (s : State) (src mtype d : Nat) (m : PtpMsg) (stamp : Option (Nat × Nat)) : State :=
  if src < 4 then s.ptpEmit src mtype d m m
  else if !s.flag F.MRT_CTL_PTP_EN (src - 4) then s
  else
    (s.mortarPush (src - 4)
      { ftype := 3, cls := 1, arg0 := 0, arg1 := 0, payload := padWords (ptpBytes mtype m),
        prio := (if mtype ≤ 1 ∨ mtype = 9 then 1 else 4), stamp := stamp, jobEnd := none }).2

/-- A stamped message as it departs at time `t`: a one-step Sync carries its time (R254). -/
def ptpStamped (kind : Nat) (m : PtpMsg) (t : Int) : PtpMsg := if kind = 1 then ptpWithTime m t else m

/-- What follows the departure at time `t`: a two-step Sync is followed by its Follow_Up, a Delay_Req leaves t3 (R252, R255). -/
def State.ptpDeparted (s : State) (src kind d : Nat) (m : PtpMsg) (t : Int) : State :=
  if kind = 2 then s.ptpSend src 8 d (ptpWithTime { m with twoStep := false, cf := 0 } t) none
  else if kind = 3 then s.setDom d { s.dom d with dreq := some (m.seq, t) }
  else s

/-- A stamped message of this chip is sent: on a network port it departs at once. -/
def State.ptpSendStamped (s : State) (src mtype kind d : Nat) (m : PtpMsg) : State :=
  if src < 4 then
    let t := s.stampQ16 d src true
    (s.ptpEmit src mtype d m (ptpStamped kind m t)).ptpDeparted src kind d m t
  else s.ptpSend src mtype d m (some (kind, d))

/-- Whether a source acts as a PTP master: MROLE 2 on a link; NROLE 2 on a port, only as grandmaster (R280, R265). -/
def State.masterPort (s : State) (src : Nat) : Bool :=
  if src < 4 then bitsOf (s.get F.TIME_PORT_ROLE_NROLE) (2 * src) 2 == 2 && s.flag F.TIME_STAT_GM
  else bitsOf (s.get F.TIME_PORT_ROLE_MROLE) (2 * (src - 4)) 2 == 2

/-- Delay_Req: on master ports timestamped and answered by hardware (R250). -/
def State.ptpDelayReq (s : State) (src transport : Nat) (m : PtpMsg) : State :=
  s.ptpChecked src transport m (fun d s =>
    if !s.masterPort src then s.ptpDrop
    else
      let t4 := s.stampQ16 d src false
      let r := { s.ownMsg d src with
        seq := m.seq, reqId := m.srcId, reqPort := m.srcPort, log := enc 8 (sgn 4 (s.get F.TIME_INTERVALS_DREQ_LOG)) }
      -- receiveTimestamp holds whole ns; the fraction is taken from correctionField (IEEE 1588-2019)
      let r := { r with sec := (t4 / 65536).toNat / 1000000000, ns := (t4 / 65536).toNat % 1000000000, cf := enc 64 (sgn 64 m.cf - t4 % 65536) }
      s.ptpSend src 9 d r none)

/-- Delay_Resp: matched by sequenceId and requestingPortIdentity, it ends its exchange (R250, R256); a logMessageInterval of 0x7F, which
IEEE 1588-2019 gives to unicast answers, names no interval. -/
def State.ptpDelayResp (s : State) (src transport : Nat) (m : PtpMsg) : State :=
  s.ptpChecked src transport m (fun d s =>
    if !s.fromMaster d src m then s.ptpDrop
    else
      let x := s.dom d
      match x.dreq with
      | some (seq, t3) =>
        if seq = m.seq ∧ m.reqId = s.clockId ∧ m.reqPort = src + 1 then
          s.setDom d { x with sm := some (ptpTs m - t3 - sgn 64 m.cf), dreq := none, respLog := if m.log = 0x7F then x.respLog else sgn 8 m.log }
        else s
      | none => s)

/-- A PTP message by its type (R250). -/
def State.ptpFrame (s : State) (src transport : Nat) (b : List Byte) : State :=
  let m := ptpParse b
  let mtype := byteAt b 0 % 16
  if mtype = 0 then s.ptpSync src transport m
  else if mtype = 1 then s.ptpDelayReq src transport m
  else if mtype = 8 then s.ptpFollowUp src transport m
  else if mtype = 9 then s.ptpDelayResp src transport m
  else if mtype = 0xB ∨ mtype = 0xC ∨ mtype = 0xD then
    s.ptpChecked src transport m (fun _ s =>
      if s.flag F.TIME_PTP_RING_EN then (s.unitRecord (s.get F.TIME_PTP_RING_RING) b).2 else s)
  else if s.ptpTaken src then s.ptpDrop else s

/-- Whether PTP messages come in from a source: a network port whose link is up; a link with block lock that takes PTP frames, and that
no duplicate index holds to HELLO (R295, R305). -/
def State.ptpOpen (s : State) (src : Nat) : Bool :=
  if src < 4 then s.flag F.NET_STAT_LINK src
  else s.linkLocked (src - 4) && s.flag F.MRT_CTL_PTP_EN (src - 4) && !s.flag F.MRT_STAT_DUP_INDEX (src - 4)

def execSyncReceived (src : Fin 12) (transport : Fin 3) (msg : PtpMsg) (s : State) : Res :=
  .next (if s.ptpOpen src.val then s.ptpSync src.val transport.val msg else s)

def execFollowUpReceived (src : Fin 12) (transport : Fin 3) (msg : PtpMsg) (s : State) : Res :=
  .next (if s.ptpOpen src.val then s.ptpFollowUp src.val transport.val msg else s)

def execDelayReqReceived (src : Fin 12) (transport : Fin 3) (msg : PtpMsg) (s : State) : Res :=
  .next (if s.ptpOpen src.val then s.ptpDelayReq src.val transport.val msg else s)

def execDelayRespReceived (src : Fin 12) (transport : Fin 3) (msg : PtpMsg) (s : State) : Res :=
  .next (if s.ptpOpen src.val then s.ptpDelayResp src.val transport.val msg else s)

/-- 2^L seconds in ns. -/
def logNs (l : Int) : Nat := if 0 ≤ l then 1000000000 * 2 ^ l.toNat else 1000000000 / 2 ^ (-l).toNat

/-- L of R252: the larger of DREQ_LOG and the logMessageInterval of the master's last Delay_Resp. -/
def State.dreqLog (s : State) (d : Nat) : Int := max (sgn 4 (s.get F.TIME_INTERVALS_DREQ_LOG)) (s.dom d).respLog

/-- R252: the slave sends a Delay_Req to its master's source, at random intervals of at most 2 × 2^L s. -/
def execDelayReqSend (dom : Fin 2) (s : State) : Res :=
  let d := dom.val
  match (s.dom d).master with
  | none => .next s
  | some (_, _, src) =>
    if s.flag F.TIME_DOM_CTL_EN 0 d && decide (src < 12) && s.slavePort src then
      let s := s.advanceUp (s.dom d).dreqAt
      let x := s.dom d
      let r := s.free .random
      let s := r.2.setDom d { x with dreqSeq := (x.dreqSeq + 1) % 65536, dreqAt := s.upNs + r.1 % (2 * logNs (s.dreqLog d) + 1) }
      .next (s.ptpSendStamped src 1 3 d { s.ownMsg d src with seq := x.dreqSeq, log := 0x7F })
    else .next s

/-- Local time of the next Sync that a source sends for a domain (R301). -/
def State.syncAt (s : State) (src d : Nat) : Nat := KMap.get (fun _ => 0) s.time.syncAt (2 * src + d)

/-- R301, R265: Sync every 2^SYNC_LOG s on a master port, for a LOCKED domain, or any domain while GM is 1; two-step under R255. -/
def execSyncSend (src : Fin 12) (dom : Fin 2) (s : State) : Res :=
  let d := dom.val
  if s.flag F.TIME_DOM_CTL_EN 0 d && s.masterPort src.val && (s.domState d == domLocked || s.flag F.TIME_STAT_GM) then
    let s := s.advanceUp (s.syncAt src.val d)
    let x := s.dom d
    let other := s.flag F.TIME_DOM_CTL_EN 0 0 && (s.domState 0 == domLocked || s.flag F.TIME_STAT_GM)
    let two := s.flag F.TIME_DOM_CTL_TWO_STEP 0 d || (d == 1 && other)
    let l := sgn 4 (s.get F.TIME_INTERVALS_SYNC_LOG)
    let s := s.setDom d { x with syncSeq := (x.syncSeq + 1) % 65536 }
    let s := { s with time := { s.time with syncAt := KMap.put (fun _ => 0) s.time.syncAt (2 * src.val + d) (s.upNs + logNs l) } }
    let m := { s.ownMsg d src.val with seq := x.syncSeq, twoStep := two, log := enc 8 l }
    .next (s.ptpSendStamped src.val 0 (if two then 2 else 1) d m)
  else .next s

/-- Local time at which LOSS_MS without an accepted Sync expires (R258). -/
def State.lossAt (s : State) (d : Nat) : Nat := (s.dom d).lastSync + Nat.max 1 (s.get F.TIME_HOLD_LOSS_MS) * 1000000

/-- R258: no accepted Sync for LOSS_MS moves a LOCKED domain to HOLDOVER. Where both domains lose theirs in one cycle the one that is not
in force goes first, so that no switch is made (R261). -/
def execDomainLossTimeout (dom : Fin 2) (s : State) : Res :=
  let d := dom.val
  if s.domState d = domLocked then
    let s := s.advanceUp (s.lossAt d)
    let both := s.domState (1 - d) == domLocked && decide (s.lossAt (1 - d) ≤ s.lossAt d)
    if both then
      let a := s.get F.TIME_STAT_DOM_ACT
      .next ((s.setDomState (1 - a) domHoldover).setDomState a domHoldover)
    else .next (s.setDomState d domHoldover)
  else .next s

/-- R259, R266: a write of TIME_DOM_MPORT names a new master from the next Sync, and the grandmaster that names one steps back; with
VALID 0 the domain loses its master. -/
def State.nameMaster (s : State) (d : Nat) (v : RegWord) : State :=
  let s := s.typedWr (R.TIME_DOM_MPORT.at 0 d) v
  if s.flag F.TIME_DOM_MPORT_VALID 0 d then
    let m := (s.rd64 R.TIME_DOM_MASTER_LO 0 d, s.get F.TIME_DOM_MPORT_PORT_NUMBER 0 d, s.get F.TIME_DOM_MPORT_SRC 0 d)
    let s := s.setDom d { s.dom d with named := some m }
    if s.flag F.TIME_STAT_GM then (s.set F.TIME_STAT_GM 0).timeEv 2 else s
  else
    let s := s.setDom d { s.dom d with master := none, named := none }
    let st := s.domState d
    if st = domLocked ∨ (st = domAcquire ∧ (s.dom d).everLocked) then s.setDomState d domHoldover
    else if st = domAcquire then s.setDomState d domListen
    else s

def execMasterName (who : Requester) (dom : Fin 2) (v : RegWord) (s : State) : Res :=
  s.ifWriteV who (R.TIME_DOM_MPORT.at 0 dom.val) v (fun s => .next (s.nameMaster dom.val v))

/-- R261, R278: a write of TIME_CTL asks for the domain that its DOMAIN field names. -/
def State.writeTimeCtl (s : State) (v : RegWord) : State :=
  let s := s.typedWr (R.TIME_CTL.at 0 0) v
  -- without REF_EN the timebase is not locked to the 10 MHz input (R275)
  let s := if s.flag F.TIME_CTL_REF_EN then s else s.set F.TIME_REF_LOCKED 0
  s.switchDomain (s.get F.TIME_CTL_DOMAIN)

def execDomainSwitch (who : Requester) (v : RegWord) (s : State) : Res :=
  s.ifWriteV who (R.TIME_CTL.at 0 0) v (fun s => .next (s.writeTimeCtl v))

/-- R258: EN brings a DISABLED domain to LISTEN; EN 0 disables it. -/
def State.enableDomain (s : State) (d : Nat) (v : RegWord) : State :=
  let was := s.domState d
  let s := s.typedWr (R.TIME_DOM_CTL.at 0 d) v
  if s.flag F.TIME_DOM_CTL_EN 0 d then
    if was = domDisabled then
      let s := s.setDomState d domListen
      s.setDom d { s.dom d with mpdf := none, sm := none, sync := none, dreq := none, everLocked := false }
    else s
  else s.setDomState d domDisabled

def execPtpDomainEnable (who : Requester) (dom : Fin 2) (v : RegWord) (s : State) : Res :=
  s.ifWriteV who (R.TIME_DOM_CTL.at 0 dom.val) v (fun s => .next (s.enableDomain dom.val v))

/-- R263: in FOLLOW with |d| beyond 1 µs, FAR is set and EV_TIME_FAR raised. -/
def execCounterFar (s : State) : Res :=
  if s.flag F.TIME_STAT_MODE && !s.flag F.TIME_STAT_FAR && decide (1000 * 2 ^ 32 < s.clkDiffQ.natAbs) then
    .next ((s.set F.TIME_STAT_FAR 1).ppsHold.timeEv 4)
  else .next s

/-- Whether a domain is disabled, or in LISTEN or HOLDOVER. -/
def State.domAway (s : State) (d : Nat) : Bool :=
  s.domState d == domDisabled || s.domState d == domListen || s.domState d == domHoldover

/-- Whether the chip was LOCKED when it entered holdover: a domain in HOLDOVER was (R265). -/
def State.gmLocked (s : State) : Bool :=
  (s.domState 0 == domHoldover && (s.dom 0).heldLocked) || (s.domState 1 == domHoldover && (s.dom 1).heldLocked)

/-- R265: a designated chip whose enabled domains have all been in LISTEN or HOLDOVER for WAIT_S becomes grandmaster, with clockClass
7 where it was LOCKED when it entered holdover and 248 otherwise. -/
def execGrandmasterEntry (s : State) : Res :=
  if s.flag F.TIME_GM_CTL_DESIGNATED && !s.flag F.TIME_STAT_GM && s.domAway 0 && s.domAway 1 then
    let since (d : Nat) : Nat := if s.domState d = domDisabled then 0 else (s.dom d).since
    let s := s.advanceUp (Nat.max (since 0) (since 1) + Nat.max 1 (s.get F.TIME_GM_CTL_WAIT_S) * 1000000000)
    let s := (s.set F.TIME_STAT_GM 1).set F.TIME_GM_STAT_CLASS (if s.gmLocked then 7 else 248)
    .next (s.timeEv 2)
  else .next s

/-! ## Claims (R272) -/

def State.claim (s : State) (r : Nat) : Option Claim := KMap.get (fun _ => none) s.time.claims r

def State.setClaim (s : State) (r : Nat) (c : Option Claim) : State :=
  { s with time := { s.time with claims := KMap.put (fun _ => none) s.time.claims r c } }

def State.trig (s : State) (n : Nat) : Trig := KMap.get (fun _ => Trig.reset) s.time.trig n

def State.setTrig (s : State) (n : Nat) (t : Trig) : State :=
  { s with time := { s.time with trig := KMap.put (fun _ => Trig.reset) s.time.trig n t } }

/-- TIME_CONFLICT is recorded and EV_TIME_CONFLICT raised (R272, R279). -/
def State.conflict (s : State) (code res loser holder req : Nat) : State :=
  (s.wr R.TIME_CONFLICT (code + res * 2 ^ 3 + loser * 2 ^ 10 + holder * 2 ^ 12 + req * 2 ^ 14)).timeEv 5

/-- The class that a claim counts with: 0 and 1 from M are taken as 2 (R272). -/
def State.claimClass (s : State) (who : Requester) (cls : Nat) : Nat :=
  if s.reqPriv who = some .m ∧ cls < 2 then 2 else cls

/-- The HELD and HOLDER fields of a GPIO pin, and of a trigger, follow its claim. -/
def State.showClaim (s : State) (r : Nat) : State :=
  if 32 ≤ r ∧ r < 64 then
    match s.claim r with
    | none => (s.set F.GLB_GPIO_CFG_HOLDER 31 0 (r - 32)).set F.GLB_GPIO_CFG_HELD 0 0 (r - 32)
    | some c => (s.set F.GLB_GPIO_CFG_HOLDER c.req 0 (r - 32)).set F.GLB_GPIO_CFG_HELD 1 0 (r - 32)
  else if r < 16 then s.set F.TIME_TT_STAT_HELD (setBits (s.get F.TIME_TT_STAT_HELD) r 1 (b2n (s.claim r).isSome))
  else s

/-- A resource is freed. -/
def State.release (s : State) (r : Nat) : State := (s.setClaim r none).showClaim r

/-- The pin of a trigger's route: 64 + n, 32 + PIN, or none (R270). -/
def State.routePin (s : State) (n : Nat) : Option Nat :=
  if s.get F.TIME_TT_CTL_ROUTE 0 n = 1 then some (64 + n)
  else if s.get F.TIME_TT_CTL_ROUTE 0 n = 2 then some (32 + s.get F.TIME_TT_CTL_PIN 0 n)
  else none

/-- The pulse on a pin: its end, its level and its trigger. -/
def State.setPulse (s : State) (r : Nat) (p : Option (Nat × Bool × Nat)) : State :=
  { s with time := { s.time with pulse := KMap.put (fun _ => none) s.time.pulse r p } }

/-- A trigger is dropped: its enable, its claim and the pin it drives. -/
def State.dropTrigger (s : State) (n : Nat) : State :=
  let s := forN 36 (fun k s =>
    let r := 32 + k
    match s.claim r with
    | some c => if c.trig = some n then (s.release r).setPulse r none else s
    | none => s) s
  (s.set F.TIME_TT_CTL_EN 0 0 n).release n

/-- Whether a claim of class `cls` by `req` takes resource `r` (R272). -/
def State.canTake (s : State) (r cls req : Nat) : Bool :=
  match s.claim r with
  | none => true
  | some c => c.req == req || decide (cls < c.cls)

/-- Resource `r` is taken; a lower claim of another requester is pre-empted and its enable drops (R272). -/
def State.take (s : State) (r : Nat) (c : Claim) : State :=
  let s := match s.claim r with
    | none => s
    | some h =>
      if h.req = c.req then s
      else
        let s := match h.trig with
          | some n => s.dropTrigger n
          | none => if r < 16 then s.dropTrigger r else s.set F.GLB_GPIO_CFG_OWN 0 0 (r - 32)
        s.conflict 3 r h.cls c.cls c.req
  (s.setClaim r (some c)).showClaim r

/-- A claim that is not taken (R272). -/
def State.refuseClaim (s : State) (r cls : Nat) : State :=
  match s.claim r with
  | some h => s.conflict 1 r cls h.cls h.req
  | none => s

/-- NUM and DEN of a RATE code (R32). -/
def rateFrac (r : Nat) : Nat × Nat :=
  ([(24000, 1001), (24, 1), (25, 1), (30000, 1001), (30, 1), (48, 1), (50, 1), (60000, 1001), (60, 1), (72, 1), (90, 1), (96, 1), (100, 1),
    (120000, 1001), (120, 1), (144, 1), (150, 1), (180, 1), (200, 1), (240000, 1001), (240, 1)] : List (Nat × Nat)).getD r (120, 1)

/-- P of the rate in force, rounded down to whole ns for comparisons of whole ns. -/
def State.periodNs (s : State) : Nat :=
  let f := rateFrac (s.get F.TIME_STK_STAT_RATE)
  f.2 * 1000000000 / f.1

/-- The recovery length in force, ns. -/
def State.recoveryNs (s : State) : Nat := s.get F.TIME_STK_WIN_RECOVERY_US * 1000

/-- Whether the parameters of trigger `n` are valid (R269, R270). -/
def State.trigValid (s : State) (n : Nat) : Bool :=
  let a := s.get F.TIME_TT_CTL_ANCHOR 0 n
  let off := sgn 32 (s.rd R.TIME_TT_OFFSET 0 n)
  let p : Int := s.periodNs
  let rec' : Int := s.recoveryNs
  (if a = 0 then decide (1000 ≤ s.rd R.TIME_TT_PERIOD 0 n)
   else if a = 2 then decide (rec' - p ≤ off) && decide (off ≤ rec')
   else decide (-p ≤ off) && decide (off ≤ p)) &&
  (s.get F.TIME_TT_CTL_ROUTE 0 n != 3) && (s.get F.TIME_TT_CTL_ROUTE 0 n != 1 || decide (n < 4))

/-- The number nearest to the current stroke whose low 32 bits are `lo` (R72). -/
def extendStroke (cur lo : Nat) : Nat :=
  let base := cur / 2 ^ 32 * 2 ^ 32 + lo % 2 ^ 32
  if base + 2 ^ 31 < cur then base + 2 ^ 32
  else if cur + 2 ^ 31 ≤ base ∧ 2 ^ 32 ≤ base then base - 2 ^ 32
  else base

/-- Number of the current stroke. -/
def State.strokeNum (s : State) : Nat := s.rd64 R.TIME_STK_NUM_LO

/-- Predicted local time of the next catch's slot under SOURCE 2, in twelfths of a ns (R36). -/
def State.slotPred (s : State) : Nat :=
  match s.stroke.hsFree with
  | some (t, _) => t
  | none => if s.stroke.hsLead = 0 then s.stroke.hsOld else s.stroke.hsPred + (s.stroke.hsLead - 1) * s.stroke.hsPeriod

/-- Time of the catch `j` strokes after the next one (R33, R36, R51): under SOURCE 2 the slot's predicted time, on the time counter, plus
HSOFF; in a transition catch A and R33 from it; else R33. -/
def State.catchAfter (s : State) (j : Nat) : Nat :=
  if s.get F.TIME_STK_STAT_SOURCE = 2 then
    (((s.slotPred + j * s.stroke.hsPeriod : Nat) * 4294967296 / 12 + ((s.nowQ : Int) - s.upQ)) / 4294967296 + sgn 32 s.stroke.hsoff).toNat
  else
    let f := rateFrac (s.get F.TIME_STK_STAT_RATE)
    match s.stroke.trans with
    | some a => if j = 0 then a else ceilDiv ((a * f.1 / (f.2 * 1000000000) + j) * f.2 * 1000000000) f.1
    | none => ceilDiv ((s.stroke.lastCatch * f.1 / (f.2 * 1000000000) + 1 + j) * f.2 * 1000000000) f.1

/-- Time of the next catch. -/
def State.nextCatch (s : State) : Nat := s.catchAfter 0

/-- The finish of the stroke running (R28). -/
def State.finishTime (s : State) : Nat := s.nextCatch - s.recoveryNs

/-- P of the rate in force in 2^-32 ns, rounded up. -/
def State.periodQ (s : State) : Nat :=
  let f := rateFrac (s.get F.TIME_STK_STAT_RATE)
  ceilDiv (f.2 * 1000000000 * 2 ^ 32) f.1

/-- In a transition interval, the first catch of the new timing after the counter time `x` and before catch A (R51, R199). -/
def State.interimCatch (s : State) (x : Nat) : Option Nat :=
  if s.stroke.trans.isNone then none
  else if s.get F.TIME_STK_STAT_SOURCE = 2 then
    let per := Nat.max 1 s.stroke.hsPeriod
    let j := (12 * (s.nextCatch - x) - 1) / per
    if j = 0 ∨ s.nextCatch ≤ x then none else some (s.nextCatch - j * per / 12)
  else
    let f := rateFrac (s.get F.TIME_STK_STAT_RATE)
    let c := ceilDiv ((x * f.1 / (f.2 * 1000000000) + 1) * f.2 * 1000000000) f.1
    if c < s.nextCatch then some c else none

/-- Number of the next catch (R38, R51): a loaded number; R33's number under SOURCE 0 or 1 at catch A and under SOURCE 1; else one more
than the current stroke. -/
def State.nextNum (s : State) : Nat :=
  let src := s.get F.TIME_STK_STAT_SOURCE
  let f := rateFrac (s.get F.TIME_STK_STAT_RATE)
  let r33 := s.nextCatch * f.1 / (f.2 * 1000000000)
  match (if src = 1 then none else s.stroke.numLoad) with
  | some n => n
  | none => if src = 1 ∨ (src = 0 ∧ s.stroke.trans.isSome) then r33 else s.strokeNum + 1

/-- The catches that a trigger of CATCH or ONCE can be anchored to now: number and time. -/
def State.ttCatches (s : State) : List (Nat × Nat) :=
  [(s.strokeNum, s.stroke.lastCatch), (s.nextNum, s.nextCatch), (s.nextNum + 1, s.catchAfter 1)]

/-- The earliest counter time at which trigger `n` can fire: 1 µs after the write that changed it, and once for each instant (R269). -/
def State.fireFrom (s : State) (n : Nat) : Nat :=
  Nat.max (s.now + ((s.trig n).changed + 1000 - s.upNs)) (match (s.trig n).lastFire with | some f => f + 1 | none => 0)

/-- The next instant, at or after `now`, at which trigger `n` fires (R269). -/
def State.nextFire (s : State) (n : Nat) : Option Nat :=
  let off := sgn 32 (s.rd R.TIME_TT_OFFSET 0 n)
  let per := s.rd R.TIME_TT_PERIOD 0 n
  let lo := s.fireFrom n
  let every := Nat.max 1 (per % 256)
  let pick (l : List (Nat × Nat)) (ok : Nat → Bool) : Option Nat :=
    (l.map (fun e => (e.1, (e.2 + off).toNat))).find? (fun e => ok e.1 && decide (lo ≤ e.2)) |>.map (·.2)
  match s.get F.TIME_TT_CTL_ANCHOR 0 n with
  | 0 => if per = 0 then none else some (lo + ((off - lo) % per).toNat)
  | 1 => pick s.ttCatches (fun k => k % every == 0)
  | 2 => pick [(s.strokeNum, s.finishTime), (s.nextNum, s.catchAfter 1 - s.recoveryNs)] (fun k => k % every == 0)
  | _ => if (s.trig n).done then none else pick s.ttCatches (fun k => k == extendStroke s.strokeNum per)

/-- The instant of a ONCE trigger, where its stroke's catch is known (R269). -/
def State.onceAt (s : State) (n : Nat) : Option Int :=
  (s.ttCatches.find? (fun e => e.1 == extendStroke s.strokeNum (s.rd R.TIME_TT_PERIOD 0 n))).map (fun e => e.2 + sgn 32 (s.rd R.TIME_TT_OFFSET 0 n))

/-- Whether a ONCE trigger's instant has passed (R269). -/
def State.onceMissed (s : State) (n : Nat) : Bool :=
  match s.onceAt n with
  | some t => decide (t < s.now)
  | none => decide (extendStroke s.strokeNum (s.rd R.TIME_TT_PERIOD 0 n) < s.strokeNum)

/-- The pins that trigger `n` held for a route it no longer has are freed; a pulse on one runs out (R270, R272). -/
def State.dropRoute (s : State) (n : Nat) : State :=
  forN 36 (fun k s =>
    match s.claim (32 + k) with
    | some c => if c.trig = some n ∧ s.routePin n ≠ some (32 + k) then s.release (32 + k) else s
    | none => s) s

/-- A write of TIME_TT_CTL (R269, R270, R272): EN claims the trigger and its routed pin, or the trigger is dropped. A claim that R272 refuses,
or one with invalid parameters, is not taken: another requester's hold stays, and the claimant's own trigger is dropped where its new
parameters are invalid. -/
def State.claimTrigger (s : State) (who : Requester) (n : Nat) (v : RegWord) : State :=
  let wasHeld := (s.claim n).isSome
  let s0 := s
  let s := s.typedWr (R.TIME_TT_CTL.at 0 n) v
  if !s.flag F.TIME_TT_CTL_EN 0 n then s.dropTrigger n
  else
    let cls := s.claimClass who (s.get F.TIME_TT_CTL_CLASS 0 n)
    let req := who.code
    let refused (s : State) : State := (s.wrReg (R.TIME_TT_CTL.at 0 n) (if wasHeld then s0.rdReg (R.TIME_TT_CTL.at 0 n) else s.rdReg (R.TIME_TT_CTL.at 0 n) &&& ~~~1))
    let others := match s0.claim n with
      | some c => c.req != req
      | none => false
    if !s.canTake n cls req then (refused s).refuseClaim n cls
    else if !s.trigValid n then (if others then refused s else s.dropTrigger n).conflict 2 n cls 0 0
    else
      let go (s : State) : State :=
        let s := (s.dropRoute n).take n { cls := cls, req := req, trig := none }
        let s := s.set F.TIME_TT_CTL_EN 1 0 n
        let s := s.setTrig n { changed := s.upNs, lastFire := none, done := false }
        if s.get F.TIME_TT_CTL_ANCHOR 0 n = 3 ∧ s.onceMissed n then
          (s.setTrig n { changed := s.upNs, lastFire := none, done := true }).conflict 4 n cls cls req
        else s
      match s.routePin n with
      | none => go s
      | some r =>
        if s.canTake r cls req then (go s).take r { cls := cls, req := req, trig := some n }
        else (refused s).refuseClaim r cls

def execTriggerClaim (who : Requester) (n : Fin 16) (v : RegWord) (s : State) : Res :=
  s.ifWriteV who (R.TIME_TT_CTL.at 0 n.val) v (fun s => .next (s.claimTrigger who n.val v))

/-- A ONCE trigger whose instant has passed (R269). -/
def State.missed (s : State) (k : Nat) : State :=
  let s := s.setTrig k { s.trig k with done := true }
  match s.claim k with
  | some c => s.conflict 4 k c.cls c.cls c.req
  | none => s

/-- R270: at its firing instant an enabled, held trigger sets FIRED, raises EV_TIME_TT under EV_EN and drives its routed pin. A ONCE whose
one instant was skipped reports MISSED when it has passed. -/
def execTriggerFire (n : Fin 16) (s : State) : Res :=
  let k := n.val
  if s.flag F.TIME_TT_CTL_EN 0 k && (s.claim k).isSome then
    match s.nextFire k with
    | none =>
      if s.get F.TIME_TT_CTL_ANCHOR 0 k = 3 ∧ !(s.trig k).done then
        match s.onceAt k with
        | some t => .next ((s.advanceTo (t + 1).toNat).missed k)
        | none => .next (if s.onceMissed k then s.missed k else s)
      else .next s
    | some t =>
      let s := s.advanceTo t
      let s := s.setTrig k { s.trig k with lastFire := some t, done := s.get F.TIME_TT_CTL_ANCHOR 0 k == 3 }
      let s := s.set F.TIME_TT_STAT_FIRED (setBits (s.get F.TIME_TT_STAT_FIRED) k 1 1)
      let s := s.raiseIf (s.flag F.TIME_TT_CTL_EV_EN 0 k) 0x18
      .next (match s.routePin k with
        | some r => if !s.driven then s else s.setPulse r (some (s.upNs + Nat.max 1 (s.get F.TIME_TT_CTL_WIDTH 0 k) * 100, !s.flag F.TIME_TT_CTL_POL 0 k, k))
        | none => s)
  else .next s

/-- The pin with the oldest pulse of trigger `n`, and its end. -/
def State.pulseOf (s : State) (n : Nat) : Option (Nat × Nat) :=
  (s.time.pulse.filterMap (fun e => match e.2 with
    | some (t, _, k) => if k = n then some (e.1, t) else none
    | none => none)).foldl (fun a e => match a with
      | none => some e
      | some b => if e.2 < b.2 then some e else some b) none

/-- R270: a pulse of a trigger ends. -/
def execTriggerPulseEnd (n : Fin 16) (s : State) : Res :=
  match s.pulseOf n.val with
  | some (r, t) => .next ((s.advanceUp t).setPulse r none)
  | none => .next s

/-- GLB_GPIO_CFG[n] is written; GLB_GPIO_IN follows the level of its pin, inverted under INV (R531), which is no edge of the pin. -/
def State.writeGpioCfg (s : State) (n : Nat) (v : RegWord) : State :=
  let was := s.flag F.GLB_GPIO_CFG_INV 0 n
  let s := s.typedWr (R.GLB_GPIO_CFG.at 0 n) v
  if s.flag F.GLB_GPIO_CFG_INV 0 n == was then s
  else s.wr R.GLB_GPIO_IN (setBits (s.rd R.GLB_GPIO_IN) n 1 (b2n (!bitAt (s.rd R.GLB_GPIO_IN) n)))

/-- The level that the device drives on GPIO pin `n`: that of the trigger routed to it, at rest or in its pulse (R270), or that of
GLB_GPIO_OUT where its owner holds it, inverted under INV; none where nothing drives it, or where an open-drain output is high (R510,
R531). -/
def State.gpioLevel (s : State) (n : Nat) : Option Bool :=
  let level : Option Bool := match s.claim (32 + n) with
    | none => none
    | some c => match c.trig with
      | some k => some (match KMap.get (fun _ => none) s.time.pulse (32 + n) with
        | some (_, active, _) => active
        | none => s.flag F.TIME_TT_CTL_POL 0 k)
      | none => if s.flag F.GLB_GPIO_CFG_OWN 0 n then some (bitAt (s.rd R.GLB_GPIO_OUT) n) else none
  match level with
  | some b =>
    let b := b != s.flag F.GLB_GPIO_CFG_INV 0 n
    if !s.driven ∨ (s.flag F.GLB_GPIO_CFG_OD 0 n ∧ b) then none else some b
  | none => none

/-- A write of GLB_GPIO_CFG (R272, R531): OWN claims the pin for owner output, or frees it. -/
def State.claimGpio (s : State) (who : Requester) (n : Nat) (v : RegWord) : State :=
  let s := s.writeGpioCfg n v
  let r := 32 + n
  if s.flag F.GLB_GPIO_CFG_OWN 0 n then
    let cls := s.claimClass who (s.get F.GLB_GPIO_CFG_CLASS 0 n)
    if s.canTake r cls who.code then (s.take r { cls := cls, req := who.code, trig := none }).set F.GLB_GPIO_CFG_OWN 1 0 n
    else
      let s := match s.claim r with
        | some c => if c.trig.isNone then s else s.set F.GLB_GPIO_CFG_OWN 0 0 n
        | none => s
      s.refuseClaim r cls
  else
    match s.claim r with
    | some c => if c.trig.isNone then s.release r else s
    | none => s

def execGpioClaim (who : Requester) (n : Fin 32) (v : RegWord) (s : State) : Res :=
  s.ifWriteV who (R.GLB_GPIO_CFG.at 0 n.val) v (fun s => .next (s.claimGpio who n.val v))

/-! ## Captures, PPS and the reference -/

/-- An edge on the source of capture `n` (R271). -/
def execCaptureEdge (n : Fin 8) (rising : Bool) (s : State) : Res :=
  let k := n.val
  let cfg := bitsOf (s.rd R.TIME_TC_CFG 0 (k / 4)) (8 * (k % 4)) 8
  let src := cfg % 64
  let edge := cfg / 64
  if src = 0 ∨ (4 ≤ src ∧ src < 32) ∨ edge = 3 then .next s
  else if (edge = 0 ∧ !rising) ∨ (edge = 1 ∧ rising) then .next s
  else
    let ovf (s : State) : State := s.set F.TIME_TC_STAT_OVF (setBits (s.get F.TIME_TC_STAT_OVF) k 1 1)
    let near := match KMap.get (fun _ => none) s.time.capLast k with
      | some t => decide (s.upNs < t + 100)
      | none => false
    if near then .next (ovf s)
    else
      let s := if bitAt (s.get F.TIME_TC_STAT_VALID) k then ovf s else s
      let s := s.wr64 R.TIME_TC_LO s.now 0 k
      let s := s.set F.TIME_TC_STAT_VALID (setBits (s.get F.TIME_TC_STAT_VALID) k 1 1)
      let s := { s with time := { s.time with capLast := KMap.put (fun _ => none) s.time.capLast k (some s.upNs) } }
      .next (s.raise 0x19)

/-- A read of TIME_TC_HI[n] returns the latched half and clears VALID[n] (R271). -/
def State.readCapture (s : State) (who : Requester) (n : Nat) : State :=
  let s := { s with readData := s.latchedHi who (R.TIME_TC_LO.at 0 n) }
  s.set F.TIME_TC_STAT_VALID (setBits (s.get F.TIME_TC_STAT_VALID) n 1 0)

def execCaptureRead (who : Requester) (n : Fin 8) (s : State) : Res :=
  if s.regAllowed who .time 0 (0x204 + 8 * n.val) false then .next (s.readCapture who n.val)
  else .next (s.refuseAccess who (R.TIME_TC_HI.at 0 n.val))

/-- R273: at a whole second of the time counter PPS_OUT rises, unless it is held low. -/
def execPpsOutRise (s : State) : Res :=
  if s.flag F.TIME_PPS_EN then
    let due := if s.now % 1000000000 = 0 ∧ s.time.ppsAt ≠ some s.now then s.now else (s.now / 1000000000 + 1) * 1000000000
    let s := s.advanceTo due
    let s := { s with time := { s.time with ppsAt := some due, pps := some (s.upNs + Nat.max 1 (s.get F.TIME_PPS_WIDTH_US) * 1000) } }
    .next s.ppsHold
  else .next { s with time := { s.time with pps := none } }

/-- R273: after WIDTH_US PPS_OUT falls. -/
def execPpsOutEnd (s : State) : Res :=
  match s.time.pps with
  | some t => .next { s.advanceUp t with time := { (s.advanceUp t).time with pps := none } }
  | none => .next s

/-- A write of TIME_PPS (R273). -/
def State.writePps (s : State) (v : RegWord) : State := (s.typedWr (R.TIME_PPS.at 0 0) v).ppsHold

/-- R275, R278: edges on the 10 MHz input; with REF_EN the local timebase locks to it. -/
def execRefLock (s : State) : Res := .next ((s.set F.TIME_REF_PRESENT 1).set F.TIME_REF_LOCKED (b2n (s.flag F.TIME_CTL_REF_EN)))

/-- R275: 10 missing periods; a reference in use is lost, and the timebase returns to the 25 MHz input. -/
def execRefLoss (s : State) : Res :=
  let used := s.flag F.TIME_REF_LOCKED
  let s := (s.set F.TIME_REF_PRESENT 0).set F.TIME_REF_LOCKED 0
  .next (if used then ((s.set F.TIME_STAT_REF_LOST 1).incFld F.TIME_REF_LOSS_CNT).timeEv 3 else s)

end Sys2Proof.Machine
end

