-- ==== Sys2Proof/Machine/Ingest.lean ====
section
/-!
DEFINITION. Pallets and ingest: the pallet checks, steering, landing, DSC decoding, forwarding and the network ports (R60–R92).
-/
namespace Sys2Proof.Machine

open Sys2Proof

/-! ## Stroke numbers that arrivals are judged by (R72, R51) -/

/-- The stroke number an arrival counts in: the current one; in a transition interval, the numbers around catch A (R51). -/
def State.arrivalNum (s : State) : Nat :=
  if s.stroke.trans.isSome then s.nextNum - (if s.stroke.admitted then 1 else 2) else s.strokeNum

/-! ## Tables in the yard -/

/-- Address of a stream's steering entry (R69). -/
def State.steer (s : State) (stream : Nat) : Nat := s.get F.ING_STEER_BASE * 2 ^ 16 + 16 * stream

/-- Address of the landing entry of a stream for a show time and an object (R70). -/
def State.landing (s : State) (stream show32 object : Nat) : Nat :=
  s.memFld (s.steer stream + 8) 0 28 + 64 * (show32 % 4 * 256 + object)

def State.ingObj (s : State) (e : Nat) : Option IngObj := KMap.get (fun _ => none) s.ingest.objs e

def State.setIngObj (s : State) (e : Nat) (o : Option IngObj) : State :=
  { s with ingest := { s.ingest with objs := KMap.put (fun _ => none) s.ingest.objs e o } }

/-- STATE of a landing entry: 0 EMPTY, 1 FILLING, 2 DECODING, 3 READY, 4 ERROR (R70). -/
def State.entryState (s : State) (e : Nat) : Nat := s.memFld (e + 0x38) 0 3

/-- A pallet dropped or an object failed for `reason`: counted, recorded and reported (R76, R84). Object errors and RING_FULL are recorded
in ING_LAST_DROP and ING_LAST_SHOW as drops are: a DESIGN CHOICE (log entry 124). -/
def State.ingDrop (s : State) (reason stream source show32 : Nat) : State :=
  let s := s.incSat R.ING_DROP 1 0 reason
  let s := s.wr R.ING_LAST_DROP (stream + reason * 2 ^ 12 + source * 2 ^ 17)
  let s := s.wr R.ING_LAST_SHOW show32
  s.raiseIf (bitAt (s.rd R.ING_EVMASK) reason) 0x30

/-- A pallet dropped, counted as such at the counters too. -/
def State.palletDrop (s : State) (reason stream source show32 : Nat) : State :=
  (s.countAll 8 8 0x11).ingDrop reason stream source show32

/-- An object ends READY (3) or in ERROR (4): the entry, then the completion record, lost as RING_FULL (R73, R74, R76). -/
def State.objEnd (s : State) (e : Nat) (o : IngObj) (st reason detail : Nat) : State :=
  let s := s.wr32 (e + 0x38) (st + reason * 8 + detail * 256)
  let s := if st = 3 then (s.inc64 R.ING_OBJ_LO).countAll 8 8 0x13 else s.ingDrop reason o.stream o.source o.show32
  let s := if reason = 18 ∨ reason = 19 then
      (s.incSat R.ING_DSC_ERR).wr R.ING_DSC_INFO (o.stream + detail * 2 ^ 16) else s
  let rec' := leBytes 4 (o.stream + o.kind * 2 ^ 12 + o.object * 2 ^ 16 + st * 2 ^ 24 + reason * 2 ^ 27) ++
    leBytes 4 (detail + o.source * 2 ^ 8) ++ leBytes 8 o.showTime ++ leBytes 4 o.objLen ++ leBytes 4 o.user ++
    leBytes 4 o.outBytes ++ leBytes 4 s.now
  let r := s.unitRecord (s.memFld (s.steer o.stream) 0 13) rec'
  if r.1 then r.2 else r.2.ingDrop 22 o.stream o.source o.show32

/-- LANDING_ABANDON: at catch T − 1 every class-0 entry armed for T that is FILLING ends in ERROR, ABANDONED (R75). -/
def State.landingAbandon (s : State) (t : Nat) : State :=
  s.ingest.objs.foldl (fun s e => match e.2 with
    | some o => if o.cls = 0 ∧ o.showTime = t ∧ s.entryState e.1 = 1 then (s.objEnd e.1 o 4 23 0).setIngObj e.1 none else s
    | none => s) s

/-! ## DSC (R77–R80) -/

/-- What the decoder uses of a picture parameter set (VESA DSC 1.2a layout). -/
structure Pps where
  bpc : Nat
  rgb : Bool
  n420 : Bool
  n422 : Bool
  w : Nat
  h : Nat
  sw : Nat
  sh : Nat
  chunk : Nat
deriving DecidableEq, Repr

/-- The parameter set at the start of an object. -/
def ppsOf (b : List Byte) : Pps :=
  { bpc := byteAt b 3 / 16, rgb := bitAt (byteAt b 4) 4, n420 := bitAt (byteAt b 88) 1, n422 := bitAt (byteAt b 88) 0,
    w := beAt b 8 2, h := beAt b 6 2, sw := beAt b 12 2, sh := beAt b 10 2, chunk := beAt b 14 2 }

/-- The byte offset of the first field outside R78, in ascending order of offset. More than 8,192 slices give the offset of slice_width,
and an invalid combination of convert_rgb, native_420 and native_422 that of the native flags: a DESIGN CHOICE (log entry 124). -/
def ppsBad (b : List Byte) : Option Nat :=
  let p := ppsOf b
  let bpp := byteAt b 4 % 4 * 256 + byteAt b 5
  let lbd := byteAt b 3 % 16
  if byteAt b 0 ≠ 0x11 ∧ byteAt b 0 ≠ 0x12 then some 0
  else if ¬ (p.bpc = 8 ∨ p.bpc = 10 ∨ (p.bpc = 12 ∧ !p.rgb)) ∨ lbd < 8 ∨ 13 < lbd then some 3
  else if bitAt (byteAt b 4) 3 ∨ bitAt (byteAt b 4) 2 ∨ bpp < 96 ∨ 384 < bpp then some 4
  else if p.h < 64 ∨ 16384 < p.h then some 6
  else if p.w < 64 ∨ 16384 < p.w then some 8
  else if p.sh < 8 ∨ p.h < p.sh ∨ p.h % p.sh ≠ 0 ∨ (p.n420 ∧ p.sh % 2 ≠ 0) then some 10
  else if p.sw < 32 ∨ 5120 < p.sw ∨ p.w % p.sw ≠ 0 ∨ 8192 < p.w / p.sw * (p.h / p.sh) then some 12
  else if (p.n420 ∧ p.n422) ∨ (p.rgb ∧ (p.n420 ∨ p.n422)) then some 88
  else none

/-- A two-word address of a landing entry. -/
def State.entryAddr (s : State) (e off : Nat) : Nat := s.rdN (e + off) 6

/-- Rows of the chroma plane. -/
def Pps.chromaRows (p : Pps) : Nat := if p.n420 then p.h / 2 else p.h

/-- Output bytes of a picture at OUT and OUTC together (R79, R98). -/
def Pps.outBytes (p : Pps) : Nat :=
  let b := if p.bpc = 8 then 1 else 2
  if p.rgb then p.w * p.h * 4 else p.w * p.h * b + (if p.n420 ∨ p.n422 then p.w / 2 else p.w) * 2 * b * p.chromaRows

/-- Writes one row of elements of `sz` bytes. -/
def State.putRow (s : State) (a sz : Nat) (vals : List Nat) : State := s.wrBytes a (vals.flatMap (leBytes sz))

/-- The coded bytes of slice `idx`: one chunk of each of its lines (R77). -/
def State.sliceBytes (s : State) (buf : Nat) (p : Pps) (idx : Nat) : List Byte :=
  let per := p.w / p.sw
  (upTo p.sh).flatMap (fun l => s.rdBytes (buf + 128 + ((idx / per * p.sh + l) * per + idx % per) * p.chunk) p.chunk)

/-- The pixel, in raster order, at which the rate buffer of a slice fails; none where it does not. That is VESA DSC's, which the spec does
not reproduce: a free value of the coded bytes. -/
def sliceFault (coded : List Nat) (p : Pps) : Option Nat :=
  let n := Config.freeFun .dsc (9 :: coded)
  if n % 2 = 1 then some (n / 2 % Nat.max 1 (p.sw * p.sh)) else none

/-- A decoded slice is written (R79). The samples are VESA DSC's: free values of the coded bytes; from a rate-buffer fault on they are
mid-level. -/
def State.writeSlice (s : State) (e : Nat) (p : Pps) (idx : Nat) (fault : Option Nat) : State :=
  let coded := (s.sliceBytes (s.entryAddr e 0) p idx).map BitVec.toNat
  let per := p.w / p.sw
  let x0 := idx % per * p.sw
  let y0 := idx / per * p.sh
  let out := s.entryAddr e 0x10
  let outc := s.entryAddr e 0x18
  let pitch := s.memFld (e + 0x20) 0 20
  let pitchc := s.memFld (e + 0x24) 0 20
  let b := if p.bpc = 8 then 1 else 2
  let late (n : Nat) : Bool := match fault with
    | some m => decide (m ≤ n)
    | none => false
  let cx := if p.n420 ∨ p.n422 then 2 else 1
  let cy := if p.n420 then 2 else 1
  let smp (k x y : Nat) : Nat :=
    if late (if k = 0 ∨ p.rgb then y * p.sw + x else y * cy * p.sw + x * cx) then 2 ^ (p.bpc - 1)
    else Config.freeFun .dsc (k :: x :: y :: coded) % 2 ^ p.bpc
  let fit (v : Nat) : Nat := if p.bpc = 8 then v else v * 2 ^ (16 - p.bpc)
  if p.rgb then
    forN p.sh (fun l s => s.putRow (out + (y0 + l) * pitch + 4 * x0) 4 ((upTo p.sw).map (fun x =>
      smp 0 x l + smp 1 x l * 2 ^ p.bpc + smp 2 x l * 2 ^ (2 * p.bpc) + (if p.bpc = 8 then 0xFF * 2 ^ 24 else 3 * 2 ^ 30)))) s
  else
    let s := forN p.sh (fun l s => s.putRow (out + (y0 + l) * pitch + b * x0) b ((upTo p.sw).map (fun x => fit (smp 0 x l)))) s
    let cw := if p.n420 ∨ p.n422 then p.sw / 2 else p.sw
    let cx := if p.n420 ∨ p.n422 then x0 / 2 else x0
    let ch := if p.n420 then p.sh / 2 else p.sh
    let cy := if p.n420 then y0 / 2 else y0
    forN ch (fun l s => s.putRow (outc + (cy + l) * pitchc + 2 * b * cx) b ((upTo (2 * cw)).map (fun x => fit (smp (1 + x % 2) (x / 2) l)))) s

/-- What a host error in a landing entry may disturb (R601): the entry, and the memory at its BUF, OUT, OUTC and TRACK. -/
def State.entryReach (s : State) (e : Nat) : Reach :=
  let within (a b n : Nat) : Bool := decide (b ≤ a) && decide (a < b + n)
  { mem := fun a => within a e 64 || within a (s.entryAddr e 0) (s.rd32 (e + 0x08)) || within a (s.entryAddr e 0x10) (s.rd32 (e + 0x28)) ||
      within a (s.entryAddr e 0x18) (s.rd32 (e + 0x2C)) || within a (s.memFld (e + 0x30) 0 28) 8192 }

/-- A complete object (R73): its CRC under OCHK, then decoding for kinds 1 and 2, READY for the others. -/
def State.objComplete (s : State) (e : Nat) (o : IngObj) : Res :=
  let buf := s.entryAddr e 0
  if o.ochk && crc32c (s.rdBytes buf o.objLen) != o.crc then .next (s.objEnd e o 4 17 0)
  else if o.kind = 1 then
    let pps := s.rdBytes buf 128
    let p := ppsOf pps
    match ppsBad pps with
    | some d => .next (s.objEnd e o 4 18 d)
    | none =>
      if s.rd32 (e + 0x28) < p.h * s.memFld (e + 0x20) 0 20 ∨ (!p.rgb ∧ s.rd32 (e + 0x2C) < p.chromaRows * s.memFld (e + 0x24) 0 20) then
        .next (s.objEnd e o 4 18 6)
      else if !s.unitRange (s.entryAddr e 0x10) (p.h * s.memFld (e + 0x20) 0 20) then
        .next ((s.setIngObj e none).unpredictable (s.entryReach e))
      else
        let n := p.w / p.sw * (p.h / p.sh)
        let s := s.setMemFld (e + 0x38) 0 3 2
        let s := s.setIngObj e (some { o with slices := n, outBytes := p.outBytes })
        .next { s with ingest := { s.ingest with dscWait := s.ingest.dscWait ++ (upTo n).map (fun k => { entry := e, idx := k, cls := o.cls }) } }
  else if o.kind = 2 then
    let s := s.setMemFld (e + 0x38) 0 3 2
    .next { s with ingest := { s.ingest with zWait := s.ingest.zWait ++ [(e, o.cls)] } }
  else .next (s.objEnd e o 3 0 0)

/-! ## Landing (R70–R76) -/

/-- A fragment on its way to a landing entry: what a pallet (R61) or a POINT frame (R298) says. -/
structure Frag where
  obj : IngObj
  frag : Nat
  /-- LEN of the entry, and the bytes that CAPACITY compares, against CAP or OUT_CAP. -/
  point : Bool
  rowBytes : Nat
  rows : Nat
  fsize : Nat
  payload : List Byte

/-- Whether the fragment does not fit (R76 check 15, R299). -/
def State.tooLarge (s : State) (e : Nat) (f : Frag) : Bool :=
  if f.point then decide (s.rd32 (e + 0x28) < (f.rows - 1) * s.memFld (e + 0x20) 0 20 + f.rowBytes)
  else decide (s.rd32 (e + 0x08) < f.obj.objLen)

/-- The bytes of a fragment are written where they belong (R63, R299). -/
def State.landBytes (s : State) (e : Nat) (f : Frag) : State :=
  if f.point then
    let rpf := 8192 / f.rowBytes
    forN (Nat.min rpf (f.rows - f.frag * rpf)) (fun k s =>
      s.wrBytes (s.entryAddr e 0x10 + (f.frag * rpf + k) * s.memFld (e + 0x20) 0 20) ((f.payload.drop (k * f.rowBytes)).take f.rowBytes)) s
  else s.wrBytes (s.entryAddr e 0 + f.frag * f.fsize) f.payload

/-- Checks 11 to 16 of R76 in order, then landing (R73). -/
def State.land (s : State) (src : Nat) (f : Frag) : Res :=
  let o := f.obj
  let e := s.landing o.stream o.show32 o.object
  let drop (r : Nat) : Res := .next (s.palletDrop r o.stream src o.show32)
  let n := s.arrivalNum
  let st := s.entryState e
  let old := if st = 0 then none else s.ingObj e
  let bit := s.memFld (e + 0x30) 0 28 + f.frag / 8
  if o.cls = 0 ∧ n + 4 < o.showTime then drop 11
  else if o.cls = 0 ∧ o.showTime ≤ n + 1 then drop 12
  else if s.rd32 (e + 0x0C) ≠ o.show32 ∨ st = 4 then drop 13
  else if (match old with | some x => x.fields != o.fields | none => false) then drop 14
  else if s.tooLarge e f then drop 15
  else if bitAt (s.rdB bit).toNat (f.frag % 8) ∨ st = 2 ∨ st = 3 then drop 16
  else if !(if f.point then s.unitRange (s.entryAddr e 0x10) 1 else s.unitRange (s.entryAddr e 0) o.objLen) then
    .next (s.unpredictable (s.entryReach e))
  else
    let o := match old with | some x => { x with source := src } | none => { o with source := src }
    let s := s.landBytes e f
    let s := s.wrBytes bit [BitVec.ofNat 8 (setBits (s.rdB bit).toNat (f.frag % 8) 1 1)]
    let s := if st = 0 then s.wr32 (e + 0x34) o.objLen else s
    let s := if st = 0 then s.setMemFld (e + 0x38) 0 3 1 else s
    let frags := s.memFld (e + 0x3C) 0 17 + 1
    let s := s.setMemFld (e + 0x3C) 0 17 frags
    let s := s.setIngObj e (some o)
    let s := (s.inc64 R.ING_CLS_LO 1 0 o.cls).countAll 8 8 0x10 1 { cls := some o.cls }
    if frags = o.nfrag then s.objComplete e o else .next s

/-- Checks 7 to 10 of R76 and the forwarding between them (R82); `fwd` is what a link sends on, none for a POINT frame. -/
def State.steerFrag (s : State) (src : Nat) (f : Frag) (fwd : Option (List Byte)) : Res :=
  let o := f.obj
  let w := s.rd32 (s.steer o.stream)
  let drop (r : Nat) (s : State) : State := s.palletDrop r o.stream src o.show32
  if !bitAt w 13 then .next (drop 7 s)
  else if bitsOf w 16 2 ≠ o.cls then .next (drop 8 s)
  else if 8 ≤ o.kind ∨ !bitAt (s.rd32 (s.steer o.stream + 4)) o.kind then .next (drop 9 s)
  else
    let s := match fwd with
      | some p => forN 8 (fun m s => if bitAt w (24 + m) && src != 4 + m then s.forwardPallet m o.cls p else s) s
      | none => s
    if !bitAt w 14 then .next (drop 10 s) else s.land src f

/-- R65: gaps in a stream's SEQ are counted; the expected value follows. -/
def State.seqCheck (s : State) (stream seq : Nat) : State :=
  if s.flag F.ING_CTL_SEQ_EN then
    let a := s.steer stream + 0xC
    let d := (seq + 2 ^ 20 - s.memFld a 0 20) % 2 ^ 20
    if d = 0 then s.wr32 a ((seq + 1) % 2 ^ 20)
    else if d < 2 ^ 19 then (s.inc64 R.ING_SEQ_GAP_LO d).wr32 a ((seq + 1) % 2 ^ 20)
    else s
  else s

/-- A pallet extended to the show time nearest the current stroke (R72). -/
def palletFrag (cur : Nat) (b : List Byte) : Frag :=
  let w (k : Nat) : Nat := beAt b (4 * k) 4
  let show32 := w 2
  let fsize := bitsOf (w 3) 0 16
  { obj := {
      stream := bitsOf (w 1) 20 12, kind := bitsOf (w 0) 6 4, object := bitsOf (w 3) 24 8, cls := bitsOf (w 0) 10 2,
      show32 := show32, showTime := extendStroke cur show32,
      fields := [bitsOf (w 0) 10 2, bitsOf (w 0) 6 4, bitsOf (w 1) 20 12, show32, bitsOf (w 3) 24 8, fsize, w 4, bitsOf (w 0) 0 1, w 6, w 7],
      objLen := w 4, user := w 7, ochk := bitAt (w 0) 0, crc := w 6, nfrag := if fsize = 0 then 0 else ceilDiv (w 4) fsize,
      source := 0, outBytes := 0, slices := 0, sliceErr := false },
    frag := bitsOf (w 5) 16 16, point := false, rowBytes := 0, rows := 0, fsize := fsize, payload := (b.drop 32).take (bitsOf (w 5) 0 16) }

/-- Whether the lengths of a pallet break R61, R63 or R68; `udp` is the UDP length without its header. On mortar up to 3 bytes of padding
follow, for LEN is a multiple of 4. -/
def palletBadLen (udp : Option Nat) (b : List Byte) (f : Frag) : Bool :=
  let pl := beAt b 22 2
  let need := 32 + pl + (if bitAt (beAt b 0 4) 1 then 4 else 0)
  !(match udp with
    | some l => l == need && b.length == need
    | none => decide (need ≤ b.length) && decide (b.length < need + 4)) ||
  f.fsize % 4 != 0 || decide (f.fsize < 64) || decide (8192 < f.fsize) || f.obj.objLen == 0 || decide (536870912 < f.obj.objLen) ||
  decide (65536 < f.obj.nfrag) || decide (f.obj.nfrag ≤ f.frag) ||
  pl != Nat.min f.fsize (f.obj.objLen - f.frag * f.fsize)

/-- The pallet as forwarded: HOPS one less, the trailer recomputed, padded to a multiple of 4 (R82, R288); none when HOPS is 0. -/
def palletForward (b : List Byte) : Option (List Byte) :=
  let w0 := beAt b 0 4
  if bitsOf w0 2 4 = 0 then none
  else
    let n := 32 + beAt b 22 2
    let body := beBytes 4 (w0 - 4) ++ (b.drop 4).take (n - 4)
    let all := if bitAt w0 1 then body ++ beBytes 4 (crc32c body) else body
    some (all ++ List.replicate ((4 - all.length % 4) % 4) 0)

/-- A pallet arrives from source `src` (R76, R82): checks 3 to 6, the SEQ count, then steering. -/
def State.palletReceived (s : State) (src : Nat) (udp : Option Nat) (b : List Byte) : Res :=
  if !s.flag F.ING_CTL_ENABLE || s.get F.GLB_SHOW_STATE == 4 then .next s
  else
    let s := s.incWrap R.ING_SRC 1 0 src
    let f := palletFrag s.strokeNum b
    let drop (r : Nat) : Res := .next (s.palletDrop r f.obj.stream src f.obj.show32)
    let n := 32 + beAt b 22 2
    if beAt b 0 2 ≠ 0x1A4E then drop 3
    else if bitsOf (beAt b 0 4) 12 4 ≠ 1 then drop 4
    else if palletBadLen udp b f then drop 5
    else if bitAt (beAt b 0 4) 1 && crc32c (b.take n) != beAt b n 4 then drop 6
    else (s.seqCheck f.obj.stream (bitsOf (beAt b 4 4) 0 20)).steerFrag src f (palletForward b)

/-! ## The network ports (R66–R68, R89–R92) -/

/-- What R67 reads of a frame. -/
structure NetFrame where
  dst : Nat
  vlanOk : Bool
  etype : Nat
  /-- The bytes after the EtherType. -/
  body : List Byte
  v6 : Bool
  isUdp : Bool
  hdr : Nat
  ipDst : Nat
  port : Nat

/-- A frame parsed under the port's VLAN rule (R67). -/
def State.netParse (s : State) (n : Nat) (b : List Byte) : NetFrame :=
  let tagged := beAt b 12 2 == 0x8100
  let off := if tagged then 18 else 14
  let etype := beAt b (off - 2) 2
  let vlanOk := if s.flag F.NET_VLAN_TAG_EN n then tagged && beAt b 14 2 % 4096 == s.get F.NET_VLAN_VID n && etype != 0x8100 else !tagged
  let body := b.drop off
  let v6 := etype == 0x86DD
  let hdr := if v6 then 40 else byteAt body 0 % 16 * 4
  { dst := beAt b 0 6, vlanOk := vlanOk, etype := etype, body := body, v6 := v6,
    isUdp := if v6 then byteAt body 6 == 17 else etype == 0x0800 && byteAt body 9 == 17, hdr := hdr,
    ipDst := if v6 then beAt body 24 16 else beAt body 16 4, port := beAt body (hdr + 2) 2 }

/-- Whether the destination IP address is the port's own or a multicast address. -/
def State.netIpOk (s : State) (n : Nat) (f : NetFrame) : Bool :=
  if f.v6 then
    f.ipDst / 2 ^ 120 == 0xFF ||
    f.ipDst == s.rd R.NET_IPV6 n 0 * 2 ^ 96 + s.rd R.NET_IPV6 n 1 * 2 ^ 64 + s.rd R.NET_IPV6 n 2 * 2 ^ 32 + s.rd R.NET_IPV6 n 3
  else f.ipDst / 2 ^ 28 == 0xE || f.ipDst == s.rd R.NET_IPV4 n

/-- Bad IPv4 header checksum, or a fragment (R68). -/
def NetFrame.ipBad (f : NetFrame) : Bool :=
  !f.v6 && (fold16 (sum16 (f.body.take f.hdr)) != 0xFFFF || beAt f.body 6 2 % 0x4000 != 0)

/-- The UDP datagram: its length field and its bytes. -/
def NetFrame.udpLen (f : NetFrame) : Nat := beAt f.body (f.hdr + 4) 2

/-- A UDP checksum that is not 0 and wrong (R68). -/
def NetFrame.udpBad (f : NetFrame) : Bool :=
  let udp := (f.body.drop f.hdr).take f.udpLen
  let pseudo := if f.v6 then (f.body.drop 8).take 32 else (f.body.drop 12).take 8
  beAt f.body (f.hdr + 6) 2 != 0 && fold16 (sum16 pseudo + 17 + f.udpLen + sum16 udp) != 0xFFFF

/-- A frame for software goes to the management ring at class 1, or is dropped (R67). -/
def State.netManage (s : State) (n : Nat) (b : List Byte) : State :=
  if s.flag F.NET_MGMT_RING_EN n then (s.unitRecord (s.get F.NET_MGMT_RING_RING n) b).2 else s

/-- A whole frame, its FCS taken off: PTP first (R249), then pallet candidates (R67, R68), then the management ring. NET_RX_FRAMES counts
every frame with a good FCS, dropped PAUSE frames too, and ING_SRC counts pallets dropped at IP_HDR and UDP_CSUM: a DESIGN CHOICE (log entry
124). -/
def execNetFrameReceived (n : Fin 4) (fcsOk : Bool) (frame : List Byte) (s : State) : Res :=
  let p := n.val
  let len := frame.length + 4
  if !s.flag F.NET_STAT_LINK p || !s.flag F.NET_CTL_ENABLE p || decide (len < 64) then .next s
  else if 9216 < len then .next (s.incSat R.NET_RX_OVERSIZE 1 p)
  else if !fcsOk then .next (s.incSat R.NET_RX_BAD 1 p)
  else
    let s := s.inc64 R.NET_RX_FRAMES_LO 1 p
    let f := s.netParse p frame
    -- MAC control frames of IEEE 802.3: opcode 1 PAUSE, 0x0101 priority flow control
    if f.etype = 0x8808 ∧ (beAt f.body 0 2 = 1 ∨ beAt f.body 0 2 = 0x0101) then .next (s.incSat R.NET_PAUSE_RX 1 p)
    else
      let isIp := f.etype == 0x0800 || f.v6
      let ptpEth := f.etype == 0x88F7 && (f.dst == 0x011B19000000 || f.dst == s.netMac p) && f.vlanOk
      let ptpMac := f.dst == s.netMac p || s.netMcast p f.dst || f.dst == 0x01005E000181 || f.dst == 0x333300000181
      let ptpIp := if f.v6 then f.ipDst == s.rd R.NET_IPV6 p 0 * 2 ^ 96 + s.rd R.NET_IPV6 p 1 * 2 ^ 64 + s.rd R.NET_IPV6 p 2 * 2 ^ 32 + s.rd R.NET_IPV6 p 3
          || (f.ipDst / 2 ^ 116 == 0xFF0 && f.ipDst % 2 ^ 112 == 0x181)
        else f.ipDst == s.rd R.NET_IPV4 p || f.ipDst == 0xE0000181
      let ptpUdp := isIp && f.isUdp && f.vlanOk && ptpMac && ptpIp && (f.port == 319 || f.port == 320)
      if s.flag F.TIME_CTL_PTP_EN && ptpEth then .next (s.ptpFrame p 2 f.body)
      else if s.flag F.TIME_CTL_PTP_EN && ptpUdp then
        if f.ipBad || f.udpBad then .next s else .next (s.ptpFrame p (if f.v6 then 1 else 0) (f.body.drop (f.hdr + 8)))
      else if (f.dst == s.netMac p || s.netMcast p f.dst) && f.vlanOk && isIp && f.isUdp && s.netIpOk p f && f.port == s.get F.ING_UDP_PORT then
        let payload := ((f.body.drop (f.hdr + 8)).take (f.udpLen - 8))
        if !s.flag F.ING_CTL_ENABLE then .next s
        else if f.ipBad || f.udpBad then
          let s := (s.incSat R.NET_IP_ERR 1 p).incWrap R.ING_SRC 1 0 p
          .next (s.palletDrop (if f.ipBad then 1 else 2) (beAt payload 4 2 / 16) p (beAt payload 8 4))
        else s.palletReceived p (some (f.udpLen - 8)) payload
      else .next (s.netManage p frame)

/-- R66, R91: negotiation or training completes and the link comes up at rate code `speed` + 1. -/
def execNetLinkUp (n : Fin 4) (speed : Fin 4) (s : State) : Res :=
  let p := n.val
  let sel := s.get F.NET_CTL_SPEED p
  if s.flag F.NET_CTL_ENABLE p && !s.flag F.NET_STAT_LINK p && s.refPresent 4 &&
      (if sel = 0 then bitAt (s.get F.NET_AN_CTL_ADV p) speed.val else sel == speed.val + 1) then
    let s := (s.set F.NET_STAT_LINK 1 p).set F.NET_STAT_SPEED_ACT (speed.val + 1) p
    .next ((s.set F.NET_STAT_AN_DONE (b2n (decide (sel = 0))) p).set F.NET_PCS_STAT_BLOCK_LOCK 1 p)
  else .next s

/-- The status of a port whose link is down (R91). -/
def State.netDown (s : State) (p : Nat) : State :=
  (((s.set F.NET_STAT_LINK 0 p).set F.NET_STAT_SPEED_ACT 0 p).set F.NET_STAT_AN_DONE 0 p).set F.NET_PCS_STAT_BLOCK_LOCK 0 p

/-- R89: a port that loses its link counts it. -/
def execNetLinkDown (n : Fin 4) (s : State) : Res :=
  if s.flag F.NET_STAT_LINK n.val then .next ((s.netDown n.val).incSat R.NET_LINK_DOWN 1 n.val) else .next s

/-! ## The decoders (R80) -/

/-- Whether a slice may take a decoder: one is free, and above class 0 the reserve stays free. A class-0 slice takes a reserved decoder
while one is free: a DESIGN CHOICE (log entry 124). -/
def State.dscFits (s : State) (x : DscSlice) : Bool :=
  let run := s.ingest.dscRun
  decide (run.length < 32) &&
  (x.cls == 0 || decide ((run.filter (fun y => y.cls != 0)).length < 32 - Nat.min 32 (s.get F.ING_DSC_CTL_C0_RESERVE)))

/-- R80: a free decoder takes the next waiting slice, class 0 first, and within a class in order of completion. -/
def execDscSliceStart (s : State) : Res := if s.clocksOff then .next s else
  let w := s.ingest.dscWait
  match [0, 1, 2, 3].findSome? (fun c => w.find? (fun x => x.cls == c)) with
  | some x =>
    if s.dscFits x then
      let s := { s with ingest := { s.ingest with dscWait := w.erase x, dscRun := s.ingest.dscRun ++ [x] } }
      .next (s.set F.ING_STAT_DSC_ACTIVE s.ingest.dscRun.length)
    else .next s
  | none => .next s

/-- R79, R80, R608: the decoder of the `k`-th running slice finishes it; the last slice of an object ends it. Whether the slice had a
rate-buffer fault is VESA DSC's, a free value of its coded bytes. -/
def execDscSliceDone (k : Fin 32) (s : State) : Res := if s.clocksOff then .next s else
  match s.ingest.dscRun[k.val]? with
  | none => .next s
  | some x =>
    let s := { s with ingest := { s.ingest with dscRun := s.ingest.dscRun.erase x } }
    let s := s.set F.ING_STAT_DSC_ACTIVE s.ingest.dscRun.length
    match s.ingObj x.entry with
    | none => .next s
    | some o =>
      let p := ppsOf (s.rdBytes (s.entryAddr x.entry 0) 128)
      let half := p.sw % 8 != 0
      let fault := sliceFault ((s.sliceBytes (s.entryAddr x.entry 0) p x.idx).map BitVec.toNat) p
      let bad := fault.isSome
      let s := s.writeSlice x.entry p x.idx fault
      let s := (s.inc64 R.ING_DSC_PIX_LO (p.sw * p.sh)).inc64 R.ING_DSC_SLC_LO
      let s := if half then s.incSat R.ING_DSC_HALF else s
      let s := s.countAll 8 8 0x12 (p.sw * p.sh) { cls := some o.cls }
      let s := s.countAll 8 8 0x14 (p.sw * p.sh / (if half then 1 else 2)) { cls := some o.cls }
      let o := { o with slices := o.slices - 1, sliceErr := o.sliceErr || bad }
      let s := s.setIngObj x.entry (some o)
      if o.slices = 0 then
        .next (if o.sliceErr then s.objEnd x.entry o 4 19 0 else s.objEnd x.entry o 3 0 0)
      else .next s

end Sys2Proof.Machine
end

