-- ==== Sys2Proof/Machine/StrandTx.lean ====
section
/-!
DEFINITION. What every unit needs of the strand ports: their state, the driver contexts (R226), the staged slots, and the
sending of a brick (R175–R183, R190, R201).
-/
namespace Sys2Proof.Machine

open Sys2Proof

/-- Strand `k`. -/
def State.strand (s : State) (k : Nat) : Strand := KMap.get (fun _ => Strand.reset) s.strands k

/-- The state with strand `k` set. -/
def State.setStrand (s : State) (k : Nat) (x : Strand) : State :=
  { s with strands := KMap.put (fun _ => Strand.reset) s.strands k x }

/-- STATE codes of STR_STAT (R211). -/
def strOff : Nat := 0
def strTraining : Nat := 1
def strUp : Nat := 2
def strFault : Nat := 3
def strPinTest : Nat := 4

def State.strState (s : State) (k : Nat) : Nat := s.get F.STR_STAT_STATE k

/-- Address of the driver context of strand `k`, position `p` (R226, R405). -/
def drvCtx (k p : Nat) : Nat := 0x0C800000 + (2560 * k + p) * 64

/-- The share of a device (R226). -/
def State.share (s : State) (k p : Nat) : Nat := s.memFld (drvCtx k p + 0x18) 0 16

/-- Word 0 of a device's context as latched at the last catch (R227). -/
def State.latchedCtx (s : State) (k p : Nat) : Nat := KMap.get (fun _ => 0) (s.strand k).latched p

/-- Spare slots that a device declared. -/
def State.devSpares (s : State) (k p : Nat) : Nat := bitsOf (s.latchedCtx k p) 16 8

/-- Sixteenths of a UI per nanosecond: B × 16 with B = RATE × 0.125 Gbaud (R175). -/
def Strand.q4PerNs (x : Strand) : Nat := 2 * x.rate

/-- `n` unit intervals in 2^-32 ns of the time counter, rounded up (R175). -/
def Strand.uiQ (x : Strand) (n : Nat) : Nat := ceilDiv (n * 8 * 2 ^ 32) (Nat.max 1 x.rate)

/-- The first brick boundary, on the time counter in 2^-32 ns: 64 UI of idle after the last brick, or now (R175, R181). -/
def State.laneStart (s : State) (k : Nat) : Nat :=
  let x := s.strand k
  Nat.max s.nowQ (if x.laneEnd = 0 then 0 else x.laneEnd + x.uiQ 64)

/-- The lane of strand `k` comes to a brick boundary. -/
def State.laneWait (s : State) (k : Nat) : State := s.advanceToQ (s.laneStart k)

/-- Strand `k` sends a brick at its next boundary: it leaves the device and is counted. What the idle before it holds is a free value
(R180), of which the zeros at its end are seen. -/
def State.sendBrick (s : State) (k : Nat) (h payload : List Byte) : State :=
  let b := brickBytes h payload
  let line := brickLine b
  let x := s.strand k
  let fin := s.laneStart k + x.uiQ line.length
  let s := s.emit (.brick k b (idleEnd (Config.freeFun .lane [k, s.freeCtr] % 20) ++ line) (txTaps (s.rd R.STR_TXEQ k)))
  let s := { s with freeCtr := s.freeCtr + 1 }
  let s := s.inc64 R.STR_TX_BRICKS_LO 1 k
  let s := s.setStrand k { x with lastDown := s.localQ fin / 2 ^ 32, laneEnd := fin }
  let t := byteAt h 0 % 16
  if t = 0 then s.count (64 + k) 0x10 else if 3 ≤ t then s.count (64 + k) 0x11 else s

/-! ## Staged slots (R156, R190, R201) -/

/-- Bits of a slot in the format in force (R190). -/
def State.slotBits (s : State) (k : Nat) : Nat := if s.flag F.STR_STAT_WIDE_ACT k then 48 else 36

/-- Slots that a device receives: its share and its spares (R228). -/
def State.devSlots (s : State) (k pos : Nat) : Nat := s.share k pos + s.devSpares k pos

/-- Next slot of a device that has not left. -/
def Strand.nextSlot (x : Strand) (pos : Nat) : Nat := KMap.get (fun _ => 0) x.next pos

/-- The slots of a device's next brick: first and number (R190). -/
def State.nextBrick (s : State) (k pos : Nat) : Nat × Nat :=
  let first := (s.strand k).nextSlot pos
  (first, Nat.min (if s.flag F.STR_STAT_WIDE_ACT k then 1365 else 1820) (s.devSlots k pos - first))

/-- A staged slot. -/
def Strand.slot (x : Strand) (pos slot : Nat) : Option Nat := KMap.get (fun _ => none) x.fifo (pos * 2 ^ 20 + slot)

/-- Whether an FL device still owes the ACK of the last CATCH (R201). -/
def State.flGate (s : State) (k pos : Nat) : Bool :=
  bitAt (s.rd32 (drvCtx k pos)) 3 && (s.strand k).catchT.isSome && (KMap.get (fun _ => none) (s.strand k).acks pos).isNone

/-- Whether every slot of a device's next brick is staged, and an FL device has acknowledged the last CATCH (R201). -/
def State.brickStaged (s : State) (k pos : Nat) : Bool :=
  let b := s.nextBrick k pos
  b.2 != 0 && (upTo b.2).all (fun i => ((s.strand k).slot pos (b.1 + i)).isSome) && !s.flGate k pos

/-- A device's next brick joins the ready ones, in the order in which they become so (R201). -/
def State.noteReady (s : State) (k pos : Nat) : State :=
  if s.brickStaged k pos && !(s.strand k).ready.contains pos then
    s.setStrand k { s.strand k with ready := (s.strand k).ready ++ [pos] }
  else s

/-- Whether a port drives its lane: from step 2 of R206 on, the driver not taken off by a fault (R206, R207), RESET_N high (R511). -/
def State.strDriving (s : State) (k : Nat) : Bool :=
  (s.strState k == strTraining || s.strState k == strUp) && s.get F.STR_FAULT_CODE k != 1 && s.get F.STR_FAULT_CODE k != 2 && !s.board.resetLow

/-- A BLANK brick, to one position or to all (R184, R242). -/
def State.sendBlank (s : State) (k : Nat) (pos : Option Nat) (step : Nat) : State :=
  if s.strDriving k then
    s.sendBrick k (brickHeader 3 (pos.getD 0) 0 pos.isNone s.strokeNum 0 step 0) []
  else s

/-- A KEEP brick (R199). -/
def State.sendKeep (s : State) (k : Nat) : State :=
  if s.strDriving k then s.sendBrick k (brickHeader 2 0 0 true s.strokeNum 0 0 0) [] else s

/-- What the time counter gains where it is loaded moves the lanes' times with it (R248). -/
def State.shiftLanes (s : State) (by' : Int) : State :=
  forN 96 (fun k s => if (s.strand k).laneEnd = 0 then s
    else s.setStrand k { s.strand k with laneEnd := Nat.max 1 ((s.strand k).laneEnd + by').toNat }) s

/-- A change of the fault code of strand `k` raises EV_STRAND_FAULT under FAULT_EN (R207). -/
def State.setFault (s : State) (k code : Nat) : State :=
  if s.get F.STR_FAULT_CODE k = code then s
  else (s.set F.STR_FAULT_CODE code k).raiseIf (s.flag F.STR_EVMASK_FAULT_EN k) (0x2C0 + k)

/-- The fault that STR_FAULT.CODE showed is gone: it shows a chain that is too long, or none (R207). -/
def State.clearFault (s : State) (k : Nat) : State := s.setFault k (if (s.strand k).long then 10 else 0)

end Sys2Proof.Machine
end

