-- ==== Sys2Proof/Machine/TileTable.lean ====
section
/-!
DEFINITION. The tile table: tiles, view tables, ray origins and directions, the checks of a bank, the rate ceiling and the line list
(R10–R27, R130, R227).
-/
namespace Sys2Proof.Machine

open Sys2Proof

/-- A tile record (R20). -/
structure Tile where
  idx : Nat
  pos : List Int
  /-- Pose matrix m[r][c] at index 3r + c, Q2.30. -/
  m : List Int
  nu : Nat
  nv : Nat
  pitchU : Nat
  pitchV : Nat
  base : Nat
  view : Nat
  strand : Nat
  fl : Bool
  first : Nat
deriving DecidableEq, Repr

/-- Address of the tile table header, and of record `i` of a bank (R405). -/
def tileTable : Nat := 0x0DA20000
def tileAddr (bank i : Nat) : Nat := tileTable + 0x40 + bank * 0x20000 + 64 * i

/-- Record `i` of a bank; none where ENABLE is 0. -/
def State.tile (s : State) (bank i : Nat) : Option Tile :=
  let a := tileAddr bank i
  let w3c := s.rd32 (a + 0x3C)
  if bitAt w3c 31 then
    let sg (o : Nat) : Int := sgn 32 (s.rd32 (a + o))
    let w30 := s.rd32 (a + 0x30)
    let w34 := s.rd32 (a + 0x34)
    some {
      idx := i, pos := [sg 0, sg 4, sg 8], m := (upTo 9).map (fun k => sg (0xC + 4 * k)),
      nu := bitsOf w30 0 16, nv := bitsOf w30 16 16, pitchU := bitsOf w34 0 16, pitchV := bitsOf w34 16 16,
      base := s.memFld (a + 0x38) 0 29, view := bitsOf w3c 0 6, strand := bitsOf w3c 8 7, fl := bitAt w3c 15,
      first := bitsOf w3c 16 12 }
  else none

/-- The enabled tiles of a bank, in record order. -/
def State.tiles (s : State) (bank : Nat) : List Tile := (upTo 2048).filterMap (s.tile bank)

/-- Address of view table `n` (R405), and its 257 words as copied under 512 × n. -/
def viewAddr (n : Nat) : Nat := 0x0DA01000 + n * 0x440

/-- The copy of the view tables that a list of tiles names (R407). -/
def State.copyViews (s : State) (ts : List Tile) : KMap Nat :=
  ts.foldl (fun v t =>
    if v.any (fun e => e.1 / 512 == t.view) then v
    else forN 257 (fun w v => KMap.put (fun _ => 0) v (512 * t.view + w) (s.rd32 (viewAddr t.view + 4 * w))) v) []

/-- COUNT of a view table in a copy (R14). -/
def viewCount (v : KMap Nat) (n : Nat) : Nat := bitsOf (KMap.get (fun _ => 0) v (512 * n)) 0 9

/-- Slopes (su, sv) of view `k`, Q3.13. -/
def viewSlope (v : KMap Nat) (n k : Nat) : Int × Int :=
  let w := KMap.get (fun _ => 0) v (512 * n + 1 + k)
  (sgn 16 (bitsOf w 16 16), sgn 16 (bitsOf w 0 16))

/-- Element k of a list of numbers; 0 past its end. -/
def nth (l : List Int) (k : Nat) : Int := (l[k]?).getD 0

/-- Origin of the rays of hogel (i, j) on axis `c` (R15). -/
def Tile.org (t : Tile) (i j c : Nat) : Int :=
  let un : Int := (2 * (i : Int) - t.nu + 1) * t.pitchU
  let vn : Int := ((t.nv : Int) - 1 - 2 * j) * t.pitchV
  nth t.pos c + asr (nth t.m (3 * c) * un + nth t.m (3 * c + 1) * vn + 4294967296) 33

/-- Direction of a view on axis `c` (R16). -/
def Tile.dir (t : Tile) (sl : Int × Int) (c : Nat) : Int :=
  asr (nth t.m (3 * c) * sl.1 + nth t.m (3 * c + 1) * sl.2 + nth t.m (3 * c + 2) * 8192 + 262144) 19

/-- Rays of a tile. -/
def Tile.rays (t : Tile) (v : KMap Nat) : Nat := t.nu * t.nv * viewCount v t.view

/-- Rays of a list of tiles. -/
def raysOf (v : KMap Nat) (ts : List Tile) : Nat := ts.foldl (fun n t => n + t.rays v) 0

/-- Local ray address of hogel (i, j), view k (R18). -/
def Tile.rayAddr (t : Tile) (count i j k : Nat) : Nat := t.base + (j * t.nu + i) * count + k

/-! ## The rate ceiling (R25, R26) -/

/-- Whether any strand is in the 48-bit format, after the changes accepted in the open recovery window. -/
def State.anyWide (s : State) : Bool :=
  (upTo 96).any (fun k => match (s.strand k).nextFmt with
    | some f => f.1
    | none => s.flag F.STR_STAT_WIDE_ACT k)

/-- Whether `rays` at a stroke rate break the ceiling of R25. -/
def overCeiling (rays rate : Nat) (slow : Bool) : Bool :=
  decide ((rateFrac rate).2 * (if slow then 24000000000 else 28800000000) < rays * (rateFrac rate).1)

/-- The mirror in force from the next catch. -/
def State.mirrorNext (s : State) : Bool := match s.cond.nextMap with
  | some (_, m, _) => m
  | none => s.cond.mirror

/-- CD_REQ.MIRROR, against which a change of stroke rate is checked (R26, R165). -/
def State.mirrorAsked (s : State) : Bool := s.memFld 0x0DA00200 1 1 != 0

/-- The stroke rate in force from the next catch. -/
def State.rateNext (s : State) : Nat := match s.stroke.accept with
  | some a => a.rate
  | none => s.get F.TIME_STK_STAT_RATE

/-- The bank in force from the next catch, and its view copy. -/
def State.bankNext (s : State) : Nat × KMap Nat := s.render.nextBank.getD (s.render.bank, s.render.views)

/-- Rays of the bank in force from the next catch. -/
def State.raysNext (s : State) : Nat := raysOf s.bankNext.2 (s.tiles s.bankNext.1)

/-! ## The checks of a bank (R23) -/

/-- The first failing check of one record: its RESULT code; `before` are the ranges of the records with lower indices, `sum` their rays. -/
def Tile.check (t : Tile) (v : KMap Nat) (before : List (Nat × Nat)) (sum rate : Nat) (slow : Bool) : Option Nat :=
  let n := viewCount v t.view
  let rays := t.rays v
  if t.nu = 0 ∨ 1024 < t.nu ∨ t.nv = 0 ∨ 1024 < t.nv ∨ t.pitchU = 0 ∨ t.pitchV = 0 ∨ 95 < t.strand then some 1
  else if n = 0 ∨ 256 < n then some 2
  else if t.fl ∧ n ≠ 1 then some 3
  else if 480000000 < t.base + rays then some 4
  else if before.any (fun r => decide (r.1 < t.base + rays) && decide (t.base < r.1 + r.2)) then some 5
  else if overCeiling (sum + rays) rate slow then some 6
  else none

/-- The walk of R23 over a bank's enabled records: none, or the RESULT and record index of the first failure. -/
def checkTiles (v : KMap Nat) (rate : Nat) (slow : Bool) : List Tile → List (Nat × Nat) → Nat → Option (Nat × Nat)
  | [], _, _ => none
  | t :: ts, before, sum =>
    match t.check v before sum rate slow with
    | some r => some (r, t.idx)
    | none => checkTiles v rate slow ts ((t.base, t.rays v) :: before) (sum + t.rays v)

/-- The devices of a tile (R227): positions from FIRST_DEVICE while the shares before them do not reach its ray count. -/
def State.tileDevices (s : State) (t : Tile) (rays : Nat) : List Nat :=
  ((upTo (2560 - t.first)).foldl (fun (acc : List Nat × Nat) k =>
    if acc.2 < rays then (acc.1 ++ [t.first + k], acc.2 + s.share t.strand (t.first + k)) else acc) ([], 0)).1

/-! ## Slopes, pitches and the line list -/

/-- Floor and ceiling of a division by a number that is not 0. -/
def floorDiv (n d : Int) : Int := if d < 0 then (-n) / (-d) else n / d
def ceilDivI (n d : Int) : Int := -(floorDiv (-n) d)

/-- Smallest slope rounded down and largest rounded up, dir_y / dir_z in Q8.24, over the views that meet a course (R104). -/
def slopeRange (v : KMap Nat) (ts : List Tile) : Option (Int × Int) :=
  ts.foldl (fun r t => forN (viewCount v t.view) (fun k r =>
    let sl := viewSlope v t.view k
    let dz := t.dir sl 2
    if dz.natAbs < 65536 then r
    else
      let lo := floorDiv (t.dir sl 1 * 16777216) dz
      let hi := ceilDivI (t.dir sl 1 * 16777216) dz
      match r with
      | none => some (lo, hi)
      | some (a, b) => some (if lo < a then lo else a, if b < hi then hi else b)) r) none

/-- pv_max and pu_max (R104). -/
def pvMax (ts : List Tile) : Nat := ts.foldl (fun m t => Nat.max m t.pitchV) 0
def puMax (ts : List Tile) : Nat := ts.foldl (fun m t => Nat.max m t.pitchU) 0

/-- An entry of the line list: height, record index, row. -/
abbrev LineEntry := Int × Nat × Nat

/-- Whether entry `a` stands before entry `b` (R130). -/
def lineBefore (a b : LineEntry) : Bool :=
  decide (b.1 < a.1) || (a.1 == b.1 && (decide (a.2.1 < b.2.1) || (a.2.1 == b.2.1 && decide (a.2.2 < b.2.2))))

/-- An entry put into a sorted list. -/
def lineInsert (e : LineEntry) : List LineEntry → List LineEntry
  | [] => [e]
  | x :: l => if lineBefore e x then e :: x :: l else x :: lineInsert e l

/-- Sorted entries cut into lines: an entry stays in the line while its height differs by at most `tol` from the line's first. -/
def cutLines (tol : Int) : List LineEntry → Option (Int × List (Nat × Nat)) → List (List (Nat × Nat))
  | [], none => []
  | [], some (_, cur) => [cur]
  | e :: l, none => cutLines tol l (some (e.1, [e.2]))
  | e :: l, some (y, cur) =>
    if y - e.1 ≤ tol then cutLines tol l (some (y, cur ++ [e.2])) else cur :: cutLines tol l (some (e.1, [e.2]))

/-- The line list of a bank (R130). -/
def lineList (ts : List Tile) : List (List (Nat × Nat)) :=
  let es := ts.flatMap (fun t => (upTo t.nv).map (fun j => (t.org 0 j 1, t.idx, j)))
  cutLines (pvMax ts / 8 : Nat) (es.foldl (fun l e => lineInsert e l) []) none

/-- The tile with a record index in the bank in force. -/
def State.curTile (s : State) (i : Nat) : Option Tile := s.tile s.render.bank i

/-- The bank accepted in the recovery window comes into force at the catch (R22) with its view copy (R407): the line list is built. A
request for the bank in force with the view tables in force changes nothing (R46). -/
def State.bankCatch (s : State) : State :=
  match s.render.nextBank with
  | none => s
  | some (b, v) =>
    let ts := s.tiles b
    let sl := (slopeRange v ts).getD (0, 0)
    let same := b == s.render.bank && v == s.render.views && !bitAt s.render.missing 0
    let s := { s with render := { s.render with
      bank := b, views := v, nextBank := none, lines := lineList ts, pv := pvMax ts, pu := puMax ts, sMin := sl.1, sMax := sl.2, missing := setBits s.render.missing 0 1 0 } }
    { s with stroke := { s.stroke with changed := s.stroke.changed || !same } }

end Sys2Proof.Machine
end

