-- ==== Sys2Proof/Machine/Oar.lean ====
section
/-!
DEFINITION. The oars: where a ray meets a course, filtering, colour conversion, compositing, quick mode and the flattened pixel
(R98–R101, R115–R129, R134, R617).
-/
namespace Sys2Proof.Machine

open Sys2Proof

/-! ## Course descriptors (R97) -/

/-- The descriptor in 160 bytes. -/
def courseDesc (b : List Byte) : CourseDesc :=
  let w (o : Nat) : Nat := leAt b o 4
  { fmt := bitsOf (w 0) 0 4, alpha := bitsOf (w 0) 4 3, geom := bitsOf (w 0) 7 1, static := bitAt (w 0) 8, overlay := bitAt (w 0) 9,
    matrix := bitsOf (w 0) 10 2, range := bitsOf (w 0) 12 1, keyInv := bitAt (w 0) 13, waitEn := bitAt (w 0) 14, cObj := bitAt (w 0) 15,
    waitStream := bitsOf (w 0) 16 12, w := bitsOf (w 4) 0 16, h := bitsOf (w 4) 16 16, x0 := sgn 32 (w 8), y0 := sgn 32 (w 0xC),
    wmm := w 0x10, hmm := w 0x14, depth := sgn 32 (w 0x18), constAlpha := bitsOf (w 0x1C) 0 11, bandRows := bitsOf (w 0x1C) 16 16,
    keyLo := bitsOf (w 0x24) 0 12, keySlope := bitsOf (w 0x24) 16 16, plane0 := leAt b 0x28 6, plane1 := leAt b 0x30 6,
    planeA := leAt b 0x38 6, pitch0 := bitsOf (w 0x40) 0 20, pitch1 := bitsOf (w 0x44) 0 20, pitchA := bitsOf (w 0x48) 0 20,
    hom := (upTo 9).map (fun k => sgn 64 (leAt b (0x50 + 8 * k) 8)) }

/-- Whether the format has R, G, B and A in one plane (R98). -/
def CourseDesc.rgba (d : CourseDesc) : Bool := decide (9 ≤ d.fmt)

/-- Bits of a sample: 8, 10 or 12. -/
def CourseDesc.bits (d : CourseDesc) : Nat := if d.fmt % 3 = 0 then 8 else if d.fmt % 3 = 1 then 10 else 12

/-- Whether chroma is subsampled horizontally, and vertically. -/
def CourseDesc.subX (d : CourseDesc) : Bool := decide (3 ≤ d.fmt) && decide (d.fmt ≤ 8)
def CourseDesc.subY (d : CourseDesc) : Bool := decide (6 ≤ d.fmt) && decide (d.fmt ≤ 8)

/-- Row bytes of plane 0, of the chroma plane (0 for RGBA) and of the alpha plane (0 without one) (R98, R105). -/
def CourseDesc.row0 (d : CourseDesc) : Nat := if d.rgba then 4 * d.w else if d.bits = 8 then d.w else 2 * d.w
def CourseDesc.rowC (d : CourseDesc) : Nat :=
  if d.rgba then 0 else (if d.subX then d.w / 2 else d.w) * (if d.bits = 8 then 2 else 4)
def CourseDesc.rowA (d : CourseDesc) : Nat := if d.alpha = 2 then d.w else 0

/-! ## Where a ray meets a course -/

/-- Division rounded to nearest, ties towards +∞ (R115). -/
def rdiv (n d : Int) : Int := if d < 0 then (2 * -n + -d) / (2 * -d) else (2 * n + d) / (2 * d)

/-- Point where a ray meets the plane z = DEPTH (R115). -/
def planePoint (depth : Int) (org dir : List Int) : Int × Int :=
  let dzs := depth - nth org 2
  (nth org 0 + rdiv (dzs * nth dir 0) (nth dir 2), nth org 1 + rdiv (dzs * nth dir 1) (nth dir 2))

/-- Course coordinates in Q.8 pixels of a point on the plane; none where c ≤ 0 (R116, R117). -/
def CourseDesc.coords (d : CourseDesc) (x y : Int) : Option (Int × Int) :=
  if d.geom = 0 then
    some (rdiv ((x - d.x0) * d.w * 256) d.wmm, rdiv ((d.y0 - y) * d.h * 256) d.hmm)
  else
    let xr := x - d.x0
    let yr := d.y0 - y
    let row (r : Nat) : Int := nth d.hom (3 * r) * xr + nth d.hom (3 * r + 1) * yr + nth d.hom (3 * r + 2) * 256
    if row 2 ≤ 0 then none else some (rdiv (row 0 * 256) (row 2), rdiv (row 1 * 256) (row 2))

/-- Course coordinates of a hit (R118). -/
def CourseDesc.hit (d : CourseDesc) (org dir : List Int) : Option (Int × Int) :=
  let p := planePoint d.depth org dir
  match d.coords p.1 p.2 with
  | none => none
  | some (c, r) => if 0 ≤ c ∧ c < (d.w : Int) * 256 ∧ 0 ≤ r ∧ r < (d.h : Int) * 256 then some (c, r) else none

/-! ## Filtering (R119–R123) -/

/-- First pixel and weights of a tent of radius `k` at `u` (R120). -/
def tent (u : Int) (k : Nat) : Int × List Int :=
  let f := u % 256
  let raw (t : Nat) : Int := 256 * k - (256 * ((t : Int) - k + 1) - f).natAbs
  let w := (upTo (2 * k - 1)).map (fun t => (raw t * 4096 + (k * k * 128 : Nat)) / (k * k * 256 : Nat))
  (u / 256 - ((k : Int) - 1), w ++ [4096 - w.foldl (· + ·) 0])

/-- The rows of a plane that a shell holds, first and last; none where it holds none (R121, R132). -/
abbrev BandRows := Option (Int × Int)

/-- Rows of a plane of height `hp` in a band from `first` with `n` rows. -/
def heldRows (first : Int) (n hp : Nat) : BandRows :=
  let lo := if first < 0 then 0 else first
  let hi := if first + n - 1 < (hp : Int) - 1 then first + n - 1 else (hp : Int) - 1
  if lo ≤ hi then some (lo, hi) else none

/-- A filtered component of a plane, none where a value read is poisoned; and whether a substitution occurred (R121, R123). -/
def filterPlane (px : Int → Int → Option Int) (band : Int × Int) (wp hp : Nat) (uc ur : Int) (kc kr : Nat) : Option Int × Bool :=
  let tc := tent uc kc
  let tr := tent ur kr
  let rows : List (Int × Bool × Int) := (upTo (2 * kr)).map (fun (r : Nat) =>
    let r0 := clampI 0 ((hp : Int) - 1) (tr.1 + (r : Int))
    (clampI band.1 band.2 r0, clampI band.1 band.2 r0 != r0 && nth tr.2 r != 0, nth tr.2 r))
  let h (row : Int) : Option Int :=
    ((upTo (2 * kc)).foldl (fun (a : Option Int) (t : Nat) =>
      if nth tc.2 t = 0 then a
      else match a, px row (clampI 0 ((wp : Int) - 1) (tc.1 + (t : Int))) with
        | some a, some p => some (a + nth tc.2 t * p)
        | _, _ => none) (some 0)).map (fun a => asr (a + 2048) 12)
  let sum := rows.foldl (fun (a : Option Int) (e : Int × Bool × Int) =>
    if e.2.2 = 0 then a
    else match a, h e.1 with
      | some a, some v => some (a + e.2.2 * v)
      | _, _ => none) (some 0)
  (sum.map (fun a => asr (a + 2048) 12), rows.any (fun e => e.2.1))

/-- A memory element of `n` bytes as an integer; none where it is poisoned. -/
def State.elem (s : State) (a n : Nat) : Option Int := if s.poisoned a n then none else some (s.rdN a n : Nat)

/-- A Y′, Cb or Cr code brought to Q12.4 (R122). -/
def CourseDesc.toQ (d : CourseDesc) (v : Int) : Int :=
  if d.bits = 8 then v * 256 else if d.bits = 10 then v / 64 * 64 else v / 16 * 16

/-- Luma element of a pixel. -/
def State.lumaPx (s : State) (d : CourseDesc) (row col : Int) : Option Int :=
  let n := if d.bits = 8 then 1 else 2
  (s.elem (d.plane0 + row.toNat * d.pitch0 + col.toNat * n) n).map d.toQ

/-- Chroma element `k` (0 Cb, 1 Cr) of a chroma position. -/
def State.chromaPx (s : State) (d : CourseDesc) (k : Nat) (row col : Int) : Option Int :=
  let n := if d.bits = 8 then 1 else 2
  (s.elem (d.plane1 + row.toNat * d.pitch1 + (2 * col.toNat + k) * n) n).map d.toQ

/-- Component `k` (0–2) of an RGBA pixel (R98, R122). -/
def State.rgbPx (s : State) (d : CourseDesc) (k : Nat) (row col : Int) : Option Int :=
  (s.elem (d.plane0 + row.toNat * d.pitch0 + col.toNat * 4) 4).map (fun w =>
    if d.fmt = 9 then
      let v := bitsOf w.toNat (8 * k) 8
      ((v * 16 + v / 16) * 16 : Nat)
    else
      let v := bitsOf w.toNat (10 * k) 10
      ((v * 4 + v / 256) * 16 : Nat))

/-- Alpha of an 8-bit code (R100). -/
def alpha8 (a : Nat) : Nat := (a * 1028 + 128) / 256

/-- Per-pixel alpha, 0–1,024 (R100). -/
def State.alphaPx (s : State) (d : CourseDesc) (row col : Int) : Option Int :=
  match d.alpha with
  | 0 => some 1024
  | 1 => some (d.constAlpha : Nat)
  | 2 => (s.elem (d.planeA + row.toNat * d.pitchA + col.toNat) 1).map (fun v => (alpha8 v.toNat : Nat))
  | 3 => (s.lumaPx d row col).map (fun y =>
      let a := clampI 0 1024 (asr ((y / 16 - d.keyLo) * d.keySlope + 128) 8)
      if d.keyInv then 1024 - a else a)
  | _ => (s.elem (d.plane0 + row.toNat * d.pitch0 + col.toNat * 4) 4).map (fun w =>
      if d.fmt = 9 then (alpha8 (bitsOf w.toNat 24 8) : Nat) else ([0, 341, 683, 1024] : List Int).getD (bitsOf w.toNat 30 2) 0)

/-- Field `k` (0–3) of a flattened pixel (R128). -/
def State.flatPx (s : State) (a w k : Nat) (row col : Int) : Option Int :=
  s.elem (a + (row.toNat * w + col.toNat) * 8 + 2 * k) 2

/-! ## Colour (R124) -/

/-- num / den rounded to nearest, halves away from zero. -/
def roundAway (num : Int) (den : Nat) : Int :=
  let q : Int := ((2 * num.natAbs + den) / (2 * den) : Nat)
  if num < 0 then -q else q

/-- Kr and Kb in 10^-4, by MATRIX. -/
def kCoef (m : Nat) : Nat × Nat := if m = 0 then (2126, 722) else if m = 1 then (2627, 593) else (2990, 1140)

/-- yoff, and ys and cs as fractions of 4,095, by RANGE and sample bits. -/
def rangeCoef (range bits : Nat) : Nat × Nat × Nat :=
  if range = 0 then (256, 3504, 3584) else (0, 4096 - 2 ^ (12 - bits), 4096 - 2 ^ (12 - bits))

/-- R′, G′, B′ of a filtered Y′CbCr sample, Q12.4. -/
def CourseDesc.toRgb (d : CourseDesc) (y cb cr : Int) : List Int :=
  let k := kCoef d.matrix
  let rg := rangeCoef d.range d.bits
  let kr : Int := k.1
  let kb : Int := k.2
  let kg : Nat := 10000 - k.1 - k.2
  let cy := roundAway (8192 * 4095) rg.2.1
  let crv := roundAway (8192 * 2 * (10000 - kr) * 4095) (10000 * rg.2.2)
  let cgu := roundAway (-(8192 * 2 * kb * (10000 - kb) * 4095)) (10000 * kg * rg.2.2)
  let cgv := roundAway (-(8192 * 2 * kr * (10000 - kr) * 4095)) (10000 * kg * rg.2.2)
  let cbu := roundAway (8192 * 2 * (10000 - kb) * 4095) (10000 * rg.2.2)
  let yy := y - 16 * rg.1
  let b := cb - 32768
  let r := cr - 32768
  [clampI 0 65520 (asr (cy * yy + crv * r + 4096) 13), clampI 0 65520 (asr (cy * yy + cgu * b + cgv * r + 4096) 13),
    clampI 0 65520 (asr (cy * yy + cbu * b + 4096) 13)]

/-! ## A course sample -/

/-- The rows held for the luma grid and for the chroma plane of a course, and whether a value that a ray reads of them is poisoned in the
band buffer (R617). -/
structure Bands where
  luma : BandRows
  chroma : BandRows
  lost : Bool := false
deriving DecidableEq, Repr

/-- Height of the chroma plane, and its width. -/
def CourseDesc.hC (d : CourseDesc) : Nat := if d.subY then d.h / 2 else d.h
def CourseDesc.wC (d : CourseDesc) : Nat := if d.subX then d.w / 2 else d.w

/-- The whole planes, for a build that reads them directly (R128). -/
def CourseDesc.wholeBands (d : CourseDesc) : Bands :=
  { luma := heldRows 0 d.h d.h, chroma := heldRows 0 d.hC d.hC }

/-- A sample of a course: colour and alpha, and whether a substitution occurred; none where a value read is poisoned. -/
structure Sample where
  c : List Int
  a : Int
deriving DecidableEq, Repr

/-- Three colours and an alpha put together. -/
def mkSample (c : List (Option Int)) (a : Option Int) : Option Sample :=
  match c, a with
  | [some r, some g, some b], some a => some { c := [r, g, b], a := a }
  | _, _ => none

/-- The filtered sample of an ordinary course at (col_q, row_q) (R119–R124). -/
def State.sampleCourse (s : State) (d : CourseDesc) (kc kr : Nat) (lb cb : Int × Int) (cq rq : Int) : Option Sample × Bool :=
  let lum (px : Int → Int → Option Int) := filterPlane px lb d.w d.h (cq - 128) (rq - 128) kc kr
  let al := lum (fun r c => (s.alphaPx d r c).map (· * 16))
  if d.rgba then
    let f (k : Nat) := lum (s.rgbPx d k)
    (mkSample [(f 0).1, (f 1).1, (f 2).1] al.1, al.2 || (f 0).2)
  else
    let kcx := if d.subX then (kc + 1) / 2 else kc
    let krx := if d.subY then (kr + 1) / 2 else kr
    let uc := if d.subX then asr (cq - 128) 1 else cq - 128
    let ur := if d.subY then asr (rq - 256) 1 else rq - 128
    let y := lum (s.lumaPx d)
    let ch (k : Nat) := filterPlane (s.chromaPx d k) cb d.wC d.hC uc ur kcx krx
    let u := ch 0
    let v := ch 1
    (match y.1, u.1, v.1 with
      | some y, some u, some v => mkSample ((d.toRgb y u v).map some) al.1
      | _, _, _ => none,
     y.2 || u.2)

/-- The nearest sample of an ordinary course (R134). -/
def State.nearestCourse (s : State) (d : CourseDesc) (lb cb : Int × Int) (cq rq : Int) : Option Sample × Bool :=
  let col := cq / 256
  let row := clampI 0 ((d.h : Int) - 1) (rq / 256)
  let r := clampI lb.1 lb.2 row
  let al := (s.alphaPx d r col).map (· * 16)
  if d.rgba then (mkSample ((upTo 3).map (fun k => s.rgbPx d k r col)) al, r != row)
  else
    let crow := clampI 0 ((d.hC : Int) - 1) (if d.subY then row / 2 else row)
    let cr := clampI cb.1 cb.2 crow
    let ccol := if d.subX then col / 2 else col
    (match s.lumaPx d r col, s.chromaPx d 0 cr ccol, s.chromaPx d 1 cr ccol with
      | some y, some u, some v => mkSample ((d.toRgb y u v).map some) al
      | _, _, _ => none,
     r != row || cr != crow)

/-- The sample of a flattened course (R129). -/
def State.sampleFlat (s : State) (d : CourseDesc) (a kc kr : Nat) (lb : Int × Int) (cq rq : Int) (near : Bool) : Option Sample × Bool :=
  if near then
    let row := clampI 0 ((d.h : Int) - 1) (rq / 256)
    let r := clampI lb.1 lb.2 row
    let f (k : Nat) := s.flatPx a d.w k r (cq / 256)
    (mkSample [f 0, f 1, f 2] (f 3), r != row)
  else
    let f (k : Nat) := filterPlane (s.flatPx a d.w k) lb d.w d.h (cq - 128) (rq - 128) kc kr
    (mkSample [(f 0).1, (f 1).1, (f 2).1] (f 3).1, (f 0).2)

/-! ## Compositing (R125, R126) -/

/-- A ray being composited. -/
structure Acc where
  c : List Int
  t : Int
  /-- Course samples counted (R133), samples with a substitution, courses composited. -/
  samples : Nat
  clamps : Nat
  hits : Nat
  term : Bool
  /-- The limit of 16 hit courses has ended the ray (R524). -/
  limit : Bool
  /-- The courses missed for a poisoned value (R617). -/
  lost : List Nat := []
deriving DecidableEq, Repr

def Acc.start : Acc := { c := [0, 0, 0], t := 65536, samples := 0, clamps := 0, hits := 0, term := false, limit := false }

/-- Colours added with a weight. -/
def addColour (c d : List Int) (w : Int) : List Int := (upTo 3).map (fun k => nth c k + asr (nth d k * w + 32768) 16)

/-- One course sample composited (R125), the rule of early termination after it (R126). -/
def Acc.add (a : Acc) (sm : Sample) (flat : Bool) : Acc :=
  let wc := asr (a.t * sm.a + 8192) 14
  let c := if flat then addColour a.c sm.c a.t else addColour a.c sm.c wc
  { a with c := c, t := a.t - wc, hits := a.hits + 1, term := decide (a.t - wc ≤ 64) }

/-- The background added unless the ray stopped early, and the clamp to 65,520 (R126). -/
def Acc.finish (a : Acc) (bg : List Int) : Acc :=
  let c := if a.term then a.c else addColour a.c bg a.t
  { a with c := c.map (clampI 0 65520) }

/-- One course of the bond for one ray: hit, sampled, composited; poisoned samples miss but count (R617). A substitution in a sample that
is missed for poison still counts and marks the ray CLAMP: a DESIGN CHOICE (log entry 122). -/
def State.rayCourse (s : State) (quick stage2 : Bool) (org dir : List Int) (bands : Course → Bands) (a : Acc) (x : Course) : Acc :=
  if a.term || a.limit then a
  else
    let d := x.desc
    match d.hit org dir with
    | none => a
    | some (cq, rq) =>
      let b := bands x
      match b.luma, (if x.flat.isSome || d.rgba then b.luma else b.chroma) with
      | some lb, some cb =>
        let r := match x.flat with
          | some p => s.sampleFlat d p x.ku x.kv lb cq rq quick
          | none => if quick then s.nearestCourse d lb cb cq rq else s.sampleCourse d x.ku x.kv lb cb cq rq
        let a := { a with samples := a.samples + (if d.geom = 0 then 1 else 2), clamps := a.clamps + b2n r.2 }
        match (if b.lost then none else r.1) with
        | none => { a with lost := x.idx :: a.lost }
        | some sm =>
          let a := a.add sm x.flat.isSome
          { a with limit := stage2 && decide (16 ≤ a.hits) }
      | _, _ => a

/-- Whether a course is opaque for the quick list (R134). -/
def Course.opaque? (x : Course) : Bool :=
  x.flat.isSome || x.desc.alpha == 0 || (x.desc.alpha == 1 && x.desc.constAlpha == 1024)

/-- The courses up to and including the first opaque one. -/
def uptoOpaque : List Course → List Course
  | [] => []
  | x :: l => if x.opaque? then [x] else x :: uptoOpaque l

/-- The quick list (R134). -/
def Bond.quick (b : Bond) : List Course := (uptoOpaque b.courses).take 4

/-- One ray through the bond (R115, R125, R126, R133, R134). -/
def State.castRay (s : State) (b : Bond) (quick stage2 : Bool) (org dir : List Int) (bands : Course → Bands) : Acc :=
  let bg := b.bg.map Int.ofNat
  let a :=
    if (nth dir 2).natAbs < 65536 then Acc.start
    else (if quick then b.quick else b.courses).foldl (s.rayCourse quick stage2 org dir bands) Acc.start
  let a := a.finish bg
  { a with samples := if quick then 4 else if stage2 then Nat.min 16 a.samples else a.samples }

/-- A 10-bit background component in Q12.4 (R126). -/
def bgQ (b : Nat) : Nat := (b * 4 + b / 256) * 16

/-! ## Building a flattened course (R128) -/

/-- One pixel of a flattened course: its members composited without early termination and without background. -/
def State.flatPixel (s : State) (members : List CourseDesc) (i j : Nat) : List Byte :=
  let a := members.foldl (fun (a : Acc) d =>
    let b := d.wholeBands
    match b.luma, (if d.rgba then b.luma else b.chroma) with
    | some lb, some cb =>
      (match (s.sampleCourse d 1 1 lb cb (256 * i + 128 : Nat) (256 * j + 128 : Nat)).1 with
        | some sm => { a.add sm false with term := false }
        | none => a)
    | _, _ => a) Acc.start
  let c (k : Nat) : Nat := (clampI 0 65520 (nth a.c k)).toNat
  leBytes 2 (c 0) ++ leBytes 2 (c 1) ++ leBytes 2 (c 2) ++ leBytes 2 (asr (65536 - a.t + 2) 2).toNat

end Sys2Proof.Machine
end

