-- ==== Sys2Proof/Machine/Bond.lean ====
section
/-!
DEFINITION. Bond admission: the bond directory, the checks, the band allocation, flattened courses, the division of the lines among the
shells, bond repeat and static hold (R43, R46, R93–R113, R131).
-/
namespace Sys2Proof.Machine

open Sys2Proof

/-- Address of the bond slot of a show time (R93, R405). -/
def bondSlot (t : Nat) : Nat := 0x0DA00040 + 64 * (t % 4)

/-- Shell `k`. -/
def State.shell (s : State) (k : Nat) : Shell := KMap.get (fun _ => Shell.reset) s.render.shells k

/-- The state with shell `k` set. -/
def State.setShell (s : State) (k : Nat) (x : Shell) : State :=
  { s with render := { s.render with shells := KMap.put (fun _ => Shell.reset) s.render.shells k x } }

/-- Codes of GLB_SHOW.STATE (R516). -/
def showStarting : Nat := 0
def showStandby : Nat := 1
def showShowing : Nat := 2
def showHalted : Nat := 3
def showPowerFail : Nat := 4

/-- GROUP_ROWS, CHECK_EN, CHECK_LOG, ENABLE and AUTO_RETIRE of the SHL_CTL in force (R141). -/
def Shell.group (x : Shell) : Nat := Nat.max 1 (bitsOf x.ctl 0 6)
def Shell.checkEn (x : Shell) : Bool := bitAt x.ctl 7
def Shell.checkLog (x : Shell) : Nat := Nat.max 4 (bitsOf x.ctl 8 4)
def Shell.enabled (x : Shell) : Bool := bitAt x.ctl 12

/-- Active oars that count for shell `k`: 0 for a beached shell (R131, R137). -/
def State.activeOars (s : State) (k : Nat) : Nat :=
  if (s.shell k).enabled && decide (7 ≤ s.get F.SHL_STAT_ACTIVE k) then s.get F.SHL_STAT_ACTIVE k else 0

/-- G of R104: the largest of the shells in service, or of all four where none is. -/
def State.groupRows (s : State) : Nat :=
  let inService := (upTo 4).filter (fun k => s.activeOars k != 0)
  (if inService.isEmpty then upTo 4 else inService).foldl (fun g k => Nat.max g (s.shell k).group) 1

/-! ## Rows and band space (R104, R105) -/

/-- The smallest k from 1 to 4 with pitch × pixels ≤ 4k × mm (R104). -/
def tapK (pitch px mm : Nat) : Option Nat := [1, 2, 3, 4].find? (fun k => decide (pitch * px ≤ 4 * k * mm))

/-- required_rows of a fronto-parallel course with vertical radius `k` (R104). -/
def State.requiredRows (s : State) (ts : List Tile) (d : CourseDesc) (k : Nat) : Nat :=
  let dz := ts.foldl (fun m t => Nat.max m (d.depth - nth t.pos 2).natAbs) 0
  let span := (s.render.sMax - s.render.sMin).toNat
  let reach := (s.groupRows * s.render.pv + 3) / 4 + (dz * span + 2 ^ 24 - 1) / 2 ^ 24
  ceilDiv (reach * d.h) d.hmm + (2 * k - 2) + 2

/-- A length rounded up to 64 bytes. -/
def up64 (n : Nat) : Nat := ceilDiv n 64 * 64

/-- Band bytes of a course with `a` rows (R105). -/
def Course.bandBytes (x : Course) (a : Nat) : Nat :=
  let d := x.desc
  if x.flat.isSome then a * up64 (8 * d.w)
  else a * up64 d.row0 + a * up64 d.rowA + (if d.subY then (ceilDiv a 2 + 1) * up64 d.rowC else a * up64 d.rowC)

/-- The most rows that fit into `left` bytes. -/
def Course.rowsFit (x : Course) (left : Nat) : Nat :=
  let d := x.desc
  if x.flat.isSome then left / up64 (8 * d.w)
  else
    let r := up64 d.row0 + up64 d.rowA
    if d.subY then
      let c := up64 d.rowC
      let m := (left - c) / (2 * r + c)
      if x.bandBytes (2 * m + 1) ≤ left then 2 * m + 1 else 2 * m
    else left / (r + up64 d.rowC)

/-- Taps of the vertical filter: 2k − 2; 6 for a homography course (R104). -/
def Course.taps (x : Course) : Nat := if x.desc.geom = 1 then 6 else 2 * x.kv - 2

/-! ## Flattened courses (R109–R113) -/

/-- The 160 bytes of descriptor `c` in a bond table. -/
def descBytes (table : List Byte) (c : Nat) : List Byte := (table.drop (0x40 + c * 0xA0)).take 0xA0

/-- The stability counts after the admission of a table (R109). -/
def State.newCounts (s : State) (table : List Byte) (ds : List CourseDesc) : List Nat :=
  (upTo ds.length).map (fun c =>
    match ds[c]? with
    | some d =>
      if d.static && d.geom == 0 && descBytes table c == descBytes s.render.table c then KMap.get (fun _ => 0) s.render.counts c + 1
      else 1
    | none => 0)

/-- Whether two courses have the geometry that a run shares (R110). -/
def sameGeom (a b : CourseDesc) : Bool :=
  a.x0 == b.x0 && a.y0 == b.y0 && a.wmm == b.wmm && a.hmm == b.hmm && a.depth == b.depth && a.w == b.w && a.h == b.h

/-- The longest runs of stable courses of one geometry: (first, length) (R110); `cur` is the run that may go on. -/
def findRuns : List (Nat × CourseDesc × Nat) → Option (Nat × Nat × CourseDesc) → List (Nat × Nat)
  | [], none => []
  | [], some (f, n, _) => if 2 ≤ n then [(f, n)] else []
  | (c, d, k) :: l, none => if 4 ≤ k then findRuns l (some (c, 1, d)) else findRuns l none
  | (c, d, k) :: l, some (f, n, g) =>
    if 4 ≤ k ∧ sameGeom d g then findRuns l (some (f, n + 1, g))
    else
      let done := if 2 ≤ n then [(f, n)] else []
      done ++ (if 4 ≤ k then findRuns l (some (c, 1, d)) else findRuns l none)

/-- FLAT_BASE and FLAT_SIZE in use, and FLAT_BAD: a misaligned area, or one outside the general region, counts as size 0 (R406). -/
def State.flatAreaNow (s : State) : (Nat × Nat) × Bool :=
  let b := s.memFld 0x0DA00000 0 28
  let n := s.memFld 0x0DA00004 0 28
  ((b, n), decide (b % 65536 ≠ 0 ∨ n % 65536 ≠ 0 ∨ 0x08000000 < b + n))

/-- A free range of `size` bytes in the area, lowest first (R111). -/
def flatSpace (base total size : Nat) (used : List FlatRun) : Option Nat :=
  let starts := base :: used.map (fun r => r.addr + r.size)
  let ok (a : Nat) : Bool := decide (a + size ≤ base + total) && used.all (fun r => decide (a + size ≤ r.addr) || decide (r.addr + r.size ≤ a))
  (starts.filter ok).foldl (fun (m : Option Nat) a => match m with
    | none => some a
    | some x => some (Nat.min x a)) none

/-! ## The checks (R102) -/

/-- A plane of the course that the checks of BAD_SIZE look at: address, pitch, row bytes. -/
def CourseDesc.planes (d : CourseDesc) : List (Nat × Nat × Nat) :=
  [(d.plane0, d.pitch0, d.row0)] ++ (if d.rgba then [] else [(d.plane1, d.pitch1, d.rowC)]) ++
    (if d.alpha = 2 then [(d.planeA, d.pitchA, d.rowA)] else [])

/-- Codes 3 to 5 of R102 for one course. -/
def CourseDesc.checkForm (d : CourseDesc) : Option Nat :=
  if (d.alpha = 4 ∧ !d.rgba) ∨ (d.alpha = 3 ∧ d.rgba) ∨ (d.subX ∧ d.w % 2 = 1) ∨ (d.subY ∧ d.h % 2 = 1) then some 3
  else if d.w = 0 ∨ d.h = 0 ∨ d.wmm = 0 ∨ d.hmm = 0 ∨ 16384 < d.w ∨ 16384 < d.h ∨
      d.planes.any (fun p => p.1 % 64 != 0 || p.2.1 % 64 != 0 || decide (p.2.1 < p.2.2)) ∨ (d.geom = 1 ∧ d.bandRows = 0) then some 4
  else if (d.alpha = 1 ∧ 1024 < d.constAlpha) ∨ (d.alpha = 3 ∧ d.keySlope = 0) then some 5
  else none

/-- The filter radii of a course, vertical and horizontal; none: minified beyond 4:1 (R104, R119). -/
def State.radii (s : State) (d : CourseDesc) : Option (Nat × Nat) :=
  if d.geom = 1 then some (1, 1)
  else match tapK s.render.pv d.h d.hmm, tapK s.render.pu d.w d.wmm with
    | some kv, some ku => some (kv, ku)
    | _, _ => none

/-- Whether an entry that WAIT_EN checks is READY and armed for T (R102). -/
def State.entryReady (s : State) (t stream object : Nat) : Bool :=
  let e := s.landing stream (t % 2 ^ 32) object
  s.entryState e == 3 && s.rd32 (e + 0xC) == t % 2 ^ 32

/-- Code 7 of R102. -/
def State.planesReady (s : State) (t c : Nat) (d : CourseDesc) : Bool :=
  !d.waitEn || (s.entryReady t d.waitStream c && (!d.cObj || s.entryReady t d.waitStream (c + 64)) &&
    (d.alpha != 2 || s.entryReady t d.waitStream (c + 128)))

/-- Codes 3 to 7 course by course: the first failure as (code, course). -/
def State.checkCourses (s : State) (t : Nat) : List (Nat × CourseDesc) → Option (Nat × Nat)
  | [] => none
  | (c, d) :: l =>
    match d.checkForm with
    | some r => some (r, c)
    | none =>
      if (s.radii d).isNone then some (6, c)
      else if !s.planesReady t c d then some (7, c)
      else s.checkCourses t l

/-! ## Allocation (R106, R107) -/

/-- The state of the allocation: bytes left, rows by course, courses omitted, the refusal. -/
structure Alloc where
  left : Int
  rows : KMap Nat
  omitted : List Nat
  bad : Option Nat
deriving DecidableEq, Repr

/-- One course of a pass: an explicit scene course, an automatic one, or an overlay. -/
def Alloc.pass (pass : Nat) (a : Alloc) (x : Course) : Alloc :=
  let d := x.desc
  let mine := if d.overlay then pass == 3 else if d.bandRows != 0 then pass == 1 else pass == 2
  if a.bad.isSome || !mine then a
  else
    let min := x.taps + 2
    let put (n : Nat) : Alloc := { a with rows := KMap.put (fun _ => 0) a.rows x.idx n, left := a.left - x.bandBytes n }
    if pass = 1 then
      if d.bandRows < min then { a with bad := some x.idx }
      else
        let b := put d.bandRows
        -- a course that overflows is refused once the pass is over, unless a later one breaks its minimum first
        if b.left < 0 ∧ 0 ≤ a.left then { b with omitted := [x.idx] } else b
    else
      let want := if pass = 3 ∧ d.bandRows ≠ 0 then d.bandRows else x.need
      let n := Nat.min want (x.rowsFit a.left.toNat)
      if n < min then (if pass = 3 then { a with omitted := a.omitted ++ [x.idx] } else { a with bad := some x.idx })
      else put n

/-- The three passes of R106. -/
def allocate (xs : List Course) : Alloc :=
  let a := xs.foldl (Alloc.pass 1) { left := 12582912, rows := [], omitted := [], bad := none }
  let a := match a.bad, a.omitted with
    | none, c :: _ => { a with bad := some c }
    | _, _ => { a with omitted := [] }
  let a := xs.foldl (Alloc.pass 2) a
  xs.foldl (Alloc.pass 3) a

/-- The result of an admission. -/
inductive Admission where
  | refused (code course : Nat)
  /-- A reserved code in a descriptor, or a table in a hole of the map: a host error (R601). -/
  | error
  | admitted (bond : Bond) (table : List Byte) (counts : List Nat) (flats : List FlatRun) (area : Nat × Nat) (alloc : Alloc)
      (clamped omitted flat : List Nat) (still : Bool)

/-- A mask with the bits of a list set. -/
def maskOf (l : List Nat) : Nat := l.foldl (fun m k => setBits m k 1 1) 0

/-- The bond table at an address: its header and its courses. -/
def State.bondTable (s : State) (a : Nat) : List Byte :=
  let n := s.memFld a 0 7
  s.rdBytes a (0x40 + Nat.min 64 n * 0xA0)

/-- The admission of the bond for show time `t` (R102–R113). -/
def State.judgeBond (s : State) (t : Nat) : Admission :=
  let slot := bondSlot t
  let a := s.rdN slot 6
  if s.rd32 (slot + 8) ≠ t % 2 ^ 32 then .refused 1 0
  else if !(s.region a == .yard || s.region a == .dram) then .error
  else
    let n := s.memFld a 0 7
    if n = 0 ∨ 64 < n then .refused 2 0
    else
      let table := s.bondTable a
      let ds := (upTo n).map (fun c => courseDesc (descBytes table c))
      if ds.any (fun d => decide (11 ≤ d.fmt) || decide (5 ≤ d.alpha) || (d.matrix == 3 && !d.rgba)) then .error
      else match s.checkCourses t ((upTo n).zip ds) with
        | some (r, c) => .refused r c
        | none =>
          let ts := s.tiles s.render.bank
          let counts := s.newCounts table ds
          let runs := findRuns ((upTo n).zip (ds.zip counts)) none
          let areaBad := s.flatAreaNow
          let area := areaBad.1
          -- a flattened course stays while its run does and the area is the same (R113, R406)
          let kept := if area = s.render.flatArea then s.render.flats.filter (fun f => runs.contains (f.first, f.count)) else []
          let ready := kept.filter (fun f => f.built)
          let total := if areaBad.2 then 0 else area.2
          let flats := runs.foldl (fun fs r =>
            if fs.any (fun f => f.first == r.1) then fs
            else match ds[r.1]? with
              | some d =>
                let size := d.w * d.h * 8
                (match flatSpace area.1 total size fs with
                  | some at' => fs ++ [{ first := r.1, count := r.2, addr := at', size := size, built := false }]
                  | none => fs)
              | none => fs) kept
          let course (c : Nat) (d : CourseDesc) (flat : Option Nat) : Course :=
            let k := (s.radii d).getD (1, 1)
            { idx := c, desc := d, kv := k.1, ku := k.2,
              need := if d.geom = 1 then d.bandRows else s.requiredRows ts d k.1, rows := 0, flat := flat }
          let xs := ((upTo n).zip ds).filterMap (fun e =>
            match ready.find? (fun f => decide (f.first ≤ e.1) && decide (e.1 < f.first + f.count)) with
            | some f => if f.first = e.1 then some (course e.1 e.2 (some f.addr)) else none
            | none => some (course e.1 e.2 none))
          let al := allocate xs
          match al.bad with
          | some c => .refused 8 c
          | none =>
            let xs := (xs.filter (fun x => !al.omitted.contains x.idx)).map (fun x => { x with rows := KMap.get (fun _ => 0) al.rows x.idx })
            let members (c : Nat) : List Nat := match ready.find? (fun f => f.first == c) with
              | some f => (upTo f.count).map (· + c)
              | none => [c]
            let w4 := leAt table 4 4
            .admitted { bg := [bgQ (bitsOf w4 0 10), bgQ (bitsOf w4 10 10), bgQ (bitsOf w4 20 10)], courses := xs } table counts flats area al
              ((xs.filter (fun x => decide (x.rows < x.need))).flatMap (fun x => members x.idx)) (al.omitted.flatMap members)
              (ready.flatMap (fun f => members f.first)) (ds.all (fun d => d.static))

/-! ## What a bond uses (R94, R113, R114) -/

/-- The planes that a course descriptor names: addresses and lengths (R98). -/
def CourseDesc.extents (d : CourseDesc) : List (Nat × Nat) :=
  (d.plane0, d.h * d.pitch0) :: ((if d.fmt < 9 then [(d.plane1, (if 6 ≤ d.fmt then d.h / 2 else d.h) * d.pitch1)] else []) ++
    (if d.alpha = 2 then [(d.planeA, d.h * d.pitchA)] else []))

/-- The course descriptors of a bond table. -/
def tableDescs (table : List Byte) : List CourseDesc := (upTo (Nat.min 64 (leAt table 0 1 % 128))).map (fun c => courseDesc (descBytes table c))

/-- The bond table that is armed for the next show time, where one is: its address and its bytes. -/
def State.usedTable (s : State) : Option (Nat × List Byte) :=
  let slot := bondSlot s.nextNum
  if s.rd32 (slot + 8) = s.nextNum % 2 ^ 32 then some (s.rdN slot 6, s.bondTable (s.rdN slot 6)) else none

/-- The planes in use: up to the finish those of the table armed for the next show time, omitted courses among them, and of the bond that is
rendered (R94); and at any time those of the members of flattened courses (R113). -/
def State.usedPlanes (s : State) : List (Nat × Nat) :=
  let now := if s.stroke.recovery then [] else
    (match s.usedTable with | some t => tableDescs t.2 | none => []) ++ (match s.render.bond with | some b => b.courses.map (·.desc) | none => [])
  let flat := s.render.flats.flatMap (fun f => (tableDescs s.render.table).drop f.first |>.take f.count)
  (now ++ flat).flatMap CourseDesc.extents

/-- The rendering, conditioning and strand traffic of the whole chip (R601). -/
def showReach : Reach := { out := fun o => o.block == .strand, unit := some .shell }

/-! ## The shells' shares (R131) -/

/-- Rays of a line. -/
def State.lineRays (s : State) (l : List (Nat × Nat)) : Nat :=
  l.foldl (fun n e => match s.curTile e.1 with
    | some t => n + t.nu * viewCount s.render.views t.view
    | none => n) 0

/-- Lines dealt to the shells: for each line the first shell whose boundary exceeds the rays of the earlier lines. -/
def State.dealLines (s : State) (bounds : List Nat) : List (List (Nat × Nat)) → Nat → State
  | [], _ => s
  | l :: ls, before =>
    let n := s.lineRays l
    match (upTo 4).find? (fun k => decide (before < (bounds[k]?).getD 0)) with
    | none => s
    | some k =>
      let x := s.shell k
      let first := (l.head?).getD (0, 0)
      let x := if x.lines.isEmpty then { x with topTile := first.1, topRow := first.2 } else x
      let s := s.setShell k { x with lines := x.lines ++ [l], unrendered := x.unrendered + n }
      s.dealLines bounds ls (before + n)

/-- SHL_CTL comes into force at an admission (R140). -/
def State.takeShellCtl (s : State) : State := forN 4 (fun k s => s.setShell k { s.shell k with ctl := s.rd R.SHL_CTL k }) s

/-- The division of the lines at an admission, with the beached shells shown (R131, R137). -/
def State.divide (s : State) (render : Bool) : State :=
  let s := forN 4 (fun k s =>
    let s := s.setShell k { s.shell k with lines := [], col := 0, unrendered := 0 }
    let beached := s.activeOars k == 0
    let s := s.raiseIf (beached && !s.flag F.SHL_STAT_BEACHED k) (0x44 + k)
    s.set F.SHL_STAT_BEACHED (b2n beached) k) s
  let total := (upTo 4).foldl (fun n k => n + s.activeOars k) 0
  let s := if render && total != 0 then
      let rays := raysOf s.render.views (s.tiles s.render.bank)
      let bounds := (upTo 4).map (fun k => rays * ((upTo (k + 1)).foldl (fun n j => n + s.activeOars j) 0) / total)
      s.dealLines bounds s.render.lines 0
    else s
  forN 4 (fun k s => s.wr R.SHL_SHARE (s.shell k).unrendered k) s

/-! ## Static hold (R46, R47) and the admission itself -/

/-- STATE of TIME_STK_STAT (R54): TRANSITION before PENDING before HOLD before RUN. -/
def State.showStkState (s : State) : State :=
  let st := if s.stroke.trans.isSome then 2 else if s.stroke.req.isSome || s.stroke.accept.isSome || (s.stroke.relock && !s.flag F.TIME_STK_HS_STAT_MISMATCH) then 1
    else if s.stroke.held != 0 then 3 else 0
  (s.set F.TIME_STK_STAT_STATE st).set F.TIME_STK_HOLD_HOLDING (b2n (s.stroke.held != 0))

/-- The decision of R46 for the show time being admitted; the flag says whether its rays are rendered. Qualifying show times count in the
run while HOLD_EN is 0 too: a DESIGN CHOICE (log entry 121). -/
def State.holdDecide (s : State) (qualifies : Bool) : Bool × State :=
  let q := if qualifies then s.stroke.qual + 1 else 0
  let holding := decide (5 ≤ q) && s.flag F.TIME_STK_HOLD_HOLD_EN
  let held := if holding then s.stroke.held + 1 else 0
  let refresh := held % Nat.max 1 (s.get F.TIME_STK_HOLD_HOLD_DIV) == 0
  let s := { s with stroke := { s.stroke with qual := q, held := held, noSwap := holding && !refresh, changed := false } }
  (!holding || refresh, s.showStkState)

/-- Whether rays are rendered at all: SHOWING (R516), and nothing that a warm reset left to reinstate is missing (R616). -/
def State.mayRender (s : State) : Bool := s.get F.GLB_SHOW_STATE == showShowing && s.render.missing == 0

/-- The rendering of show time `t` begins, or not. -/
def State.beginRender (s : State) (t : Nat) (go : Bool) : State :=
  let go := go && s.mayRender
  let s := { s with render := { s.render with showT := if go then some t else none } }
  { s.divide go with stroke := { (s.divide go).stroke with admitted := true } }

/-- The bond of show time `t` is refused: RESULT and COURSE are written, EV_BOND_REPEAT is raised, and the bond lit, or the empty
bond, is rendered (R43, R103). -/
def State.bondRefused (s : State) (t code course : Nat) : State :=
  let slot := bondSlot t
  let s := s.setMemFld (slot + 0x10) 0 10 (code + course * 16)
  let s := s.raise 3
  let r := s.holdDecide false
  r.2.beginRender t true

/-- The bond of show time `t` is admitted. Its table is compared with that of the last bond admitted, which a refused and repeated show
time leaves (R46): a DESIGN CHOICE (log entry 121). -/
def State.bondAdmitted (s : State) (t : Nat) (b : Bond) (table : List Byte) (counts : List Nat) (flats : List FlatRun) (area : Nat × Nat)
    (al : Alloc) (clamped omitted flat : List Nat) (still : Bool) : State :=
  let slot := bondSlot t
  let s := s.wr32 (slot + 0x10) (if omitted.isEmpty then 0 else 2 ^ 10 + 2 ^ 11)
  let s := s.wr32 (slot + 0x14) (12582912 - al.left).toNat
  let s := s.wrN (slot + 0x18) 8 (maskOf clamped)
  let s := s.wrN (slot + 0x20) 8 (maskOf omitted)
  let s := s.wrN (slot + 0x28) 8 (maskOf flat)
  let n := counts.length
  let allFlat := (upTo n).all (fun c => flat.contains c)
  let qualifies := table == s.render.table && (still || allFlat) && !s.stroke.changed && s.stroke.trans.isNone && s.mayRender &&
    s.plumb.fid.isNone
  let s := { s with render := { s.render with
    table := table
    counts := (upTo n).foldl (fun m c => KMap.put (fun _ => 0) m c ((counts[c]?).getD 0)) []
    flats := flats, flatArea := area
    bond := if s.mayRender then some b else s.render.bond } }
  let r := s.holdDecide qualifies
  r.2.beginRender t r.1

/-- What a host error in a bond table may disturb (R601): the unit that reads it and the memory it writes for it, the bond slot. -/
def State.bondReach (s : State) : Reach :=
  { mem := fun a => decide (bondSlot s.nextNum + 0x10 ≤ a) && decide (a < bondSlot s.nextNum + 0x40), unit := some .shell }

/-- R102: in the cycle of catch T − 1, or at max(S, A − P_new) in a transition interval (R51), the device admits or refuses the bond
for T, once. -/
def execBondAdmission (s : State) : Res :=
  if s.stroke.admitted then .next s
  else
    -- A − P_new, in the first whole ns not before it
    let s := if s.stroke.trans.isSome then (s.advanceTo (s.nextCatch - s.periodNs)).landingAbandon s.nextNum |>.landingAbandon (s.strokeNum + 1) else s
    let t := s.nextNum
    let s := (s.setMemFld 0x0DA00008 0 1 (b2n s.flatAreaNow.2)).takeShellCtl
    match s.judgeBond t with
    | .error => .next ((s.bondRefused t 0 0).unpredictable s.bondReach)
    | .refused code course => .next (s.bondRefused t code course)
    | .admitted b table counts flats area al cl om fl still => .next (s.bondAdmitted t b table counts flats area al cl om fl still)

/-- Rays of a bundle. -/
def State.bundleRays (s : State) (b : Bundle) : Nat :=
  match s.curTile b.tile with
  | some t => viewCount s.render.views t.view
  | none => 0

/-- Bundles that a shell's oars have taken and have not rendered, and those to render again. -/
def Shell.waiting (x : Shell) : List Bundle := x.stalled.filterMap (·.2) ++ x.again

/-- Unrendered rays of a shell: those of its lines, of oars that wait for a band row, and of bundles to render again. -/
def State.unrendered (s : State) (k : Nat) : Nat :=
  (s.shell k).waiting.foldl (fun n b => n + s.bundleRays b) (s.shell k).unrendered

/-- Whether a shell's own rays for the catch are complete: none unrendered, none held for a check. -/
def State.shellDone (s : State) (k : Nat) : Bool :=
  (s.shell k).unrendered == 0 && (s.shell k).waiting.isEmpty && (s.shell k).check.isNone

/-- R111: the shells complete the flattened course of the run that begins at course `first`, once their own rays for the catch are rendered;
it is usable from the next admission. A poisoned plane of a member is read, and each such read counts (R617). -/
def execFlattenBuildDone (first : Fin 64) (s : State) : Res := if s.clocksOff then .next s else
  match s.render.flats.find? (fun f => f.first == first.val && !f.built) with
  | some f =>
    if s.stroke.recovery || !s.stroke.admitted || !(upTo 4).all s.shellDone then .next s
    else
      let ds := (upTo f.count).map (fun k => courseDesc (descBytes s.render.table (f.first + k)))
      match ds.head? with
      | none => .next s
      | some d =>
        let s := forN d.h (fun j s => forN d.w (fun i s => s.wrBytes (f.addr + (j * d.w + i) * 8) (s.flatPixel ds i j)) s) s
        let s := ds.foldl (fun s d => match s.poisonIn d.extents with | some a => s.poisonReads a 1 | none => s) s
        .next { s with render := { s.render with
          flats := s.render.flats.map (fun g => if g.first = f.first then { g with built := true } else g) } }
  | none => .next s

/-- R421: 50 µs before the catch that begins a refresh or ends the hold, the tolerances of the shells and of conditioning fall to 0. -/
def execHoldWake (s : State) : Res :=
  if s.stroke.held ≠ 0 then
    .next { s.advanceTo (s.nextCatch - 50000) with stroke := { (s.advanceTo (s.nextCatch - 50000)).stroke with wake := true } }
  else .next s

end Sys2Proof.Machine
end

