-- ==== Sys2Proof/Machine/Plumb.lean ====
section
/-!
DEFINITION. Plumb: trim domains, their runs, the swap at a catch and the trim record (R488–R498). Fiducial jobs stand in Fiducial.lean.
-/
namespace Sys2Proof.Machine

open Sys2Proof

/-- The kiln model point of a trim domain (R519). -/
def domainPoint (d : Nat) : Nat :=
  if d < 4 ∨ 30 ≤ d then 62 else if d = 28 then 48 else if d = 29 then 49 else 20 + d

/-- Temperature of a trim domain, signed Q8.8 °C (R489). -/
def State.domainTemp (s : State) (d : Nat) : Nat := s.get F.KLN_PT_TEMP 0 (domainPoint d)

/-- An empty set: the form of the sets is private to the device. -/
def noSet : List Byte := List.replicate 56 0

def State.activeSet (s : State) (d : Nat) : List Byte := KMap.get (fun _ => noSet) s.plumb.active d
def State.shadowSet (s : State) (d : Nat) : List Byte := KMap.get (fun _ => noSet) s.plumb.shadow d

/-- The states of PLB_STAT (R508). -/
def plbIdle : Nat := 0
def plbRunning : Nat := 1
def plbHalted : Nat := 2

/-- A domain is requested (R490). -/
def State.requestDomain (s : State) (d : Nat) : State := s.wr R.PLB_PEND (setBits (s.rd R.PLB_PEND) d 1 1)

/-- The automatic requests of R490: the temperature of an allowed domain is DELTA °C or more from the one in force. -/
def State.plumbAuto (s : State) : State :=
  if s.flag F.PLB_CTL_AUTO_EN then
    forN 32 (fun d s =>
      let diff := sgn 16 (s.domainTemp d) - sgn 16 (s.get F.PLB_DOM_TEMP_TEMP 0 d)
      if bitAt (s.rd R.PLB_MASK) d && decide (Nat.max 1 (s.get F.PLB_CTL_DELTA) * 256 ≤ diff.natAbs) then s.requestDomain d else s) s
  else s

/-- Address of the trim record (R405, R497). -/
def trimRecord : Nat := 0x0DA80000

/-- The trim record is written (R497). -/
def State.writeTrim (s : State) : State :=
  let body := (upTo 32).flatMap (fun d =>
    leBytes 2 (s.get F.PLB_DOM_TEMP_TEMP 0 d) ++ [0, 0] ++ leBytes 4 (KMap.get (fun _ => 0) s.plumb.stroke d) ++ s.activeSet d)
  s.wrBytes trimRecord (leBytes 4 0x7A1C0001 ++ leBytes 4 (s.rd R.PLB_SEQ) ++ leBytes 4 s.plumb.valid ++ leBytes 4 (crc32c body) ++ body)

/-- Every waiting shadow set comes into force at a catch (R493), with the number of the stroke that the catch begins. -/
def State.plumbSwap (s : State) : State :=
  let ready := s.rd R.PLB_READY
  if ready = 0 then s
  else
    let s := forN 32 (fun d s =>
      if bitAt ready d then
        let s := s.set F.PLB_DOM_TEMP_TEMP (KMap.get (fun _ => 0) s.plumb.waitTemp d) 0 d
        { s with plumb := { s.plumb with
            active := KMap.put (fun _ => noSet) s.plumb.active d (s.shadowSet d)
            stroke := KMap.put (fun _ => 0) s.plumb.stroke d (s.strokeNum % 2 ^ 32) } }
      else s) s
    let s := { s with plumb := { s.plumb with valid := s.plumb.valid ||| ready } }
    let s := (s.incWrap R.PLB_SEQ).writeTrim
    (s.wr R.PLB_READY 0).raiseIf (s.flag F.PLB_EVMASK_DONE_EN) 0xD0

/-- Waiting sets come into force at the first catch inside a transition interval after they were ready (R493), where it is not after
`limit`. -/
def State.interimSwap (s : State) (limit : Nat) : State :=
  if s.rd R.PLB_READY = 0 then s
  else match s.interimCatch (Nat.max s.stroke.lastCatch s.plumb.readyAt) with
    | some c => if c ≤ limit then (s.advanceTo c).plumbSwap else s
    | none => s

/-- The shadow set of domain `d` is ready and waits for a catch (R491, R493): one in this cycle serves. -/
def State.setReady (s : State) (d : Nat) : State :=
  let s := s.interimSwap (s.now - 1)
  ({ s with plumb := { s.plumb with readyAt := s.now - 1 } }).wr R.PLB_READY (setBits (s.rd R.PLB_READY) d 1 1)

/-- A run ends with a result: 0 OK, 1 TIMEOUT, 2 RANGE, 3 ABORTED (R491). -/
def State.plumbEnd (s : State) (res : Nat) : State :=
  let d := s.get F.PLB_STAT_DOMAIN
  let s := (s.incWrap R.PLB_RUNS).count 2 0x10
  let s := ((s.set F.PLB_STAT_STATE plbIdle).set F.PLB_STAT_LAST_DOMAIN d).set F.PLB_STAT_LAST_RESULT res
  if res = 0 then
    let s := s.setReady d
    let s := s.set F.PLB_BAD_BAD (setBits (s.get F.PLB_BAD_BAD) d 1 0)
    { s with plumb := { s.plumb with waitTemp := KMap.put (fun _ => 0) s.plumb.waitTemp d s.plumb.runTemp } }
  else
    let s := { s with plumb := { s.plumb with shadow := KMap.put (fun _ => noSet) s.plumb.shadow d (s.activeSet d) } }
    if res = 3 then s.requestDomain d
    else
      let s := s.set F.PLB_BAD_BAD (setBits (s.get F.PLB_BAD_BAD) d 1 1)
      let s := s.incSat R.PLB_BAD_CNT
      let s := s.set F.PLB_DOM_TEMP_TEMP s.plumb.runTemp 0 d
      s.raiseIf (s.flag F.PLB_EVMASK_BAD_EN) 0xD1

/-- A run in progress ends as ABORTED (R492). -/
def State.plumbAborted (s : State) : State := if s.get F.PLB_STAT_STATE = plbRunning then s.plumbEnd 3 else s

/-- A port of domain `d` is enabled: a run that measures it is aborted (R492). -/
def State.portEnabled (s : State) (d : Nat) : State :=
  if s.get F.PLB_STAT_STATE = plbRunning ∧ s.get F.PLB_STAT_DOMAIN = d then s.plumbEnd 3 else s

/-- R490: a write of PLB_RUN requests domains. -/
def State.writePlbRun (s : State) (v : RegWord) : State := s.wr R.PLB_PEND (s.rd R.PLB_PEND ||| v.toNat)

def execPlumbRunRequest (who : Requester) (v : RegWord) (s : State) : Res :=
  s.ifWriteV who (R.PLB_RUN.at 0 0) v (fun s => .next (s.writePlbRun v))

/-- R491: idle plumb starts the requested domain with the lowest number; the active set is copied into the shadow set. -/
def execPlumbRunStart (s : State) : Res :=
  if s.get F.PLB_STAT_STATE = plbIdle then
    match (upTo 32).find? (fun d => bitAt (s.rd R.PLB_PEND) d) with
    | some d =>
      let s := s.wr R.PLB_PEND (setBits (s.rd R.PLB_PEND) d 1 0)
      let s := s.wr R.PLB_READY (setBits (s.rd R.PLB_READY) d 1 0)
      let s := (s.set F.PLB_STAT_STATE plbRunning).set F.PLB_STAT_DOMAIN d
      .next { s with plumb := { s.plumb with
        runAt := s.upNs, runTemp := s.domainTemp d, shadow := KMap.put (fun _ => noSet) s.plumb.shadow d (s.activeSet d) } }
    | none => .next s
  else .next s

/-- R491: a run ends OK, its shadow set filled (its contents are private to the device: free values), or RANGE. -/
def execPlumbRunEnd (ok : Bool) (s : State) : Res :=
  if s.get F.PLB_STAT_STATE = plbRunning then
    if ok then
      let d := s.get F.PLB_STAT_DOMAIN
      let set := (upTo 56).map (fun k => BitVec.ofNat 8 (Config.freeFun .plumb [d, k, s.plumb.runAt]))
      .next ({ s with plumb := { s.plumb with shadow := KMap.put (fun _ => noSet) s.plumb.shadow d set } }.plumbEnd 0)
    else .next (s.plumbEnd 2)
  else .next s

/-- R491: a run that has not ended TMO_US after its start ends as TIMEOUT. -/
def execPlumbRunTimeout (s : State) : Res :=
  if s.get F.PLB_STAT_STATE = plbRunning then
    .next ((s.advanceUp (s.plumb.runAt + Nat.max 100 (s.get F.PLB_TMO_TMO_US) * 1000)).plumbEnd 1)
  else .next s

/-- R492, R508: a write of PLB_CTL; ABORT ends the running run. -/
def State.writePlbCtl (s : State) (v : RegWord) : State :=
  let s := s.typedWr (R.PLB_CTL.at 0 0) v
  if bitAt v.toNat 6 then s.plumbAborted else s

def execPlumbAbort (who : Requester) (v : RegWord) (s : State) : Res :=
  s.ifWriteV who (R.PLB_CTL.at 0 0) v (fun s => .next (s.writePlbCtl v))

/-- A trim record `b` is checked and loaded into the active sets, or into the shadow sets, or is a BAD_RECORD (R497, R498). -/
def State.trimTake (s : State) (b : List Byte) (now : Bool) : State :=
  if leAt b 0 4 ≠ 0x7A1C0001 ∨ leAt b 12 4 ≠ crc32c (b.drop 16) then s.set F.PLB_LOAD_STAT_RESULT 2
  else
    let valid := leAt b 8 4
    let s := forN 32 (fun d s =>
      if bitAt valid d then
        let o := 16 + 64 * d
        let set := (b.drop (o + 8)).take 56
        let s := { s with plumb := { s.plumb with stroke := KMap.put (fun _ => 0) s.plumb.stroke d (leAt b (o + 4) 4) } }
        if now then
          let s := s.set F.PLB_DOM_TEMP_TEMP (leAt b o 2) 0 d
          { s with plumb := { s.plumb with active := KMap.put (fun _ => noSet) s.plumb.active d set } }
        else
          let s := s.setReady d
          { s with plumb := { s.plumb with
              shadow := KMap.put (fun _ => noSet) s.plumb.shadow d set, waitTemp := KMap.put (fun _ => 0) s.plumb.waitTemp d (leAt b o 2) } }
      else s) s
    let s := { s with plumb := { s.plumb with valid := s.plumb.valid ||| valid } }
    (s.wr R.PLB_SEQ (leAt b 4 4)).set F.PLB_LOAD_STAT_RESULT 1

/-- R498: a write of PLB_LOAD_HI; GO checks the record at the address and loads it, or reports BUSY or BAD_RECORD. -/
def State.writePlbLoad (s : State) (who : Requester) (hi : RegWord) : State :=
  let s := s.commitPair who (R.PLB_LOAD_LO.at 0 0) hi
  if !bitAt hi.toNat 16 then s
  else if s.get F.PLB_STAT_STATE = plbRunning ∨ s.rd R.PLB_READY ≠ 0 then s.set F.PLB_LOAD_STAT_RESULT 3
  else
    let a := s.rd R.PLB_LOAD_LO + 2 ^ 32 * s.get F.PLB_LOAD_HI_ADDR_HI
    if !s.unitRange a 2064 then s.unpredictable { unit := some .plumb, reg := fun x => x == R.PLB_SEQ.at 0 0 }
    else if s.poisoned a 2064 then (s.set F.PLB_LOAD_STAT_RESULT 2).unitTouch a 2064
    else s.trimTake (s.rdBytes a 2064) (s.flag F.PLB_LOAD_HI_NOW)

def execTrimLoad (who : Requester) (hi : RegWord) (s : State) : Res :=
  s.ifWriteV who (R.PLB_LOAD_HI.at 0 0) hi (fun s => .next (s.writePlbLoad who hi))

end Sys2Proof.Machine
end

