-- ==== Sys2Proof/Machine/Trowel.lean ====
section
/-!
DEFINITION. The trowel: command lists, surfaces, checks, pixel arithmetic, overlap order, completion (R433–R450, R464–R466, R604).
-/
namespace Sys2Proof.Machine

open Sys2Proof

/-! ## Commands and surfaces (R435–R437) -/

/-- A surface descriptor. `bad` says that a reserved field is not 0. -/
structure Surface where
  plane0 : Nat
  plane1 : Nat
  pitch0 : Nat
  pitch1 : Nat
  w : Nat
  h : Nat
  fmt : Nat
  matrix : Nat
  range : Nat
  bad : Bool
deriving DecidableEq, Repr

/-- The surface in 32 bytes. -/
def surfaceOf (b : List Byte) : Surface :=
  let z := leAt b 0x1C 4
  { plane0 := leAt b 0 6, plane1 := leAt b 8 6, pitch0 := bitsOf (leAt b 0x10 4) 0 20, pitch1 := bitsOf (leAt b 0x14 4) 0 20,
    w := leAt b 0x18 2, h := leAt b 0x1A 2, fmt := bitsOf z 0 4, matrix := bitsOf z 4 2, range := bitsOf z 6 1,
    bad := leAt b 6 2 != 0 || leAt b 14 2 != 0 || bitsOf (leAt b 0x10 4) 20 12 != 0 || bitsOf (leAt b 0x14 4) 20 12 != 0 || bitsOf z 7 25 != 0 }

/-- The surface as a course, for the formats of R98 and the sampling of the oars; the A fields are PIXEL alpha (R441). -/
def Surface.desc (f : Surface) : CourseDesc :=
  { courseDesc [] with
    fmt := f.fmt, alpha := if f.fmt < 9 then 0 else 4, matrix := f.matrix, range := f.range, w := f.w, h := f.h,
    plane0 := f.plane0, plane1 := f.plane1, pitch0 := f.pitch0, pitch1 := f.pitch1 }

/-- Bytes that `n` pixels of a row of plane 0 take, up to a whole byte for A1. -/
def Surface.rowBytes (f : Surface) (n : Nat) : Nat :=
  if f.fmt = 12 then (n + 7) / 8 else if f.fmt = 11 then n else if 9 ≤ f.fmt then 4 * n else if f.desc.bits = 8 then n else 2 * n

/-- A trowel command. -/
structure TrwCmd where
  op : Nat
  dx : Nat
  dy : Nat
  dw : Nat
  dh : Nat
  sx : Nat
  sy : Nat
  sw : Nat
  sh : Nat
  rgb : List Int
  a : Int
  dst : Surface
  src : Surface
  bad : Bool
deriving DecidableEq, Repr

/-- A value of a field that the command limits to `lim`: what a larger one means is not stated. -/
def upToLimit (lim v : Nat) : Nat := if v ≤ lim then v else Config.freeFun .result [lim, v] % (lim + 1)

/-- The command in 128 bytes; SRC_W and SRC_H are taken equal to the destination's but for SCALE (R435). -/
def trwCmdOf (b : List Byte) : TrwCmd :=
  let op := bitsOf (leAt b 0 4) 0 4
  let h (o : Nat) : Nat := leAt b o 2
  { op := op, dx := h 4, dy := h 6, dw := h 8, dh := h 10, sx := h 12, sy := h 14,
    sw := if op = 6 then h 0x10 else h 8, sh := if op = 6 then h 0x12 else h 10,
    rgb := [(upToLimit 65520 (h 0x18) : Nat), (upToLimit 65520 (h 0x1A) : Nat), (upToLimit 65520 (h 0x1C) : Nat)],
    a := (upToLimit 16384 (h 0x1E) : Nat), dst := surfaceOf (b.drop 0x20), src := surfaceOf (b.drop 0x40),
    bad := bitsOf (leAt b 0 4) 4 28 != 0 || leAt b 0x14 4 != 0 || leVal (b.drop 0x60) != 0 }

/-! ## The checks (R440) -/

/-- Whether R439 allows the formats. -/
def TrwCmd.formatsOk (c : TrwCmd) : Bool :=
  let d := c.dst.fmt
  let f := c.src.fmt
  let rgba (x : Nat) : Bool := x == 9 || x == 10
  (match c.op with
    | 1 => decide (d ≤ 11)
    | 2 => decide (d ≤ 12) && f == d
    | 3 => rgba f && rgba d
    | 4 => (f == 11 || f == 12) && rgba d
    | _ => decide (f ≤ 10) && decide (d ≤ 10)) &&
  c.dst.matrix != 3 && (c.op == 1 || c.src.matrix != 3)

/-- Whether a rectangle and its surface pass BAD_RECT. -/
def Surface.rectOk (f : Surface) (x y w h : Nat) : Bool :=
  let size (n : Nat) : Bool := decide (1 ≤ n) && decide (n ≤ 16384)
  size f.w && size f.h && size w && size h && decide (x + w ≤ f.w) && decide (y + h ≤ f.h) &&
  (!(decide (3 ≤ f.fmt) && decide (f.fmt ≤ 8)) || (f.w % 2 == 0 && x % 2 == 0 && w % 2 == 0)) &&
  (!(decide (6 ≤ f.fmt) && decide (f.fmt ≤ 8)) || f.h % 2 == 0)

/-- Whether source and destination are the same surface (R446). -/
def TrwCmd.same (c : TrwCmd) : Bool := c.dst.plane0 == c.src.plane0 && c.dst.pitch0 == c.src.pitch0

/-- Whether the rectangles intersect. -/
def TrwCmd.meet (c : TrwCmd) : Bool :=
  decide (c.dx < c.sx + c.sw) && decide (c.sx < c.dx + c.dw) && decide (c.dy < c.sy + c.sh) && decide (c.sy < c.dy + c.dh)

/-- The first failing check of R440, or none. -/
def TrwCmd.check (c : TrwCmd) : Option Nat :=
  if c.op = 0 ∨ 7 ≤ c.op ∨ c.bad ∨ c.dst.bad ∨ c.src.bad then some 1
  else if !c.formatsOk then some 2
  else if !c.dst.rectOk c.dx c.dy c.dw c.dh ∨ (c.op ≠ 1 ∧ !c.src.rectOk c.sx c.sy c.sw c.sh) then some 3
  else if c.op = 6 ∧ (4 * c.dw < c.sw ∨ 8 * c.sw < c.dw ∨ 4 * c.dh < c.sh ∨ 8 * c.sh < c.dh) then some 4
  else if 5 ≤ c.op ∧ c.same ∧ c.meet then some 5
  else none

/-- Whether every row of the rectangle of a surface lies where a unit may reach (R402). -/
def State.surfaceIn (s : State) (f : Surface) (x y w h : Nat) : Bool :=
  s.unitRange (f.plane0 + y * f.pitch0) ((h - 1) * f.pitch0 + f.rowBytes (x + w)) &&
  (decide (9 ≤ f.fmt) ||
    (let y0 := if f.desc.subY then y / 2 else y
     let y1 := if f.desc.subY then (y + h - 1) / 2 else y + h - 1
     s.unitRange (f.plane1 + y0 * f.pitch1) ((y1 - y0) * f.pitch1 + f.desc.rowC / Nat.max 1 f.w * (x + w))))

/-- The byte ranges, first byte and length, of the rows of a rectangle in both planes. -/
def Surface.spans (f : Surface) (x y w h : Nat) : List (Nat × Nat) :=
  let d := f.desc
  let x0 := if f.fmt = 12 then x / 8 else f.rowBytes x
  let c (n : Nat) : Nat := d.rowC / Nat.max 1 f.w * n
  (upTo h).map (fun j => (f.plane0 + (y + j) * f.pitch0 + x0, f.rowBytes (x + w) - x0)) ++
  (if 9 ≤ f.fmt then []
   else (upTo h).map (fun j => (f.plane1 + (if d.subY then (y + j) / 2 else y + j) * f.pitch1 + c x, c w)))

/-- Whether the operands share memory. -/
def TrwCmd.shares (c : TrwCmd) : Bool :=
  (c.dst.spans c.dx c.dy c.dw c.dh).any (fun a => (c.src.spans c.sx c.sy c.sw c.sh).any (fun b =>
    decide (a.1 < b.1 + b.2) && decide (b.1 < a.1 + a.2)))

/-- R438: planes on 64 bytes, pitches multiples of 64 and no smaller than the plane's row. -/
def Surface.planesOk (f : Surface) : Bool :=
  f.plane0 % 64 == 0 && f.pitch0 % 64 == 0 && decide (f.rowBytes f.w ≤ f.pitch0) &&
  (decide (9 ≤ f.fmt) || (f.plane1 % 64 == 0 && f.pitch1 % 64 == 0 && decide (f.desc.rowC ≤ f.pitch1)))

/-! ## Pixel arithmetic (R441, R442) -/

/-- An n-bit Y′, Cb or Cr in its container (R441, R99). -/
def putYcc (n : Nat) (c : Int) : List Byte :=
  let v := Nat.min (((c + 2 ^ (15 - n)) / 2 ^ (16 - n) : Int).toNat) (2 ^ n - 1)
  if n = 8 then leBytes 1 v else leBytes 2 (v * 2 ^ (16 - n))

/-- An RGBA pixel [r, g, b, a] (R441). -/
def putRgba (fmt : Nat) (p : List Int) : List Byte :=
  let c (m k : Nat) : Nat := ((nth p k * m + 32760) / 65520 : Int).toNat
  let a (m : Nat) : Nat := ((nth p 3 * m + 8192) / 16384 : Int).toNat
  if fmt = 9 then leBytes 1 (c 255 0) ++ leBytes 1 (c 255 1) ++ leBytes 1 (c 255 2) ++ leBytes 1 (a 255)
  else leBytes 4 (c 1023 0 + c 1023 1 * 2 ^ 10 + c 1023 2 * 2 ^ 20 + a 3 * 2 ^ 30)

/-- R′G′B′ as Y′CbCr under the surface's MATRIX and RANGE (R442). -/
def Surface.toYcc (f : Surface) (c : List Int) : List Int :=
  let k := kCoef f.matrix
  let rg := rangeCoef f.range f.desc.bits
  let kr : Int := k.1
  let kb : Int := k.2
  let kg : Int := 10000 - kr - kb
  let yd : Int := rg.2.1
  let cd : Int := rg.2.2
  let cy (v : Int) : Int := roundAway (8192 * v * yd) (10000 * 4095)
  let cb (v : Int) : Int := roundAway (-(8192 * v * cd)) (2 * (10000 - k.2) * 4095)
  let cr (v : Int) : Int := roundAway (-(8192 * v * cd)) (2 * (10000 - k.1) * 4095)
  let half := roundAway (8192 * cd) (2 * 4095)
  let dot (x y z : Int) : Int := asr (x * nth c 0 + y * nth c 1 + z * nth c 2 + 4096) 13
  [clampI 0 65520 (dot (cy kr) (cy kg) (cy kb) + 16 * rg.1), clampI 0 65520 (32768 + dot (cb kr) (cb kg) half),
    clampI 0 65520 (32768 + dot half (cr kg) (cr kb))]

/-- R′G′B′ and alpha as the four components that the destination stores. -/
def Surface.ofRgb (f : Surface) (c : List Int) (a : Int) : List Int :=
  if 9 ≤ f.fmt then c ++ [a] else f.toYcc c ++ [a]

/-! ## Reading sources -/

/-- The filtered source sample at (cq, rq) with radii kc and kr, its indices clamped to the source rectangle (R444), as the
destination's components (R442); none where a value read is poisoned. -/
def State.trwSample (s : State) (c : TrwCmd) (kc kr : Nat) (cq rq : Int) : Option (List Int) :=
  let d := c.src.desc
  let plane (px : Int → Int → Option Int) (x y w h : Nat) (u v : Int) (ku kv : Nat) : Option Int :=
    (filterPlane (fun r q => px (r + y) (q + x)) (0, (h : Int) - 1) w h (u - 256 * x) (v - 256 * y) ku kv).1
  let lum (px : Int → Int → Option Int) := plane px c.sx c.sy c.sw c.sh (cq - 128) (rq - 128) kc kr
  if d.rgba then
    match lum (s.rgbPx d 0), lum (s.rgbPx d 1), lum (s.rgbPx d 2), lum (fun r q => (s.alphaPx d r q).map (· * 16)) with
    | some r, some g, some b, some a => some (c.dst.ofRgb [r, g, b] a)
    | _, _, _, _ => none
  else
    let x0 := if d.subX then c.sx / 2 else c.sx
    let wc := if d.subX then c.sw / 2 else c.sw
    let y0 := if d.subY then c.sy / 2 else c.sy
    let hc := if d.subY then (c.sy + c.sh - 1) / 2 - y0 + 1 else c.sh
    let ch (k : Nat) := plane (s.chromaPx d k) x0 y0 wc hc (if d.subX then asr (cq - 128) 1 else cq - 128)
      (if d.subY then asr (rq - 256) 1 else rq - 128) (if d.subX then (kc + 1) / 2 else kc) (if d.subY then (kr + 1) / 2 else kr)
    match lum (s.lumaPx d), ch 0, ch 1 with
    | some y, some cb, some cr =>
      if c.dst.fmt < 9 ∧ c.dst.matrix = c.src.matrix ∧ c.dst.range = c.src.range then some [y, cb, cr, 16384]
      else some (c.dst.ofRgb (d.toRgb y cb cr) 16384)
    | _, _, _ => none

/-- Filter radius of an axis of SCALE (R444). -/
def scaleRadius (src dst : Nat) : Nat := if src ≤ dst then 1 else ceilDiv src dst

/-- Destination pixel (i, j) of CONVERT and SCALE. -/
def State.scalePx (s : State) (c : TrwCmd) (i j : Nat) : Option (List Int) :=
  s.trwSample c (scaleRadius c.sw c.dw) (scaleRadius c.sh c.dh) (256 * c.sx + rdiv ((2 * i + 1) * c.sw * 256) (2 * c.dw))
    (256 * c.sy + rdiv ((2 * j + 1) * c.sh * 256) (2 * c.dh))

/-- Colour and alpha of one RGBA pixel. -/
def State.rgbaPx (s : State) (f : Surface) (x y : Nat) : Option (List Int × Int) :=
  match s.rgbPx f.desc 0 y x, s.rgbPx f.desc 1 y x, s.rgbPx f.desc 2 y x, s.alphaPx f.desc y x with
  | some r, some g, some b, some a => some ([r, g, b], a * 16)
  | _, _, _, _ => none

/-- Coverage of a pixel of A8 or A1 (R441). -/
def State.coverage (s : State) (f : Surface) (x y : Nat) : Option Int :=
  if f.fmt = 11 then (s.elem (f.plane0 + y * f.pitch0 + x) 1).map (fun v => (alpha8 v.toNat * 16 : Nat))
  else (s.elem (f.plane0 + y * f.pitch0 + x / 8) 1).map (fun v => if bitAt v.toNat (7 - x % 8) then 16384 else 0)

/-- Source over destination with straight alpha (R443). -/
def overPx (cs : List Int) (sa : Int) (cd : List Int) (da : Int) : List Int :=
  let wd := asr (da * (16384 - sa) + 8192) 14
  let ao := sa + wd
  (upTo 3).map (fun k => if ao = 0 then 0 else (nth cs k * sa + nth cd k * wd + ao / 2) / ao) ++ [ao]

/-- Destination pixel (i, j) of OVER and GLYPH. A poisoned destination is read as it is stored. -/
def State.blendPx (s : State) (c : TrwCmd) (i j : Nat) : Option (List Int) :=
  match ({ s with poison := [] } : State).rgbaPx c.dst (c.dx + i) (c.dy + j) with
  | none => none
  | some (cd, da) =>
    if c.op = 3 then (s.rgbaPx c.src (c.sx + i) (c.sy + j)).map (fun p => overPx p.1 p.2 cd da)
    else (s.coverage c.src (c.sx + i) (c.sy + j)).map (fun v => overPx c.rgb (asr (c.a * v + 8192) 14) cd da)

/-! ## Writing rows -/

/-- The values before the first one that is missing. -/
def takeSome {α : Type} : List (Option α) → List α
  | some x :: l => x :: takeSome l
  | _ => []

/-- Bytes of a chroma sample pair. -/
def chromaPair (n : Nat) (p : List Int) : List Byte := putYcc n (nth p 1) ++ putYcc n (nth p 2)

/-- The mean of the chroma of a row pair (R442); where only one of the two rows lies in the rectangle the stored value is not stated. -/
def meanChroma (a : Nat) (p : List Int) (q : Option (List Int)) : List Int :=
  (upTo 3).map (fun k => match q with
    | some q => asr (nth p k + nth q k + 1) 1
    | none => ((Config.freeFun .result [a, k, (nth p k).toNat] % 65521 : Nat) : Int))

/-- Pixels from column `i0` of row `j` of the rectangle are written (R441, R442). -/
def State.putPixels (s : State) (c : TrwCmd) (px : Nat → Nat → Option (List Int)) (i0 j : Nat) (seg : List (List Int)) : State :=
  let f := c.dst
  let d := f.desc
  let y := c.dy + j
  let x := c.dx + i0
  if f.fmt = 11 then s.wrBytes (f.plane0 + y * f.pitch0 + x) (seg.flatMap (fun p => leBytes 1 ((nth p 3 * 255 + 8192) / 16384 : Int).toNat))
  else if 9 ≤ f.fmt then s.wrBytes (f.plane0 + y * f.pitch0 + 4 * x) (seg.flatMap (putRgba f.fmt))
  else
    let b := if d.bits = 8 then 1 else 2
    let s := s.wrBytes (f.plane0 + y * f.pitch0 + b * x) (seg.flatMap (fun p => putYcc d.bits (nth p 0)))
    if !d.subX then s.wrBytes (f.plane1 + y * f.pitch1 + 2 * b * x) (seg.flatMap (chromaPair d.bits))
    else
      let even := (seg.zipIdx).filter (fun e => e.2 % 2 == i0 % 2)
      let xc := (x + 1) / 2
      if !d.subY then s.wrBytes (f.plane1 + y * f.pitch1 + 2 * b * xc) (even.flatMap (fun e => chromaPair d.bits e.1))
      else if y % 2 = 1 ∨ j + 1 = c.dh then
        let a := f.plane1 + y / 2 * f.pitch1 + 2 * b * xc
        s.wrBytes a (even.flatMap (fun e =>
          chromaPair d.bits (meanChroma (a + e.2) e.1 (if y % 2 = 1 ∧ 1 ≤ j then px (i0 + e.2) (j - 1) else none))))
      else s

/-- One row of the rectangle, left to right or right to left, up to the first poisoned read: the state, the pixels written, and whether
the row stopped. -/
def State.trwRow (s : State) (c : TrwCmd) (rtl : Bool) (px : Nat → Nat → Option (List Int)) (j : Nat) : State × Nat × Bool :=
  let cols := upTo c.dw
  let vals := takeSome ((if rtl then cols.reverse else cols).map (fun i => px i j))
  let seg := if rtl then vals.reverse else vals
  (s.putPixels c px (if rtl then c.dw - seg.length else 0) j seg, seg.length, decide (seg.length < c.dw))

/-! ## COPY (R446, R447) -/

/-- `n` bytes as stored, none where they are poisoned. -/
def State.cell (s : State) (a n : Nat) : Option (List Byte) := if s.poisoned a n then none else some (s.rdBytes a n)

/-- The n-bit code in a container. -/
def codeOf (n v : Nat) : Nat := if n = 8 then v else v / 2 ^ (16 - n)

/-- The mean of two chroma containers, taken on their codes (R447). -/
def meanCode (n v w : Nat) : List Byte :=
  let m := (codeOf n v + codeOf n w + 1) / 2
  if n = 8 then leBytes 1 m else leBytes 2 (m * 2 ^ (16 - n))

/-- The chroma pair at column pair `p` of chroma row `r`; outside the plane its value is not stated. -/
def State.chromaCell (s : State) (f : Surface) (r : Int) (p : Nat) : Option (List Byte) :=
  let b := if f.desc.bits = 8 then 1 else 2
  if 0 ≤ r ∧ r < (f.desc.hC : Int) then s.cell (f.plane1 + r.toNat * f.pitch1 + 2 * b * p) (2 * b)
  else some ((upTo (2 * b)).map (fun k => BitVec.ofNat 8 (Config.freeFun .result [f.plane1, r.natAbs, p, k])))

/-- What destination chroma row `kd` receives at column pair `p` of the rectangle, from a copy through a temporary surface (R447). -/
def State.copyChroma (s : State) (c : TrwCmd) (kd p : Nat) : Option (List Byte) :=
  let b := if c.src.desc.bits = 8 then 1 else 2
  let n := c.src.desc.bits
  let d : Int := (c.dy : Int) - c.sy
  let k : Int := (2 * (kd : Int) - d) / 2
  let q := c.sx / 2 + p
  if d % 2 = 0 then s.chromaCell c.src k q
  else match s.chromaCell c.src k q, s.chromaCell c.src (k + 1) q with
    | some u, some v => some (meanCode n (leAt u 0 b) (leAt v 0 b) ++ meanCode n (leAt u b b) (leAt v b b))
    | _, _ => none

/-- Whether the copy works from the bottom up, and from right to left (R446). -/
def TrwCmd.bottomUp (c : TrwCmd) : Bool := decide (2 ≤ c.op) && decide (c.op ≤ 4) && c.same && decide (c.sy < c.dy)
def TrwCmd.rightLeft (c : TrwCmd) : Bool := decide (2 ≤ c.op) && decide (c.op ≤ 4) && c.same && decide (c.sx < c.dx)

/-- First and last destination chroma row of a copy in a 4:2:0 format. -/
def TrwCmd.chromaRows (c : TrwCmd) : Nat × Nat := (c.dy / 2, (c.dy + c.dh - 1) / 2)

/-- Whether destination chroma row `kd` is the one that KL-01 corrupts: the first in row order whose second source row is a row that the
copy overwrites (R604). -/
def TrwCmd.kl01 (c : TrwCmd) (kd : Nat) : Bool :=
  let d : Int := (c.dy : Int) - c.sy
  let lo := c.chromaRows.1
  let hi := c.chromaRows.2
  let hit (r : Nat) : Bool :=
    let k : Int := (2 * (r : Int) - d) / 2 + 1
    decide ((lo : Int) ≤ k) && decide (k ≤ (hi : Int))
  let rows := (upTo (hi - lo + 1)).map (· + lo)
  c.same && c.meet && c.dst.desc.subY && d % 2 != 0 && (if c.bottomUp then rows.reverse else rows).find? hit == some kd

/-- What chroma row `kd` of a copy receives, KL-01 included: the mean of the correct source row and the overwritten one. -/
def State.copyChromaKl (s : State) (c : TrwCmd) (kd p : Nat) : Option (List Byte) :=
  if c.kl01 kd then
    let b := if c.src.desc.bits = 8 then 1 else 2
    let n := c.src.desc.bits
    let k : Int := (2 * (kd : Int) - ((c.dy : Int) - c.sy)) / 2
    match s.chromaCell c.src k (c.sx / 2 + p), s.copyChroma c (k + 1).toNat p with
    | some u, some v => some (meanCode n (leAt u 0 b) (leAt v 0 b) ++ meanCode n (leAt u b b) (leAt v b b))
    | _, _ => none
  else s.copyChroma c kd p

/-- One row of a copy: `s0` is the state before the command, whose source every destination sample equals. -/
def State.copyRow (s s0 : State) (c : TrwCmd) (j : Nat) : State × Nat × Bool :=
  let f := c.dst
  let d := f.desc
  let y := c.dy + j
  let ys := c.sy + j
  let cols := if c.rightLeft then (upTo c.dw).reverse else upTo c.dw
  let b := if 9 ≤ f.fmt ∧ f.fmt ≤ 10 then 4 else if f.fmt = 11 then 1 else if d.bits = 8 then 1 else 2
  let last := if c.bottomUp then (y % 2 == 0 || j == 0) else (y % 2 == 1 || j + 1 == c.dh)
  if f.fmt = 12 then
    let vals := takeSome (cols.map (fun i => (s0.coverage c.src (c.sx + i) ys).map (fun v => (i, v != 0))))
    (vals.foldl (fun s e =>
      let a := f.plane0 + y * f.pitch0 + (c.dx + e.1) / 8
      s.wrBytes a [BitVec.ofNat 8 (setBits (s.rdB a).toNat (7 - (c.dx + e.1) % 8) 1 (b2n e.2))]) s,
      vals.length, decide (vals.length < c.dw))
  else
    let chroma (i : Nat) : Option (List Byte) :=
      if 9 ≤ f.fmt then some []
      else if !d.subX then s0.cell (c.src.plane1 + ys * c.src.pitch1 + 2 * b * (c.sx + i)) (2 * b)
      else if i % 2 = 1 then some []
      else if !d.subY then s0.cell (c.src.plane1 + ys * c.src.pitch1 + b * (c.sx + i)) (2 * b)
      else if last then s0.copyChromaKl c (y / 2) (i / 2)
      else some []
    let vals := takeSome (cols.map (fun i =>
      match s0.cell (c.src.plane0 + ys * c.src.pitch0 + b * (c.sx + i)) b, chroma i with
      | some p, some q => some (p, q)
      | _, _ => none))
    let seg := if c.rightLeft then vals.reverse else vals
    let x := c.dx + (if c.rightLeft then c.dw - seg.length else 0)
    let s := s.wrBytes (f.plane0 + y * f.pitch0 + b * x) (seg.flatMap (·.1))
    let cb := seg.flatMap (·.2)
    let s := if 9 ≤ f.fmt then s
      else if !d.subX then s.wrBytes (f.plane1 + y * f.pitch1 + 2 * b * x) cb
      else s.wrBytes (f.plane1 + (if d.subY then y / 2 else y) * f.pitch1 + 2 * b * ((x + 1) / 2)) cb
    (s, seg.length, decide (seg.length < c.dw))

/-! ## Running a command -/

/-- The rows of a command in order, at most `rows` of them: the state, the pixels written, whether a poisoned read stopped it. -/
def State.trwRows (s : State) (c : TrwCmd) (rows : Nat) : State × Nat × Bool :=
  let js := if c.bottomUp then (upTo c.dh).reverse else upTo c.dh
  (js.take rows).foldl (fun (st : State × Nat × Bool) j =>
    if st.2.2 then st
    else
      let r :=
        if c.op = 1 then st.1.trwRow c false (fun _ _ => some (c.dst.ofRgb c.rgb c.a)) j
        else if c.op = 2 then st.1.copyRow s c j
        else if c.op ≤ 4 then st.1.trwRow c c.rightLeft (s.blendPx c) j
        else st.1.trwRow c false (s.scalePx c) j
      (r.1, st.2.1 + r.2.1, r.2.2)) (s, 0, false)

/-- The trowel's list is set. -/
def State.setTrwList (s : State) (l : Option TrwList) : State := { s with trowel := { s.trowel with list := l } }

/-- Attributes of the trowel's events (R450, R561). -/
def trwAttr : Attr := { req := some 18, cls := some 3 }

/-- Whether a command that passes the checks breaks a rule that is not checked: R438, shared memory (R446), a hole of the map (R402). -/
def State.trwOdd (s : State) (c : TrwCmd) : Bool :=
  !c.dst.planesOk || !s.surfaceIn c.dst c.dx c.dy c.dw c.dh ||
  (c.op != 1 && (!c.src.planesOk || (!c.same && c.shares) || !s.surfaceIn c.src c.sx c.sy c.sw c.sh))

/-- Whether a command writes a plane that a bond uses (R114). -/
def State.trwInUse (s : State) (c : TrwCmd) : Bool :=
  s.get F.GLB_SHOW_STATE != showStarting && s.usedPlanes.any (fun r =>
    let hit (a n : Nat) : Bool := decide (a < r.1 + r.2) && decide (r.1 < a + n)
    hit (c.dst.plane0 + c.dy * c.dst.pitch0) (c.dh * c.dst.pitch0) ||
      (decide (c.dst.fmt < 9) && hit (c.dst.plane1 + c.dy * c.dst.pitch1 / 2) (c.dh * c.dst.pitch1)))

/-- Memory within pitch × height of a surface. -/
def Surface.covers (f : Surface) (a : Nat) : Bool :=
  inRange f.plane0 (f.pitch0 * f.h) a || (decide (f.fmt < 9) && inRange f.plane1 (f.pitch1 * f.h) a)

/-- A host error in the running list (R601): the memory `m`, the ring's later lists, and how and when this list ends. -/
def State.trwSpoil (s : State) (m : Nat → Bool) : State :=
  let x := s.free .result
  let u := x.2.unpredictable (s.jobReach (s.get F.TRW_RING_RING) m (fun _ => false))
  match u.trowel.list with
  | some l => u.setTrwList (some { l with pixels := Config.freeFun .result [x.1], status := if x.1 % 9 = 8 then l.status else some (x.1 % 9) })
  | none => u

/-- The list `l` runs the first `rows` rows of its next command `c`; the whole command counts as executed. -/
def State.trwRun (s : State) (l : TrwList) (c : TrwCmd) (rows : Nat) : State :=
  match c.check with
  | some code => s.setTrwList (some { l with status := some code })
  | none =>
    let odd := s.trwOdd c
    let used := s.trwInUse c
    let r := s.trwRows c rows
    let s := (r.1.unitTouch c.dst.plane0 1).unitTouch c.src.plane0 (if c.op = 1 then 0 else 1)
    let s := ((s.inc64 R.TRW_PIX_LO r.2.1).count 7 0x10 r.2.1 trwAttr)
    let l := { l with pixels := l.pixels + r.2.1 }
    let s :=
      if r.2.2 then s.setTrwList (some { l with status := some 6 })
      else if rows < c.dh then s.setTrwList (some { l with status := some 7 })
      else
        let s := (s.inc64 R.TRW_CMDS_LO).count 7 0x11 1 trwAttr
        (s.setTrwList (some { l with index := l.index + 1 })).set F.TRW_STAT_INDEX (Nat.min (l.index + 1) (l.count - 1))
    let s := if odd then s.trwSpoil (fun a => c.dst.covers a || (c.op != 1 && c.src.covers a)) else s
    if used then s.unpredictable showReach else s

/-- The next command of the running list, while no status has ended it: the list and the address. -/
def State.trwNext (s : State) : Option (TrwList × Nat) :=
  match s.trowel.list with
  | some l => if l.status.isNone ∧ l.index < l.count then some (l, l.addr + 128 * l.index) else none
  | none => none

/-- The trowel runs its next command where that command has operation `op` and can be read. -/
def State.trwOp (s : State) (op : Nat) : Res := if s.clocksOff then .next s else
  match s.trwNext with
  | some (l, a) =>
    let c := trwCmdOf (s.rdBytes a 128)
    if s.poisoned a 128 ∨ c.op ≠ op then .next s
    else .next (s.trwRun l c c.dh)
  | none => .next s

/-- R445: FILL. -/
def execTrowelFill (s : State) : Res := s.trwOp 1

/-- R446, R447: COPY. -/
def execTrowelCopy (s : State) : Res := s.trwOp 2

/-- R443: OVER. -/
def execTrowelOver (s : State) : Res := s.trwOp 3

/-- R443: GLYPH. -/
def execTrowelGlyph (s : State) : Res := s.trwOp 4

/-- R442: CONVERT. -/
def execTrowelConvert (s : State) : Res := s.trwOp 5

/-- R444: SCALE. -/
def execTrowelScale (s : State) : Res := s.trwOp 6

/-! ## Lists -/

/-- Whether a list descriptor has a reserved field other than 0, or a list in a hole of the map (R433, R601). -/
def State.listOdd (s : State) (e : Nat) (l : TrwList) : Bool :=
  s.rdN (e + 6) 2 != 0 || s.memFld (e + 8) 17 15 != 0 || s.rdN (e + 0x10) 16 != 0 || (l.count != 0 && !s.unitRange l.addr (128 * l.count))

/-- R433, R434: an idle, enabled trowel takes the next list descriptor and advances CI. -/
def execTrowelListStart (s : State) : Res := if s.clocksOff then .next s else
  let r := s.get F.TRW_RING_RING
  if s.trowel.list.isNone && s.flag F.TRW_CTL_ENABLE && s.flag F.TRW_RING_EN && s.unitCanTake r then
    let e := s.ringElem r (s.ringCI r)
    let l : TrwList := {
      addr := s.rdN e 6, count := s.memFld (e + 8) 0 16, ev := s.memFld (e + 8) 16 1 != 0, tag := s.rd32 (e + 0xC), index := 0, pixels := 0, status := if s.poisoned e 16 then some 6 else none }
    let t := (((s.unitTaken r 1).setTrwList (some l)).set F.TRW_STAT_STATE 1).set F.TRW_STAT_INDEX 0
    .next (if s.listOdd e l then t.trwSpoil (fun _ => false) else t)
  else .next s

/-- The status with which a list that runs no further command ends: decided, an unreadable or invalid next command, or DONE. -/
def State.trwStatus (s : State) (l : TrwList) : Option Nat :=
  match l.status with
  | some c => some c
  | none =>
    if l.count ≤ l.index then some 0
    else if s.poisoned (l.addr + 128 * l.index) 128 then some 6
    else
      let op := (trwCmdOf (s.rdBytes (l.addr + 128 * l.index) 128)).op
      if op = 0 ∨ 7 ≤ op then some 1 else none

/-- R448: the list ends; its record is written, then its events are raised. -/
def execTrowelListDone (s : State) : Res := if s.clocksOff then .next s else
  match s.trowel.list with
  | none => .next s
  | some l =>
    match s.trwStatus l with
    | none => .next s
    | some st =>
      let idx := if st = 0 then l.count else l.index
      let rec' := leBytes 4 l.tag ++ leBytes 4 (st + idx * 2 ^ 16) ++ leBytes 4 (Nat.min l.pixels 0xFFFFFFFF) ++ leBytes 4 s.now ++ leBytes 16 0
      let s := if s.flag F.TRW_DONE_EN then (s.unitRecord (s.get F.TRW_DONE_RING) rec').2 else s
      let s := (s.setTrwList none).set F.TRW_STAT_STATE (if s.flag F.TRW_CTL_ENABLE then 0 else 2)
      let s := if st = 0 then s.incWrap R.TRW_LISTS
        else (((s.incSat R.TRW_ERRS).set F.TRW_LAST_ERR_STATUS st).set F.TRW_LAST_ERR_INDEX idx).wr R.TRW_LAST_TAG l.tag
      let s := s.raiseIf l.ev 0xBD
      .next (s.raiseIf (st != 0 && s.flag F.TRW_EVMASK_ERR_EN) 0xBE)

/-- A write of TRW_CTL: ENABLE, and ABORT, which stops the running command after `rows` of its rows (R449). -/
def State.writeTrwCtl (s : State) (v : RegWord) (rows : Nat) : State :=
  let s := s.set F.TRW_CTL_ENABLE (bitsOf v.toNat 0 1)
  let s := if s.trowel.list.isNone then s.set F.TRW_STAT_STATE (if bitAt v.toNat 0 then 0 else 2) else s
  if !bitAt v.toNat 1 then s
  else match s.trwNext with
    | none => s
    | some (l, a) =>
      let c := trwCmdOf (s.rdBytes a 128)
      if s.poisoned a 128 then s.setTrwList (some { l with status := some 6 })
      else if rows = 0 then s.setTrwList (some { l with status := some 7 })
      else
        let t := s.trwRun l c (Nat.min rows c.dh)
        match t.trwNext with
        | some (l', _) => t.setTrwList (some { l' with status := some 7 })
        | none => t

/-- R449: TRW_CTL.ABORT; `rows` says how many rows of the running command have ended at its stop. -/
def execTrowelAbort (who : Requester) (v : RegWord) (rows : Nat) (s : State) : Res :=
  s.ifWriteV who (R.TRW_CTL.at 0 0) v (fun s => .next (s.writeTrwCtl v rows))

/-- A write of TRW_RING or TRW_DONE, checked where it sets EN (R466). -/
def State.writeTrwRing (s : State) (done : Bool) (v : RegWord) : State :=
  let reg := if done then R.TRW_DONE else R.TRW_RING
  if !bitAt v.toNat 13 then s.wr reg (bitsOf v.toNat 0 14)
  else if s.ringFits (bitsOf v.toNat 0 13) 32 (!done) then (s.wr reg (bitsOf v.toNat 0 14)).set F.TRW_STAT_RESULT 0
  else s.set F.TRW_STAT_RESULT 1

/-- R466: a write of TRW_RING or TRW_DONE. -/
def execTrowelRingEnable (who : Requester) (done : Bool) (v : RegWord) (s : State) : Res :=
  s.ifWriteV who ((if done then R.TRW_DONE else R.TRW_RING).at 0 0) v (fun s => .next (s.writeTrwRing done v))

end Sys2Proof.Machine
end

