-- ==== Sys2Proof/Machine/Camera.lean ====
section
/-!
DEFINITION. The camera ports and the two image pipes: capture and its repairs, raw slots, processing, statistics, settings and parameter
sets, output (R470–R487).
-/
namespace Sys2Proof.Machine

open Sys2Proof

def State.camPort (s : State) (p : Nat) : CamPort := KMap.get (fun _ => CamPort.reset) s.cam.ports p
def State.setCamPort (s : State) (p : Nat) (x : CamPort) : State :=
  { s with cam := { s.cam with ports := KMap.put (fun _ => CamPort.reset) s.cam.ports p x } }
def State.camPipe (s : State) (k : Nat) : CamPipe := KMap.get (fun _ => CamPipe.reset) s.cam.pipes k
def State.setCamPipe (s : State) (k : Nat) (x : CamPipe) : State :=
  { s with cam := { s.cam with pipes := KMap.put (fun _ => CamPipe.reset) s.cam.pipes k x } }

/-- The state with bits of CAM_P_ERR set. -/
def State.camErr (s : State) (p bits : Nat) : State := s.set F.CAM_P_ERR_FLAGS (s.get F.CAM_P_ERR_FLAGS p ||| bits) p

/-- Pipe B's count of waiting frames (CAM_K_QUEUE). -/
def State.camQueue (s : State) : State :=
  s.set F.CAM_K_QUEUE_WAITING (Nat.min 15 ((upTo 4).foldl (fun n p => n + (s.camPort p).wait.length) 0)) 1

/-! ## Raw data (R470, R475) -/

/-- Bits of a sample. -/
def camBits (dt : Nat) : Nat := 8 + 2 * dt

/-- The samples of a RAW8, RAW10, RAW12 or RAW14 payload, most significant bit aligned in 16 bits (MIPI CSI-2 packing). -/
def camUnpack (dt : Nat) (b : List Byte) : List Nat :=
  let by' (i : Nat) : Nat := byteAt b i
  match dt with
  | 0 => (upTo b.length).map (fun i => by' i * 256)
  | 1 => (upTo (b.length / 5 * 4)).map (fun i =>
      let g := i / 4 * 5
      by' (g + i % 4) * 256 + bitsOf (by' (g + 4)) (2 * (i % 4)) 2 * 64)
  | 2 => (upTo (b.length / 3 * 2)).map (fun i =>
      let g := i / 2 * 3
      by' (g + i % 2) * 256 + bitsOf (by' (g + 2)) (4 * (i % 2)) 4 * 16)
  | _ => (upTo (b.length / 7 * 4)).map (fun i =>
      let g := i / 4 * 7
      by' (g + i % 4) * 256 + bitsOf (leAt b (g + 4) 3) (6 * (i % 4)) 6 * 4)

/-- Sample `x` of line `y`, where no received line of its colour phase came before: not stated, a free value. -/
def noLine (f : CamFrame) (x y : Nat) : Nat := Config.freeFun .camera [10, f.num, f.sof, x, y] % 65536

/-- Sample `x` that repairs line `y`: that of the previous line of the same colour phase (R472). -/
def repairPx (f : CamFrame) (x y : Nat) : Nat :=
  if y < 2 then noLine f x y else ((f.lines.getD (y - 2) []).getD x (noLine f x y))

/-- The line of width `w` that the port takes for line `y` from received samples. -/
def fitLine (f : CamFrame) (w y : Nat) (px : List Nat) : List Nat :=
  (upTo w).map (fun x => px.getD x (repairPx f x y))

/-- Address of raw slot `i` of a port; slot SLOTS is its reference, and for ROUTE 1 the buffer itself (R475). -/
def State.rawSlot (s : State) (p i : Nat) : Nat := s.rd64 R.CAM_P_RAW_LO p % 2 ^ 48 + i * s.rd R.CAM_P_RAW_STRIDE p
def State.camRef (s : State) (p : Nat) : Nat :=
  if (s.camPort p).route = 2 then s.rawSlot p (s.get F.CAM_P_RAW_HI_SLOTS p) else s.rd64 R.CAM_P_RAW_LO p % 2 ^ 48

/-- The frame takes a line; a port with ROUTE 2 writes it to its raw slot. -/
def State.camLine (s : State) (p : Nat) (f : CamFrame) (px : List Nat) : CamFrame × State :=
  let c := s.camPort p
  let y := f.lines.length
  let s := if c.route = 2 ∧ !f.dropped then s.wrBytes (s.rawSlot p f.slot + 2 * c.w * y) (px.flatMap (leBytes 2)) else s
  ({ f with lines := f.lines ++ [px] }, s)

/-! ## Settings (R482) -/

/-- Whether `a` is at or after `b`, modulo 2^32 within 2^31. -/
def atOrAfter (a b : Nat) : Bool := decide ((a + 2 ^ 32 - b % 2 ^ 32) % 2 ^ 32 < 2 ^ 31)

/-- The records whose frame of force is at or before frame `f` take force. -/
def CamPort.settle (c : CamPort) (f : Nat) : CamPort :=
  { c with
    setNow := ((c.setq.filter (fun r => atOrAfter f r.1)).getLast?.map (·.2)).getD c.setNow
    setq := c.setq.filter (fun r => !atOrAfter f r.1) }

/-- CAM_P_SETNOW follows the port. -/
def State.camSetNow (s : State) (p : Nat) : State :=
  (s.set F.CAM_P_SETNOW_SETSEQ (s.camPort p).setNow p).set F.CAM_P_SETNOW_WAITING (s.camPort p).setq.length p

/-- Frame `f` of port `p` has settings sequence `n`, whether it is in capture, waits for pipe B or is being processed. -/
def State.camStamp (s : State) (p f n : Nat) : State :=
  let stamp (x : CamFrame) : CamFrame := if x.num = f then { x with setseq := n } else x
  let c := s.camPort p
  let s := s.setCamPort p { c with cap := c.cap.map stamp, wait := c.wait.map stamp }
  forN 2 (fun k s =>
    let x := s.camPipe k
    s.setCamPipe k { x with jobs := x.jobs.map (fun j => if j.port = p then { j with frame := stamp j.frame } else j) }) s

/-- A write of CAM_P_SETSEQ. -/
def State.writeSetseq (s : State) (p : Nat) (v : RegWord) : State :=
  let c := s.camPort p
  let f := s.rd R.CAM_P_FRAME p
  if 8 ≤ c.setq.length then s.camErr p 0x80
  else
    let c := ({ c with setq := c.setq ++ [((f + s.get F.CAM_P_DELAY_N p) % 2 ^ 32, bitsOf v.toNat 0 16)] } : CamPort).settle f
    ((s.setCamPort p c).camStamp p f c.setNow).camSetNow p

/-- R482: a write of CAM_P_SETSEQ. -/
def execCamSetseq (who : Requester) (p : Fin 4) (v : RegWord) (s : State) : Res :=
  s.ifWriteV who (R.CAM_P_SETSEQ.at p.val 0) v (fun s => .next (s.writeSetseq p.val v))

/-! ## Parameter sets (R483) -/

/-- Addresses of the defect list, the shading table and the tone table that the staging registers name. -/
def State.camTabs (s : State) (k : Nat) : Nat × Nat × Nat :=
  (s.rd64 R.CAM_K_DEFECT_LO k % 2 ^ 48, s.rd64 R.CAM_K_SHADE_LO k % 2 ^ 48, s.rd64 R.CAM_K_TONE_LO k % 2 ^ 48)

/-- The set with the tables as memory holds them: `n` defects, and shading and tone where they are in use. -/
def State.camTables (s : State) (c : CamSet) (t : Nat × Nat × Nat) (n : Nat) (sh to' : Bool) : CamSet :=
  { c with
    defects := (upTo n).map (fun i => (s.memFld (t.1 + 4 * i) 0 16, s.memFld (t.1 + 4 * i) 16 16))
    shade := if sh then some ((upTo 1156).map (fun i => s.rdN (t.2.1 + 2 * i) 2)) else none
    tone := if to' then some ((upTo 1024).map (fun i => s.rdN (t.2.2 + 2 * i) 2)) else none
    bad := (decide (n ≠ 0) && s.poisoned t.1 (4 * n)) || (sh && s.poisoned t.2.1 2312) || (to' && s.poisoned t.2.2 2048) }

/-- Whether a set's tables lie where a unit may read (R402). -/
def State.camTabsIn (s : State) (c : CamSet) (t : Nat × Nat × Nat) : Bool :=
  (c.defects.isEmpty || s.unitRange t.1 (4 * c.defects.length)) && (c.shade.isNone || s.unitRange t.2.1 2312) &&
    (c.tone.isNone || s.unitRange t.2.2 2048)

/-- The staging registers of pipe `k` and the tables that they name. -/
def State.camStage (s : State) (k : Nat) : CamSet :=
  let regs : CamSet :=
  { black := (upTo 4).map (fun j => s.get F.CAM_K_BLACK_LEVEL k j)
    wb := (upTo 3).map (fun j => s.get F.CAM_K_WB_GAIN k j)
    sat := s.get F.CAM_K_SAT_LEVEL k
    ccm := (upTo 9).map (fun j => sgn 16 (s.get F.CAM_K_CCM_COEF k j))
    off := (upTo 3).map (fun j => sgn 16 (s.get F.CAM_K_CCM_OFF_OFF k j))
    nr := s.rd R.CAM_K_NR k
    dpc := s.rd R.CAM_K_DPC k
    defects := []
    shade := none
    tone := none
    thresh := s.get F.CAM_K_FID_THRESH_THRESH k
    area := s.rd R.CAM_K_FID_AREA k
    roi0 := s.rd R.CAM_K_FID_ROI0 k
    roi1 := s.rd R.CAM_K_FID_ROI1 k
    cfa := s.get F.CAM_K_CFA_ORDER k
    bad := false }
  s.camTables regs (s.camTabs k) (s.get F.CAM_K_DEFECT_HI_COUNT k) (s.flag F.CAM_K_SHADE_HI_EN k) (s.flag F.CAM_K_TONE_HI_EN k)

/-- Whether port `p` holds pipe A (R473): by its ROUTE, or by the route that it runs with while enabled. -/
def State.holdsA (s : State) (p : Nat) : Bool := s.get F.CAM_P_CTL_ROUTE p == 1 || (s.flag F.CAM_P_CTL_EN p && (s.camPort p).route == 1)

/-- The port that holds pipe A (R473); 0 where none does. -/
def State.pipeAPort (s : State) : Nat := ((upTo 4).find? s.holdsA).getD 0

/-- APPLY.WAITING of pipe A follows its waiting set and the port that holds it. -/
def State.camWaitA (s : State) : State :=
  s.set F.CAM_K_APPLY_WAITING (if (KMap.get (fun _ => none) (s.camPipe 0).wait 0).isSome then 2 ^ s.pipeAPort else 0) 0

/-- The bit of APPLY.WAITING that stands for a waiting set. -/
def State.camWaitBit (s : State) (k port : Nat) : Nat := if k = 0 then s.pipeAPort else port

/-- A set no longer waits for the port of key `key`. -/
def State.camUnwait (s : State) (k key : Nat) : State :=
  (s.setCamPipe k { s.camPipe k with wait := KMap.put (fun _ => none) (s.camPipe k).wait key none }).set F.CAM_K_APPLY_WAITING
    (setBits (s.get F.CAM_K_APPLY_WAITING k) (s.camWaitBit k key) 1 0) k

/-- A write of CAM_K_APPLY: GO latches the staging registers, unless the pipe is still reading; a set that waits for the same port is
replaced. -/
def State.writeCamApply (s : State) (k : Nat) (v : RegWord) : State :=
  let s := s.set F.CAM_K_APPLY_PORT (bitsOf v.toNat 0 2) k
  let s := if bitAt v.toNat 8 then s.set F.CAM_K_APPLY_REPLACED 0 k else s
  if !bitAt v.toNat 2 ∨ s.flag F.CAM_K_APPLY_BUSY k then s
  else
    let w : CamWait := {
      port := if k = 0 then 0 else bitsOf v.toNat 0 2, frame := s.rd R.CAM_K_APPLY_FRAME k, seq := s.get F.CAM_K_APPLY_SEQ_PSEQ k
      set := s.camStage k, tabs := s.camTabs k }
    let s := if (KMap.get (fun _ => none) (s.camPipe k).wait w.port).isSome then (s.camUnwait k w.port).set F.CAM_K_APPLY_REPLACED 1 k else s
    (s.setCamPipe k { s.camPipe k with reading := some w }).set F.CAM_K_APPLY_BUSY 1 k

/-- R483: a write of CAM_K_APPLY. -/
def execCamApply (who : Requester) (k : Fin 2) (v : RegWord) (s : State) : Res :=
  s.ifWriteV who (R.CAM_K_APPLY.at k.val 0) v (fun s => .next (s.writeCamApply k.val v))

/-- The set that the pipe has read: as latched, unless a table changed while BUSY was 1 or lies in a hole of the map, which may leave any
set (R601). -/
def State.camRead (s : State) (w : CamWait) : CamSet :=
  let c := s.camTables w.set w.tabs w.set.defects.length w.set.shade.isSome w.set.tone.isSome
  if c = w.set ∧ s.camTabsIn c w.tabs then c
  else KMap.get (fun _ => CamSet.reset) (KMap.get (fun _ => CamPipe.reset) (Config.freeCam s.freeCtr).pipes 0).sets 0

/-- R483: the pipe has read the tables; the set waits. -/
def execCamApplyDone (k : Fin 2) (s : State) : Res :=
  let k := k.val
  let x := s.camPipe k
  match x.reading with
  | none => .next s
  | some w =>
    let w := { w with set := s.camRead w }
    let s := { s with freeCtr := s.freeCtr + 1 }
    let s := s.setCamPipe k { x with reading := none, wait := KMap.put (fun _ => none) x.wait w.port (some w) }
    .next ((s.set F.CAM_K_APPLY_BUSY 0 k).set F.CAM_K_APPLY_WAITING (setBits (s.get F.CAM_K_APPLY_WAITING k) (s.camWaitBit k w.port) 1 1) k)

/-! ## A pipe begins a frame -/

/-- The waiting set of the frame's port takes force at frame `f` where its target is at or before it; the flag is LATE. -/
def State.camForce (s : State) (k p f : Nat) : Bool × State :=
  let x := s.camPipe k
  let key := if k = 0 then 0 else p
  match KMap.get (fun _ => none) x.wait key with
  | some w =>
    if atOrAfter f w.frame then
      let late := decide (f ≠ w.frame % 2 ^ 32)
      let s := (s.setCamPipe k { x with sets := KMap.put (fun _ => CamSet.reset) x.sets key w.set }).camUnwait k key
      let s := (s.wr R.CAM_K_PSEQ w.seq k p).wr R.CAM_K_PFRAME f k p
      (late, if late then s.incSat R.CAM_K_LATE 1 k else s)
    else (false, s)
  | none => (false, s)

/-- Pipe `k` begins frame `f` of port `p`: its parameters advance; it takes an output slot while the ring's fill is below SLOTS, or drops
the frame (R483, R484), whose successor on the port then has no reference (R477). -/
def State.camBegin (s : State) (k p : Nat) (f : CamFrame) : State :=
  let c := s.camPort p
  let ls := s.camForce k p f.num
  let s := ls.2
  let x := s.camPipe k
  let r := s.get F.CAM_K_OUT_RING_RING k
  let slots := s.get F.CAM_K_OUT_CFG_SLOTS_M1 k + 1
  let ahead := (x.jobs.filter (fun j => j.ring == r)).length
  if !s.flag F.CAM_K_OUT_RING_EN k ∨ slots ≤ s.ringFill r + ahead then
    let s := (s.incSat R.CAM_K_DROPS 1 k).incSat R.CAM_K_DROPS_P 1 k p
    let s := s.countAll (40 + 8 * k) 8 0x13
    let s := if x.ref = some p then (s.setCamPipe k { s.camPipe k with ref := none }).set F.CAM_K_TNR_REF_VALID 0 k else s
    (if k = 0 then s else s.setCamPort p { s.camPort p with used := setBits (s.camPort p).used f.slot 1 0 })
  else
    let slot := (s.ringPI r + ahead) % slots
    let cfg := s.rd R.CAM_K_OUT_CFG k
    let j : CamJob := {
      port := p, ring := r, frame := f, w := c.w, h := c.h, raw := s.rawSlot p f.slot, slot := slot,
      out := s.rd64 R.CAM_K_OUT_LO k % 2 ^ 48 + slot * s.rd R.CAM_K_OUT_STRIDE k, cfg := cfg,
      pitch0 := s.get F.CAM_K_OUT_PITCH_PITCH k 0, pitch1 := s.get F.CAM_K_OUT_PITCH_PITCH k 1, coff := s.rd R.CAM_K_OUT_COFF k,
      stats := s.rd64 R.CAM_K_STATS_LO k % 2 ^ 48 + slot * 0x20000, statsCfg := s.rd R.CAM_K_STATS_CFG k,
      set := KMap.get (fun _ => CamSet.reset) x.sets (if k = 0 then 0 else p), pseq := s.get F.CAM_K_PSEQ_PSEQ k p, late := ls.1,
      tnr := x.ref == some p && !f.fresh, refAt := s.camRef p, abort := none }
    let s := s.setCamPipe k { x with jobs := x.jobs ++ [j], ref := some p }
    (((s.set F.CAM_K_STAT_STATE 1 k).set F.CAM_K_STAT_PORT p k).wr R.CAM_K_CUR f.num k)

/-! ## Capture (R471, R472) -/

/-- The frame in capture ends, its missing lines repeated; pipe A's frame goes on in its job, a raw frame waits for pipe B. -/
def State.camEnd (s : State) (p : Nat) (trunc : Bool) : State :=
  match (s.camPort p).cap with
  | none => s
  | some f =>
    let c := s.camPort p
    let short := decide (f.lines.length < c.h)
    let f := { f with faults := f.faults ||| (if short then 4 else 0) ||| (if trunc then 8 else 0), eof := s.now, ended := true }
    let s := s.camErr p ((if short then 4 else 0) + (if trunc then 8 else 0))
    let r := (upTo (c.h - f.lines.length)).foldl (fun (fs : CamFrame × State) _ =>
      fs.2.camLine p fs.1 (fitLine fs.1 c.w fs.1.lines.length [])) (f, s)
    let s := r.2.setCamPort p { r.2.camPort p with cap := none, lastBad := f.dropped || trunc }
    if c.route = 1 then
      let x := s.camPipe 0
      s.setCamPipe 0 { x with jobs := x.jobs.map (fun j => if j.frame.num = f.num ∧ !j.frame.ended then { j with frame := r.1 } else j) }
    else if c.route = 2 ∧ !f.dropped then
      (s.setCamPort p { s.camPort p with wait := (s.camPort p).wait ++ [{ r.1 with lines := [] }] }).camQueue
    else s

/-- The virtual channel that an enabled port takes (R470). -/
def State.camTakes (s : State) (p vc : Nat) : Bool := s.flag F.CAM_P_CTL_EN p && vc == (s.camPort p).vc

/-- A packet that the port discards (R470, R472): `bits` of CAM_P_ERR. -/
def State.camDiscard (s : State) (p bits : Nat) : State := (s.incFld F.CAM_P_ERRCNT_DISC 1 p).camErr p bits

/-- R471, R475: an FS. Pipe A begins no frame while its clock stands (R517, R525). -/
def execCamFrameStart (p : Fin 4) (vc : Nat) (fn : BitVec 16) (s : State) : Res :=
  let p := p.val
  if !s.flag F.CAM_P_CTL_EN p then .next s
  else if !s.camTakes p vc then .next (s.camDiscard p 0x20)
  else
    let s := s.camEnd p true
    let num := (s.rd R.CAM_P_FRAME p + 1) % 2 ^ 32
    let s := (s.wr R.CAM_P_FRAME num p).wr64 R.CAM_P_SOF_LO s.now p
    let s := (s.set F.CAM_P_STAT_STATE 3 p).set F.CAM_P_STAT_LOCKED (2 ^ 2 ^ (s.camPort p).lanes - 1) p
    let c := (s.camPort p).settle num
    let slots := s.get F.CAM_P_RAW_HI_SLOTS p
    let free := (upTo slots).find? (fun i => !bitAt c.used i)
    let dropped := c.route == 2 && free.isNone
    let f : CamFrame := {
      num := num, sof := s.now, eof := 0, fn := fn.toNat, setseq := c.setNow, faults := 0, lines := [], slot := free.getD 0, dropped := dropped, ended := false, fresh := c.lastBad }
    let c := { c with cap := some f, used := if c.route = 2 ∧ !dropped then setBits c.used f.slot 1 1 else c.used }
    let s := (s.setCamPort p c).camSetNow p
    if dropped then .next ((s.incSat R.CAM_P_DROP 1 p).camErr p 0x40)
    else if c.route = 1 ∧ s.flag F.CAM_K_CTL_EN 0 ∧ !s.clocksOff then .next (s.camBegin 0 p f)
    else .next s

/-- R472: a packet other than an FS or FE. A long packet of the port's type delivers the next line. -/
def execCamLineReceived (p : Fin 4) (pkt : CamPacket) (s : State) : Res :=
  let p := p.val
  if !s.flag F.CAM_P_CTL_EN p then .next s
  else if pkt.ecc = 2 then .next (s.camDiscard p 1)
  else
    let s := if pkt.ecc = 1 then s.incFld F.CAM_P_ERRCNT_ECC 1 p else s
    let c := s.camPort p
    let ignored := pkt.dt == 0x12 || (decide (pkt.dt < 0x10) && !(decide (4 ≤ pkt.dt) && decide (pkt.dt < 8)))
    if s.camTakes p pkt.vc && ignored then .next s
    else if !s.camTakes p pkt.vc ∨ pkt.dt ≠ 0x2A + c.dt then .next (s.camDiscard p 0x20)
    else match c.cap with
      | none => .next s
      | some f =>
        let y := f.lines.length
        if c.h ≤ y then .next ((s.setCamPort p { c with cap := some { f with faults := f.faults ||| 4 } }).camErr p 4)
        else
          let px := camUnpack c.dt pkt.data
          let tooFast := pkt.fast && c.route == 1 && c.dt == 0 && c.lanes == 2
          let size := decide (px.length ≠ c.w)
          let f := { f with faults := f.faults ||| (if pkt.crcOk then 0 else 2) ||| (if tooFast then 16 else 0) ||| (if size then 4 else 0) }
          let s := s.camErr p ((if pkt.crcOk then 0 else 2) + (if tooFast then 16 else 0) + (if size then 4 else 0))
          let r := s.camLine p f (fitLine f c.w y (if pkt.crcOk && !tooFast then px else []))
          .next (r.2.setCamPort p { r.2.camPort p with cap := some r.1 })

/-- R472, R484: an FE. -/
def execCamFrameEnd (p : Fin 4) (vc : Nat) (s : State) : Res :=
  let p := p.val
  if !s.flag F.CAM_P_CTL_EN p then .next s
  else if !s.camTakes p vc then .next (s.camDiscard p 0x20)
  else if (s.camPort p).cap.isNone then .next s
  else .next (((s.camEnd p false).set F.CAM_P_STAT_STATE 2 p).raise (0xB0 + p))

/-- R476: idle pipe B takes the waiting frame with the earliest start-of-frame time, the lower port first among equals. -/
def execPipeBFrameTake (s : State) : Res := if s.clocksOff then .next s else
  let all := (upTo 4).flatMap (fun p => ((s.camPort p).wait.take 1).map (fun f => (p, f)))
  let best := all.foldl (fun (b : Option (Nat × CamFrame)) e => match b with
    | none => some e
    | some x => if e.2.sof < x.2.sof then some e else b) none
  match best with
  | some (p, f) =>
    if s.flag F.CAM_K_CTL_EN 1 && (s.camPipe 1).jobs.isEmpty then
      let s := (s.setCamPort p { s.camPort p with wait := (s.camPort p).wait.drop 1 }).camQueue
      .next (s.camBegin 1 p f)
    else .next s
  | none => .next s

/-! ## Processing (R478) -/

/-- A free value of the pipe's fixed methods. -/
def camFree (lim : Nat) (xs : List Nat) : Nat := Config.freeFun .camera xs % (lim + 1)

/-- A sample of a list of rows. -/
def pxAt (img : List (List Nat)) (x y : Nat) : Nat := (img.getD y []).getD x 0

/-- The image of a function of position. -/
def imgOf (w h : Nat) (f : Nat → Nat → Nat) : List (List Nat) := (upTo h).map (fun y => (upTo w).map (fun x => f x y))

/-- Offsets of a neighbourhood of the same colour: steps of two, `r` each way. -/
def sameColour (r : Nat) (w h x y : Nat) : List (Nat × Nat) :=
  (upTo (2 * r + 1)).flatMap (fun dy => (upTo (2 * r + 1)).filterMap (fun dx =>
    if 2 * r ≤ x + 2 * dx ∧ x + 2 * dx < w + 2 * r ∧ 2 * r ≤ y + 2 * dy ∧ y + 2 * dy < h + 2 * r then
      some (x + 2 * dx - 2 * r, y + 2 * dy - 2 * r) else none))

/-- Stage 1: spatial noise reduction, whose filter the spec does not give, and the temporal step against the reference. -/
def camNr (p : CamSet) (w h : Nat) (img : List (List Nat)) (ref : Option (Nat → Nat → Nat)) (x y : Nat) : Nat :=
  let snr := bitsOf p.nr 0 4
  let v := if snr = 0 then pxAt img x y
    else camFree 65535 (0 :: snr :: x % 2 :: y % 2 :: (sameColour 2 w h x y).flatMap (fun e => [e.1 + 4 - x, e.2 + 4 - y, pxAt img e.1 e.2]))
  match ref with
  | none => v
  | some r =>
    let d : Int := (v : Int) - r x y
    if d.natAbs ≤ bitsOf p.nr 8 8 * 256 then ((r x y : Int) + asr (d * (16 - bitsOf p.nr 4 4) + 8) 4).toNat else v

/-- Stage 2: black level. A level of 65,535 leaves no range to scale: the result is not stated. -/
def camBlack (p : CamSet) (v x y : Nat) : Nat :=
  let b := p.black.getD (2 * (y % 2) + x % 2) 0
  if b = 65535 then camFree 65535 [1, v] else Nat.min (((v - b) * 65535 + (65535 - b) / 2) / (65535 - b)) 65535

/-- Stage 3: the listed defects. The mean's rounding, and a pixel without both neighbours, are not stated. -/
def camDefect (p : CamSet) (w : Nat) (img : List (List Nat)) (x y : Nat) : Nat :=
  if p.defects.contains (x, y) then
    if 2 ≤ x ∧ x + 2 < w then
      let sum := pxAt img (x - 2) y + pxAt img (x + 2) y
      (sum + camFree 1 [2, sum]) / 2
    else camFree 65535 [3, x, y]
  else pxAt img x y

/-- Stage 3: a dynamic defect becomes the median of its eight neighbours, between the middle two; at an edge the test is not stated. -/
def camDynamic (p : CamSet) (w h : Nat) (img : List (List Nat)) (x y : Nat) : Nat :=
  let v := pxAt img x y
  if !bitAt p.dpc 8 then v
  else
    let n := ((sameColour 1 w h x y).filter (fun e => e != (x, y))).map (fun e => pxAt img e.1 e.2)
    let n := n.mergeSort (fun a b => decide (a ≤ b))
    let t := bitsOf p.dpc 0 8 * 64
    if n.length ≠ 8 then camFree 65535 (4 :: v :: x :: y :: n)
    else if n.getD 7 0 + t < v ∨ v + t < n.getD 0 0 then n.getD 3 0 + camFree (n.getD 4 0 - n.getD 3 0) (5 :: n)
    else v

/-- Stage 4: lens shading. Where the interpolated gain is no whole number its rounding is not stated. -/
def camShade (p : CamSet) (w h v x y : Nat) : Nat :=
  match p.shade with
  | none => v
  | some g =>
    let c := 2 * (y % 2) + x % 2
    let node (i j : Nat) : Nat := g.getD (289 * c + 17 * (Nat.min j 16) + Nat.min i 16) 0
    let i := x * 16 / (w - 1)
    let j := y * 16 / (h - 1)
    let fx := x * 16 % (w - 1)
    let fy := y * 16 % (h - 1)
    let num := (node i j * (w - 1 - fx) + node (i + 1) j * fx) * (h - 1 - fy) + (node i (j + 1) * (w - 1 - fx) + node (i + 1) (j + 1) * fx) * fy
    let den := (w - 1) * (h - 1)
    let s := num / den + (if num % den = 0 then 0 else camFree 1 [6, num, den])
    Nat.min ((v * s + 8192) / 16384) 65535

/-- Stages 5 to 7 at a pixel: demosaic, a fixed method that the spec does not give, white balance and colour matrix. -/
def camRgb (p : CamSet) (w h : Nat) (flat : List Nat) (x y : Nat) : List Int :=
  let v := (upTo 3).map (fun k => (Nat.min ((camFree 65535 (7 :: k :: p.cfa :: w :: h :: x :: y :: flat) * p.wb.getD k 0 + 2048) / 4096) 65535 : Nat))
  (upTo 3).map (fun r => clampI 0 65535 (asr ((upTo 3).foldl (fun (a : Int) c => a + nth p.ccm (3 * r + c) * (v.getD c 0 : Nat)) 0 + 2048) 12 + nth p.off r))

/-- Stage 8: the tone curve. -/
def camTone (p : CamSet) (v : Int) : Int :=
  match p.tone with
  | none => v
  | some t =>
    let i := (v / 64).toNat
    let a : Int := t.getD i 0
    let n : Int := t.getD (Nat.min (i + 1) 1023) 0
    a + asr ((n - a) * (v % 64) + 32) 6

/-- What a pipe makes of a frame: the output of stages 1, 7 and 8. -/
structure CamImage where
  nr : List (List Nat)
  lin : List (List (List Int))
  tone : List (List (List Int))

/-- The stages up to 8. -/
def camImage (p : CamSet) (w h : Nat) (raw : List (List Nat)) (ref : Option (Nat → Nat → Nat)) : CamImage :=
  let nr := imgOf w h (camNr p w h raw ref)
  let b := imgOf w h (fun x y => camBlack p (pxAt nr x y) x y)
  let d := imgOf w h (camDefect p w b)
  let d := imgOf w h (camDynamic p w h d)
  let g := imgOf w h (fun x y => camShade p w h (pxAt d x y) x y)
  let flat := g.flatten
  let lin := (upTo h).map (fun y => (upTo w).map (fun x => camRgb p w h flat x y))
  { nr := nr, lin := lin, tone := lin.map (fun r => r.map (fun v => v.map (camTone p))) }

/-! ## Statistics (R480, R481) -/

/-- The luminance of R480 and R481. -/
def lumOf (v : List Int) : Nat := ((nth v 0 + 2 * nth v 1 + nth v 2 + 2) / 4).toNat

/-- The histograms. -/
def camHist (step : Nat) (img : List (List (List Int))) : List Byte :=
  let pix := (img.zipIdx.filter (fun e => e.2 % step == 0)).flatMap (fun e => (e.1.zipIdx.filter (fun f => f.2 % step == 0)).map (·.1))
  let bins (f : List Int → Nat) : List Byte := (upTo 256).flatMap (fun b => leBytes 4 (pix.countP (fun v => f v / 256 == b)))
  bins (fun v => (nth v 0).toNat) ++ bins (fun v => (nth v 1).toNat) ++ bins (fun v => (nth v 2).toNat) ++ bins lumOf

/-- Whether a component of a stage-7 pixel is at or above SAT. -/
def satPx (p : CamSet) (v : List Int) : Bool := v.any (fun c => decide ((p.sat : Int) ≤ c))

/-- The zone records. -/
def camZones (p : CamSet) (w h : Nat) (img : List (List (List Int))) : List Byte :=
  (upTo 1024).flatMap (fun z =>
    let u := z % 32
    let t := z / 32
    let x0 := w * u / 32
    let y0 := h * t / 32
    let pix := ((img.drop y0).take (h * (t + 1) / 32 - y0)).flatMap (fun r => (r.drop x0).take (w * (u + 1) / 32 - x0))
    let n := pix.length
    let mean (k : Nat) : Nat := ((2 * pix.foldl (fun (a : Int) v => a + nth v k) 0 + n) / (2 * n : Nat) : Int).toNat
    leBytes 2 (mean 0) ++ leBytes 2 (mean 1) ++ leBytes 2 (mean 2) ++ leBytes 2 (Nat.min (pix.countP (satPx p)) 65535) ++ leBytes 4 n ++ leBytes 4 0)

/-- Pixels with weight, in raster order, gathered into blobs by 8-connectivity; the blobs stand in the order of their last pixel. -/
def blobsOf (pix : List (Nat × Nat)) : List (List (Nat × Nat)) :=
  pix.foldl (fun bs q =>
    let near (b : List (Nat × Nat)) : Bool := b.any (fun e => decide (e.1 ≤ q.1 + 1) && decide (q.1 ≤ e.1 + 1) && decide (e.2 ≤ q.2 + 1) && decide (q.2 ≤ e.2 + 1))
    bs.filter (fun b => !near b) ++ [(bs.filter near).flatten ++ [q]]) []

/-- The centroid records of the blobs that are reported. -/
def camCentroids (p : CamSet) (w h : Nat) (img : List (List (List Int))) : List (List Byte) :=
  let x0 := bitsOf p.roi0 0 16
  let y0 := bitsOf p.roi0 16 16
  let x1 := Nat.min w (x0 + bitsOf p.roi1 0 16)
  let y1 := Nat.min h (y0 + bitsOf p.roi1 16 16)
  let at' (q : Nat × Nat) : List Int := (img.getD q.2 []).getD q.1 []
  let wt (q : Nat × Nat) : Nat := lumOf (at' q) - p.thresh
  let pix := (upTo (y1 - y0)).flatMap (fun j => ((upTo (x1 - x0)).map (fun i => (x0 + i, y0 + j))).filter (fun q => wt q != 0))
  let ok (b : List (Nat × Nat)) : Bool := decide (bitsOf p.area 0 12 ≤ b.length) && decide (b.length ≤ bitsOf p.area 16 12)
  ((blobsOf pix).filter ok).map (fun b =>
    let sw : Nat := b.foldl (fun a q => a + wt q) 0
    let cen (f : Nat × Nat → Nat) : Nat := (rdiv ((b.foldl (fun (a : Nat) q => a + wt q * (2 * f q + 1)) 0 * 32768 : Nat) : Int) (sw : Int)).toNat
    let edge := b.any (fun q => q.1 == x0 || q.1 + 1 == x1 || q.2 == y0 || q.2 + 1 == y1)
    leBytes 4 (cen (·.1)) ++ leBytes 4 (cen (·.2)) ++ leBytes 4 (Nat.min sw 0xFFFFFFFF) ++
      leBytes 4 (Nat.min b.length 4095 + b2n edge * 2 ^ 12 + b2n (b.any (fun q => satPx p (at' q))) * 2 ^ 13))

/-- STATUS: the highest code met (R484). -/
def camStatus (faults : Nat) : Nat := ((upTo 6).filter (fun c => c != 0 && bitAt faults c)).getLast?.getD 0

/-- The statistics of a frame are written; the number of centroids reported and of blobs lost. -/
def State.camStats (s : State) (k : Nat) (j : CamJob) (im : CamImage) : State × Nat × Nat :=
  let f := j.frame
  let cs := if bitAt j.statsCfg 3 then camCentroids j.set j.w j.h im.lin else []
  let n := Nat.min cs.length 4096
  let hdr := leBytes 4 (0xCA57 + 2 ^ 16) ++ leBytes 4 (j.port + k * 4 + b2n j.tnr * 8 + b2n j.late * 16) ++ leBytes 4 f.num ++
    leBytes 2 f.setseq ++ leBytes 2 j.pseq ++ leBytes 8 f.fn ++ leBytes 8 f.sof ++ leBytes 8 f.eof ++
    leBytes 2 n ++ leBytes 2 (Nat.min (cs.length - n) 65535) ++ leBytes 2 j.w ++ leBytes 2 j.h
  let s := s.wrBytes j.stats hdr
  let s := if bitAt j.statsCfg 1 then s.wrBytes (j.stats + 0x40) (camHist (2 ^ bitsOf j.statsCfg 4 2) im.tone) else s
  let s := if bitAt j.statsCfg 2 then s.wrBytes (j.stats + 0x1040) (camZones j.set j.w j.h im.lin) else s
  (s.wrBytes (j.stats + 0x5040) (cs.take n).flatten, n, cs.length - n)

/-! ## A pipe completes a frame (R484) -/

/-- The surface of an output slot. -/
def camSurface (j : CamJob) : Surface :=
  { plane0 := j.out, plane1 := j.out + j.coff, pitch0 := j.pitch0, pitch1 := j.pitch1, w := j.w, h := j.h, fmt := bitsOf j.cfg 0 4,
    matrix := bitsOf j.cfg 4 2, range := bitsOf j.cfg 6 1, bad := false }

/-- `rows` rows of the output are written (stage 9). -/
def State.camOutput (s : State) (j : CamJob) (im : CamImage) (rows : Nat) : State :=
  let f := camSurface j
  let c : TrwCmd := { trwCmdOf [] with dx := 0, dy := 0, dw := j.w, dh := j.h, dst := f }
  let px (x y : Nat) : Option (List Int) :=
    some (f.ofRgb (((im.tone.getD y []).getD x []).map (fun v => (v * 65520 + 32767) / 65535)) 16384)
  forN rows (fun y s => s.putPixels c px 0 y (takeSome ((upTo j.w).map (fun x => px x y)))) s

/-- How many of `n` rows of `len` bytes from `a` can be read before a poisoned one. -/
def State.cleanRows (s : State) (a len n : Nat) : Nat := ((upTo n).takeWhile (fun y => !s.poisoned (a + len * y) len)).length

/-- Rows before the first poisoned read of the frame's tables, raw data or reference. -/
def State.camClean (s : State) (k : Nat) (j : CamJob) : Nat :=
  if j.set.bad then 0
  else Nat.min (if j.tnr then s.cleanRows j.refAt (2 * j.w) j.h else j.h) (if k = 1 then s.cleanRows j.raw (2 * j.w) j.h else j.h)

/-- Whether a frame's reference, raw slot, output and statistics lie where a unit may reach (R402). -/
def State.camIn (s : State) (k : Nat) (j : CamJob) : Bool :=
  let n := 2 * j.w * j.h
  s.unitRange j.refAt n && (k = 0 || s.unitRange j.raw n) && s.unitRange j.stats 86080 &&
    (!bitAt j.statsCfg 0 || s.surfaceIn (camSurface j) 0 0 j.w j.h)

/-- What a frame that names a hole may disturb (R601). -/
def State.camReach (s : State) (j : CamJob) : Reach :=
  s.jobReach j.ring (fun a => inRange j.refAt (2 * j.w * j.h) a || inRange j.stats 86080 a ||
    (bitAt j.statsCfg 0 && (camSurface j).covers a)) (fun _ => false)

/-- The frame of a job as far as it has come: one that pipe A ends before its FE is still in capture (R487). -/
def State.jobFrame (s : State) (j : CamJob) : CamFrame :=
  match (s.camPort j.port).cap with
  | some f => if !j.frame.ended ∧ f.num = j.frame.num then f else j.frame
  | none => j.frame

/-- Sample (x, y) of a job's raw frame; one that has not come when an ABORT ends the frame is a free value. -/
def CamFrame.sample (f : CamFrame) (x y : Nat) : Nat :=
  match f.lines[y]? with
  | some l => l.getD x 0
  | none => Config.freeFun .camera [11, f.num, f.sof, x, y] % 65536

/-- R484: pipe `k` completes the frame at its head, once it has ended or an ABORT ends it at its current line (R487). -/
def execPipeFrameDone (k : Fin 2) (s : State) : Res := if s.clocksOff then .next s else
  let k := k.val
  match (s.camPipe k).jobs with
  | [] => .next s
  | j :: rest =>
    if !j.frame.ended ∧ j.abort.isNone then .next s
    else
      let j := { j with frame := s.jobFrame j }
      let clean := s.camClean k j
      let stopped := decide (clean < j.h) || j.abort.isSome
      let lim := match j.abort with
        | some m => Nat.min m (if k = 0 then Nat.min j.frame.lines.length clean else clean)
        | none => clean
      let raw := if k = 1 then imgOf j.w j.h (fun x y => s.rdN (j.raw + 2 * (y * j.w + x)) 2) else imgOf j.w j.h j.frame.sample
      let s0 := s
      let im := camImage j.set j.w j.h raw (if j.tnr then some (fun x y => s0.rdN (j.refAt + 2 * (y * j.w + x)) 2) else none)
      let fr := s.free .camera
      let s := if stopped then fr.2 else s
      let rows := if stopped ∧ j.abort.isNone then fr.1 % (lim + 1) else lim
      let s := forN rows (fun y s => s.wrBytes (j.refAt + 2 * j.w * y) ((im.nr.getD y []).flatMap (leBytes 2))) s
      let s := if bitAt j.statsCfg 0 then s.camOutput j im rows else s
      let st := if stopped then (s, 0, 0) else s.camStats k j im
      let s := st.1
      let faults := j.frame.faults ||| (if stopped then 32 else 0)
      let status := camStatus faults
      let rec' := leBytes 4 (j.port + k * 4 + status * 8 + b2n j.late * 64 + b2n j.tnr * 128 + j.slot * 256) ++ leBytes 4 j.frame.num ++
        leBytes 2 j.frame.setseq ++ leBytes 2 j.pseq ++ leBytes 4 j.frame.fn ++ leBytes 8 j.frame.sof ++ leBytes 4 s.now ++ leBytes 4 0
      let s := (s.unitRecord j.ring rec').2
      let x := s.camPipe k
      let s := s.setCamPipe k { x with jobs := rest }
      let s := (s.set F.CAM_K_TNR_REF_VALID (b2n x.ref.isSome) k).set F.CAM_K_TNR_REF_PORT j.port k
      let s := if rest.isEmpty then s.set F.CAM_K_STAT_STATE (if s.flag F.CAM_K_CTL_EN k then 0 else 2) k else s
      let s := if k = 1 then s.setCamPort j.port { s.camPort j.port with used := setBits (s.camPort j.port).used j.frame.slot 1 0 } else s
      let s := (s.incWrap R.CAM_K_FRAMES 1 k).inc64 R.CAM_K_PIX_LO (j.w * rows) k
      let s := if st.2.2 = 0 then s else s.incSat R.CAM_K_FID_LOST 1 k
      let i := 40 + 8 * k
      let s := ((s.countAll i 8 0x10 (j.w * rows)).countAll i 8 0x11).countAll i 8 0x12 st.2.1
      let s := s.raise (0xB4 + k)
      let s := if status = 0 then s
        else ((s.set F.CAM_K_LAST_ERR_STATUS status k).set F.CAM_K_LAST_ERR_PORT j.port k).raiseIf (s.flag F.CAM_K_EVMASK_ERR_EN k) 0xB6
      .next (if s0.camIn k j then s else s.unpredictable (s0.camReach j))

/-- A write of CAM_K_CTL: EN, and ABORT, which ends the frame in progress after `lines` lines (R487). -/
def State.writeCamPipe (s : State) (k : Nat) (v : RegWord) (lines : Nat) : State :=
  let s := s.set F.CAM_K_CTL_EN (bitsOf v.toNat 0 1) k
  let x := s.camPipe k
  match x.jobs with
  | [] => s.set F.CAM_K_STAT_STATE (if bitAt v.toNat 0 then 0 else 2) k
  | j :: rest =>
    if bitAt v.toNat 1 ∧ j.abort.isNone ∧ lines < j.h then
      s.setCamPipe k { x with jobs := { j with abort := some lines } :: rest }
    else s

/-- R487: CAM_K_CTL.ABORT; `lines` says how many lines the pipe has ended. -/
def execCamPipeAbort (who : Requester) (k : Fin 2) (v : RegWord) (lines : Nat) (s : State) : Res :=
  s.ifWriteV who (R.CAM_K_CTL.at k.val 0) v (fun s => .next (s.writeCamPipe k.val v lines))

/-- A write of CAM_K_OUT_RING, checked where it sets EN (R487). -/
def State.writeCamRing (s : State) (k : Nat) (v : RegWord) : State :=
  if !bitAt v.toNat 13 ∨ s.ringFits (bitsOf v.toNat 0 13) 32 false then s.wr R.CAM_K_OUT_RING (bitsOf v.toNat 0 14) k
  else s.set F.CAM_K_OUT_RING_EN 0 k

/-! ## Port control (R473, R487) -/

/-- The checks of EN: sizes, and the raw buffer of the route. -/
def State.camSizeOk (s : State) (p route : Nat) : Bool :=
  let w := s.get F.CAM_P_SIZE_WIDTH p
  let h := s.get F.CAM_P_SIZE_HEIGHT p
  let ok (n : Nat) : Bool := decide (64 ≤ n) && decide (n ≤ 8192) && n % 2 == 0
  ok w && ok h && (route == 0 || s.rd64 R.CAM_P_RAW_LO p % 64 == 0) &&
    (route != 2 || (decide (2 * w * h ≤ s.rd R.CAM_P_RAW_STRIDE p) && s.get F.CAM_P_RAW_HI_SLOTS p != 0))

/-- PEER names the port that holds pipe A, in every port's status (R473, R487); 0 where none does. -/
def State.camPeers (s : State) : State := (forN 4 (fun q s => s.set F.CAM_P_STAT_PEER s.pipeAPort q) s).camWaitA

/-- A write of CAM_P_CTL. ENABLE that becomes 1 aborts a plumb run of domain 29 (R492). -/
def State.writeCamCtl (s : State) (p : Nat) (v : RegWord) : State :=
  let en := s.flag F.CAM_P_CTL_EN p
  let route := bitsOf v.toNat 9 2
  let holder := (upTo 4).find? (fun q => q != p && s.holdsA q)
  let bound := decide (route = 1) && holder.isSome
  let route := if bound then s.get F.CAM_P_CTL_ROUTE p else route
  let s := ((s.set F.CAM_P_CTL_LANES (bitsOf v.toNat 1 2) p).set F.CAM_P_CTL_DT (bitsOf v.toNat 3 2) p).set F.CAM_P_CTL_VC (bitsOf v.toNat 5 4) p
  let s := s.set F.CAM_P_CTL_ROUTE route p
  let s := (s.set F.CAM_P_STAT_RESULT (b2n bound) p).camPeers
  if !bitAt v.toNat 0 then
    if en then ((((s.camEnd p true).set F.CAM_P_CTL_EN 0 p).set F.CAM_P_STAT_STATE 0 p).set F.CAM_P_STAT_LOCKED 0 p).camPeers
    else s
  else if en then s
  else if !s.camSizeOk p route then s.set F.CAM_P_STAT_RESULT 2 p
  else
    let c : CamPort := { s.camPort p with
      lanes := bitsOf v.toNat 1 2, dt := bitsOf v.toNat 3 2, vc := bitsOf v.toNat 5 4, route := route,
      w := s.get F.CAM_P_SIZE_WIDTH p, h := s.get F.CAM_P_SIZE_HEIGHT p, cap := none, lastBad := true }
    ((((s.setCamPort p c).set F.CAM_P_CTL_EN 1 p).set F.CAM_P_STAT_STATE 1 p).wr R.CAM_P_FRAME 0 p).portEnabled 29

/-- R487: a write of CAM_P_CTL that sets EN starts the port, or is refused with BAD_SIZE. -/
def execCamPortEnable (who : Requester) (p : Fin 4) (v : RegWord) (s : State) : Res :=
  s.ifWriteV who (R.CAM_P_CTL.at p.val 0) v (fun s => .next (s.writeCamCtl p.val v))

/-- R473: a write of CAM_P_CTL that binds the port to pipe A, or is refused with BOUND. -/
def execCamRoute (who : Requester) (p : Fin 4) (v : RegWord) (s : State) : Res :=
  s.ifWriteV who (R.CAM_P_CTL.at p.val 0) v (fun s => .next (s.writeCamCtl p.val v))

end Sys2Proof.Machine
end

