-- ==== Sys2Proof/Machine/Shell.lean ====
section
/-!
DEFINITION. The shells: bundles, band windows, quick mode, checking, retirement and restoring of oars (R45, R127–R146, R618).
-/
namespace Sys2Proof.Machine

open Sys2Proof

/-! ## Roles (R136–R138, R142) -/

/-- ROLE codes. -/
def roleActive : Nat := 0
def roleSpare : Nat := 1
def roleRetired : Nat := 2
def roleTesting : Nat := 3

/-- ROLE of oar `m` of shell `k`. -/
def State.role (s : State) (k m : Nat) : Nat := bitsOf (s.get F.SHL_MAP_ROLE k) (2 * m) 2

/-- Oar `m` of shell `k` has a role: SHL_MAP and OAR_STAT. -/
def State.putRole (s : State) (k m r : Nat) : State :=
  (s.set F.SHL_MAP_ROLE (setBits (s.get F.SHL_MAP_ROLE k) (2 * m) 2 r) k).set F.OAR_STAT_ROLE r k m

/-- Active oars of shell `k`. -/
def State.oarsActive (s : State) (k : Nat) : Nat := ((upTo 9).filter (fun j => s.role k j == roleActive)).length

/-- ACTIVE, SPARE and DEGRADED show the roles (R142). -/
def State.rolesShown (s : State) (k : Nat) : State :=
  let a := s.oarsActive k
  let s := s.set F.SHL_STAT_ACTIVE a k
  let s := s.set F.SHL_STAT_SPARE (((upTo 9).find? (fun j => s.role k j == roleSpare)).getD 15) k
  s.set F.SHL_STAT_DEGRADED (b2n (a == 7)) k

/-- They follow the roles; a shell that comes to 7 active oars raises EV_SHELL_DEGRADED (R137). -/
def State.showRoles (s : State) (k : Nat) : State :=
  (s.rolesShown k).raiseIf (s.oarsActive k == 7 && s.get F.SHL_STAT_ACTIVE k != 7) (0x44 + k)

/-- Oar `m` of shell `k` takes a role. -/
def State.setRole (s : State) (k m r : Nat) : State := (s.putRole k m r).showRoles k

/-- The standby spare of a shell. -/
def State.spare (s : State) (k : Nat) : Option Nat := (upTo 9).find? (fun j => s.role k j == roleSpare)

/-- Oar `m` of shell `k` is retired for a cause (1 MISMATCH, 2 SOFTWARE): in the same cycle the spare takes an active oar's place; the
bundle that it holds is to be rendered again, SHL_FAIL records it and EV_OAR_RETIRED is raised (R136, R138). A retirement for a hard
fault is still to be recorded in the ledger (R543). -/
def State.retireOar (s : State) (k m cause : Nat) : State :=
  let active := s.role k m == roleActive
  let s := s.putRole k m roleRetired
  let s := match active, s.spare k with
    | true, some j => s.putRole k j roleActive
    | _, _ => s
  let s := s.showRoles k
  let x := s.shell k
  let s := match KMap.get (fun _ => none) x.stalled m with
    | some b => s.setShell k { x with stalled := KMap.put (fun _ => none) x.stalled m none, again := x.again ++ [b] }
    | none => s
  let s := s.set F.OAR_STAT_BUSY 0 k m
  let s := (s.set F.SHL_FAIL_OAR m k).set F.SHL_FAIL_CAUSE cause k
  let s := if cause = 1 then { s with ledger := { s.ledger with retired := s.ledger.retired + 1 } } else s
  s.raise (0x50 + k)

/-! ## Bands of a group (R132) -/

/-- First band row of a course for the group whose top line's first entry is row `row` of tile `t` (R107, R132). -/
def State.bandFirst (s : State) (x : Course) (t : Tile) (row : Nat) : Int :=
  let d := x.desc
  let dz := d.depth - nth t.pos 2
  let yTop := t.org 0 row 1 + asr (if 0 ≤ dz then dz * s.render.sMax else dz * s.render.sMin) 24
  let first :=
    if d.geom = 0 then floorDiv ((d.y0 - yTop) * d.h) d.hmm - (x.taps / 2 : Nat) - 1
    else match d.coords (t.org 0 row 0) yTop with
      | some (_, r) => r / 256 - 3
      | none => -3
  if x.rows < x.need then first + ((x.need - x.rows) / 2 : Nat) else first

/-- The rows that a shell holds of a course (R121, R132). -/
def State.bandsOf (s : State) (t : Tile) (row : Nat) (x : Course) : Bands :=
  let first := s.bandFirst x t row
  let d := x.desc
  { luma := heldRows first x.rows d.h
    chroma := if d.subY then heldRows (first / 2) (ceilDiv x.rows 2 + 1) d.hC else heldRows first x.rows d.hC }

/-! ## Rendering a bundle (R131) -/

/-- The bond that the shells render: the one admitted or repeated, else the empty bond (R43). -/
def State.bondNow (s : State) : Bond := s.render.bond.getD { bg := [0, 0, 0], courses := [] }

/-- A ray as the oar hands it on, with its course samples and substitutions (R127). -/
structure Cast where
  ray : Ray
  samples : Nat
  clamps : Nat
  /-- The courses missed for a poisoned value (R617). -/
  lost : List Nat := []

/-- Whether the band buffer of shell `sh` holds a poisoned line (R405, R408). Which rows of which course it holds there the spec does not
say, so that which samples read it is free. -/
def State.bandPoison (s : State) (sh : Nat) : Bool :=
  s.poison.any (fun e => e.2 && decide (0x08000000 + sh * 0xC00000 ≤ e.1 * 64) && decide (e.1 * 64 < 0x08000000 + (sh + 1) * 0xC00000))

/-- Whether ray `k` of a bundle of shell `sh` reads a poisoned value of a course's band: a free choice while the buffer holds one (R617). -/
def State.bandLost (s : State) (sh : Nat) (b : Bundle) (k : Nat) (x : Course) : Bool :=
  s.bandPoison sh && Config.freeFun .result [49, s.strokeNum, sh, b.tile, b.col, b.row, k, x.idx] % 2 == 1

/-- The rays of a bundle of shell `sh`, view by view. The empty bond gives no course sample (R43). -/
def State.castBundle (s : State) (sh : Nat) (b : Bundle) : List Cast :=
  match s.curTile b.tile, s.curTile b.topTile with
  | some t, some top =>
    let n := viewCount s.render.views t.view
    let bond := s.bondNow
    (upTo n).map (fun k =>
      let sl := viewSlope s.render.views t.view k
      let a := s.castRay bond b.quick s.render.stage2 ((upTo 3).map (t.org b.col b.row)) ((upTo 3).map (t.dir sl))
        (fun x => { s.bandsOf top b.topRow x with lost := s.bandLost sh b k x })
      { ray := { addr := t.rayAddr n b.col b.row k, c := a.c.map Int.toNat, quick := b.quick && s.render.bond.isSome, clamp := a.clamps != 0, term := a.term }
        samples := if s.render.bond.isNone then 0 else a.samples, clamps := a.clamps, lost := a.lost })
  | _, _ => []

/-- Rays are handed to conditioning. -/
def State.pushRays (s : State) (l : List Ray) : State := { s with render := { s.render with rays := s.render.rays ++ l } }

/-- Sum of a list. -/
def sumOf (l : List Nat) : Nat := l.foldl (· + ·) 0

/-- The poisoned reads of a bundle count where they arise (R408, R412, R617): in the band buffer of shell `k`, else in a plane or flattened
course of a course that a ray missed. How many reads of one line there are is free; a row may have been fetched for an earlier bundle. -/
def State.countPoison (s : State) (k : Nat) (cs : List Cast) : State :=
  s.bondNow.courses.foldl (fun s x =>
    if !cs.any (fun c => c.lost.contains x.idx) then s
    else match s.poisonIn [(0x08000000 + k * 0xC00000, 0xC00000)], s.poisonIn (match x.flat with
        | some p => [(p, x.desc.w * x.desc.h * 8)]
        | none => x.desc.extents) with
      | some a, none => s.poisonReads a 1
      | _, some a => s.poisonReads a 0
      | none, none => s) s

/-- The counts of a rendered bundle (R121, R140, R145, R563). -/
def State.countBundle (s : State) (k m : Nat) (quick : Bool) (cs : List Cast) : State :=
  let n := cs.length
  let samp := sumOf (cs.map (·.samples))
  let clamps := sumOf (cs.map (·.clamps))
  let term := (cs.filter (fun c => c.ray.term)).length
  let s := (s.inc64 R.SHL_RAYS_LO n k).inc64 R.SHL_SAMP_LO samp k
  let s := (s.inc64 R.OAR_SAMP_LO samp k m).inc64 R.OAR_BUNDLES_LO 1 k m
  let s := if quick then s.inc64 R.SHL_LATE_LO n k else s
  let s := s.inc64 R.SHL_TERM_LO term k
  let s := s.setShell k { s.shell k with samp := (s.shell k).samp + samp }
  let s := (s.count (36 + k) 0x10 n).count (36 + k) 0x11 samp
  let s := s.count (36 + k) 0x12 (if quick then n else 0)
  let s := (s.count (36 + k) 0x13 term).count (36 + k) 0x15 clamps
  if clamps = 0 then s
  else
    let s := (s.incSat R.SHL_CLAMP_SAMP clamps k).incSat R.OAR_CLAMP_CNT clamps k m
    let s := s.set F.OAR_STAT_CLAMP 1 k m
    let s := s.raiseIf (!(s.shell k).clampEv && s.flag F.SHL_EVMASK_CLAMP_EN k) (0x48 + k)
    s.setShell k { s.shell k with clampEv := true }

/-- The R42 rate in tenths of a ray per ns: 32.4 Gray/s, or 27.0 with any strand in the 48-bit format or the mirror on. -/
def State.rate10 (s : State) : Nat :=
  if (upTo 96).any (fun k => s.flag F.STR_STAT_WIDE_ACT k) || s.cond.mirror then 270 else 324

/-- The second trigger of R45 for `n` rays: they exceed a quarter of the R42 rate times the time left to the finish. -/
def State.overTrigger (s : State) (n : Nat) : Bool := decide (s.rate10 * (s.finishTime - s.now) < n * 40)

/-- The next bundle of a shell and the shell without it (R131, R136). -/
def State.nextBundle (s : State) (k : Nat) : Option (Bundle × Shell) :=
  let x := s.shell k
  match x.again, x.lines with
  | b :: l, _ => some (b, { x with again := l })
  | [], (e :: es) :: ls =>
    match s.curTile e.1 with
    | none => none
    | some t =>
      let b : Bundle := { tile := e.1, row := e.2, col := x.col, topTile := x.topTile, topRow := x.topRow, quick := s.flag F.SHL_STAT_QUICK k }
      let n := viewCount s.render.views t.view
      let x := { x with unrendered := x.unrendered - n }
      if x.col + 1 < t.nu then some (b, { x with col := x.col + 1 })
      else if !es.isEmpty then some (b, { x with col := 0, lines := es :: ls })
      else
        let top := ((ls.head?).bind (·.head?)).getD (0, 0)
        some (b, { x with col := 0, lines := ls, topTile := top.1, topRow := top.2 })
  | [], _ => none

/-- Who checks a bundle of oar `m`: the standby spare, else the next other active oar while the shell stays below the second trigger
(R135). -/
def State.checkerFor (s : State) (k m n : Nat) : Option Nat :=
  match s.spare k with
  | some j => some j
  | none =>
    if s.overTrigger (s.unrendered k + n) then none
    else ((upTo 8).map (fun i => (m + 1 + i) % 9)).find? (fun j => s.role k j == roleActive)

/-- The active oar after `m`, whose turn it is to be checked next. -/
def State.nextTurn (s : State) (k m : Nat) : Nat :=
  (((upTo 9).map (fun i => (m + 1 + i) % 9)).find? (fun j => s.role k j == roleActive)).getD m

/-- Oar `m` of shell `k` renders a bundle; it is sent, or held for its check (R131, R135). -/
def State.renderBundle (s : State) (k m : Nat) (b : Bundle) : State :=
  let cs := s.castBundle k b
  let s := (s.countPoison k cs).countBundle k m b.quick cs
  let x := s.shell k
  let x := { x with taken := x.taken + 1 }
  let turn := if s.role k x.turn = roleActive then x.turn else s.nextTurn k x.turn
  let due := x.checkEn && x.check.isNone && decide (2 ^ x.checkLog ≤ x.taken) && m == turn
  match due, s.checkerFor k m cs.length with
  | true, some j => s.setShell k { x with taken := 0, turn := s.nextTurn k m, check := some { bundle := b, oar := m, checker := j } }
  | _, _ => (s.setShell k x).pushRays (cs.map (·.ray))

/-- Whether oar `m` of shell `k` may take a bundle: conditioning that waits holds the shells back (R171). -/
def State.oarFree (s : State) (k m : Nat) : Bool :=
  s.render.showT.isSome && !s.stroke.recovery && s.cond.wait == .none && s.role k m == roleActive && (KMap.get (fun _ => none) (s.shell k).stalled m).isNone

/-- R131: a free oar takes the next bundle of its shell. With `wait`, a band row that it needs has not arrived: it stalls (R132, R618). -/
def execBundleRender (sh : Fin 4) (oar : Fin 9) (wait : Bool) (s : State) : Res := if s.clocksOff then .next s else
  let k := sh.val
  let m := oar.val
  if s.oarFree k m then
    match s.nextBundle k with
    | none => .next s
    | some (b, x) =>
      if wait then
        .next ((s.setShell k { x with stalled := KMap.put (fun _ => none) x.stalled m (some b) }).set F.OAR_STAT_BUSY 1 k m)
      else .next ((s.setShell k x).renderBundle k m b)
  else .next s

/-- R618: the row that an oar waits for arrives. The cycles that it waited are DRAM's: a free value. -/
def execBandRowArrival (sh : Fin 4) (oar : Fin 9) (s : State) : Res := if s.clocksOff then .next s else
  let k := sh.val
  let m := oar.val
  match KMap.get (fun _ => none) (s.shell k).stalled m with
  | none => .next s
  | some b =>
    let r := s.free .dram
    let n := r.1 % 2 ^ 32
    let s := (r.2.incSat R.OAR_STALL n k m).incSat R.SHL_BAND_STALL n k
    let s := s.count (36 + k) 0x14 n
    let s := s.setShell k { s.shell k with stalled := KMap.put (fun _ => none) (s.shell k).stalled m none }
    .next ((s.set F.OAR_STAT_BUSY 0 k m).renderBundle k m b)

/-! ## Quick mode (R45) -/

/-- The instant at which a shell with `n` unrendered rays goes to quick mode (R45): the finish minus M, or the first ns at which the second
trigger holds, whichever is earlier. -/
def State.quickAt (s : State) (n : Nat) : Nat :=
  Nat.min (s.finishTime - s.get F.TIME_STK_WIN_MARGIN_US * 1000) (s.finishTime - (ceilDiv (n * 40) s.rate10 - 1))

/-- R45: at the earlier of the two instants a shell switches its remaining rays to quick mode, those of bundles that wait too. -/
def execQuickModeEntry (sh : Fin 4) (s : State) : Res := if s.clocksOff then .next s else
  let k := sh.val
  if s.render.showT.isSome && !s.stroke.recovery && !s.flag F.SHL_STAT_QUICK k && s.unrendered k != 0 then
    let s := s.advanceTo (s.quickAt (s.unrendered k))
    let s := s.set F.SHL_STAT_QUICK 1 k
    let x := s.shell k
    let quick (b : Bundle) : Bundle := { b with quick := true }
    let s := s.setShell k { x with
      late := true, again := x.again.map quick, stalled := x.stalled.map (fun e => (e.1, e.2.map quick)) }
    let s := s.incSat R.SHL_LATE_STROKES 1 k
    let s := s.set F.SHL_QUICK_AT_BEFORE_US (Nat.min 65535 ((s.finishTime - s.now) / 1000)) k
    let s := s.set F.SHL_QUICK_AT_STROKE (s.strokeNum % 65536) k
    .next (s.raise (0x40 + k))
  else .next s

/-! ## Checking (R135, R136) -/

/-- The check of a shell ends: its bundle is sent, with the given rays. -/
def State.endCheck (s : State) (k : Nat) (rays : List Ray) : State :=
  (s.setShell k { s.shell k with check := none }).pushRays rays

/-- A check in progress is dropped, and its bundle sent from the first render (R135). -/
def State.dropCheck (s : State) (k : Nat) : State :=
  match (s.shell k).check with
  | some c => s.endCheck k ((s.castBundle k c.bundle).map (·.ray))
  | none => s

/-- The faulting oar of a check is recorded (R136, R144): on every hard fault, whatever AUTO_RETIRE reads, and on no soft one: a DESIGN
CHOICE (log entry 122). -/
def State.recordFault (s : State) (k m : Nat) (rays : List Ray) : State :=
  let a := match rays with
    | r :: _ => r.addr
    | [] => 0
  (s.set F.OAR_FAIL_RAY_RAY a k m).wr R.OAR_FAIL_TIME s.now k m

/-- The rays that the third of three disagreeing renders gives: nothing says what a faulting oar computes. -/
def State.freeRays (s : State) (l : List Ray) : List Ray :=
  l.map (fun r =>
    let f (k : Nat) : Nat := Config.freeFun .result [2, r.addr, k, s.now]
    { r with c := (upTo 3).map (fun k => f k % 65521), clamp := f 3 % 2 == 1, term := f 4 % 2 == 1 })

/-- R135: the two or three renders of a checked bundle are compared. OAR_BUNDLES counts the first render alone: a DESIGN CHOICE (log entry
122). -/
def execCheckCompare (sh : Fin 4) (result : CheckResult) (s : State) : Res := if s.clocksOff then .next s else
  let k := sh.val
  match (s.shell k).check with
  | none => .next s
  | some c =>
    let rays := (s.castBundle k c.bundle).map (·.ray)
    let odd (m : Nat) : Bool := m == c.oar || m == c.checker
    match result with
    | .agree =>
      let s := (s.incSat R.OAR_CHECK_CNT 1 k c.oar).incSat R.OAR_CHECK_CNT 1 k c.checker
      .next ((s.count (36 + k) 0x16).endCheck k rays)
    | .soft m _ =>
      if odd m.val then
        let s := (s.incSat R.OAR_SOFT_CNT 1 k m.val).set F.OAR_STAT_SOFT 1 k m.val
        let s := s.raiseIf (s.flag F.SHL_EVMASK_SOFT_EN k) (0x4C + k)
        .next ((s.count (36 + k) 0x16).endCheck k rays)
      else .next s
    | .hard m _ =>
      if odd m.val then
        let s := (s.recordFault k m.val rays).count (36 + k) 0x16
        let s := s.endCheck k rays
        .next (if bitAt (s.shell k).ctl 13 then s.retireOar k m.val 1 else s)
      else .next s
    | .noTwo _ => .next (((s.incSat R.SHL_MISMATCH 1 k).count (36 + k) 0x16).endCheck k (s.freeRays rays))
    | .leftWindow => .next (s.endCheck k rays)

/-! ## Commands and self-tests (R138, R146) -/

/-- A self-test of an oar starts; a restore's test shows as ROLE TESTING. -/
def State.startTest (s : State) (k m : Nat) (restore : Bool) : State :=
  let s := s.set F.OAR_STAT_TEST 3 k m
  if restore then s.setRole k m roleTesting else s

/-- The restore that waits on a shell begins its self-test, in a recovery window. -/
def State.startRestore (s : State) (k : Nat) : State :=
  match (s.shell k).cmd with
  | some (m, 2) => if s.role k m = roleRetired ∧ (s.shell k).passed.isNone then s.startTest k m true else s
  | _ => s

/-- A write of SHL_CMD (R138): BAD_OAR at once, else the command waits for its catch; ignored while one waits. -/
def State.writeShlCmd (s : State) (k : Nat) (v : RegWord) : Res :=
  let m := bitsOf v.toNat 0 4
  let op := bitsOf v.toNat 4 2
  if s.get F.SHL_STAT_CMD_RESULT k = 3 ∨ op = 0 ∨ op = 3 then .next s
  else if 8 < m then .next (s.set F.SHL_STAT_CMD_RESULT 1 k)
  else
    let s := s.setShell k { s.shell k with cmd := some (m, op), passed := none }
    let s := s.set F.SHL_STAT_CMD_RESULT 3 k
    .next (if s.stroke.recovery then s.startRestore k else s)

def execShellCmdRetire (who : Requester) (sh : Fin 4) (v : RegWord) (s : State) : Res :=
  s.ifWriteV who (R.SHL_CMD.at sh.val 0) v (fun s => s.writeShlCmd sh.val (BitVec.ofNat 32 (setBits v.toNat 4 2 1)))

def execShellCmdRestore (who : Requester) (sh : Fin 4) (v : RegWord) (s : State) : Res :=
  s.ifWriteV who (R.SHL_CMD.at sh.val 0) v (fun s => s.writeShlCmd sh.val (BitVec.ofNat 32 (setBits v.toNat 4 2 2)))

/-- A write of OAR_CTL: TEST is ignored on an ACTIVE oar (R146). -/
def State.writeOarCtl (s : State) (k m : Nat) (v : RegWord) : State :=
  if bitAt v.toNat 0 && (s.role k m == roleSpare || s.role k m == roleRetired) then
    s.setShell k { s.shell k with tests := setBits (s.shell k).tests m 1 1 }
  else s

def execOarSelfTest (who : Requester) (sh : Fin 4) (oar : Fin 9) (v : RegWord) (s : State) : Res :=
  s.ifWriteV who (R.OAR_CTL.at sh.val oar.val) v (fun s => .next (s.writeOarCtl sh.val oar.val v))

/-- R138: a self-test ends within 50 µs. -/
def execOarSelfTestDone (sh : Fin 4) (oar : Fin 9) (pass : Bool) (s : State) : Res := if s.clocksOff then .next s else
  let k := sh.val
  let m := oar.val
  if s.get F.OAR_STAT_TEST k m = 3 then
    let s := s.set F.OAR_STAT_TEST (if pass then 1 else 2) k m
    if s.role k m = roleTesting then .next ((s.setRole k m roleRetired).setShell k { (s.setRole k m roleRetired).shell k with passed := some pass })
    else .next s
  else .next s

/-- At the finish: requested self-tests and the restore's start, a check in progress is dropped (R135, R138). -/
def State.shellFinish (s : State) (k : Nat) : State :=
  let s := s.dropCheck k
  let s := forN 9 (fun m s =>
    if bitAt (s.shell k).tests m && (s.role k m == roleSpare || s.role k m == roleRetired) then s.startTest k m false else s) s
  (s.setShell k { s.shell k with tests := 0 }).startRestore k

/-- At the catch, which ends a stroke (R28): the stroke's course samples are shown (R140), the command that waits takes effect (R138), quick
mode and what a stroke holds end. -/
def State.shellCatch (s : State) (k : Nat) : State :=
  let s := s.wr R.SHL_LAST_SAMP (Nat.min 0xFFFFFFFF (s.shell k).samp) k
  let s := s.set F.SHL_STAT_QUICK 0 k
  let s := forN 9 (fun m s => s.set F.OAR_STAT_BUSY 0 k m) s
  let s := s.setShell k { s.shell k with samp := 0, clampEv := false, late := false, stalled := [], again := [], check := none }
  let result (s : State) (r : Nat) : State :=
    (s.set F.SHL_STAT_CMD_RESULT r k).setShell k { (s.set F.SHL_STAT_CMD_RESULT r k).shell k with cmd := none, passed := none }
  match (s.shell k).cmd with
  | none => s
  | some (m, op) =>
    if op = 1 then (if s.role k m = roleRetired then result s 4 else result (s.retireOar k m 2) 0)
    else if s.role k m = roleActive ∨ s.role k m = roleSpare then result s 4
    else match (s.shell k).passed with
      | none => s
      | some true => result (s.setRole k m (if s.get F.SHL_STAT_ACTIVE k < 8 then roleActive else roleSpare)) 0
      | some false => result ((s.set F.SHL_FAIL_OAR m k).set F.SHL_FAIL_CAUSE 3 k) 2

end Sys2Proof.Machine
end

