-- ==== Sys2Proof/Machine/Conditioning.lean ====
section
/-!
DEFINITION. Ray conditioning: the six stages, the map set, curve slots, the mirror, and the requests that recovery windows handle
(R22, R147–R173, R212, R502, R616).
-/
namespace Sys2Proof.Machine

open Sys2Proof

/-- Address of the conditioning header (R161, R405). -/
def condHdr : Nat := 0x0DA00200

/-! ## The stages (R148–R153) -/

/-- The largest linear value. -/
def linMax : Int := 0x3FFFFF

/-- Entry `i` of the decode and of the encode table of the curve copy in force (R166). -/
def State.curveD (s : State) (i : Nat) : Int := (leAt s.cond.curve (4 * i) 4 % 2 ^ 22 : Nat)
def State.curveE (s : State) (i : Nat) : Int := (leAt s.cond.curve (0x4040 + 2 * i) 2 : Nat)

/-- The source decode of a code (R148). -/
def State.decodeLin (s : State) (c : Nat) : Int :=
  let i := c / 16
  let d0 := s.curveD i
  clampI 0 linMax (d0 + asr ((s.curveD (i + 1) - d0) * (c % 16 : Nat) + 8) 4)

/-- Stage 1: the hogel matrix (R149). -/
def applyMatrix (m l : List Int) : List Int :=
  (upTo 3).map (fun r => clampI 0 linMax (asr (nth m (3 * r) * nth l 0 + nth m (3 * r + 1) * nth l 1 + nth m (3 * r + 2) * nth l 2 + 8192) 14))

/-- Stage 2: per-ray gains (R150). -/
def applyGains (g l : List Int) : List Int := (upTo 3).map (fun p => clampI 0 linMax (asr (nth l p * nth g p + 1024) 11))

/-- Stage 3: temperature-band gains (R151). -/
def applyBand (b l : List Int) : List Int := (upTo 3).map (fun p => clampI 0 linMax (asr (nth l p * nth b p + 16384) 15))

/-- Stage 5: the wire curve (R153). -/
def State.wireCode (s : State) (l : Nat) : Nat :=
  let u : Int :=
    if 2 ^ 20 ≤ l then s.curveE 832
    else
      let seg := if l < 256 then 0 else Nat.log2 l - 7
      let base := if l < 256 then 0 else 2 ^ (seg + 7)
      let sh := if l < 256 then 2 else seg + 1
      let idx := 64 * seg + (l - base) / 2 ^ sh
      let frac := (l - base) % 2 ^ sh
      let e0 := s.curveE idx
      e0 + asr ((s.curveE (idx + 1) - e0) * (frac : Int) + (2 ^ (sh - 1) : Nat)) sh
  (clampI 0 65520 u).toNat

/-- The 8 bits of a byte reversed. -/
def bitrev8 (v : Nat) : Nat := (upTo 8).foldl (fun r k => r * 2 + v / 2 ^ k % 2) 0

/-- Stage 6: the sent code (R154). -/
def sentCode (u d a p fcount : Nat) (dither : Bool) : Nat :=
  let q := 16 - d
  let pos := (bitsOf a 0 8 * 37 + bitsOf a 8 8 * 101 + bitsOf a 16 8 * 53 + bitsOf a 24 5 * 29) % 256
  let ph := (fcount + pos + 85 * p) % 256
  let th := bitrev8 ph / 2 ^ (8 - q)
  let w := if dither then (u + th) / 2 ^ q else if q = 0 then u else (u + 2 ^ (q - 1)) / 2 ^ q
  Nat.min w (2 ^ d - 1)

/-! ## Map data (R157–R160, R163, R171) -/

/-- A poisoned map read is counted, and EV_COND_POISON is raised at most once per stroke (R171). -/
def State.mapPoisonRead (s : State) : State :=
  let n := s.rd32 (condHdr + 0x54)
  let s := s.wr32 (condHdr + 0x54) (Nat.min (n + 1) 0xFFFFFFFF)
  let s := s.raiseIf (!s.cond.poisonEv) 0x31
  { s with cond := { s.cond with poisonEv := true } }

/-- Conditioning reads a poisoned block, record or list: one read for all the rays of a stroke that it serves (R171). -/
def State.mapPoison (s : State) (a : Nat) : State :=
  if s.cond.poisonSeen.contains a then s
  else { s.mapPoisonRead with cond := { s.mapPoisonRead.cond with poisonSeen := a :: s.cond.poisonSeen } }

/-- What a directory entry gives a tile (R158). -/
structure DirEntry where
  mode : Nat
  mat : Nat
  tileMat : List Int
  bandEn : Bool
  addr : Nat
  spare : Nat
  count : Nat

/-- The identity matrix in Q2.14. -/
def identity : List Int := [16384, 0, 0, 0, 16384, 0, 0, 0, 16384]

/-- A tile without a VALID entry (R158). -/
def noEntry : DirEntry := { mode := 0, mat := 0, tileMat := identity, bandEn := false, addr := 0, spare := 0, count := 0 }

/-- Whether a VALID entry fails BAD_TILE (R164). -/
def DirEntry.bad (e : DirEntry) : Bool :=
  e.mode == 3 || (e.mode == 2 && e.mat % 64 != 0) || e.spare % 8 != 0 || decide (4096 < e.count)

/-- The directory entry at `a` as its words say; none where VALID is 0. -/
def State.dirEntryAt (s : State) (a : Nat) : Option DirEntry :=
  let w := s.rd32 a
  if bitAt w 0 then
    some { mode := bitsOf w 1 2, mat := s.rdN (a + 8) 6, tileMat := (upTo 9).map (fun k => sgn 16 (s.rdN (a + 0x20 + 2 * k) 2)),
           bandEn := bitAt w 3, addr := a, spare := s.rdN (a + 0x10) 6, count := s.memFld (a + 0x18) 0 13 }
  else none

/-- The entry in force for a tile: not VALID, poisoned or bad ones give the neutral entry (R158, R163, R171). -/
def State.dirEntry (s : State) (t : Tile) : DirEntry × State :=
  match s.cond.map with
  | none => (noEntry, s)
  | some m =>
    let a := m.dir + 128 * t.idx
    if s.poisoned a 128 then (noEntry, s.mapPoison a)
    else match s.dirEntryAt a with
      | some e => (if e.bad then noEntry else e, s)
      | none => (noEntry, s)

/-- The matrix of hogel `h` (R149). -/
def State.hogelMatrix (s : State) (e : DirEntry) (h : Nat) : List Int × State :=
  if e.mode = 1 then (e.tileMat, s)
  else if e.mode = 2 then
    let a := e.mat + 18 * h
    if s.poisoned a 18 then (identity, s.mapPoison a) else ((upTo 9).map (fun k => sgn 16 (s.rdN (a + 2 * k) 2)), s)
  else (identity, s)

/-- The gains of a ray (R150, R159). -/
def State.rayGains (s : State) (a : Nat) : List Int × State :=
  match s.cond.map with
  | none => ([2048, 2048, 2048], s)
  | some m =>
    if !m.gainEn then ([2048, 2048, 2048], s)
    else
      let blk := m.gain + 576 * (a / 128)
      if s.poisoned blk 576 then ([2048, 2048, 2048], s.mapPoison blk)
      else
        let w := leBits (s.rdBytes blk 576) (36 * (a % 128)) 36
        ([(bitsOf w 0 12 : Nat), (bitsOf w 12 12 : Nat), (bitsOf w 24 12 : Nat)], s)

/-- The band gains of a band (R151). -/
def State.bandGains (s : State) (e : DirEntry) (band : Nat) : List Int :=
  if e.bandEn then (upTo 3).map (fun p => ((s.rdN (e.addr + 0x40 + 6 * band + 2 * p) 2 : Nat) : Int)) else [32768, 32768, 32768]

/-- The device of a ray, by the chain map: its position, the ray's offset in its share, and the share (R227). -/
def State.deviceOf (s : State) (t : Tile) (off : Nat) : Option (Nat × Nat × Nat) :=
  let r := (upTo (2560 - t.first)).foldl (fun (acc : Option (Nat × Nat × Nat) × Nat) k =>
    match acc.1 with
    | some _ => acc
    | none =>
      let sh := s.share t.strand (t.first + k)
      if off < acc.2 + sh then (some (t.first + k, off - acc.2, sh), acc.2) else (none, acc.2 + sh)) (none, 0)
  r.1

/-- A spare entry as its words say: RAY, SLOT, MODE (R160). -/
structure SpareEntry where
  ray : Nat
  slot : Nat
  mode : Nat
deriving DecidableEq, Repr

/-- The spare entries at an address. -/
def State.spareList (s : State) (a n : Nat) : List SpareEntry :=
  (upTo n).map (fun k =>
    let w := s.rdN (a + 8 * k) 8
    { ray := bitsOf w 0 29, slot := bitsOf w 32 8, mode := bitsOf w 40 2 })

/-- The entries of a list that are in force for a tile: those with a valid MODE, a RAY inside the tile and above the previous RAY, and no
MOVE to a slot that an earlier entry of its device names (R163). An ignored entry names no slot, but its RAY counts for the order: a DESIGN
CHOICE (log entry 123). -/
def State.spareWalk (s : State) (t : Tile) (rays : Nat) : List SpareEntry → Option Nat → List SpareEntry → List SpareEntry
  | [], _, acc => acc
  | e :: l, prev, acc =>
    let inTile := decide (t.base ≤ e.ray) && decide (e.ray < t.base + rays)
    let rising := match prev with
      | none => true
      | some p => decide (p < e.ray)
    let pos (r : Nat) := (s.deviceOf t (r - t.base)).map (·.1)
    let twice := e.mode == 0 && acc.any (fun x => x.mode == 0 && x.slot == e.slot && pos x.ray == pos e.ray)
    s.spareWalk t rays l (some e.ray) (if decide (e.mode ≤ 1) && inTile && rising && !twice then acc ++ [e] else acc)

/-- The spare entries in force for a tile; a poisoned list reads as empty (R171). -/
def State.tileSpares (s : State) (t : Tile) (e : DirEntry) : List SpareEntry × State :=
  if e.count = 0 then ([], s)
  else if s.poisoned e.spare (8 * e.count) then ([], s.mapPoison e.spare)
  else (s.spareWalk t (t.rays s.render.views) (s.spareList e.spare e.count) none [], s)

/-! ## The strand FIFO (R156, R203) -/

/-- Bytes staged for `n` slots. -/
def State.slotBytes (s : State) (k n : Nat) : Nat := ceilDiv (n * s.slotBits k) 8

/-- The state with LEVEL following the FIFO of strand `k`. -/
def State.fifoLevel (s : State) (k : Nat) : State := s.set F.STR_FIFO_LEVEL (s.slotBytes k (s.strand k).fifo.length) k

/-- A slot staged. -/
def State.stage (s : State) (k pos slot v : Nat) : State :=
  s.setStrand k { s.strand k with fifo := KMap.put (fun _ => none) (s.strand k).fifo (pos * 2 ^ 20 + slot) (some v) }

/-- Three fields packed, R lowest. -/
def packFields (w : Nat) (f : List Nat) : Nat := (f[0]?).getD 0 + (f[1]?).getD 0 * 2 ^ w + (f[2]?).getD 0 * 2 ^ (2 * w)

/-! ## The mirror (R168) -/

/-- `n` bits written at a bit offset from an address, the other bits kept. -/
def State.putBits (s : State) (a off n v : Nat) : State :=
  let a := a + off / 8
  let o := off % 8
  let len := (o + n + 7) / 8
  s.wrN a len (setBits (s.rdN a len) o n v)

/-- The mirror record of a ray: address and bit offset, and its bits. -/
def State.mirrorPlace (s : State) (a : Nat) : Nat × Nat × Nat :=
  let base := s.rdN (condHdr + 0x40 + 8 * (s.strokeNum % 2)) 6
  if s.cond.mirWide then (base + 768 * (a / 128), 48 * (a % 128), 48) else (base + 576 * (a / 128), 36 * (a % 128), 36)

/-- The mirror write of a ray's sent fields of width `w` (R168). -/
def State.mirrorWrite (s : State) (a w : Nat) (f : List Nat) : State :=
  if !s.cond.mirOn then s
  else
    let p := s.mirrorPlace a
    let mw := if s.cond.mirWide then 16 else 12
    let conv (v : Nat) : Nat := if w = mw then v else if w < mw then v * 16 else v / 16
    let s := s.putBits p.1 p.2.1 p.2.2 (packFields mw (f.map conv))
    { s with cond := { s.cond with mirrored := true } }

/-! ## One ray (R147) -/

/-- The tile of a local ray address in the bank in force. -/
def State.tileOfRay (s : State) (a : Nat) : Option Tile :=
  (s.tiles s.render.bank).find? (fun t => decide (t.base ≤ a) && decide (a < t.base + t.rays s.render.views))

/-- The substitution of a loaded fiducial job for show time S (R502). -/
def State.fiducial (s : State) (r : Ray) : Ray × State :=
  match s.plumb.fid with
  | none => (r, s)
  | some j =>
    if s.render.showT ≠ some j.showTime ∨ j.notLit then (r, s)
    else match j.entries.find? (fun e => e.1 == r.addr) with
      | none => (r, s)
      | some e =>
        let v : Int := if j.add then sgn 16 e.2.2 else (e.2.2 : Nat)
        let c := (upTo 3).map (fun k =>
          let x : Int := ((r.c[k]?).getD 0 : Nat)
          if bitAt e.2.1 k then (if j.add then clampI 0 65520 (x + (if j.neg then -v else v)) else v).toNat else x.toNat)
        ({ r with c := c }, { s with plumb := { s.plumb with fid := some { j with rays := j.rays + 1 } } }.count 2 0x11)

/-- Stage 4 and the staging of a ray's fields in slot `off` of its device (R152): the spare slots that no entry names are staged as 0
with the device's first ray. -/
def State.placeRay (s : State) (t : Tile) (spares : List SpareEntry) (a pos off share v : Nat) : State :=
  let k := t.strand
  let n := s.devSpares k pos
  let here (e : SpareEntry) : Bool := (s.deviceOf t (e.ray - t.base)).map (·.1) == some pos
  let s := if off = 0 then
      forN n (fun j s => if spares.any (fun e => e.mode == 0 && e.slot == j && here e) then s else s.stage k pos (share + j) 0) s
    else s
  match spares.find? (fun e => e.ray == a) with
  | none => s.stage k pos off v
  | some e =>
    let s := s.stage k pos off 0
    if n ≤ e.slot then { s with cond := { s.cond with orphan := s.cond.orphan + 1 } }
    else if e.mode = 1 then { s with cond := { s.cond with dark := s.cond.dark + 1 } }
    else { s.stage k pos (share + e.slot) v with cond := { s.cond with moved := s.cond.moved + 1 } }

/-- A ray through the stages of R147; it waits where its strand's FIFO has no room (R203). A ray for a strand that is not UP is not
staged, and neither is one that comes after the CATCH of its show time has left: its slot is discarded (R202). -/
def State.conditionRay (s : State) (r0 : Ray) (rest : List Ray) : State :=
  let done (s : State) : State := { s with render := { s.render with rays := rest }, cond := { s.cond with wait := .none } }
  match s.tileOfRay r0.addr with
  | none => done s
  | some t =>
    let k := t.strand
    match s.deviceOf t (r0.addr - t.base) with
    | none => done s
    | some (pos, off, share) =>
      let up := s.strState k == strUp && (s.strand k).keptTo != s.nextCatch
      let need := if off = 0 then 1 + s.devSpares k pos else 2
      if up && decide (262144 < s.slotBytes k ((s.strand k).fifo.length + need)) then
        { s.set F.STR_FIFO_STALL 1 k with cond := { s.cond with wait := .fifo k } }
      else
        let (r, s) := s.fiducial r0
        let (e, s) := s.dirEntry t
        let (m, s) := s.hogelMatrix e ((r.addr - t.base) / viewCount s.render.views t.view)
        let (g, s) := s.rayGains r.addr
        let (sp, s) := s.tileSpares t e
        let ctx := s.latchedCtx k pos
        let l := r.c.map s.decodeLin
        let l := applyBand (s.bandGains e (bitsOf ctx 8 3)) (applyGains g (applyMatrix m l))
        let wide := s.flag F.STR_STAT_WIDE_ACT k
        let depth := Nat.min 16 (bitsOf ctx 4 4 + 8)
        let d := if wide then depth else Nat.min 12 depth
        let width := if wide then 16 else 12
        let f := (upTo 3).map (fun p => sentCode (s.wireCode (nth l p).toNat) d r.addr p s.cond.fcount (s.strand k).dither * 2 ^ (width - d))
        let s := s.mirrorWrite r.addr width f
        let s := { s with cond := { s.cond with rendered := true, sent := s.cond.sent || up } }
        done (if up then ((s.placeRay t sp r.addr pos off share (packFields width f)).fifoLevel k).noteReady k pos else s)

/-- The mirror bank that the stroke writes: what a mirror in a hole of the map may disturb (R601). -/
def State.mirrorReach (s : State) : Reach :=
  let base := s.rdN (condHdr + 0x40 + 8 * (s.strokeNum % 2)) 6
  { mem := fun a => decide (base ≤ a) && decide (a < base + 768 * 2 ^ 22) }

/-- What a chain map that breaks R227 may disturb (R601): the strand's traffic, and what its driver contexts show. -/
def strandReach (k : Nat) : Reach := { out := fun o => o.block == .strand, mem := fun a => inRange (drvCtx k 0) (2560 * 64) a && decide (a % 64 < 0x18) }

/-- The strand of a ray's tile where the shares of the tile's devices do not sum to its ray count (R227). -/
def State.chainBroken (s : State) (a : Nat) : Option Nat :=
  match s.tileOfRay a with
  | some t =>
    let n := t.rays s.render.views
    if ((s.tileDevices t n).map (s.share t.strand)).sum = n then none else some t.strand
  | none => none

/-- A ray is conditioned; by a chain map that breaks R227 with an unpredictable result on its strand (R601). -/
def State.conditionSent (s : State) (r : Ray) (l : List Ray) : State :=
  match s.chainBroken r.addr with
  | some k => (s.conditionRay r l).unpredictable (strandReach k)
  | none => s.conditionRay r l

/-- The next ray of the queue is conditioned. A mirror record that would lie in a hole of the map is a host error (R601). -/
def State.conditionNext (s : State) : Res :=
  match s.render.rays with
  | [] => .next s
  | r :: l =>
    if s.cond.mirOn && !s.unitRange (s.mirrorPlace r.addr).1 64 then
      .next (({ s with cond := { s.cond with mirOn := false } }.conditionSent r l).unpredictable s.mirrorReach)
    else .next (s.conditionSent r l)

/-- R147: a rendered ray passes conditioning; with `wait`, its map data has not arrived (R171). -/
def execRayCondition (wait : Bool) (s : State) : Res := if s.clocksOff then .next s else
  if s.cond.wait = .none ∧ s.render.rays ≠ [] then
    if wait then .next { s with cond := { s.cond with wait := .map } } else s.conditionNext
  else .next s

/-- R171: the map data that a waiting ray needs arrives. -/
def execMapDataArrival (s : State) : Res := if s.clocksOff then .next s else if s.cond.wait = .map then s.conditionNext else .next s

/-- R203: space frees in the FIFO that conditioning waits for. The cycles that it waited are a free value. -/
def execStrandFifoRoom (k : Fin 96) (s : State) : Res := if s.clocksOff then .next s else
  if s.cond.wait = .fifo k.val then
    let r := s.free .lane
    (r.2.count (64 + k.val) 0x14 (r.1 % 2 ^ 32)).conditionNext
  else .next s

/-- R169: once every mirror write of stroke N is visible, CD_MIR_STROKE = N. -/
def execMirrorStrokeComplete (s : State) : Res :=
  if s.cond.mirrored && s.render.rays.isEmpty && (upTo 4).all s.shellDone then
    .next { s.wrN (condHdr + 0x68) 8 s.strokeNum with cond := { s.cond with mirrored := false } }
  else .next s

/-! ## Tile-table requests (R22, R23, R243) -/

/-- The devices of the tiles that a switch from the bank in force to `b` disables (R24). -/
def State.disabledDevices (s : State) (b : Nat) : List (Nat × Nat) :=
  let new := s.tiles b
  ((s.tiles s.render.bank).filter (fun t => !new.any (fun u => u.strand == t.strand && u.first == t.first))).flatMap
    (fun t => (s.tileDevices t (t.rays s.render.views)).map (fun p => (t.strand, p)))

/-- A BLANK brick of a power-off sequence; after a trip a strand sends only KEEP (R525). -/
def State.sendOff (s : State) (d : Nat × Nat) (step : Nat) : State :=
  if s.get F.GLB_SHOW_STATE = showHalted then s else s.sendBlank d.1 (some d.2) step

/-- Off 1 of R243 for a list of devices: BLANK now; BLEED and OFF follow in the next recovery window. -/
def State.offOne (s : State) (l : List (Nat × Nat)) : State :=
  let s := l.foldl (fun s d => s.sendOff d 0) s
  { s with render := { s.render with toBleed := s.render.toBleed ++ l } }

/-- Off 2 of R243: BLEED, and directly after it OFF. -/
def State.offTwo (s : State) (l : List (Nat × Nat)) : State :=
  l.foldl (fun s d => (s.sendOff d 1).sendOff d 2) s

/-- The bank `b` is checked (R23); the result is written, SEQ last (R22). -/
def State.checkBank (s : State) (b seq : Nat) : State :=
  let ts := s.tiles b
  let v := s.copyViews ts
  match checkTiles v s.rateNext (s.anyWide || s.mirrorNext) ts [] 0 with
  | some (r, i) =>
    let s := s.wr32 (tileTable + 8) i
    s.wr32 (tileTable + 4) (s.memFld (tileTable + 4) 0 1 + r * 2 + seq * 2 ^ 16)
  | none =>
    let s := s.offOne (s.disabledDevices b)
    let s := s.wr32 (tileTable + 8) 0
    let s := s.wr32 (tileTable + 4) (b + seq * 2 ^ 16)
    { s with render := { s.render with nextBank := some (b, v) } }

/-- The tile-table request of a recovery window: the bank to reinstate after a warm reset (R616), or TT_REQ as it stood at the finish. -/
def State.tileRequest (s : State) : State :=
  if !s.stroke.recovery then s
  else if bitAt s.render.reinstate 0 then
    let s := { s with render := { s.render with reinstate := setBits s.render.reinstate 0 1 0, ttReq := s.memFld (tileTable + 4) 16 16 * 2 ^ 16 } }
    s.checkBank (s.memFld (tileTable + 4) 0 1) (s.memFld (tileTable + 4) 16 16)
  else if bitsOf s.render.ttReq 16 16 ≠ s.memFld (tileTable + 4) 16 16 then s.checkBank (bitsOf s.render.ttReq 0 1) (bitsOf s.render.ttReq 16 16)
  else s

def execTileTableRequest (s : State) : Res := .next s.tileRequest

/-! ## Map requests (R162–R164) -/

/-- Code 3 of R164 for the entries of one tile: the index of the first bad entry. -/
def State.badSpare (s : State) (t : Tile) (rays : Nat) : List SpareEntry → Nat → Option Nat → List (Nat × Nat) → Option Nat
  | [], _, _, _ => none
  | e :: l, i, prev, used =>
    let inTile := decide (t.base ≤ e.ray) && decide (e.ray < t.base + rays)
    let rising := match prev with
      | none => true
      | some p => decide (p < e.ray)
    match s.deviceOf t (e.ray - t.base) with
    | none => some i
    | some (pos, _, _) =>
      let declared := s.memFld (drvCtx t.strand pos) 16 8
      if decide (2 ≤ e.mode) || !inTile || !rising || decide (declared ≤ e.slot) || (e.mode == 0 && used.contains (pos, e.slot)) then some i
      else s.badSpare t rays l (i + 1) (some e.ray) (if e.mode = 0 then (pos, e.slot) :: used else used)

/-- The walk of R164 over the tiles that will be enabled: RESULT, tile and entry of the first failure. -/
def State.checkDir (s : State) (v : KMap Nat) (dir : Nat) : List Tile → Option (Nat × Nat × Nat)
  | [] => none
  | t :: l =>
    let a := dir + 128 * t.idx
    if s.poisoned a 128 then some (5, t.idx, 0)
    else match s.dirEntryAt a with
      | none => s.checkDir v dir l
      | some e =>
        if e.bad then some (2, t.idx, 0)
        else if e.count ≠ 0 ∧ s.poisoned e.spare (8 * e.count) then some (5, t.idx, 0)
        else match s.badSpare t (t.rays v) (s.spareList e.spare e.count) 0 none [] with
          | some i => some (3, t.idx, i)
          | none => s.checkDir v dir l

/-- A map set is checked with mirror settings; the result is written, SEQ last (R162, R164). A poisoned read is counted (R171). CD_BAD reads
0 after an accepted request: a DESIGN CHOICE (log entry 123). MIR_ACT shows a mirror that kiln stage 2 holds off (R170). -/
def State.checkMap (s : State) (set : Nat) (mir wide : Bool) (seq : Nat) : State :=
  let h := s.rdN (condHdr + 0x10 + 8 * set) 6
  let res := condHdr + 4
  let gain := s.rdN (h + 8) 6
  let dir := s.rdN (h + 0x10) 6
  let bank := s.bankNext
  let fail :=
    if s.poisoned h 64 then some (5, 0, 0)
    else if s.memFld h 0 24 ≠ 0x01C0D1 ∨ gain % 64 ≠ 0 ∨ dir % 64 ≠ 0 then some (1, 0, 0)
    else match s.checkDir bank.2 dir (s.tiles bank.1) with
      | some f => some f
      | none => if mir && overCeiling s.raysNext s.rateNext true then some (4, 0, 0) else none
  match fail with
  | some (r, tile, entry) =>
    let s := if r = 5 then s.mapPoisonRead else s
    let s := s.wr32 (condHdr + 8) (tile + entry * 2 ^ 11)
    s.wr32 res (s.memFld res 0 4 + r * 2 ^ 4 + seq * 2 ^ 16)
  | none =>
    let s := s.wr32 (condHdr + 8) 0
    let s := s.wr32 res (set + b2n (mir && s.get F.KLN_STAT_STAGE != 2) * 2 + b2n wide * 4 + s.memFld res 3 1 * 8 + seq * 2 ^ 16)
    { s with cond := { s.cond with nextMap := some ({ set := set, gainEn := bitAt (s.rd32 (h + 4)) 0, gain := gain, dir := dir }, mir, wide) } }

/-- The map request of a recovery window (R162, R616); the tile-table request comes first (R163). -/
def State.mapRequest (s : State) : State :=
  if !s.stroke.recovery then s
  else if bitAt s.render.reinstate 1 then
    let w := s.rd32 (condHdr + 4)
    let s := { s with render := { s.render with reinstate := setBits s.render.reinstate 1 1 0, cdReq := bitsOf w 16 16 * 2 ^ 16 } }
    s.checkMap (bitsOf w 0 1) (bitAt w 1 || bitAt w 3) (bitAt w 2) (bitsOf w 16 16)
  else if bitsOf s.render.cdReq 16 16 ≠ s.memFld (condHdr + 4) 16 16 then
    s.checkMap (bitsOf s.render.cdReq 0 1) (bitAt s.render.cdReq 1) (bitAt s.render.cdReq 2) (bitsOf s.render.cdReq 16 16)
  else s

def execMapSetRequest (s : State) : Res := .next s.tileRequest.mapRequest

/-! ## Curve selections (R167) -/

/-- A curve slot is copied, or refused for a poisoned read. -/
def State.selectCurve (s : State) (slot seq : Nat) : State :=
  let a := s.rdN (condHdr + 0x20 + 8 * slot) 6
  if s.poisoned a 18114 then s.wr32 (condHdr + 0x50) (s.memFld (condHdr + 0x50) 0 2 + 4 + seq * 2 ^ 16)
  else
    let bytes := s.rdBytes a 18114
    let s := s.wr32 (condHdr + 0x50) (slot + seq * 2 ^ 16)
    { s with cond := { s.cond with nextCurve := some bytes } }

def execCurveSelection (s : State) : Res :=
  if !s.stroke.recovery then .next s
  else if bitAt s.render.reinstate 2 then
    let w := s.rd32 (condHdr + 0x50)
    let s := { s with render := { s.render with reinstate := setBits s.render.reinstate 2 1 0, cdCurve := bitsOf w 16 16 * 2 ^ 16 } }
    .next (s.selectCurve (bitsOf w 0 2) (bitsOf w 16 16))
  else if bitsOf s.render.cdCurve 16 16 ≠ s.memFld (condHdr + 0x50) 16 16 then
    .next (s.selectCurve (bitsOf s.render.cdCurve 0 2) (bitsOf s.render.cdCurve 16 16))
  else .next s

/-! ## Wire format (R212) -/

/-- R212: WIDE and DITHER_EN as they stood at the finish are checked; a WIDE that would break R25 is refused. -/
def execWireFormatChange (k : Fin 96) (s : State) : Res :=
  let x := s.strand k.val
  let wide := bitAt x.ctlReq 9
  let dither := bitAt x.ctlReq 10
  let now := s.flag F.STR_STAT_WIDE_ACT k.val
  if !s.stroke.recovery ∨ x.nextFmt.isSome ∨ (wide = now ∧ dither = x.dither) then .next s
  else if wide && !now && overCeiling s.raysNext s.rateNext true then
    let s := s.set F.STR_STAT_RESULT 1 k.val
    .next (if dither = x.dither then s else s.setStrand k.val { x with nextFmt := some (now, dither) })
  else .next ((s.set F.STR_STAT_RESULT 0 k.val).setStrand k.val { x with nextFmt := some (wide, dither) })

/-! ## At the finish and at the catch -/

/-- Off 1 of R243 for every tile of the bank in force, from which STATE reads STANDBY (R516). -/
def State.offAll (s : State) : State :=
  let l := (s.tiles s.render.bank).flatMap (fun t => (s.tileDevices t (t.rays s.render.views)).map (fun p => (t.strand, p)))
  { (s.offOne l).set F.GLB_SHOW_STATE 1 with board := { s.board with disarm := false } }

/-- The requests as they stand at the finish (R22, R162, R167, R212), the bleeding of devices blanked before (R243), and a DISARM that
waits (R516). -/
def State.condFinish (s : State) : State :=
  let bleed := s.render.toBleed
  let s := { s with render := { s.render with
    ttReq := s.rd32 tileTable, cdReq := s.rd32 condHdr, cdCurve := s.rd32 (condHdr + 0xC), toBleed := [] } }
  let s := s.offTwo bleed
  let s := if s.board.disarm then s.offAll else s
  forN 96 (fun k s => s.setStrand k { s.strand k with ctlReq := s.rd R.STR_CTL k }) s

/-- Word 0 of the contexts of every device of the bank in force, latched for the stroke that follows; a changed BAND disqualifies a hold
(R46, R151, R227). -/
def State.latchContexts (s : State) : State :=
  (s.tiles s.render.bank).foldl (fun s t =>
    (s.tileDevices t (t.rays s.render.views)).foldl (fun s p =>
      let w := s.rd32 (drvCtx t.strand p)
      let old := s.latchedCtx t.strand p
      let s := if bitsOf w 8 3 = bitsOf old 8 3 then s else { s with stroke := { s.stroke with changed := true } }
      s.setStrand t.strand { s.strand t.strand with latched := KMap.put (fun _ => 0) (s.strand t.strand).latched p w }) s) s

/-- Conditioning at a catch: `swap` says that the strands sent rays and a swap at it. The counts of a rendered stroke are shown, the
frame counter steps (R155), accepted maps, curves and wire formats come into force, and the mirror follows kiln stage 2 (R170). -/
def State.condCatch (s : State) (swap : Bool) : State :=
  let s := if s.cond.rendered then
      ((s.wr32 (condHdr + 0x58) s.cond.moved).wr32 (condHdr + 0x5C) s.cond.dark).wr32 (condHdr + 0x60) s.cond.orphan
    else s
  let f := if swap then (s.cond.fcount + 1) % 256 else s.cond.fcount
  let s := s.setMemFld (condHdr + 0x64) 0 8 f
  let s := { s with
    render := { s.render with rays := [], showT := none }
    cond := { s.cond with
      fcount := f, moved := 0, dark := 0, orphan := 0, poisonSeen := [], poisonEv := false, wait := .none, mirrored := false, rendered := false, sent := false } }
  let s := match s.cond.nextMap with
    | some (m, mir, wide) => { s with
        cond := { s.cond with map := some m, mirror := mir, mirWide := wide, nextMap := none }
        render := { s.render with missing := setBits s.render.missing 1 1 0 }
        stroke := { s.stroke with changed := true } }
    | none => s
  let s := match s.cond.nextCurve with
    | some c => { s with
        cond := { s.cond with curve := c, nextCurve := none }
        render := { s.render with missing := setBits s.render.missing 2 1 0 }
        stroke := { s.stroke with changed := true } }
    | none => s
  let s := forN 96 (fun k s => match (s.strand k).nextFmt with
    | some (w, d) =>
      let s := (s.set F.STR_STAT_WIDE_ACT (b2n w) k).setStrand k { s.strand k with dither := d, nextFmt := none }
      { s with stroke := { s.stroke with changed := true } }
    | none => s) s
  let on := s.cond.mirror && !s.render.stage2
  let s := { s with cond := { s.cond with mirOn := on } }
  let s := s.setMemFld (condHdr + 4) 1 1 (b2n on)
  s.setMemFld (condHdr + 4) 3 1 (b2n (s.cond.mirror && s.render.stage2))

end Sys2Proof.Machine
end

