-- ==== Sys2Proof/Machine/Strand.lean ====
section
/-!
DEFINITION. The strand ports: bring-up, faults, the pin test, ray bricks, the CATCH countdown, the echo check, ranging and management
bricks (R174–R213).
-/
namespace Sys2Proof.Machine

open Sys2Proof

/-! ## Bring-up (R206) -/

/-- Pin and census faults stay when the lane goes off; the lane's own codes go (R207). -/
def laneCode (c : Nat) : Bool := c == 1 || c == 2 || c == 3 || c == 7 || c == 8 || c == 9 || c == 10

/-- The lane of strand `k` goes off: nothing staged, nothing outstanding. -/
def State.laneOff (s : State) (k : Nat) : State :=
  let s := s.setStrand k { s.strand k with
    fifo := [], next := [], tap := [], catchT := none, chkTap := [], acks := [], open_ := false, silent := [], w := [], d := [], failed := [],
    ranges := [], rangeNext := 0, rangeReq := none, rolled := false, ranging := false, held := [], out := [], ready := [], keptTo := 0, long := false }
  let s := s.fifoLevel k
  let s := (s.set F.STR_CHAIN_DEVICES 0 k).set F.STR_LEAD_LEAD_NS 0 k |>.set F.STR_DCHAIN_DCHAIN_NS 0 k
  if laneCode (s.get F.STR_FAULT_CODE k) then s.setFault k 0 else s

/-- Whether a test mode of STR_DIAG acts: modes 1 and 2, with ENABLE 0 (R213). -/
def State.strDiag (s : State) (k : Nat) : Bool :=
  !s.flag F.STR_CTL_ENABLE k && (s.get F.STR_DIAG_MODE k == 1 || s.get F.STR_DIAG_MODE k == 2)

/-- A test mode sends PRBS31, inside the port or on S<s>T (R213, R596). -/
def State.strDiagSend (s : State) (k : Nat) : State := if s.strDiag k then s.emit (.pattern k (1 + s.get F.STR_DIAG_MODE k)) else s

/-- A write of STR_CTL (R206, R211, R212): ENABLE begins the bring-up, is refused with BAD_RATE, or stops driving; WIDE and DITHER_EN
wait for a recovery window. A strand whose pin test found coupling stays OFF (R207). -/
def State.writeStrCtl (s : State) (k : Nat) (v : RegWord) : State :=
  let was := s.flag F.STR_CTL_ENABLE k
  let s := s.typedWr (R.STR_CTL.at k 0) v
  let en := s.flag F.STR_CTL_ENABLE k
  let rate := s.get F.STR_CTL_RATE k
  if en && !was then
    if rate < 10 ∨ 128 < rate then (s.set F.STR_CTL_ENABLE 0 k).set F.STR_STAT_RESULT 2 k
    else if s.get F.STR_FAULT_CODE k = 6 then s.portEnabled (4 + k / 8)
    else
      let s := (s.set F.STR_STAT_STATE strOff k).set F.STR_STAT_RESULT 0 k |>.set F.STR_STAT_RX_INV 0 k
      let s := s.laneOff k
      let s := s.setStrand k { s.strand k with rate := rate, enabledAt := s.upNs, lastDown := s.upNs }
      s.portEnabled (4 + k / 8)
  else if !en && was then ((s.set F.STR_STAT_STATE strOff k).laneOff k).strDiagSend k
  else s

def execStrandEnable (who : Requester) (k : Fin 96) (v : RegWord) (s : State) : Res :=
  s.ifWriteV who (R.STR_CTL.at k.val 0) v (fun s => .next (s.writeStrCtl k.val (BitVec.ofNat 32 (setBits v.toNat 0 1 1))))

def execStrandDisable (who : Requester) (k : Fin 96) (v : RegWord) (s : State) : Res :=
  s.ifWriteV who (R.STR_CTL.at k.val 0) v (fun s => .next (s.writeStrCtl k.val (BitVec.ofNat 32 (setBits v.toNat 0 1 0))))

/-- R206 step 2: after 100 µs of sensing the port drives idle, or a signal on S<s>T shows REVERSED (R207). -/
def execStrandSenseEnd (k : Fin 96) (signal : Bool) (s : State) : Res :=
  let k := k.val
  if s.flag F.STR_CTL_ENABLE k && s.strState k == strOff && s.get F.STR_FAULT_CODE k != 6 then
    let s := s.advanceUp ((s.strand k).enabledAt + 100000)
    if signal then .next ((s.set F.STR_STAT_STATE strFault k).setFault k 8)
    else .next ((s.set F.STR_STAT_STATE strTraining k).emit (.pattern k 0))
  else .next s

/-- The initial ranging of strand `k` starts afresh (R195). -/
def State.startRanging (s : State) (k : Nat) : State :=
  s.setStrand k { s.strand k with ranging := true, rangeNext := 0, failed := [] }

/-- An inverted marker among the bits on S<s>X turns the port's input over under AUTO_POL (R180). -/
def State.turnInput (s : State) (k : Nat) (line : List Bool) : State :=
  if (upLine (s.flag F.STR_STAT_RX_INV k) (s.flag F.STR_CTL_AUTO_POL k) line).1 then
    s.set F.STR_STAT_RX_INV (b2n (!s.flag F.STR_STAT_RX_INV k)) k
  else s

/-- R206 step 4: S<s>X has carried valid idle for 100 µs, and the port ranges all positions. `line` is what came on it: an
inverted input shows itself by its first marker (R180). -/
def execStrandRxValid (k : Fin 96) (line : List Bool) (s : State) : Res :=
  let k := k.val
  if s.strState k == strTraining && !(s.strand k).ranging && s.refPresent (if k < 48 then 1 else 2) && s.get F.STR_FAULT_CODE k != 3 then
    let s := if s.get F.STR_FAULT_CODE k = 7 then s.clearFault k else s
    .next ((s.turnInput k line).startRanging k)
  else .next s

/-- R207 code 7: valid idle has not appeared within 50 ms, or lock is lost while UP. -/
def execStrandOpenTimeout (k : Fin 96) (s : State) : Res :=
  let k := k.val
  if s.strState k == strTraining && !(s.strand k).ranging then
    let s := s.advanceUp ((s.strand k).enabledAt + 50000000)
    .next ((s.setFault k 7).setStrand k { (s.setFault k 7).strand k with retryAt := s.upNs })
  else if s.strState k == strUp then .next ((s.setFault k 7).setStrand k { (s.setFault k 7).strand k with retryAt := s.upNs })
  else .next s

/-! ## What waits for the lane (R192, R201, R204) -/

/-- D_chain + MARGIN_US, ns (R192, R213), and LEAD of the next CATCH, which is limited to 1,000 µs. -/
def State.leadRaw (s : State) (k : Nat) : Nat :=
  s.get F.STR_DCHAIN_DCHAIN_NS k + Nat.max 1 (s.get F.STR_CATCH_MARGIN_US k) * 1000
def State.leadNs (s : State) (k : Nat) : Nat := Nat.min 1000000 (s.leadRaw k)

/-- Whether the port sends more than BLANK and KEEP: not in stage 3 of the kiln (R525), not on a chain that is too long, nor with the
driver off (R207). -/
def State.portRuns (s : State) (k : Nat) : Bool := s.get F.GLB_SHOW_STATE != showHalted && !(s.strand k).long && s.strDriving k

/-- Payload bytes of a RAYS brick of `n` slots (R190). -/
def State.raysLen (s : State) (k n : Nat) : Nat := ceilDiv (n * s.slotBits k) 32 * 4

/-- The header and payload of a device's next RAYS brick (R190). -/
def State.raysBrick (s : State) (k p : Nat) : List Byte × List Byte :=
  let b := s.nextBrick k p
  let w := s.slotBits k
  let bits := (upTo b.2).foldl (fun n i => n + (((s.strand k).slot p (b.1 + i)).getD 0) * 2 ^ (w * i)) 0
  let t := (s.render.showT).getD (s.strokeNum + 1)
  (brickHeader 0 p (s.raysLen k b.2) false t 0 (b.1 + b2n (w == 48) * 2 ^ 16) b.2, leBytes (s.raysLen k b.2) bits)

/-- Whether a device's next brick, sent at the next boundary, ends before the CATCH departure (R202). -/
def State.brickFits (s : State) (k p : Nat) : Bool :=
  let b := s.raysBrick k p
  let x := s.strand k
  decide (s.laneStart k + x.uiQ (brickLine (brickBytes b.1 b.2)).length ≤ (s.nextCatch - s.leadNs k) * 2 ^ 32)

/-- The device whose RAYS brick is the next: the first of those ready that still fits (R201, R202); only a chip that shows sends RAYS (R516,
R517). -/
def State.raysTurn (s : State) (k : Nat) : Option Nat :=
  if s.strState k == strUp && s.portRuns k && s.get F.GLB_SHOW_STATE == showShowing then (s.strand k).ready.find? (fun p => s.brickStaged k p && s.brickFits k p) else none

/-- HOP and TAG of a header. -/
def hopOf (h : List Byte) : Nat := leAt h 0 4 / 16 % 4096
def tagOf (h : List Byte) : Nat := byteAt h 6

/-- Unicast WRITE, READ and RANGE bricks outstanding to a position (R204). -/
def Strand.outTo (x : Strand) (pos : Nat) : Nat :=
  (x.out.filter (fun r => hopOf r.header == pos)).length + (x.ranges.filter (fun r => r.1 == pos)).length

/-- Whether a brick is one of those that R204 limits. -/
def MgmtReq.limited (r : MgmtReq) : Bool :=
  let t := byteAt r.header 0 % 16
  !bitAt (leAt r.header 0 4) 30 && (t == 4 || t == 5 || t == 6)

/-- Whether a waiting management brick may leave: BLANK from step 2 of R206 on, others while UP; not behind two outstanding to its position
or a brick `before` it to that position (R204, R206). -/
def State.mgmtMay (s : State) (k : Nat) (before : List MgmtReq) (r : MgmtReq) : Bool :=
  s.strDriving k && s.get F.GLB_SHOW_STATE != showHalted && (byteAt r.header 0 % 16 == 3 || (s.strState k == strUp && s.portRuns k)) &&
    !(r.limited && (decide (2 ≤ (s.strand k).outTo (hopOf r.header)) || before.any (fun q => q.limited && hopOf q.header == hopOf r.header)))

/-- The first of the waiting bricks `l`, after `before`, that may leave. -/
def State.firstMgmt (s : State) (k : Nat) : List MgmtReq → List MgmtReq → Option MgmtReq
  | [], _ => none
  | r :: l, before => if s.mgmtMay k before r then some r else s.firstMgmt k l (before ++ [r])

/-- The management brick that is next: after every RAYS brick that is ready, or once it has waited 100 µs (R201). -/
def State.mgmtTurn (s : State) (k : Nat) : Option MgmtReq :=
  match s.firstMgmt k (s.strand k).held [] with
  | some r => if (s.raysTurn k).isNone || decide (r.since + 100000 ≤ s.upNs) then some r else none
  | none => none

/-- A management brick leaves; unicast WRITE, READ and RANGE are then outstanding. -/
def State.sendMgmt (s : State) (k : Nat) (r : MgmtReq) : State :=
  let t := byteAt r.header 0 % 16
  let start := s.localQ (s.laneStart k) / 2 ^ 32
  let s := s.setStrand k { s.strand k with held := (s.strand k).held.erase r }
  let s := s.sendBrick k r.header r.payload
  let x := s.strand k
  if bitAt (leAt r.header 0 4) 30 then s
  else if t = 4 ∨ t = 5 then s.setStrand k { x with out := x.out ++ [{ r with sentAt := s.localQ x.laneEnd / 2 ^ 32 }] }
  else if t = 6 then s.setStrand k { x with ranges := x.ranges ++ [(hopOf r.header, start, r.own)] }
  else s

/-- Whether the CATCH of the next catch, or its KEEP, is due and has not left: it comes before every other brick (R192, R199, R201). -/
def State.catchDue (s : State) (k : Nat) : Bool :=
  let c := (s.interimCatch (Nat.max s.stroke.lastCatch (s.strand k).keptTo)).getD s.nextCatch
  s.strDriving k && s.get F.GLB_SHOW_STATE != showHalted && (s.strand k).keptTo != c && decide (c ≤ s.now + s.leadNs k)

/-- The management bricks whose turn it is leave, each at its brick boundary; at most `n`. -/
def State.pumpMgmt : Nat → State → Nat → State
  | 0, s, _ => s
  | n + 1, s, k =>
    let u := s.laneWait k
    match u.mgmtTurn k with
    | some r => if u.catchDue k then s else State.pumpMgmt n (u.sendMgmt k r) k
    | none => s

/-- The lane of strand `k` serves what waits for it. -/
def State.laneServe (s : State) (k : Nat) : State := State.pumpMgmt (s.strand k).held.length s k

/-- A management brick joins those that wait; it leaves in its turn. -/
def State.offerMgmt (s : State) (k : Nat) (r : MgmtReq) : State :=
  (s.setStrand k { s.strand k with held := (s.strand k).held ++ [r] }).laneServe k
/-! ## Ranging (R194, R195) -/

/-- A RANGE brick for a position (R184, R194); `asked` says that it answers STR_RANGE. -/
def State.rangeReq (s : State) (pos : Nat) (asked : Bool) : MgmtReq :=
  { header := brickHeader 6 pos 0 false 0 0 0 0, addr := 0, cap := 0, payload := [], own := asked, sentAt := s.upNs, since := s.upNs }

/-- Positions that answer ranging. -/
def Strand.answering (x : Strand) : List Nat := (x.d.filter (fun e => e.2.isSome)).map (·.1)

/-- D_chain in sixteenths of a UI: d of the highest position that answers (R194). -/
def Strand.dChain (x : Strand) : Nat :=
  match x.answering.getLast? with
  | some p => ((KMap.get (fun _ => none) x.d p).getD 0).toNat
  | none => 0

/-- LEAD and what follows from it: LONG_CHAIN beyond 1,000 µs, which CODE shows where no other fault stands, LEAD_LONG above P / 32 (R192,
R207, R211). -/
def State.setLead (s : State) (k : Nat) : State :=
  let lead := s.leadNs k
  let s := s.set F.STR_LEAD_LEAD_NS (Nat.min lead 0xFFFFF) k
  let code := s.get F.STR_FAULT_CODE k
  let s := s.setStrand k { s.strand k with long := decide (1000000 < s.leadRaw k) }
  let s := if code = 0 ∨ code = 10 then s.clearFault k else s
  if s.periodNs < 32 * lead then s.set F.STR_STAT_RESULT 3 k
  else if s.get F.STR_STAT_RESULT k = 3 then s.set F.STR_STAT_RESULT 0 k else s

/-- D_chain and DEVICES follow the ranging (R194, R213), LEAD with them. -/
def State.setChain (s : State) (k : Nat) : State :=
  let s := s.set F.STR_DCHAIN_DCHAIN_NS (Nat.min ((s.strand k).dChain / (s.strand k).q4PerNs) 0xFFFFF) k
  (s.set F.STR_CHAIN_DEVICES (s.strand k).answering.length k).setLead k

/-- R195: the next position is ranged: all of them at bring-up and while a strand is OPEN (R207), one in each recovery window while RANGE_EN
is 1. While UP a RANGE waits for its turn as every management brick does (R201). -/
def execRangeSend (k : Fin 96) (s : State) : Res :=
  let k := k.val
  let x := s.strand k
  if !s.portRuns k || !s.strDriving k then .next s
  else if x.ranging && decide (x.rangeNext < 2560) then
    if 2 ≤ x.outTo x.rangeNext then .next s
    else if s.strState k == strUp then
      .next ((s.setStrand k { x with rangeNext := x.rangeNext + 1 }).offerMgmt k (s.rangeReq x.rangeNext false))
    else
      let s := (s.laneWait k).sendMgmt k (s.rangeReq x.rangeNext false)
      .next (s.setStrand k { s.strand k with rangeNext := x.rangeNext + 1 })
  else if s.strState k == strUp && s.flag F.STR_CTL_RANGE_EN k && s.stroke.recovery && !x.rolled then
    let n := s.get F.STR_CHAIN_DEVICES k
    let pos := if x.rangeNext < n then x.rangeNext else 0
    let s := s.setStrand k { x with rangeNext := pos + 1, rolled := true }
    .next (s.offerMgmt k (s.rangeReq pos false))
  else .next s

/-- A write of STR_RANGE (R213): GO asks for a ranging in the next recovery window, or reports BUSY while a request waits. -/
def State.writeStrRange (s : State) (k : Nat) (v : RegWord) : State :=
  if !bitAt v.toNat 12 then s.typedWr (R.STR_RANGE.at k 0) v
  else if (s.strand k).rangeReq.isSome then s.set F.STR_RANGE_RESULT 2 k
  else
    let s := s.typedWr (R.STR_RANGE.at k 0) v
    s.setStrand k { s.strand k with rangeReq := some (bitsOf v.toNat 0 12) }

/-- A RANGE to a position that no chain has, 2,560 to 4,095, ends as NO_REPLY when its 2 ms are over (R195, R213). -/
def State.rangeSettle (s : State) (k : Nat) : State :=
  let x := s.strand k
  match x.ranges.find? (fun r => decide (2560 ≤ r.1) && decide (r.2.1 + 2000000 ≤ s.upNs)) with
  | some r =>
    let s := s.setStrand k { x with ranges := x.ranges.erase r, rangeReq := if r.2.2 then none else x.rangeReq }
    if r.2.2 then s.set F.STR_RANGE_RESULT 1 k else s
  | none => s

def execRangeRequest (who : Requester) (k : Fin 96) (v : RegWord) (s : State) : Res :=
  s.ifWriteV who (R.STR_RANGE.at k.val 0) v (fun s => .next (s.writeStrRange k.val (BitVec.ofNat 32 (setBits v.toNat 12 1 1))))

/-- A ranging brick of a position ends; the request of STR_RANGE that it answers ends with a result. -/
def State.rangeEnds (s : State) (k pos result : Nat) : State :=
  let x := s.strand k
  match x.ranges.find? (fun r => r.1 == pos) with
  | none => s
  | some r =>
    let s := s.setStrand k { x with ranges := x.ranges.erase r }
    if r.2.2 then (s.set F.STR_RANGE_RESULT result k).setStrand k { (s.set F.STR_RANGE_RESULT result k).strand k with rangeReq := none } else s

/-! ## What arrives on S<s>X (R180, R185) -/

/-- Whether the port listens: its lane runs and no common-mode fault has it ignore the receiver (R206, R207). -/
def State.rxOn (s : State) (k : Nat) : Bool := (s.strState k == strTraining || s.strState k == strUp) && s.get F.STR_FAULT_CODE k != 3

/-- A brick that fails a check is counted (R185). -/
def State.upDiscard (s : State) (k : Nat) (why : BrickError) : State :=
  match why with
  | .headerCheck => s.incSat R.STR_HCRC_ERR 1 k
  | .crc => (s.incSat R.STR_CRC_ERR 1 k).count (64 + k) 0x13
  | _ => s.incSat R.STR_STUFF_ERR 1 k

/-- The port takes a line from S<s>X: an inverted marker turns its input over, a brick is checked (R180, R185). The answer is the header
and payload of a good one. -/
def State.upBrick (s : State) (k : Nat) (line : List Bool) : Option (List Byte × List Byte) × State :=
  if !s.rxOn k then (none, s)
  else
    let r := upLine (s.flag F.STR_STAT_RX_INV k) (s.flag F.STR_CTL_AUTO_POL k) line
    let s := s.turnInput k line
    match r.2 with
    | none => (none, s)
    | some (.error e) => (none, s.upDiscard k e)
    | some (.ok p) => (some p, (s.incWrap R.STR_RX_BRICKS 1 k).count (64 + k) 0x12)

/-- A brick of type `ty` arrives; `f` is what the port does with it. A line with a good brick of another type is another event. -/
def State.upArrives (s : State) (k ty : Nat) (line : List Bool) (f : State → List Byte → List Byte → State) : State :=
  match s.upBrick k line with
  | (some p, t) => if byteAt p.1 0 % 16 = ty then f t p.1 p.2 else s
  | (none, t) => t

/-- R180, R185: a line whose brick fails a check, or that only turns the input over. -/
def execUpBrickDiscard (k : Fin 96) (line : List Bool) (s : State) : Res :=
  .next (match s.upBrick k.val line with
    | (some _, _) => s
    | (none, t) => t)

/-! ## Management bricks (R204, R205) -/

/-- The reply record of a strand is written into its STR_REPLY ring (R205). -/
def State.replyRecord (s : State) (k : Nat) (h : List Byte) (status : Nat) : State :=
  if s.flag F.STR_REPLY_EN k then
    (s.unitRecord (s.get F.STR_REPLY_RING k) (h ++ leBytes 4 s.now ++ leBytes 4 status ++ leBytes 8 0)).2
  else s

/-- The port's own WRITE of HOP_UI to a device (R194, R231). -/
def State.writeHop (s : State) (k pos hop : Nat) : State :=
  s.offerMgmt k {
    header := brickHeader 4 pos 4 false 0 0 4 0, addr := 0, cap := 0, payload := leBytes 4 hop, own := false, sentAt := s.upNs, since := s.upNs }

/-- R194: a RANGE_R arrives after the round trip `rt`, in sixteenths of a UI. -/
def State.rangeRTaken (s : State) (k rt : Nat) (header : List Byte) : State :=
  let pos := hopOf header
  let x := s.strand k
  if !x.ranges.any (fun r => r.1 == pos) then s
  else
    let resid : Int := (leAt header 8 4 : Nat)
    let down : Int := (leAt header 12 4 : Nat)
    let w : Int := rt - resid
    let before : Int := if pos = 0 then 0 else (KMap.get (fun _ => none) x.w (pos - 1)).getD 0
    let hop := enc 24 ((w - before + 1) / 2)
    let s := s.setStrand k { x with
      w := KMap.put (fun _ => none) x.w pos (some w), d := KMap.put (fun _ => none) x.d pos (some ((w + 1) / 2 + down)),
      failed := KMap.put (fun _ => false) x.failed pos false, lastR := s.upNs }
    let s := s.wr R.STR_RANGE_RT rt k
    let s := s.rangeEnds k pos 0
    let old := s.memFld (drvCtx k pos + 4) 0 24
    let moved := decide (16 ≤ (sgn 24 hop - sgn 24 old).natAbs)
    let up := s.strState k == strUp
    let s := if !up || moved then s.setMemFld (drvCtx k pos + 4) 0 24 hop else s
    let s := if up && moved then s.writeHop k pos hop else s
    (if up then s.setChain k else s).laneServe k

def execRangeRReceived (k : Fin 96) (line : List Bool) (rt : Nat) (s : State) : Res :=
  .next (s.upArrives k.val 11 line (fun s h _ => s.rangeRTaken k.val rt h))

/-- R195: a RANGE without its RANGE_R after 2 ms. -/
def execRangeTimeout (k : Fin 96) (pos : Fin 2560) (s : State) : Res :=
  let k := k.val
  let p := pos.val
  match (s.strand k).ranges.find? (fun r => r.1 == p) with
  | none => .next s
  | some r =>
    let s := s.advanceUp (r.2.1 + 2000000)
    let s := s.rangeEnds k p 1
    let s := s.setStrand k { s.strand k with failed := KMap.put (fun _ => false) (s.strand k).failed p true }
    .next (s.laneServe k)

/-- R206 steps 5 and 6: the ranging of all positions ends 2 ms after the last RANGE_R: HOP_UI is written, D_chain and LEAD are set, STATE
reads UP. RANGE bricks older than 2 ms have failed (R195). -/
def execStrandUp (k : Fin 96) (s : State) : Res :=
  let k := k.val
  let x := s.strand k
  if s.strDriving k && x.ranging && decide (2560 ≤ x.rangeNext) && !x.d.isEmpty then
    let s := s.advanceUp (x.lastR + 2000000)
    let late := x.ranges.filter (fun r => decide (r.2.1 + 2000000 ≤ s.upNs))
    let s := late.foldl (fun s r => s.rangeEnds k r.1 1) s
    let s := s.setStrand k { s.strand k with
      ranging := false, rangeNext := 0, failed := late.foldl (fun m r => KMap.put (fun _ => false) m r.1 true) (s.strand k).failed }
    if s.strState k == strUp then .next (s.setChain k)
    else
      let s := s.set F.STR_STAT_STATE strUp k
      let s := x.answering.foldl (fun s p => s.writeHop k p (s.memFld (drvCtx k p + 4) 0 24)) s
      .next (s.setChain k)
  else .next s

/-- The `n` bytes of a brick's payload at `a`: those of a poisoned read are free, for the rule gives the port no other answer (R394, R409). -/
def State.readPayload (s : State) (a n : Nat) : List Byte × State :=
  if n ≠ 0 ∧ s.poisoned a n then
    ((upTo n).map (fun i => BitVec.ofNat 8 (Config.freeFun .result [204, a, i, s.freeCtr])), (s.poisonReads a 1).unitTouch a n)
  else (s.rdBytes a n, s)

/-- R204: the port takes a descriptor: its brick leaves in its turn, or it is refused with BAD_TYPE. -/
def execMgmtDescriptor (k : Fin 96) (s : State) : Res :=
  let k := k.val
  let r := s.get F.STR_MGMT_RING k
  if !s.flag F.STR_MGMT_EN k || !s.unitCanTake r || !s.strDriving k then .next s
  else
    let e := s.ringElem r (s.ringCI r)
    let h := s.rdBytes e 16
    let t := byteAt h 0 % 16
    let bcast := bitAt (leAt h 0 4) 30
    if ¬ (3 ≤ t ∧ t ≤ 7) ∨ ((t = 5 ∨ t = 6) ∧ bcast) then .next ((s.unitTaken r 1).replyRecord k h 1)
    else
      let a := s.rdN (e + 0x10) 6
      let len := bitsOf (leAt h 0 4) 16 14
      let hole := (t = 4 ∨ t = 7) ∧ len ≠ 0 ∧ !s.unitRange a len
      let n := if t = 4 ∨ t = 7 then len else 0
      let x := if hole then ([], s.unitTaken r 1) else (s.unitTaken r 1).readPayload a n
      let u := x.2.offerMgmt k {
        header := h, addr := a, cap := s.memFld (e + 0x18) 0 14, payload := x.1, own := false, sentAt := 0, since := s.upNs }
      .next (if hole then u.unpredictable (s.jobReach r (fun _ => false) (fun o => o.block == .strand)) else u)

/-- The oldest outstanding brick of a type that a reply matches: by TAG and position, by TAG alone from position 0xFFF (R205). -/
def Strand.matchOut (x : Strand) (ty : Nat) (h : List Byte) : Option MgmtReq :=
  x.out.find? (fun r => byteAt r.header 0 % 16 == ty && tagOf r.header == tagOf h && (hopOf h == 0xFFF || hopOf r.header == hopOf h))

/-- An outstanding brick has ended; one held back behind it may leave. -/
def State.endOut (s : State) (k : Nat) (r : MgmtReq) : State :=
  (s.setStrand k { s.strand k with out := (s.strand k).out.erase r }).laneServe k

/-- R205: a WACK is matched to its WRITE. -/
def execWackReceived (k : Fin 96) (line : List Bool) (s : State) : Res :=
  .next (s.upArrives k.val 9 line (fun s h _ =>
    match (s.strand k.val).matchOut 4 h with
    | some r => (s.replyRecord k.val h 0).endOut k.val r
    | none => s.replyRecord k.val h 0))

/-- R205: a READ_R is matched to its READ; its data goes to ADDR, cut to REPLY_CAP. -/
def State.readRTaken (s : State) (k : Nat) (h data : List Byte) : State :=
  match (s.strand k).matchOut 5 h with
  | none => s.replyRecord k h 0
  | some r =>
    let d := data.take r.cap
    let hole := !d.isEmpty && !s.unitRange r.addr d.length
    let s := if hole then s.unpredictable (s.jobReach (s.get F.STR_MGMT_RING k) (inRange r.addr d.length) (fun _ => false)) else (s.wrBytes r.addr d).unitTouch r.addr d.length
    (s.replyRecord k h (if r.cap < data.length then 3 else 0)).endOut k r

def execReadRReceived (k : Fin 96) (head body : List Bool) (s : State) : Res :=
  .next (s.upArrives k.val 10 (head ++ body) (fun s h d => s.readRTaken k.val h d))

/-- R205: an EVENT brick gives a reply record; its payload is written nowhere. -/
def execEventBrickReceived (k : Fin 96) (head body : List Bool) (s : State) : Res :=
  .next (s.upArrives k.val 12 (head ++ body) (fun s h _ => s.replyRecord k.val h 0))

/-- R205: a WRITE or READ without its reply 4 ms after it left. -/
def execMgmtReplyTimeout (k : Fin 96) (s : State) : Res :=
  let k := k.val
  match (s.strand k).out with
  | [] => .next s
  | r :: _ =>
    let s := s.advanceUp (r.sentAt + 4000000)
    .next ((s.replyRecord k r.header 2).endOut k r)

/-! ## Faults and the pin test (R207, R208) -/

/-- The code of a pin fault. -/
def faultCode : StrandFault → Nat
  | .txShortGnd => 1 | .txShortSup => 2 | .rxShort => 3 | .censusShortGnd => 4 | .censusShortSup => 5

/-- R207: a pin fault is detected. A census short ends the operation that runs as SHORT (R224). -/
def execStrandFaultDetect (k : Fin 96) (kind : StrandFault) (s : State) : Res :=
  let k := k.val
  let c := faultCode kind
  if c ≤ 2 ∧ !s.strDriving k then .next s
  else
    let s := s.setFault k c
    let s := s.setStrand k { s.strand k with retryAt := s.upNs }
    .next (match c, (s.strand k).census with
      | 4, some o => s.setStrand k { s.strand k with census := some { o with waiting := false, done := some 3 } }
      | 5, some o => s.setStrand k { s.strand k with census := some { o with waiting := false, done := some 3 } }
      | _, _ => s)

/-- R207: every 100 ms a faulted driver retries, or an open strand repeats ranging; `gone` says that the fault is no longer present. -/
def execStrandFaultRetry (k : Fin 96) (gone : Bool) (s : State) : Res :=
  let k := k.val
  let c := s.get F.STR_FAULT_CODE k
  if c = 0 ∨ c = 6 ∨ c = 8 ∨ c = 9 ∨ c = 10 then .next s
  else
    let s := if c = 1 ∨ c = 2 ∨ c = 7 then s.advanceUp ((s.strand k).retryAt + 100000000) else s
    let s := s.setStrand k { s.strand k with retryAt := s.upNs }
    let s := if gone then s.clearFault k else s
    .next (if c = 7 ∧ (!gone ∨ s.strState k = strTraining) then s.startRanging k else s)

/-- A write of STR_PINTEST (R208): GO runs the test on a strand whose ENABLE is 0. -/
def State.writePinTest (s : State) (k : Nat) (v : RegWord) : State :=
  if bitAt v.toNat 0 && !s.flag F.STR_CTL_ENABLE k && s.strState k != strPinTest then
    (s.set F.STR_STAT_STATE strPinTest k).set F.STR_PINTEST_DONE 0 k |>.set F.STR_PINTEST_FAIL 0 k
  else s

def execPinTest (who : Requester) (k : Fin 96) (v : RegWord) (s : State) : Res :=
  s.ifWriteV who (R.STR_PINTEST.at k.val 0) v (fun s => .next (s.writePinTest k.val (BitVec.ofNat 32 (setBits v.toNat 0 1 1))))

/-- R208: the pin test ends; coupling is NEIGHBOUR, with the other strand and the pin. -/
def execPinTestDone (k : Fin 96) (coupled : Option (Fin 96 × Fin 3)) (s : State) : Res :=
  let k := k.val
  if s.strState k = strPinTest then
    let s := (s.set F.STR_STAT_STATE strOff k).set F.STR_PINTEST_DONE 1 k
    match coupled with
    | some (p, pin) =>
      let s := s.set F.STR_PINTEST_FAIL 1 k
      let s := (s.set F.STR_FAULT_PEER p.val k).set F.STR_FAULT_PIN pin.val k
      .next (s.setFault k 6)
    | none => .next (if s.get F.STR_FAULT_CODE k = 6 then s.clearFault k else s)
  else .next s

/-- A write of STR_DIAG: a test mode begins (R213). -/
def State.writeStrDiag (s : State) (k : Nat) (v : RegWord) : State :=
  let was := s.strDiag k && s.get F.STR_DIAG_MODE k == bitsOf v.toNat 0 2
  let s := s.typedWr (R.STR_DIAG.at k 0) v
  if was then s else s.strDiagSend k

/-! ## Ray bricks and the catch (R190–R202) -/

/-- Whether the next catch lights a picture with a swap (R46, R51, R516). -/
def State.swapsNext (s : State) : Bool := s.get F.GLB_SHOW_STATE == showShowing && !s.stroke.noSwap

/-- Whether a device's next brick is the one that the port sends at the next boundary (R201, R202). -/
def State.brickReady (s : State) (k pos : Nat) : Bool := s.raysTurn k == some pos && (s.mgmtTurn k).isNone

/-- R190, R201: at the next brick boundary the next RAYS brick leaves, its slots leave the FIFO, and its payload runs through the transmit
tap; a management brick whose turn it is goes first. -/
def execRaysBrickSend (k : Fin 96) (pos : Fin 2560) (s : State) : Res :=
  let k := k.val
  let p := pos.val
  let s := s.laneServe k
  let u := s.laneWait k
  if u.brickReady k p then
    let b := u.nextBrick k p
    let m := u.raysBrick k p
    let s := u.sendBrick k m.1 m.2
    let x := s.strand k
    let reg := (KMap.get (fun _ => none) x.tap p).getD 0xFFFFFFFF
    let s := s.setStrand k { x with
      fifo := x.fifo.filter (fun e => !(decide (p * 2 ^ 20 + b.1 ≤ e.1) && decide (e.1 < p * 2 ^ 20 + b.1 + b.2)))
      next := KMap.put (fun _ => 0) x.next p (b.1 + b.2)
      tap := KMap.put (fun _ => none) x.tap p (some (crcBytes 0x82F63B78 reg m.2))
      ready := x.ready.erase p }
    .next (((s.fifoLevel k).noteReady k p).laneServe k)
  else .next s

/-- Devices of strand `k` in the tile bank in force with an unsent slot for the next catch (R202). -/
def State.lateDevices (s : State) (k : Nat) : List Nat :=
  let ps := ((s.tiles s.render.bank).filter (fun t => t.strand == k)).flatMap (fun t => s.tileDevices t (t.rays s.render.views))
  let ps := ps.foldl (fun l p => if l.contains p then l else l ++ [p]) []
  ps.filter (fun p => decide ((s.strand k).nextSlot p < s.devSlots k p))

/-- COUNT of a CATCH that leaves now: catch N minus the departure, in sixteenths of a UI, rounded to nearest (R192). -/
def State.catchCount (s : State) (k : Nat) : Nat :=
  ((s.nextCatch * 2 ^ 32 - s.nowQ) * (s.strand k).q4PerNs + 2 ^ 31) / 2 ^ 32

/-- What was for the catch that is announced leaves the port: no slot stays for it. -/
def Strand.announced (x : Strand) : Strand := { x with fifo := [], next := [], tap := [], ready := [] }

/-- R192, R199, R202: at the first brick boundary at or after catch N − LEAD the port sends CATCH with its COUNT, unsent slots are
discarded and their devices counted; at a catch without a swap, those inside a transition interval included, it sends KEEP, and while it
trains too (R206). -/
def execCatchBrickSend (k : Fin 96) (s : State) : Res :=
  let k := k.val
  if (s.strState k ≠ strUp ∧ s.strState k ≠ strTraining) ∨ s.get F.GLB_SHOW_STATE = showHalted then .next s
  else
    let s := s.setLead k
    match s.interimCatch (Nat.max s.stroke.lastCatch (s.strand k).keptTo) with
    | some c =>
      let s := ((s.advanceTo (c - s.leadNs k)).laneWait k).sendKeep k
      .next (s.setStrand k { s.strand k with keptTo := c })
    | none =>
      let s := (s.advanceTo (s.nextCatch - s.leadNs k)).laneWait k
      let s := s.setStrand k { s.strand k with keptTo := s.nextCatch }
      if s.swapsNext && s.portRuns k && s.strState k == strUp then
        let n := s.nextNum
        let late := (s.lateDevices k).length
        let s := s.sendBrick k (brickHeader 1 0 0 true n 0 (s.catchCount k) 0) []
        let x := s.strand k
        let s := s.setStrand k { x.announced with catchT := some n, chkTap := x.tap, acks := [], open_ := true }
        let s := (s.fifoLevel k).wr R.STR_LATE_DEV late k
        .next ((s.raiseIf (late != 0 && s.flag F.STR_EVMASK_LATE_EN k) (0x260 + k)).laneServe k)
      else
        let s := s.sendKeep k
        .next (((s.setStrand k { (s.strand k).announced with open_ := false }).fifoLevel k).laneServe k)

/-- R199: an UP port that has sent no down brick for 10 ms sends KEEP. -/
def execKeepIdleSend (k : Fin 96) (s : State) : Res :=
  if s.strState k.val = strUp then .next ((s.advanceUp ((s.strand k.val).lastDown + 10000000)).sendKeep k.val) else .next s

/-- R197: the port takes an ACK: the context of its position follows, and it counts for the show time of the last CATCH. -/
def State.ackTaken (s : State) (k : Nat) (header : List Byte) : State :=
  let s := s.count (64 + k) 0x15
  let pos := hopOf header
  let stroke := leAt header 4 2
  let st := leAt header 12 4
  if 2560 ≤ pos then s
  else
    let c := drvCtx k pos
    let w := s.rd32 c
    let w := setBits (setBits (setBits (setBits w 1 1 0) 8 3 (bitsOf st 3 3)) 11 3 (bitsOf st 0 3)) 14 1 (bitsOf st 7 1)
    let s := (s.wr32 c w).setMemFld (c + 0x14) 0 16 stroke
    let x := s.strand k
    match x.catchT with
    | some t =>
      if t % 65536 = stroke then
        let s := s.setStrand k { x with
          acks := KMap.put (fun _ => none) x.acks pos (some (bitsOf st 0 3, leAt header 8 4)), silent := KMap.put (fun _ => 0) x.silent pos 0 }
        (s.noteReady k pos).laneServe k
      else s
    | none => s

def execAckReceived (k : Fin 96) (line : List Bool) (s : State) : Res :=
  .next (s.upArrives k.val 8 line (fun s h _ => s.ackTaken k.val h))

/-- A 16-bit half of a context word, counted up, saturating. -/
def State.ctxCount (s : State) (a lo : Nat) : State := s.setMemFld a lo 16 (Nat.min 65535 (s.memFld a lo 16 + 1))

/-- BREAK (R207): the silent positions are all those from BREAK_AT upwards, and a RANGE to BREAK_AT failed. -/
def State.breakAt (s : State) (k : Nat) : Option Nat :=
  let n := s.get F.STR_CHAIN_DEVICES k
  let acked (p : Nat) : Bool := (KMap.get (fun _ => none) (s.strand k).acks p).isSome
  match (upTo n).find? (fun p => !acked p) with
  | none => none
  | some b =>
    if (upTo n).all (fun p => decide (p < b) || !acked p) && KMap.get (fun _ => false) (s.strand k).failed b then some b else none

/-- R198: the results for show time T are written at catch T + P − LEAD, and the echo events raised. -/
def execEchoCutoff (k : Fin 96) (s : State) : Res :=
  let k := k.val
  let x := s.strand k
  match x.catchT with
  | none => .next s
  | some t =>
    if !x.open_ ∨ s.strokeNum ≠ t then .next s
    else
      let s := s.advanceToQ (s.stroke.lastCatch * 2 ^ 32 + s.periodQ - s.leadNs k * 2 ^ 32)
      let sent := x.chkTap.map (·.1)
      let ack (p : Nat) := KMap.get (fun _ => none) x.acks p
      let tap (p : Nat) : Nat := ((KMap.get (fun _ => none) x.chkTap p).getD 0xFFFFFFFF) ^^^ 0xFFFFFFFF
      let acked := (x.acks.filter (fun e => e.2.isSome)).map (·.1)
      let devs := sent ++ acked.filter (fun p => !sent.contains p)
      let ok := acked.filter (fun p => match ack p with | some (0, e) => e == tap p | _ => false)
      let bad := acked.filter (fun p => match ack p with | some (0, e) => e != tap p | _ => false)
      let nosw := acked.filter (fun p => match ack p with | some (r, _) => r != 0 | none => false)
      let miss := sent.filter (fun p => (ack p).isNone)
      let s := (s.wr R.STR_ECHO_OK ok.length k).wr R.STR_ECHO_BAD bad.length k
      let s := (s.wr R.STR_NOSWAP nosw.length k).wr R.STR_ECHO_MISS miss.length k
      let s := s.wr R.STR_CHIP_TAP (devs.foldl (fun v p => v ^^^ tap p) 0) k
      let s := match bad.foldl (fun (m : Option Nat) p => some (match m with | none => p | some q => Nat.min p q)) none with
        | some p => (s.set F.STR_ECHO_FIRST_POS p k).set F.STR_ECHO_FIRST_STROKE (t % 65536) k
        | none => s
      let s := s.set F.STR_CHAIN_LAST_ACK (acked.foldl Nat.max 0) k
      let s := bad.foldl (fun s p => s.ctxCount (drvCtx k p + 0x10) 0) s
      let s := miss.foldl (fun s p => s.ctxCount (drvCtx k p + 0x10) 16) s
      let quiet := (upTo (s.get F.STR_CHAIN_DEVICES k)).filter (fun p => (ack p).isNone)
      let s := quiet.foldl (fun s p =>
        let n := KMap.get (fun _ => 0) (s.strand k).silent p + 1
        let s := s.setStrand k { s.strand k with silent := KMap.put (fun _ => 0) (s.strand k).silent p n }
        if 8 ≤ n then s.setMemFld (drvCtx k p) 1 1 1 else s) s
      let s := s.setStrand k { s.strand k with open_ := false }
      let code := s.get F.STR_FAULT_CODE k
      let s := match s.breakAt k with
        | some b => if code = 0 ∨ code = 9 then (s.set F.STR_FAULT_BREAK_AT b k).setFault k 9 else s
        | none => if code = 9 then s.clearFault k else s
      let s := s.raiseIf ((bad.length + miss.length != 0) && s.flag F.STR_EVMASK_ECHO_EN k) (0x200 + k)
      .next (s.raiseIf (nosw.length != 0 && s.flag F.STR_EVMASK_NOSWAP_EN k) (0x320 + k))

/-- At the finish: the requested ranging leaves, rolling ranging may send again (R195, R213). -/
def State.strandFinish (s : State) (k : Nat) : State :=
  let s := s.rangeSettle k
  let x := s.strand k
  let s := s.setStrand k { x with rolled := false }
  match x.rangeReq with
  | some p =>
    if s.strState k = strUp ∧ s.portRuns k ∧ !x.ranges.any (fun r => r.2.2) ∧ !x.held.any (·.own) then s.offerMgmt k (s.rangeReq p true) else s
  | none => s

end Sys2Proof.Machine
end

