-- ==== Sys2Proof/Machine/Census.lean ====
section
/-!
DEFINITION. The census wire: requests, frames, replies and unsolicited pulses (R214–R225).
-/
namespace Sys2Proof.Machine

open Sys2Proof

/-- Address of a strand's census header (R223, R405). -/
def cenHdr (k : Nat) : Nat := 0x0D700000 + 64 * k

/-- The CRC-8 of a census frame's other bytes (R216). -/
def cenCrc (l : List Byte) : Nat := crcMsbBytes 8 0x07 0 l

/-- A down frame (R217). -/
def downFrame (cmd pos arg : Nat) : List Byte :=
  let b := leBytes 2 (cmd + pos * 16) ++ leBytes 2 arg
  b ++ [BitVec.ofNat 8 (cenCrc b)]

/-- The census operation of a strand is set. -/
def State.setCensus (s : State) (k : Nat) (o : Option CenOp) : State := s.setStrand k { s.strand k with census := o }

/-- R224: every 100 µs the port reads CEN_REQ, and starts a new request, or ends it at once as BAD_REQ or SHORT. -/
def execCensusPoll (k : Fin 96) (s : State) : Res :=
  let k := k.val
  let h := cenHdr k
  let s := s.advanceUp (s.strand k).cenPoll
  let s := s.setStrand k { s.strand k with cenPoll := s.upNs + 100000 }
  let req := s.rd32 h
  let seq := bitsOf req 16 16
  if seq = s.memFld (h + 8) 16 16 ∨ (s.strand k).census.isSome ∨ s.get F.GLB_SHOW_STATE = showHalted then .next s
  else
    let op := bitsOf req 0 3
    let pos := bitsOf req 3 12
    let key := s.memFld (h + 4) 0 16
    let code := s.get F.STR_FAULT_CODE k
    let done :=
      if code = 4 ∨ code = 5 then some 3
      else if 5 ≤ op ∨ ((op = 1 ∨ op = 2) ∧ key = 0) ∨ 2559 < pos then some 4
      else if op = 0 then some 0
      else none
    .next (s.setCensus k (some {
      op := op, pos := pos, key := key, count := s.memFld (h + 4) 16 12, replies := 0, retried := false, waiting := false, done := done, seq := seq,
      sentAt := s.upNs, idleTo := (s.strand k).cenIdle }))

/-- The operation of a strand while it may send a frame of kind `op`: not in HALTED, where census stops (R525). -/
def State.cenReady (s : State) (k op : Nat) : Option CenOp :=
  match (s.strand k).census with
  | some o => if o.op = op ∧ !o.waiting ∧ o.done.isNone ∧ s.get F.GLB_SHOW_STATE ≠ showHalted then some o else none
  | none => none

/-- A down frame leaves, once the line has been idle for 20 µs after a reply; it lasts 176 µs (R217, R221). -/
def State.cenSend (s : State) (k : Nat) (o : CenOp) (frame : List Byte) : State :=
  let s := s.advanceUp o.idleTo
  (s.emit (.census k frame)).setCensus k (some { o with waiting := true, sentAt := s.upNs + 176000 })

/-- R224: a WALK sends ADDRESS to its next position. -/
def execCensusWalk (k : Fin 96) (s : State) : Res :=
  match s.cenReady k.val 1 with
  | some o => .next (s.cenSend k.val o (downFrame 0 o.pos o.key))
  | none => .next s

/-- R224: a SWEEP sends one SWEEP frame, and is done when it has left. -/
def execCensusSweep (k : Fin 96) (s : State) : Res :=
  match s.cenReady k.val 2 with
  | some o =>
    let s := s.cenSend k.val o (downFrame 1 o.pos o.key)
    .next ((s.advanceUp (s.upNs + 176000)).setCensus k.val (some { o with done := some 0 }))
  | none => .next s

/-- R224: a QUERY sends QUERY to its position. -/
def execCensusQuery (k : Fin 96) (s : State) : Res :=
  match s.cenReady k.val 3 with
  | some o => .next (s.cenSend k.val o (downFrame 2 o.pos 0))
  | none => .next s

/-- R224: a RESET sends the RESET pulse of 100 µs (an empty frame among the outputs), and is done 2 ms later (R215). -/
def execCensusReset (k : Fin 96) (s : State) : Res :=
  match s.cenReady k.val 4 with
  | some o =>
    let s := s.emit (.census k.val [])
    .next ((s.advanceUp (s.upNs + 2100000)).setCensus k.val (some { o with done := some 0 }))
  | none => .next s

/-- A valid IDENT is stored: REPLY, and the identity fields of the position's context (R217, R223, R226). -/
def State.storeIdent (s : State) (k pos : Nat) (f : List Byte) (query : Bool) : State :=
  let c := drvCtx k pos
  let s := s.wrBytes (cenHdr k + 0x14) (f.take 12)
  let old := s.rd32 c
  let w := setBits old 0 1 1
  let w := if query then setBits w 2 1 0 else w
  let w := setBits (setBits w 3 1 (leBits f 66 1)) 4 4 (leBits f 67 4)
  let w := setBits (setBits w 16 8 (leBits f 71 8)) 24 6 (leBits f 79 6)
  (s.wr32 c w).wrN (c + 8) 8 (leBits f 18 48)

/-- A reply has come: the line stays idle for 20 µs (R221). -/
def State.cenQuiet (s : State) (k : Nat) : State := s.setStrand k { s.strand k with cenIdle := s.upNs + 20000 }

/-- R224: an IDENT reply arrives and is stored, or a bad one is retried once in a WALK. Unasked frames are discarded. -/
def execCensusIdentReceived (k : Fin 96) (frame : List Byte) (s : State) : Res :=
  let k := k.val
  match (s.strand k).census with
  | none => .next s
  | some o =>
    if !o.waiting then .next s
    else
      let s := s.cenQuiet k
      let good := frame.length == 12 && cenCrc (frame.take 11) == byteAt frame 11 && leBits frame 0 2 == 0
      if good then
        let s := s.storeIdent k o.pos frame (o.op == 3)
        let n := o.replies + 1
        let fin := o.op == 3 || n == o.count || o.pos == 2559
        .next (s.setCensus k (some { o with
          idleTo := s.upNs + 20000, waiting := false, retried := false, replies := n, pos := if o.op = 1 then o.pos + 1 else o.pos, done := if fin then some 0 else none }))
      else if o.op = 1 ∧ !o.retried then .next (s.setCensus k (some { o with idleTo := s.upNs + 20000, waiting := false, retried := true }))
      else .next (s.setCensus k (some { o with waiting := false, done := some 2 }))

/-- R221: no reply within 24 µs + 0.8 µs × k of the frame's end: the step ends as unanswered, a retried one as BAD_FRAME (R224). -/
def execCensusReplyTimeout (k : Fin 96) (s : State) : Res :=
  match (s.strand k.val).census with
  | none => .next s
  | some o =>
    if o.waiting then
      let s := s.advanceUp (o.sentAt + 24000 + 800 * o.pos)
      .next (s.setCensus k.val (some { o with waiting := false, done := some (if o.retried then 2 else if o.op = 1 ∧ o.replies ≠ 0 then 0 else 1) }))
    else .next s

/-- R224: CEN_RESULT is written, SEQ last, and EV_CENSUS_DONE raised. -/
def execCensusOpDone (k : Fin 96) (s : State) : Res :=
  let k := k.val
  match (s.strand k).census with
  | none => .next s
  | some o =>
    match o.done with
    | none => .next s
    | some r =>
      let h := cenHdr k
      let next := if o.op = 1 then o.pos else s.memFld (h + 8) 3 12
      let s := s.wr32 (h + 8) (r + next % 4096 * 8 + o.seq * 2 ^ 16)
      .next ((s.setCensus k none).raise (0x380 + k))

/-- RNG_CEN_ATTN marks a strand (R384). -/
def State.cenAttn (s : State) (k : Nat) : State :=
  s.set F.RNG_CEN_ATTN_STRAND (setBits (s.get F.RNG_CEN_ATTN_STRAND 0 (k / 32)) (k % 32) 1 1) 0 (k / 32)

/-- R222: a PRESENCE pulse is counted. -/
def execCensusPresence (k : Fin 96) (s : State) : Res :=
  let h := cenHdr k.val
  let s := s.setMemFld (h + 0xC) 0 16 ((s.memFld (h + 0xC) 0 16 + 1) % 65536)
  .next ((s.cenAttn k.val).raise 0x3E0)

/-- R222: a valid ALERT frame is recorded in the census header and the context of its position. -/
def execCensusAlert (k : Fin 96) (frame : List Byte) (s : State) : Res :=
  let k := k.val
  if frame.length = 4 ∧ cenCrc (frame.take 3) = byteAt frame 3 ∧ leBits frame 0 2 = 1 then
    let h := cenHdr k
    let pos := leBits frame 2 12
    let s := s.setMemFld (h + 0xC) 16 16 ((s.memFld (h + 0xC) 16 16 + 1) % 65536)
    let s := s.wr32 (h + 0x10) (pos + leBits frame 14 8 * 2 ^ 12)
    let s := if pos < 2560 then s.setMemFld (drvCtx k pos) 2 1 1 else s
    .next ((s.cenAttn k).raise 0x3E1)
  else .next s

end Sys2Proof.Machine
end

