-- ==== Sys2Proof/Machine/Flags.lean ====
section
/-!
DEFINITION. What the instructions of a cox core compute: integer results, compares, fixed point and bit fields (R350–R357), and the
predicates.
-/
namespace Sys2Proof.Machine

open Sys2Proof

/-- Shift amount of a register shift: gb [5:0] (R350). -/
def shAmt (b : Word) : Nat := b.toNat % 64

/-- Signed and unsigned less-than (R353, R354). -/
def ltS (a b : Word) : Bool := a.slt b
def ltU (a b : Word) : Bool := a.ult b

/-- MIN and MAX, signed (R351). -/
def minW (a b : Word) : Word := if ltS a b then a else b
def maxW (a b : Word) : Word := if ltS a b then b else a

/-- Leading zeros of a word, 0–64 (R351). -/
def clzW (a : Word) : Word := BitVec.ofNat 64 (((List.range 64).takeWhile (fun i => !a.getLsbD (63 - i))).length)

/-- Set bits of a word, 0–64 (R351). -/
def popW (a : Word) : Word := BitVec.ofNat 64 (((List.range 64).filter (fun i => a.getLsbD i)).length)

/-- The signed product of two words, exact (R355). -/
def mulS (a b : Word) : Int := a.toInt * b.toInt

/-- MULQ: Q16.16, rounded to nearest with ties towards +∞, saturated (R355). -/
def mulqW (a b : Word) : Word := BitVec.ofInt 64 (satS 32 (asr (sgn 32 a.toNat * sgn 32 b.toNat + 32768) 16))

/-- SAT: clamped to a signed number of `n` bits (R356). -/
def satW (n : Nat) (a : Word) : Word := BitVec.ofInt 64 (satS n a.toInt)

/-- EXT and EXTU: the field of `len` bits from `pos` (R357). -/
def extW (pos len : Nat) (a : Word) : Word := BitVec.ofInt 64 (sgn len (bitsOf a.toNat pos len))
def extuW (pos len : Nat) (a : Word) : Word := BitVec.ofNat 64 (bitsOf a.toNat pos len)

/-- INS: the low `len` bits of `a` into `d` at `pos` (R357). -/
def insW (pos len : Nat) (d a : Word) : Word := BitVec.ofNat 64 (setBits d.toNat pos len a.toNat)

/-- PGET: bit k = pk for k = 0–7, with p0 = 1 (R354). -/
def pgetW (p : Nat) : Word := BitVec.ofNat 64 (setBits (p % 256) 0 1 1)

/-- PSET: pk = bit k for k = 1–7 (R354). -/
def psetP (a : Word) : Nat := setBits (a.toNat % 256) 0 1 1

/-- A value of `n` bytes extended to a word, with its sign or with zeros (R358). -/
def extendW (n : Nat) (signed : Bool) (v : Nat) : Word :=
  if signed then BitVec.ofInt 64 (sgn (8 * n) v) else BitVec.ofNat 64 (v % 2 ^ (8 * n))

end Sys2Proof.Machine
end

