-- ==== Sys2Proof/Machine/Fiducial.lean ====
section
/-!
DEFINITION. Fiducial jobs: loading, checks and records (R499–R503). The substitution itself is conditioning's (`State.fiducial`).
-/
namespace Sys2Proof.Machine

open Sys2Proof

/-- The record of a fiducial job (R503): written to the ring of PLB_FID_DONE, then EV_PLUMB_FIELD under FIELD_EN. -/
def State.fidRecord (s : State) (tag status index showTime rays : Nat) : State :=
  let rec' := leBytes 4 tag ++ leBytes 4 (status + index * 2 ^ 16) ++ leBytes 8 showTime ++ leBytes 4 rays ++ leBytes 4 s.now ++ leBytes 8 0
  let s := if s.flag F.PLB_FID_DONE_EN then (s.unitRecord (s.get F.PLB_FID_DONE_RING) rec').2 else s
  let s := s.set F.PLB_FID_STAT_RESULT status
  s.raiseIf (s.flag F.PLB_EVMASK_FIELD_EN) 0xD2

/-- One entry of a job's list: RAY, PRIM, VALUE (R499). -/
def State.fidEntry (s : State) (list k : Nat) : Nat × Nat × Nat :=
  let w := s.rdN (list + 8 * k) 8
  (bitsOf w 0 29, bitsOf w 32 3, bitsOf w 48 16)

/-- Whether a ray lies in a tile that will be enabled in stroke N + 1. -/
def inTiles (v : KMap Nat) (ts : List Tile) (a : Nat) : Bool := ts.any (fun t => decide (t.base ≤ a) && decide (a < t.base + t.rays v))

/-- The first entry that fails BAD_LIST (R501). -/
def badEntry (v : KMap Nat) (ts : List Tile) (replace : Bool) : List (Nat × Nat × Nat) → Nat → Option Nat → Option Nat
  | [], _, _ => none
  | (ray, prim, value) :: l, k, prev =>
    let rising := match prev with
      | none => true
      | some p => decide (p < ray)
    if !rising || !inTiles v ts ray || prim == 0 || (replace && decide (65520 < value)) then some k
    else badEntry v ts replace l (k + 1) (some ray)

/-- A job is loaded into the fiducial table (R500); PLB_FID_STAT and PLB_FID_SHOW say so (R508). -/
def State.fidLoaded (s : State) (j : FidJob) : State :=
  let s := { s with plumb := { s.plumb with fid := some j } }
  (s.set F.PLB_FID_STAT_STATE 1).wr R.PLB_FID_SHOW (j.showTime % 2 ^ 32)

/-- A job whose list lies in a hole of the map (R601): its end, and what it lights, are free. -/
def State.fidHole (s : State) (r : Nat) (j : FidJob) : State :=
  let x := s.free .plumb
  let s := x.2
  let t := if x.1 % 6 = 0 then
      s.fidLoaded { j with entries := (Config.freeWrites x.1).map (fun e => (e.1, e.2 % 8, e.2 / 8 % 2 ^ 16)) }
    else s.fidRecord j.tag (x.1 % 6) (Config.freeFun .plumb [x.1] % 2 ^ 15) j.showTime 0
  let done := s.ringReach (s.get F.PLB_FID_DONE_RING) false
  t.unpredictable (s.jobReach r (fun a => s.flag F.PLB_FID_DONE_EN && done.mem a) (fun _ => false))

/-- The first of `n` indices with a property. -/
def firstIdx (n : Nat) (p : Nat → Bool) : Option Nat := (upTo n).find? p

/-- The job at the head of the fiducial ring is examined (R500, R501). -/
def State.fidHead (s : State) (r : Nat) : State :=
  let e := s.ringElem r (s.ringCI r)
  let w8 := s.rd32 (e + 0xC)
  let n := s.strokeNum
  let showTime := extendStroke n (s.rd32 (e + 8))
  let tag := s.rd32 (e + 0x10)
  let list := s.rdN e 6
  let count := bitsOf w8 0 15
  if n + 2 < showTime then s
  else if showTime < n + 2 then (s.unitTaken r 1).fidRecord tag 1 0 showTime 0
  else
    let s := ({ s with plumb := { s.plumb with fidDone := true } }).unitTaken r 1
    let rsvd := s.rdN (e + 6) 2 ≠ 0 ∨ bitAt w8 15 ∨ bitsOf w8 18 14 ≠ 0 ∨ s.rdN (e + 0x14) 12 ≠ 0
    let replace := !bitAt w8 16
    let es := (upTo count).map (s.fidEntry list)
    let j : FidJob := {
      showTime := showTime, tag := tag, add := !replace, neg := bitAt w8 17, count := count, entries := es, rays := 0, notLit := false }
    let b := s.bankNext
    let rsvdEntry (k : Nat) : Bool := let w := s.rdN (list + 8 * k) 8; bitsOf w 29 3 != 0 || bitsOf w 35 13 != 0
    if rsvd ∨ count = 0 ∨ 16384 < count ∨ list % 8 ≠ 0 then s.fidRecord tag 2 0 showTime 0
    else if !s.unitRange list (8 * count) then s.fidHole r j
    else match firstIdx count rsvdEntry, badEntry b.2 (s.tiles b.1) replace es 0 none, firstIdx count (fun k => s.poisoned (list + 8 * k) 8) with
      | some k, _, _ => s.fidRecord tag 2 k showTime 0
      | none, some k, _ => s.fidRecord tag 3 k showTime 0
      | none, none, some k => s.fidRecord tag 4 k showTime 0
      | none, none, none => s.fidLoaded j

/-- R500: in a recovery window the device examines the job at the ring's head that PI covered at the finish; at most one is loaded. -/
def execFiducialJobLoad (s : State) : Res :=
  let r := s.get F.PLB_FID_RING_RING
  if s.stroke.recovery && !s.plumb.fidDone && s.flag F.PLB_FID_RING_EN && s.unitCanTake r && s.plumb.fidPi != s.ringCI r then .next (s.fidHead r)
  else .next s

/-- At the finish of stroke S − 1 the record of the loaded job is written (R503); PI is noted for the window that opens (R500). -/
def State.fidFinish (s : State) : State :=
  let s := match s.plumb.fid with
    | some j =>
      if j.notLit ∨ j.showTime = s.strokeNum + 1 then
        let s := { s with plumb := { s.plumb with fid := none } }
        let s := (s.set F.PLB_FID_STAT_STATE 0).wr R.PLB_FID_RAYS j.rays
        s.fidRecord j.tag (if j.notLit then 5 else 0) (if j.notLit then 0 else j.count) j.showTime j.rays
      else s
    | none => s
  { s with plumb := { s.plumb with fidPi := s.ringPI (s.get F.PLB_FID_RING_RING), fidDone := false } }

/-- At catch S − 1 the substitution begins; a seam accepted in the window that ends there leaves the job of S unsubstituted (R502). -/
def State.fidCatch (s : State) (seam : Bool) : State :=
  match s.plumb.fid with
  | some j => if seam then { s with plumb := { s.plumb with fid := some { j with notLit := true } } }
    else if j.showTime = s.strokeNum + 1 then s.set F.PLB_FID_STAT_STATE 2
    else s
  | none => s

end Sys2Proof.Machine
end

