-- ==== Sys2Proof/Machine/Counters.lean ====
section
/-!
DEFINITION. The counters' commands (R558–R574): configuration, wraps, the snapshot with its dump, and the shadow read.
-/
namespace Sys2Proof.Machine

open Sys2Proof

/-- The programmable counter whose PMC_CFG lies at `a`. -/
def pmcIndexOf (a : Nat) : Option Nat := (List.range 176).find? (fun i => pmcCfgAddr i == a)

/-- A write of a PMC_CFG register: read back at once, in effect from the next epoch (R564). -/
def State.writePmcCfg (s : State) (i : Nat) (v : RegWord) : State :=
  let s := s.typedWr (pmcCfgAddr i) v
  let s := s.set F.PERF_STAT_CFG_PENDING 1
  { s with perf := { s.perf with waiting := if s.perf.waiting.contains i then s.perf.waiting else i :: s.perf.waiting } }

/-- R564: a PMC_CFG register is written. -/
def execPmcConfigWrite (who : Requester) (index : Fin 176) (v : RegWord) (s : State) : Res :=
  s.ifWriteV who (pmcCfgAddr index.val) v (fun s => .next (s.writePmcCfg index.val v))

/-- Whether event `ev` exists for counter `i`'s unit (R562, R563). -/
def pmcEvent (i ev : Nat) : Bool :=
  (decide (1 ≤ ev) && decide (ev ≤ 6)) ||
  (if 20 ≤ i ∧ i < 36 then (decide (0x10 ≤ ev) && decide (ev ≤ 0x16)) || (decide (0x18 ≤ ev) && decide (ev ≤ 0x1B))
    else decide (0x10 ≤ ev) && decide (ev <
      if i ≤ 4 then (if i = 1 then 0x11 else 0x12) else if i = 5 then 0x14 else if i = 6 then 0x13 else if i = 7 then 0x12
      else if i < 16 then 0x15 else if i < 20 then 0x14 else if i < 40 then 0x17 else if i < 56 then 0x14 else if i < 64 then 0x17 else 0x16))

/-- R566: an enabled counter wraps; the events since its last count, which the model does not follow one by one, are counted here. A
counter that is not enabled, that is set to an event that counts nothing, or that counts only the carries of another (R565), does not wrap by
itself. -/
def execCounterWrap (index : Fin 176) (s : State) : Res :=
  let cfg := s.pmcCfg index.val
  if pmcCounts cfg (bitsOf cfg 0 8) && pmcEvent index.val (bitsOf cfg 0 8) then .next (s.addCtr 176 index.val (2 ^ 48 - s.ctr index.val))
  else .next s

/-- What counter `i`'s shadow takes at the epoch: value, [48] PERF_OVF bit, [49] CHAIN, [50] EN (R567, R569). -/
def State.shadowOf (s : State) (i : Nat) : Nat :=
  s.ctr i + 2 ^ 48 * b2n (bitAt (s.rd R.PERF_OVF 0 (i / 32)) (i % 32)) +
    (if i < 176 then 2 ^ 49 * b2n (bitAt (s.pmcCfg i) 9) + 2 ^ 50 * b2n (bitAt (s.pmcCfg i) 8) else 0)

/-- Every shadow takes its counter (R567 step 2). -/
def State.takeShadows (s : State) : State :=
  { s with perf := { s.perf with shadow := (List.range 240).foldl (fun m i => KMap.put (fun _ => 0) m i (s.shadowOf i)) [] } }

/-- The waiting configurations take effect (R564). -/
def State.applyConfigs (s : State) : State :=
  { s with perf := { s.perf with
      cfg := s.perf.waiting.foldl (fun m i => KMap.put (fun _ => 0) m i (s.rdReg (pmcCfgAddr i)).toNat) s.perf.cfg, waiting := [] } }

/-- The epoch (R567 steps 2 and 3) of a trigger's cause and requester. -/
def State.epoch (s : State) (cause req : Nat) : State :=
  let s := s.cyclesPass.takeShadows.applyConfigs
  let s := if s.flag F.PERF_STAT_ZERO_PENDING then forN 240 (fun i s => s.setCtr i 0) s else s
  let s := s.incWrap R.PERF_EPOCH
  let s := s.wr64 R.PERF_SNAP_TIME_LO s.now
  let s := s.wr64 R.PERF_SNAP_STROKE_LO (s.rd64 R.TIME_STK_NUM_LO)
  let s := (s.set F.PERF_SNAP_CAUSE_CAUSE cause).set F.PERF_SNAP_CAUSE_REQ req
  let s := ((s.set F.PERF_STAT_SNAP_BUSY 0).set F.PERF_STAT_CFG_PENDING 0).set F.PERF_STAT_ZERO_PENDING 0
  { s with perf := { s.perf with trigger := none, epochAt := s.upNs } }

/-- The epoch of a trigger comes, and with DUMP_EN the dump begins; otherwise EV_PERF_SNAP is raised under SNAP_EN (R567). -/
def State.epochNow (s : State) (cause req : Nat) : State :=
  let s := s.epoch cause req
  if s.flag F.PERF_CTL_DUMP_EN then
    ({ s with perf := { s.perf with dumpBase := s.rd64 R.PERF_DUMP_LO % 2 ^ 48, dumpSlots := s.get F.PERF_CTL_DUMP_SLOTS + 1 } }.set
      F.PERF_STAT_DUMP_BUSY 1)
  else s.raiseIf (s.flag F.PERF_EVMASK_SNAP_EN) 0xE0

/-- R567: 32 ns after a trigger its epoch comes. -/
def execSnapEpoch (s : State) : Res :=
  match s.perf.trigger with
  | none => .next s
  | some (t, cause, req) => .next ((s.advanceUp (t + 32)).epochNow cause req)

/-- A trigger (R567, R568): it starts a snapshot, joins the one whose epoch is to come, or is dropped while a dump is written. One in the
cycle of an epoch, or after it, starts a new snapshot: the epoch that is due comes first, and its dump begins after that cycle. -/
def State.snapshot (s : State) (cause req : Nat) : State :=
  let s := match s.perf.trigger with
    | some (t, c, r) => if t + 32 ≤ s.upNs then s.epochNow c r else s
    | none => s
  if s.flag F.PERF_STAT_DUMP_BUSY && s.perf.epochAt != s.upNs then s.incSat R.PERF_SNAP_MISS
  else
    match s.perf.trigger with
    | some _ => s
    | none => { s with perf := { s.perf with trigger := some (s.upNs, cause, req) } }.set F.PERF_STAT_SNAP_BUSY 1

/-- A write of PERF_CTL (R574): its RW fields, ZERO for the next epoch, and the trigger. DUMP_SLOTS for a running dump was latched at
its epoch (R573). -/
def State.writePerfCtl (s : State) (who : Requester) (v : RegWord) : State :=
  let s := s.typedWr (R.PERF_CTL.at 0 0) v
  let s := if bitAt v.toNat 7 then s.set F.PERF_STAT_ZERO_PENDING 1 else s
  if bitAt v.toNat 0 then s.snapshot 0 who.code else s

/-- R567: a write of 1 to PERF_CTL.SNAP. -/
def execSnapTrigger (who : Requester) (s : State) : Res :=
  s.ifWrite who (R.PERF_CTL.at 0 0) (fun s => .next (s.snapshot 0 who.code))

/-- The bytes of a dump slot from offset 8 on (R569). -/
def State.dumpBytes (s : State) : List Byte :=
  leBytes 8 (s.rd64 R.PERF_SNAP_STROKE_LO) ++ leBytes 8 (s.rd64 R.PERF_SNAP_TIME_LO) ++ leBytes 4 (s.rd R.PERF_SNAP_CAUSE) ++ leBytes 4 240 ++
    leBytes 32 0 ++ (List.range 240).flatMap (fun i => leBytes 8 (KMap.get (fun _ => 0) s.perf.shadow i))

/-- R569: the dump ends: its slot is written, EPOCH last, and EV_PERF_SNAP is raised under SNAP_EN. A slot in a hole of the map is a
host error (R601). -/
def execSnapDumpDone (s : State) : Res :=
  if s.flag F.PERF_STAT_DUMP_BUSY then
    let a := s.perf.dumpBase + 2048 * (s.rd R.PERF_EPOCH % s.perf.dumpSlots)
    if s.region a == .hole then
      .next (((s.set F.PERF_STAT_DUMP_BUSY 0).raiseIf (s.flag F.PERF_EVMASK_SNAP_EN) 0xE0).unpredictable {})
    else
      let s := ((s.wrN a 4 0xC0A70001).wrBytes (a + 8) s.dumpBytes).wr32 (a + 4) (s.rd R.PERF_EPOCH)
      let s := (s.clearPoison a 1984).unitTouch a 1984
      let s := s.set F.PERF_STAT_DUMP_BUSY 0
      .next (s.raiseIf (s.flag F.PERF_EVMASK_SNAP_EN) 0xE0)
  else .next s

/-- The shadow that PERF_SH_SEL names, OVF above its 48 bits; 0 for an index of no counter (R570, R572). -/
def State.shadowSelected (s : State) : Nat :=
  let i := s.get F.PERF_SH_SEL_SEL
  if i < 240 then KMap.get (fun _ => 0) s.perf.shadow i % 2 ^ 49 else 0

/-- A read of PERF_SH_LO: the whole shadow is latched for the requester, and its epoch is written to PERF_SH_EPOCH (R570). -/
def State.shadowRead (s : State) (who : Requester) : State :=
  let x := s.shadowSelected
  { s.wr R.PERF_SH_EPOCH (s.rd R.PERF_EPOCH) with
    readData := x % 2 ^ 32
    latches := KMap.put (fun _ => 0) s.latches (pairKey who (R.PERF_SH_LO.at 0 0)) (2 ^ 32 + x / 2 ^ 32) }

/-- R570: a read of PERF_SH_LO. -/
def execShadowRead (who : Requester) (s : State) : Res :=
  s.ifRead who (R.PERF_SH_LO.at 0 0) (fun s => .next (s.shadowRead who))

end Sys2Proof.Machine
end

