-- ==== Sys2Proof/Machine/Mortar.lean ====
section
/-!
DEFINITION. The mortar links: bring-up, blocks, frames, HELLO, pointing, PTP and messages (R282–R305).
-/
namespace Sys2Proof.Machine

open Sys2Proof

/-! ## Network ports (R90, R91) -/

/-- R91: a write of NET_CTL; ENABLE 0 stops the port, and ENABLE that becomes 1 aborts a plumb run of its domain (R492). A link that is up
when ENABLE is cleared is not counted in NET_LINK_DOWN: DESIGN CHOICE, log entry 139. -/
def State.netCtl (s : State) (p : Nat) (v : RegWord) : State :=
  let was := s.flag F.NET_CTL_ENABLE p
  let s := s.typedWr (R.NET_CTL.at p 0) v
  if !s.flag F.NET_CTL_ENABLE p then s.netDown p else if was then s else s.portEnabled (24 + p)

/-- Whether a write of NET_CTL changes SPEED of a port that stays enabled: a host error (R90, R601). -/
def State.netBusy (s : State) (p : Nat) (v : RegWord) : Bool :=
  let t := s.typedWr (R.NET_CTL.at p 0) v
  s.flag F.NET_CTL_ENABLE p && t.flag F.NET_CTL_ENABLE p && t.get F.NET_CTL_SPEED p != s.get F.NET_CTL_SPEED p

/-- R91: a write of NET_CTL. -/
def execNetPortEnable (who : Requester) (n : Fin 4) (v : RegWord) (s : State) : Res :=
  s.ifWriteV who (R.NET_CTL.at n.val 0) v (fun s =>
    .next (if s.netBusy n.val v then (s.netCtl n.val v).unpredictable (s.blockReach who .net) else s.netCtl n.val v))

/-- A fault code of link `m`; every change raises EV_MORTAR_FAULT under FAULT_EN (R305). -/
def State.linkFault (s : State) (m code : Nat) : State :=
  if s.get F.MRT_FAULT_CODE m = code then s
  else (s.set F.MRT_FAULT_CODE code m).raiseIf (s.flag F.MRT_EVMASK_FAULT_EN m) (0x70 + m)

/-- A HELLO is queued (R293). -/
def State.sendHello (s : State) (m : Nat) : State :=
  let dom := s.get F.TIME_STAT_DOM_ACT
  let arg0 := (if s.flag F.MRT_PEER_VALID m then s.get F.MRT_PEER_CHIP m + s.get F.MRT_PEER_LINK m * 2 ^ 12 else 0) +
    b2n (s.link m).precode * 2 ^ 15 + s.get F.KLN_STAT_STAGE * 2 ^ 16 + s.domState dom * 2 ^ 18 + s.get F.TIME_STAT_GM * 2 ^ 21 +
    b2n (decide (s.get F.GLB_SHOW_STATE = 2)) * 2 ^ 22 + b2n (s.flag F.MRT_PEER_VALID m) * 2 ^ 23
  let s := s.setLink m { s.link m with helloTx := s.upNs }
  (s.mortarPush m { ftype := 4, cls := 1, arg0 := arg0, arg1 := 0, payload := [], prio := 3, stamp := none, jobEnd := none }).2

/-- The running point job ends with a status (R297): STATUS is written, CI advances. -/
def State.jobEnd (s : State) (m status : Nat) : State :=
  match (s.link m).job with
  | none => s
  | some (e, _) =>
    let s := s.setLink m { s.link m with job := none }
    let s := s.putQueue m ((s.link m).queue.filter (fun f => f.ftype != 2))
    let s := s.setMemFld (e + 0x1C) 0 2 status
    let s := if status = 1 then s.incSat R.MRT_POINT_SENT 1 m else s
    s.unitTaken (s.get F.MRT_POINT_RING_RING m) 1

/-- Step 1 of R292: training begins, afresh or again. -/
def State.linkTrain (s : State) (m : Nat) : State :=
  let s := s.set F.MRT_STAT_STATE mrtTraining m
  let s := (s.setLink m { s.link m with adapted := false, good := 0, bseq := none, asm := none, tryAt := s.upNs, everUp := false, txPart := [], txFirst := 127, rxInv := false }).jobEnd m 3
  s.emit (.pattern (96 + m) 1)

/-- Whether a test mode of MRT_DIAG acts: modes 1 and 2, with ENABLE 0 (R305). -/
def State.mrtDiag (s : State) (m : Nat) : Bool :=
  !s.flag F.MRT_CTL_ENABLE m && (s.get F.MRT_DIAG_MODE m == 1 || s.get F.MRT_DIAG_MODE m == 2)

/-- A test mode sends PRBS31, inside the link or on M<m>T (R305, R596). -/
def State.diagSend (s : State) (m : Nat) : State := if s.mrtDiag m then s.emit (.pattern (96 + m) (1 + s.get F.MRT_DIAG_MODE m)) else s

/-- A write of MRT_CTL (R292, R305): setting ENABLE starts bring-up, clearing it stops the link and clears its flags. -/
def State.writeMrtCtl (s : State) (m : Nat) (v : RegWord) : State :=
  let was := s.flag F.MRT_CTL_ENABLE m
  let s := s.typedWr (R.MRT_CTL.at m 0) v
  -- PTP_EN 0 drops the PTP frames that wait (R305)
  let s := if s.flag F.MRT_CTL_PTP_EN m then s else s.putQueue m ((s.link m).queue.filter (fun f => f.ftype != 3))
  if s.flag F.MRT_CTL_ENABLE m && !was then
    let s := s.portEnabled (16 + m)
    let s := s.setLink m { s.link m with
      mode := s.get F.MRT_CTL_MODE m, precode := s.flag F.MRT_CTL_PRECODE m, txeq := s.rd R.MRT_TXEQ m, enabledAt := s.upNs }
    (s.wr R.MRT_TRAIN (1 * 2 ^ 16) m).linkTrain m
  else if was && !s.flag F.MRT_CTL_ENABLE m then
    let s := s.jobEnd m 3
    -- the block in progress is still sent (R305)
    let s := if decide ((s.link m).blockStart (s.link m).txBlk ≤ s.upQ) then s.flushBlock m else s
    let s := (s.putQueue m []).wr R.MRT_STAT 0 m
    let s := s.set F.MRT_PEER_VALID 0 m
    (s.setLink m { s.link m with adapted := false, good := 0, bseq := none, asm := none, discards := [], txPart := [], txFirst := 127 }).linkFault m 0 |>.diagSend m
  else s

/-- Whether a write of MRT_CTL changes MODE or PRECODE of a link that stays enabled: a host error (R292, R601). -/
def State.mrtBusy (s : State) (m : Nat) (v : RegWord) : Bool :=
  let t := s.typedWr (R.MRT_CTL.at m 0) v
  s.flag F.MRT_CTL_ENABLE m && t.flag F.MRT_CTL_ENABLE m &&
    (t.get F.MRT_CTL_MODE m != s.get F.MRT_CTL_MODE m || t.get F.MRT_CTL_PRECODE m != s.get F.MRT_CTL_PRECODE m)

/-- The outcome of a host error in the set-up of link `m`: that link's traffic in both directions (R601). -/
def State.linkDisturbed (s : State) (m : Nat) : State :=
  let n := s.freeCtr
  let t := s.unpredictable { out := fun o => match o with | .mortar k _ _ _ _ _ => k == m | _ => false }
  t.setLink m (KMap.get (fun _ => Mortar.reset) (Config.freeMortars n) m)

/-- A write of MRT_CTL, which must not change MODE or PRECODE of an enabled link (R292). -/
def State.wrMrtCtl (s : State) (m : Nat) (v : RegWord) : State :=
  if s.mrtBusy m v then (s.writeMrtCtl m v).linkDisturbed m else s.writeMrtCtl m v

def execMortarEnable (who : Requester) (m : Fin 8) (v : RegWord) (s : State) : Res :=
  s.ifWriteV who (R.MRT_CTL.at m.val 0) v (fun s => .next (s.wrMrtCtl m.val v))

def execMortarDisable (who : Requester) (m : Fin 8) (v : RegWord) (s : State) : Res :=
  s.ifWriteV who (R.MRT_CTL.at m.val 0) v (fun s => .next (s.wrMrtCtl m.val v))

/-- A write of MRT_DIAG: a test mode begins (R305). -/
def State.writeMrtDiag (s : State) (m : Nat) (v : RegWord) : State :=
  let was := s.mrtDiag m && s.get F.MRT_DIAG_MODE m == bitsOf v.toNat 0 2
  let s := s.typedWr (R.MRT_DIAG.at m 0) v
  if was then s else s.diagSend m

/-- Step 2 of R292: the receiver has adapted and the link sends blocks of idle; the precoder starts from 0 (R284). -/
def execMortarRxAdapted (m : Fin 8) (s : State) : Res :=
  if s.linkState m.val = mrtTraining ∧ s.refPresent 3 then
    .next ((s.setLink m.val { s.link m.val with adapted := true, txAt := s.upQ, txBlk := 0, txLast := 0, rxLast := 0 }).emit (.pattern (96 + m.val) 0))
  else .next s

/-- Step 3 of R292: four good consecutive blocks are block lock; the link enters LOCKED and sends HELLO. -/
def execMortarBlockLock (m : Fin 8) (s : State) : Res :=
  if s.linkState m.val = mrtTraining ∧ (s.link m.val).adapted ∧ 4 ≤ (s.link m.val).good then
    .next ((s.set F.MRT_STAT_STATE mrtLocked m.val).sendHello m.val)
  else .next s

/-- Step 5 of R292: a link not UP after 100 ms reports why and begins again; `signal` says whether a signal was detected. -/
def execMortarBringupTimeout (m : Fin 8) (signal : Bool) (s : State) : Res :=
  let k := m.val
  if s.linkState k = mrtTraining ∨ (s.linkState k = mrtLocked ∧ !(s.link k).everUp) then
    let s := s.advanceUp ((s.link k).tryAt + 100000000)
    let s := s.linkFault k (if (s.link k).adapted then 3 else if signal then 2 else 1)
    .next ((s.incFld F.MRT_TRAIN_TRIES 1 k).linkTrain k)
  else .next s

/-- R292: 1 ms without block lock after UP returns the link to training and reports LOST. -/
def execMortarLockLoss (m : Fin 8) (s : State) : Res :=
  let k := m.val
  if s.linkLocked k && (s.link k).everUp then
    let s := s.advanceUp ((s.link k).lastGood + 1000000)
    let s := s.setLink k { s.link k with enabledAt := s.upNs }
    .next (((s.linkFault k 4).wr R.MRT_TRAIN (1 * 2 ^ 16) k).linkTrain k)
  else .next s

/-! ## Frames -/

/-- A HELLO arrives (R285, R293–R295). -/
def State.helloReceived (s : State) (m w1 arg0 : Nat) : State :=
  let chip := bitsOf w1 0 12
  let s := s.setLink m { s.link m with helloAt := s.upNs }
  let s := ((s.set F.MRT_PEER_CHIP chip m).set F.MRT_PEER_LINK (bitsOf w1 12 3) m).set F.MRT_PEER_VALID 1 m
  let s := (s.set F.MRT_PEER_PRECODE (bitsOf arg0 15 1) m).set F.MRT_HEALTH_HEALTH (bitsOf arg0 16 7) m
  let s := if bitAt arg0 15 != (s.link m).precode then
      (s.set F.MRT_STAT_PRE_MISMATCH 1 m).raiseIf (s.flag F.MRT_EVMASK_FAULT_EN m) (0x70 + m) else s
  if chip = s.chipIndex then (s.set F.MRT_STAT_DUP_INDEX 1 m).linkFault m 5
  else if bitAt arg0 23 && bitsOf arg0 0 12 == s.chipIndex && bitsOf arg0 12 3 == m && s.linkState m != mrtUp && !s.flag F.MRT_STAT_DUP_INDEX m then
    let s := s.set F.MRT_STAT_STATE mrtUp m
    let s := if s.get F.MRT_FAULT_CODE m ≤ 4 then s.linkFault m 0 else s
    let s := if (s.link m).everUp then s else s.set F.MRT_TRAIN_TIME_US (Nat.min 65535 ((s.upNs - (s.link m).enabledAt) / 1000)) m
    let s := s.setLink m { s.link m with everUp := true }
    s.raiseIf (s.flag F.MRT_EVMASK_UP_EN m) (0x60 + m)
  else s

/-- A MSG frame becomes one element of the receive ring, or is dropped and counted (R302). -/
def State.msgReceived (s : State) (m : Nat) (frame : List Byte) (len : Nat) : State :=
  let el := frame.take 16 ++ leBytes 4 s.now ++ leBytes 4 len ++ List.replicate 8 0 ++ (frame.drop 16).take len
  let el := el ++ List.replicate (256 - el.length) 0
  if s.flag F.MRT_MSG_RX_EN m then
    let r := s.unitRecord (s.get F.MRT_MSG_RX_RING m) el
    if r.1 then r.2 else r.2.incSat R.MRT_MSG_DROP 1 m
  else s.incSat R.MRT_MSG_DROP 1 m

/-- A POINT frame lands as a fragment of a class-0 pallet of KIND 0 (R299); one whose sub-header does not describe its payload is counted as a
bad frame. -/
def State.pointReceived (s : State) (m arg0 arg1 : Nat) (payload : List Byte) : Res :=
  let rowBytes := bitsOf (leAt payload 0 4) 0 14
  let rows := bitsOf (leAt payload 0 4) 16 15
  let f := leAt payload 4 4 % 65536
  let rpf := if rowBytes = 0 then 0 else 8192 / rowBytes
  let n := if rpf = 0 then 0 else ceilDiv rows rpf
  if !s.flag F.ING_CTL_ENABLE || s.get F.GLB_SHOW_STATE == 4 then .next s
  else if n ≤ f ∨ payload.length ≠ 16 + Nat.min rpf (rows - f * rpf) * rowBytes then .next (s.incSat R.MRT_FRM_ERR 1 m)
  else
    (s.incWrap R.ING_SRC 1 0 (4 + m)).steerFrag (4 + m)
      { obj := {
          stream := bitsOf arg1 0 12, kind := 0, object := bitsOf arg1 12 8, cls := 0, show32 := arg0, showTime := extendStroke s.strokeNum arg0
          fields := [rowBytes, rows, leAt payload 8 4], objLen := rows * rowBytes, user := leAt payload 8 4, ochk := false, crc := 0
          nfrag := n, source := 4 + m, outBytes := rows * rowBytes, slices := 0, sliceErr := false }
        frag := f, point := true, rowBytes := rowBytes, rows := rows, fsize := 0, payload := payload.drop 16 } none

/-- A valid frame is dispatched by its type (R289, R296–R302). With DUP_INDEX only HELLO is accepted (R295). -/
def State.frameReceived (s : State) (m : Nat) (frame : List Byte) : Res :=
  let w0 := leAt frame 0 4
  let len := bitsOf w0 8 14
  let ftype := bitsOf w0 0 4
  let payload := (frame.drop 16).take len
  let s := (s.inc64 R.MRT_RX_FRAMES_LO 1 m).inc64 R.MRT_RX_BYTES_LO (16 + len + 4) m
  let s := s.countAll (160 + 2 * m) 2 0x11 1 { cls := some (bitsOf w0 4 2) }
  if ftype = 4 then .next (s.helloReceived m (leAt frame 4 4) (leAt frame 8 4))
  else if s.flag F.MRT_STAT_DUP_INDEX m then .next s
  else if ftype = 1 then s.palletReceived (4 + m) none payload
  else if ftype = 2 then
    if s.flag F.MRT_CTL_POINT_EN m then s.pointReceived m (leAt frame 8 4) (leAt frame 12 4) payload else .next s
  else if ftype = 3 then
    if s.flag F.MRT_CTL_PTP_EN m then .next ((s.incWrap R.MRT_PTP_RX 1 m).ptpFrame (4 + m) 3 payload) else .next s
  else .next (s.msgReceived m frame len)

/-- Whether the MAGIC, FTYPE and LEN of a frame's first word are right: a HELLO has no payload, a MSG 4–224 bytes (R288, R289). -/
def frameHeadOk (w0 : Nat) : Bool :=
  let len := bitsOf w0 8 14
  let t := bitsOf w0 0 4
  bitsOf w0 24 8 == 0xB7 && decide (1 ≤ t) && decide (t ≤ 5) && decide (len ≤ 8240) && len % 4 == 0 && (t != 4 || len == 0) &&
    (t != 5 || (decide (4 ≤ len) && decide (len ≤ 224)))

/-- Whether a frame's check is right. -/
def frameCrcOk (b : List Byte) : Bool :=
  let n := 16 + bitsOf (leAt b 0 4) 8 14
  crc32c (b.take n) == leAt b n 4

/-- Frames in the bytes of successive blocks (R288): zeros are skipped 8 bytes at a time, a bad header is skipped and counted, a frame with a
bad check is discarded and counted, and what is not yet whole is kept. `fuel` bounds the 8-byte steps. -/
def State.takeFrames (fuel : Nat) (s : State) (m : Nat) (b : List Byte) : Host.Outcome (State × List Byte) Fault Refusal :=
  match fuel with
  | 0 => .next (s, b)
  | fuel + 1 =>
    if b.length < 8 then .next (s, b)
    else if leAt b 0 4 = 0 then s.takeFrames fuel m (b.drop 8)
    else if !frameHeadOk (leAt b 0 4) then (s.incSat R.MRT_FRM_ERR 1 m).takeFrames fuel m (b.drop 8)
    else
      let n := 20 + bitsOf (leAt b 0 4) 8 14
      let size := ceilDiv n 8 * 8
      if b.length < size then .next (s, b)
      else if !frameCrcOk b then (s.incSat R.MRT_FRM_ERR 1 m).takeFrames fuel m (b.drop size)
      else
        match s.frameReceived m (b.take n) with
        | .next s => s.takeFrames fuel m (b.drop size)
        | .fault f => .fault f
        | .refused r => .refused r

/-- HI_BER clears after a whole millisecond without a discarded block (R287). -/
def State.berSettle (s : State) (m : Nat) : State :=
  match (s.link m).discards with
  | t :: _ =>
    if s.flag F.MRT_STAT_HI_BER m && decide (t + 1000000 ≤ s.upNs) then
      let s := s.set F.MRT_STAT_HI_BER 0 m
      if s.get F.MRT_FAULT_CODE m = 6 then s.linkFault m 0 else s
    else s
  | [] => s

/-- A block is discarded (R287): the frames being assembled are lost; more than 16 in 1 ms is HI_BER. -/
def State.blockDiscard (s : State) (m : Nat) : State :=
  let s := s.berSettle m
  let l := s.link m
  let ds := (s.upNs :: l.discards).take 17
  let s := s.setLink m { l with asm := none, good := 0, discards := ds }
  match ds[16]? with
  | some t => if s.upNs < t + 1000000 then (s.set F.MRT_STAT_HI_BER 1 m).linkFault m 6 else s
  | none => s

/-- A block that could not be read is counted and discarded; the sequence goes on by one for it. -/
def State.blockBad (s : State) (m : Nat) : State :=
  let s := if (s.link m).mode = 0 then s.incSat R.MRT_FEC_UNCORR 1 m else s.incSat R.MRT_BLK_ERR 1 m
  let s := s.setLink m { s.link m with bseq := (s.link m).bseq.map (fun b => (b + 1) % 4096) }
  s.blockDiscard m

/-- A block that was read (R283, R287, R288): PAR and BSEQ are checked, and its frames are assembled. `apart` says that in MODE 1 it took
5,500 UI, as block lock asks (R292). -/
def State.blockTaken (s : State) (k hdr : Nat) (data : List Byte) (apart : Bool) : Res :=
  let seq := bitsOf hdr 0 12
  let seqOk := match (s.link k).bseq with
    | some b => seq == (b + 1) % 4096
    | none => true
  let s := s.setLink k { s.link k with bseq := some seq }
  if parity hdr 20 ≠ 0 ∨ !seqOk then .next ((s.incSat R.MRT_BLK_ERR 1 k).blockDiscard k)
  else
    let s := s.berSettle k
    let l := s.link k
    let s := s.setLink k { l with good := if apart then l.good + 1 else 0, lastGood := s.upNs }
    if s.linkState k = mrtTraining then .next s
    else
      let first := bitsOf hdr 12 7
      let buf := match l.asm with
        | some b => some (b ++ data)
        | none => if first < 80 then some (data.drop (8 * first)) else none
      match buf with
      | none => .next s
      | some b =>
        match s.takeFrames (b.length / 8 + 1) k b with
        | .next (s, rest) => .next (s.setLink k { s.link k with asm := some rest })
        | .fault f => .fault f
        | .refused r => .refused r

/-- A block's line arrives on link `m` (R282–R287): PAM4 symbols in MODE 0, which the RS decoder corrects or cannot; bits in MODE 1, from
the bit before the marker on. A line without a marker brings no block. The line comes in four parts: marker (MODE 1), header, data, and
parity or CRC with what follows it. -/
def execMortarBlockReceived (m : Fin 8) (mark head body check : List Nat) (s : State) : Res :=
  let line := mark ++ head ++ body ++ check
  let k := m.val
  let st := s.linkState k
  let l := s.link k
  if st = mrtOff ∨ (st = mrtTraining ∧ !l.adapted) then .next s
  else if l.mode = 0 then
    let r := pamParse l.precode l.rxLast line
    let s := s.setLink k { l with rxLast := line.getLastD 0 }
    match r with
    | none => .next (s.blockBad k)
    | some (hdr, data, n) => ((s.incSat R.MRT_FEC_CORR n k).countAll (160 + 2 * k) 2 0x14 n).blockTaken k hdr data true
  else
    match lineSegs l.rxInv (line.map (· != 0)) with
    | [] => .next (s.setLink k { l with good := 0 })
    | (inv, d, _) :: _ =>
      let s := s.setLink k { l with rxInv := l.rxInv != inv }
      match nrzParse d with
      | none => .next (s.blockBad k)
      | some (hdr, data) => s.blockTaken k hdr data (line.length == 5500)

/-- A whole frame: checked, then dispatched, or discarded and counted (R288). -/
def execMortarFrameReceived (m : Fin 8) (frame : List Byte) (s : State) : Res :=
  if !s.linkLocked m.val then .next s
  else if frameHeadOk (leAt frame 0 4) && decide (20 + bitsOf (leAt frame 0 4) 8 14 ≤ frame.length) && frameCrcOk frame then
    s.frameReceived m.val frame
  else .next (s.incSat R.MRT_FRM_ERR 1 m.val)

/-- HELLO period and loss time in ns (R305). -/
def State.helloPeriod (s : State) (m : Nat) : Nat := Nat.max 10 (s.get F.MRT_HELLO_PERIOD_US m) * 1000
def State.helloMiss (s : State) (m : Nat) : Nat := Nat.max 1 (s.get F.MRT_HELLO_MISS m)

/-- R293: a locked link sends a HELLO; a period without one received while UP is counted. -/
def execHelloSend (m : Fin 8) (s : State) : Res :=
  let k := m.val
  if s.linkLocked k then
    let s := s.advanceUp ((s.link k).helloTx + s.helloPeriod k)
    let s := if s.linkUp k && decide ((s.link k).helloAt + s.helloPeriod k ≤ s.upNs) then s.incSat R.MRT_HELLO_MISS 1 k else s
    .next (s.sendHello k)
  else .next s

/-- R294: an UP link that has had no valid HELLO for MISS × PERIOD_US becomes LOST. -/
def execHelloLoss (m : Fin 8) (s : State) : Res :=
  let k := m.val
  if s.linkUp k then
    let s := s.advanceUp ((s.link k).helloAt + s.helloMiss k * s.helloPeriod k)
    let s := (s.set F.MRT_STAT_STATE mrtLost k).jobEnd k 3
    let s := s.setLink k { s.link k with asm := none, txPart := [], txFirst := 127 }
    .next ((s.incSat R.MRT_LINK_DOWN 1 k).raiseIf (s.flag F.MRT_EVMASK_LOST_EN k) (0x68 + k))
  else .next s

/-- POINT frame `f` of the job at element `e` (R298). -/
def State.pointFrame (s : State) (e f : Nat) : MortarFrame :=
  let src := s.rdN e 6
  let pitch := s.memFld (e + 8) 0 20
  let rowBytes := s.memFld (e + 0xC) 0 14
  let rows := s.memFld (e + 0xC) 16 15
  let rpf := 8192 / rowBytes
  let n := Nat.min rpf (rows - f * rpf)
  { ftype := 2, cls := 0, arg0 := s.rd32 (e + 0x10), arg1 := s.memFld (e + 0x14) 0 20
    payload := leBytes 4 (rowBytes + rows * 2 ^ 16) ++ leBytes 4 f ++ s.rdBytes (e + 0x18) 4 ++ [0, 0, 0, 0] ++
      (upTo n).flatMap (fun k => s.rdBytes (src + (f * rpf + k) * pitch) rowBytes)
    prio := 2, stamp := none, jobEnd := if ceilDiv rows rpf ≤ f + 1 then some e else none }

/-- Frames of the job at element `e` (R298). -/
def State.pointFrames (s : State) (e : Nat) : Nat := ceilDiv (s.memFld (e + 0xC) 16 15) (8192 / s.memFld (e + 0xC) 0 14)

/-- The running job's next frame joins the queue, once its last one has left and there is room. -/
def State.pointFeed (s : State) (m : Nat) : State :=
  match (s.link m).job with
  | some (e, n + 1) =>
    if (s.link m).queue.any (fun f => f.ftype == 2) ∨ s.pointFrames e ≤ n then s
    else
      let p := s.mortarPush m (s.pointFrame e n)
      if p.1 then p.2.setLink m { p.2.link m with job := some (e, n + 2) } else s
  | _ => s

/-- R297: the next point job begins, or ends at once as BAD_JOB or LINK_DOWN. A band in a hole of the map is a host error (R601). -/
def execPointJob (m : Fin 8) (s : State) : Res :=
  let k := m.val
  let r := s.get F.MRT_POINT_RING_RING k
  if !s.flag F.MRT_CTL_POINT_EN k || !s.flag F.MRT_POINT_RING_EN k || (s.link k).job.isSome || !s.unitCanTake r then .next s
  else
    let e := s.ringElem r (s.ringCI r)
    let rowBytes := s.memFld (e + 0xC) 0 14
    let rows := s.memFld (e + 0xC) 16 15
    let begun := s.setLink k { s.link k with job := some (e, 1) }
    if s.rdN e 6 % 64 ≠ 0 ∨ s.memFld (e + 8) 0 20 % 64 ≠ 0 ∨ rowBytes < 64 ∨ 8192 < rowBytes ∨ rowBytes % 64 ≠ 0 ∨ rows = 0 ∨ 16384 < rows then
      .next (begun.jobEnd k 2)
    else if !s.linkUp k || s.flag F.MRT_STAT_DUP_INDEX k then .next (begun.jobEnd k 3)
    else
      let last := s.rdN e 6 + (rows - 1) * s.memFld (e + 8) 0 20
      let hole := !s.unitRange (s.rdN e 6) rowBytes || !s.unitRange last rowBytes
      let u := begun.pointFeed k
      .next (if hole then u.unpredictable (s.jobReach r (fun _ => false) (fun o => match o with | .mortar j _ _ _ _ _ => j == k | _ => false)) else u)

/-- R297: the last frame of a job has left; STATUS is written SENT. -/
def execPointJobDone (m : Fin 8) (s : State) : Res :=
  match (s.link m.val).job with
  | some (_, 0) => .next (s.jobEnd m.val 1)
  | _ => .next s

/-- The frame that the transmitter starts next: the first of the strictest priority (R291). -/
def Mortar.nextFrame (l : Mortar) (helloOnly : Bool) : Option MortarFrame :=
  [1, 2, 3, 4, 5, 6].findSome? (fun p => l.queue.find? (fun f => f.prio == p && (!helloOnly || f.ftype == 4)))

/-- What the departure of a frame leads to: a point job queues its next frame, or has sent its last (R297, R298). -/
def State.frameLeft (s : State) (k : Nat) (f : MortarFrame) : State :=
  let s := (s.inc64 R.MRT_TX_FRAMES_LO 1 k).inc64 R.MRT_TX_BYTES_LO (16 + f.payload.length + 4) k
  let s := s.countAll (160 + 2 * k) 2 0x10 1 { cls := some f.cls }
  let s := if f.ftype = 3 then s.incWrap R.MRT_PTP_TX 1 k else s
  let s := if f.ftype = 2 then s.countAll (160 + 2 * k) 2 0x13 1 { cls := some 0 } else s
  match f.jobEnd, (s.link k).job with
  | some _, some (e, _) => s.setLink k { s.link k with job := some (e, 0) }
  | _, _ => s.pointFeed k

/-- R291: the transmitter starts the next whole frame, a PTP frame at the start of a block. A stamped PTP message takes the time of its
block's start (R254, R301). Where no other frame waits, its last block is filled with zeros. -/
def execMortarFrameSend (m : Fin 8) (s : State) : Res :=
  let k := m.val
  if !s.linkLocked k then .next s
  else match (s.link k).nextFrame (s.flag F.MRT_STAT_DUP_INDEX k) with
    | none => .next (s.flushBlock k)
    | some f =>
      let s := s.putQueue k ((s.link k).queue.erase f)
      let s := s.frameBlock k (f.ftype == 3)
      let (f, s) := match f.stamp with
        | some (kind, d) =>
          let t := s.stampQ16 d (4 + k) true
          let msg := ptpParse f.payload
          ({ f with payload := padWords (ptpBytes (byteAt f.payload 0 % 16) (ptpStamped kind msg t)) }, s.ptpDeparted (4 + k) kind d msg t)
        | none => (f, s)
      let s := (s.layFrame k (s.frameBytes k f)).frameLeft k f
      .next (if ((s.link k).nextFrame (s.flag F.MRT_STAT_DUP_INDEX k)).isNone then s.flushBlock k else s)

/-- R302: a MSG_TX descriptor is sent as a MSG or PTP frame, or discarded and counted. PTP event messages go first (R291). -/
def execMsgTx (m : Fin 8) (s : State) : Res :=
  let k := m.val
  let r := s.get F.MRT_MSG_TX_RING k
  if !s.flag F.MRT_MSG_TX_EN k || !s.unitCanTake r || !s.linkUp k then .next s
  else
    let e := s.ringElem r (s.ringCI r)
    let w := s.rd32 (e + 8)
    let len := bitsOf w 0 8
    let cls := Nat.max 1 (bitsOf w 9 2)
    let rsvd := s.rdN (e + 6) 2 != 0 || bitsOf w 11 21 != 0 || s.rdN (e + 0xC) 20 != 0
    if rsvd ∨ len < 4 ∨ 224 < len ∨ len % 4 ≠ 0 then .next ((s.incSat R.MRT_MSG_DROP 1 k).unitTaken r 1)
    else
      let a := s.rdN e 6
      let payload := s.rdBytes a len
      let t := byteAt payload 0 % 16
      let f : MortarFrame := if bitAt w 8 then { ftype := 3, cls := 1, arg0 := 0, arg1 := 0, payload := payload, prio := if t ≤ 1 ∨ t = 9 then 1 else 4, stamp := none, jobEnd := none }
        else { ftype := 5, cls := cls, arg0 := 0, arg1 := 0, payload := payload, prio := 3 + cls, stamp := none, jobEnd := none }
      if bitAt w 8 && !s.flag F.MRT_CTL_PTP_EN k then .next (s.unitTaken r 1)
      else
        let p := s.mortarPush k f
        let u := if p.1 then p.2.unitTaken r 1 else s
        .next (if s.unitRange a len then u
          else u.unpredictable (s.jobReach r (fun _ => false) (fun o => match o with | .mortar j _ _ _ _ _ => j == k | _ => false)))

end Sys2Proof.Machine
end

