-- ==== Sys2Proof/Machine/InUse.lean ====
section
/-!
DEFINITION. Structures in use that software must not change (R24, R71, R94, R165, R167, R224, R227, R297): a store that changes one is a
host error of R601, whose result is unpredictable within what the table's last column names.
-/
namespace Sys2Proof.Machine

open Sys2Proof

/-- The conditioning of every ray: what the strands send, and the mirror banks, 12 bytes a ray at most (R168). -/
def State.condReach (s : State) : Reach :=
  { out := fun o => o.block == .strand
    mem := fun a => (upTo 2).any (fun i => inRange (s.rdN (condHdr + 0x40 + 8 * i) 6) (12 * 480000000) a) }

/-- A request word of a yard header is pending: its SEQ differs from the one of the result word. -/
def State.seqPending (s : State) (req res : Nat) : Bool := s.memFld req 16 16 != s.memFld res 16 16

/-- A byte of the tile table (R24): a bank is in force once one has been accepted or reinstated (R616). -/
def State.tileUse (s : State) (a : Nat) : Option Reach :=
  let o := a - tileTable
  if o < 4 then (if s.seqPending tileTable (tileTable + 4) then some showReach else none)
  else if o < 0xC then some showReach
  else if 0x40 ≤ o ∧ (((o - 0x40) / 0x20000 = s.render.bank ∧ !bitAt s.render.missing 0) ∨ (o - 0x40) / 0x20000 = s.memFld (tileTable + 4) 0 1) then some showReach
  else none

/-- A byte of the conditioning header (R161, R165). -/
def State.condUse (s : State) (a : Nat) : Option Reach :=
  let o := a - condHdr
  if o < 4 then (if s.seqPending condHdr (condHdr + 4) then some s.condReach else none)
  else if o < 0xC ∨ (0x50 ≤ o ∧ o < 0x70) then some s.condReach
  else none

/-- A byte of a map set, of its directory, or of a gain block, matrix array or spare list that it names for an enabled tile (R157–R160). -/
def State.mapHas (s : State) (gain dir : Nat) (a : Nat) : Bool :=
  (s.tiles s.render.bank).any (fun t =>
    let d := dir + 128 * t.idx
    inRange d 128 a || inRange (gain + 576 * (t.base / 128)) (576 * (t.rays s.render.views / 128 + 2)) a ||
    (match s.dirEntryAt d with
      | some e => inRange e.spare (8 * e.count) a || (e.mode == 2 && inRange e.mat (18 * (t.nu * t.nv)) a)
      | none => false))

/-- The map sets that software must not write: the one in force and the one that CD_RESULT.SET_ACT names, from its acceptance, and after a
warm reset until it is reinstated (R165, R616). -/
def State.mapSets (s : State) : List Nat :=
  let act := if s.cond.map.isSome || s.cond.nextMap.isSome || bitAt s.render.missing 1 then [s.memFld (condHdr + 4) 0 1] else []
  match s.cond.map with
  | some m => m.set :: act
  | none => act

/-- A byte of one of these sets. -/
def State.mapUse (s : State) (a : Nat) : Bool :=
  s.mapSets.any (fun i =>
    let h := s.rdN (condHdr + 0x10 + 8 * i) 6
    inRange h 64 a || s.mapHas (s.rdN (h + 8) 6) (s.rdN (h + 0x10) 6) a)

/-- A byte of the curve slot that a pending CD_CURVE names (R167). -/
def State.curveUse (s : State) (a : Nat) : Bool :=
  s.seqPending (condHdr + 0xC) (condHdr + 0x50) && inRange (s.rdN (condHdr + 0x20 + 8 * s.memFld (condHdr + 0xC) 0 2) 6) 18114 a

/-- A byte of the bond slot, the bond table or a plane in use (R94, R113). -/
def State.bondUse (s : State) (a : Nat) : Bool :=
  s.get F.GLB_SHOW_STATE != showStarting &&
    (inRange (bondSlot s.nextNum) 64 a || (s.usedTable.any (fun t => !s.stroke.recovery && inRange t.1 t.2.length a)) ||
      s.usedPlanes.any (fun r => inRange r.1 r.2 a))

/-- The landing entry that FILLING or DECODING keeps, of which `a` is a byte (R71). -/
def State.entryUse (s : State) (a : Nat) : Option Reach :=
  (s.ingest.objs.find? (fun e => e.2.isSome && inRange e.1 64 a && (s.entryState e.1 == 1 || s.entryState e.1 == 2))).map (fun e => s.entryReach e.1)

/-- The link whose running point job sends a band that holds `a` (R297). -/
def State.pointUse (s : State) (a : Nat) : Bool :=
  (upTo 8).any (fun m => match (s.link m).job with
    | some (e, _) => inRange (s.rdN e 6) (s.memFld (e + 8) 0 20 * s.memFld (e + 0xC) 16 15) a
    | none => false)

/-- What a change of the byte at `a` by software may disturb; none where the byte is not in use (R601). -/
def State.useOf (s : State) (a : Nat) : Option Reach :=
  if tileTable ≤ a ∧ a < tileTable + 0x40040 then s.tileUse a
  else if condHdr ≤ a ∧ a < condHdr + 0x80 then s.condUse a
  else if 0x0D700000 ≤ a ∧ a < 0x0D800000 then
    let k := (a - 0x0D700000) / 64
    if a % 64 < 4 ∧ k < 96 ∧ s.seqPending (cenHdr k) (cenHdr k + 8) then some (strandReach k) else none
  else if 0x0C800000 ≤ a ∧ a < 0x0D700000 then
    let k := (a - 0x0C800000) / (2560 * 64)
    if 0x18 ≤ a % 64 ∧ a % 64 < 0x1A ∧ s.flag F.STR_CTL_ENABLE k then some (strandReach k) else none
  else if s.bondUse a then some showReach
  else if s.mapUse a then some s.condReach
  else if s.curveUse a then some { mem := inRange (s.rdN (condHdr + 0x20 + 8 * s.memFld (condHdr + 0xC) 0 2) 6) 18114 }
  else if s.pointUse a then some { out := fun o => o.block == .mortar }
  else s.entryUse a

/-- What a store of `l` at `a` by software may disturb: it counts where it changes a byte. -/
def State.storeUse (s : State) (a : Nat) (l : List Byte) : Option Reach :=
  (upTo l.length).findSome? (fun i => if l[i]? = some (s.rdB (a + i)) then none else s.useOf (a + i))

/-- The state after a store of `l` at `a`, which left `t`: unpredictable where it changed a structure in use. -/
def State.changed (s : State) (a : Nat) (l : List Byte) (t : State) : State :=
  match s.storeUse a l with
  | some x => t.unpredictable x
  | none => t

end Sys2Proof.Machine
end

