-- ==== Sys2Proof/Machine/Crypto.lean ====
section
/-!
DEFINITION. The algorithms of R535–R536 and R548–R550 as their standards give them: SHA-256 and SHA-384 (FIPS 180-4), HMAC (FIPS 198-1),
ECDSA over P-384 (FIPS 186-5) with the nonces of RFC 6979, LMS verification with LMS_SHA256_M32_H15 and LMOTS_SHA256_N32_W4, and LMS
signing with LMS_SHA256_M32_H10 (RFC 8554).
-/
namespace Sys2Proof.Machine

open Sys2Proof

/-! ## SHA-2 -/

/-- Whether `n`, below 23², is a prime: no number from 2 to 22 but itself divides it. -/
def smallPrime (n : Nat) : Bool := decide (2 ≤ n) && (List.range 21).all (fun d => n % (d + 2) != 0 || n == d + 2)

/-- The first 80 primes, from whose roots FIPS 180-4 takes its constants. -/
def shaPrimes : List Nat := ((List.range 512).filter smallPrime).take 80

/-- The integer `k`-th root of `n`, by its bits from `b` − 1 down. -/
def rootBits (k n : Nat) : Nat → Nat → Nat
  | 0, x => x
  | b + 1, x => rootBits k n b (if (x + 2 ^ b) ^ k ≤ n then x + 2 ^ b else x)

/-- The first `w` bits of the fractional part of the square root of a prime, and of its cube root. -/
def sqrtFrac (w p : Nat) : Nat := rootBits 2 (p * 2 ^ (2 * w)) (w + 5) 0 % 2 ^ w
def cbrtFrac (w p : Nat) : Nat := rootBits 3 (p * 2 ^ (3 * w)) (w + 4) 0 % 2 ^ w

/-- The round constants and initial values. -/
def sha256K : List Nat := (shaPrimes.take 64).map (cbrtFrac 32)
def sha384K : List Nat := shaPrimes.map (cbrtFrac 64)
def sha256H : List Nat := (shaPrimes.take 8).map (sqrtFrac 32)
def sha384H : List Nat := ((shaPrimes.drop 8).take 8).map (sqrtFrac 64)

/-- Rotation and shift of a `w`-bit word to the right. -/
def rotr (w n x : Nat) : Nat := x / 2 ^ n + x % 2 ^ n * 2 ^ (w - n)

/-- The four rotation functions of a word size: Σ0, Σ1, σ0, σ1. -/
structure ShaFns where
  w : Nat
  b0 : Nat × Nat × Nat
  b1 : Nat × Nat × Nat
  s0 : Nat × Nat × Nat
  s1 : Nat × Nat × Nat

def sha32 : ShaFns := { w := 32, b0 := (2, 13, 22), b1 := (6, 11, 25), s0 := (7, 18, 3), s1 := (17, 19, 10) }
def sha64 : ShaFns := { w := 64, b0 := (28, 34, 39), b1 := (14, 18, 41), s0 := (1, 8, 7), s1 := (19, 61, 6) }

/-- Σ: three rotations; σ: two rotations and a shift. -/
def bigSigma (w : Nat) (r : Nat × Nat × Nat) (x : Nat) : Nat := rotr w r.1 x ^^^ rotr w r.2.1 x ^^^ rotr w r.2.2 x
def smallSigma (w : Nat) (r : Nat × Nat × Nat) (x : Nat) : Nat := rotr w r.1 x ^^^ rotr w r.2.1 x ^^^ (x / 2 ^ r.2.2)

/-- The message schedule, newest word first, extended by `n` words. -/
def shaSchedule (f : ShaFns) : Nat → List Nat → List Nat
  | 0, l => l
  | n + 1, l =>
    shaSchedule f n (((smallSigma f.w f.s1 (l.getD 1 0) + l.getD 6 0 + smallSigma f.w f.s0 (l.getD 14 0) + l.getD 15 0) % 2 ^ f.w) :: l)

/-- One round on the eight working words. -/
def shaRound (f : ShaFns) (h : List Nat) (kw : Nat) : List Nat :=
  match h with
  | [a, b, c, d, e, g, x, y] =>
    let ch := (e &&& g) ^^^ ((2 ^ f.w - 1 - e) &&& x)
    let mj := (a &&& b) ^^^ (a &&& c) ^^^ (b &&& c)
    let t1 := y + bigSigma f.w f.b1 e + ch + kw
    [(t1 + bigSigma f.w f.b0 a + mj) % 2 ^ f.w, a, b, c, (d + t1) % 2 ^ f.w, e, g, x]
  | l => l

/-- The words of a block, first word last. -/
def shaWords (f : ShaFns) (block : List Byte) : List Nat :=
  (List.range 16).foldl (fun l i => beAt block (i * (f.w / 8)) (f.w / 8) :: l) []

/-- One block. -/
def shaBlock (f : ShaFns) (k h : List Nat) (block : List Byte) : List Nat :=
  let ws := (shaSchedule f (k.length - 16) (shaWords f block)).reverse
  let out := (List.zip k ws).foldl (fun h p => shaRound f h (p.1 + p.2)) h
  List.zipWith (fun x y => (x + y) % 2 ^ f.w) h out

/-- The padded message. -/
def shaPad (f : ShaFns) (m : List Byte) : List Byte :=
  let bl := 2 * f.w
  let z := (bl - (m.length + 1 + f.w / 4) % bl) % bl
  m ++ [0x80] ++ List.replicate z 0 ++ beBytes (f.w / 4) (8 * m.length)

/-- The hash of a message: `out` bytes. -/
def sha2 (f : ShaFns) (k h : List Nat) (out : Nat) (m : List Byte) : List Byte :=
  let p := shaPad f m
  let bl := 2 * f.w
  let r := (List.range (p.length / bl)).foldl (fun h i => shaBlock f k h ((p.drop (bl * i)).take bl)) h
  (r.flatMap (beBytes (f.w / 8))).take out

/-- SHA-256 and SHA-384. -/
def sha256 (m : List Byte) : List Byte := sha2 sha32 sha256K sha256H 32 m
def sha384 (m : List Byte) : List Byte := sha2 sha64 sha384K sha384H 48 m

/-- HMAC-SHA-384 under a key of at most 128 bytes. -/
def hmac384 (key m : List Byte) : List Byte :=
  let k := key ++ List.replicate (128 - key.length) 0
  sha384 (k.map (· ^^^ 0x5C) ++ sha384 (k.map (· ^^^ 0x36) ++ m))

/-! ## ECDSA over P-384 -/

def p384 : Nat := 2 ^ 384 - 2 ^ 128 - 2 ^ 96 + 2 ^ 32 - 1
def p384B : Nat := 0xb3312fa7e23ee7e4988e056be3f82d19181d9c6efe8141120314088f5013875ac656398d8a2ed19d2a85c8edd3ec2aef
def p384N : Nat := 0xffffffffffffffffffffffffffffffffffffffffffffffffc7634d81f4372ddf581a0db248b0a77aecec196accc52973
def p384Gx : Nat := 0xaa87ca22be8b05378eb1c71ef320ad746e1d3b628ba79b9859f741e082542a385502f25dbf55296c3a545e3872760ab7
def p384Gy : Nat := 0x3617de4a96262c6f5d9e98bf9292dc29f8f41dbd289a147ce9da3113b5f0b8c00a60b1ce1d7e819d7a431d7c90ea0e5f

/-- x^e mod m, by the bits of e, `n` of them. -/
def powMod (m : Nat) : Nat → Nat → Nat → Nat
  | 0, _, _ => 1
  | n + 1, x, e => let r := powMod m n (x * x % m) (e / 2); if e % 2 = 1 then x * r % m else r

/-- Inverse modulo a prime below 2^384. -/
def invMod (m x : Nat) : Nat := powMod m 384 (x % m) (m - 2)

/-- Sum of two points of the curve; none is the point at infinity. -/
def ecAdd (a b : Option (Nat × Nat)) : Option (Nat × Nat) :=
  match a, b with
  | none, q => q
  | p, none => p
  | some (x1, y1), some (x2, y2) =>
    if x1 = x2 ∧ (y1 + y2) % p384 = 0 then none
    else
      let l := if x1 = x2 then (3 * x1 * x1 + p384 - 3) * invMod p384 (2 * y1) % p384
        else (y2 + p384 - y1) * invMod p384 (x2 + p384 - x1) % p384
      let x3 := (l * l + 2 * p384 - x1 - x2) % p384
      some (x3, (l * (x1 + p384 - x3) + p384 - y1) % p384)

/-- A multiple of a point, by the bits of the factor, `n` of them. -/
def ecMul : Nat → Nat → Option (Nat × Nat) → Option (Nat × Nat)
  | 0, _, _ => none
  | n + 1, k, p => let r := ecMul n (k / 2) (ecAdd p p); if k % 2 = 1 then ecAdd p r else r

/-- Whether a signature r ‖ s verifies over a message under an uncompressed public key (FIPS 186-5). -/
def ecdsaVerify (pub sig msg : List Byte) : Bool :=
  let x := beAt pub 1 48
  let y := beAt pub 49 48
  let r := beAt sig 0 48
  let s := beAt sig 48 48
  if byteAt pub 0 ≠ 4 ∨ p384 ≤ x ∨ p384 ≤ y ∨ y * y % p384 ≠ (x * x * x + (p384 - 3) * x + p384B) % p384 then false
  else if r = 0 ∨ p384N ≤ r ∨ s = 0 ∨ p384N ≤ s then false
  else
    let w := invMod p384N s
    let e := beVal (sha384 msg)
    match ecAdd (ecMul 384 (e * w % p384N) (some (p384Gx, p384Gy))) (ecMul 384 (r * w % p384N) (some (x, y))) with
    | none => false
    | some (vx, _) => vx % p384N == r

/-- The public key of a private key, uncompressed. -/
def ecdsaPub (d : Nat) : List Byte :=
  match ecMul 384 d (some (p384Gx, p384Gy)) with
  | some (x, y) => 4 :: (beBytes 48 x ++ beBytes 48 y)
  | none => []

/-- r and s of a signature of the hash `e` with the nonce `k`, where both are good (FIPS 186-5). -/
def ecdsaWith (d e k : Nat) : Option (Nat × Nat) :=
  match ecMul 384 k (some (p384Gx, p384Gy)) with
  | none => none
  | some (x, _) =>
    let r := x % p384N
    let s := invMod p384N k * (e + r * d) % p384N
    if r = 0 ∨ s = 0 then none else some (r, s)

/-- The candidate nonces of RFC 6979 from the state K, V, `n` of them at most. -/
def ecdsaTry (d e : Nat) : Nat → List Byte → List Byte → Option (Nat × Nat)
  | 0, _, _ => none
  | n + 1, key, v =>
    let v := hmac384 key v
    let k := beVal v
    match (if k = 0 ∨ p384N ≤ k then none else ecdsaWith d e k) with
    | some x => some x
    | none =>
      let key := hmac384 key (v ++ [0])
      ecdsaTry d e n key (hmac384 key v)

/-- The ECDSA signature r ‖ s of a message under a private key, its nonce that of RFC 6979 with SHA-384. -/
def ecdsaSign (d : Nat) (msg : List Byte) : Option (List Byte) :=
  let e := beVal (sha384 msg)
  let seed := beBytes 48 d ++ beBytes 48 (e % p384N)
  let v0 : List Byte := List.replicate 48 1
  let k1 := hmac384 (List.replicate 48 0) (v0 ++ [0] ++ seed)
  let v1 := hmac384 k1 v0
  let k2 := hmac384 k1 (v1 ++ [1] ++ seed)
  (ecdsaTry d e 16 k2 (hmac384 k2 v1)).map (fun p => beBytes 48 p.1 ++ beBytes 48 p.2)

/-! ## LMS (RFC 8554) -/

/-- `n` steps of a hash chain from step `j` of element `i`. -/
def lmotsChain (pre : List Byte) (i : Nat) : Nat → Nat → List Byte → List Byte
  | 0, _, t => t
  | n + 1, j, t => lmotsChain pre i n (j + 1) (sha256 (pre ++ beBytes 2 i ++ beBytes 1 j ++ t))

/-- The 67 digits that a message of a leaf gives with the randomizer `c`: those of its hash and of their checksum. -/
def lmotsDigits (idq c msg : List Byte) : List Nat :=
  let q := sha256 (idq ++ beBytes 2 0x8181 ++ c ++ msg)
  let digits (l : List Byte) : List Nat := l.flatMap (fun b => [b.toNat / 16, b.toNat % 16])
  let sum := (digits q).foldl (fun a d => a + (15 - d)) 0
  (digits (q ++ beBytes 2 (sum * 16))).take 67

/-- The candidate one-time public key of a signature over a message. -/
def lmotsCandidate (idq : List Byte) (c ys msg : List Byte) : List Byte :=
  let ds := lmotsDigits idq c msg
  sha256 (idq ++ beBytes 2 0x8080 ++ ds.zipIdx.flatMap (fun p => lmotsChain idq p.2 (15 - p.1) p.1 ((ys.drop (32 * p.2)).take 32)))

/-- The root that a leaf and its path give. -/
def lmsRoot (i : List Byte) (path : List Byte) : Nat → Nat → List Byte → List Byte
  | 0, _, t => t
  | n + 1, node, t =>
    let sib := path.take 32
    let body := if node % 2 = 1 then sib ++ t else t ++ sib
    lmsRoot i (path.drop 32) n (node / 2) (sha256 (i ++ beBytes 4 (node / 2) ++ beBytes 2 0x8383 ++ body))

/-- Whether an LMS signature of 2,668 bytes verifies; only the types of R536 are accepted. -/
def lmsVerify (pub sig msg : List Byte) : Bool :=
  let i := (pub.drop 8).take 16
  let q := beAt sig 0 4
  if beAt pub 0 4 ≠ 7 ∨ beAt pub 4 4 ≠ 3 ∨ beAt sig 4 4 ≠ 3 ∨ beAt sig 2184 4 ≠ 7 ∨ 2 ^ 15 ≤ q then false
  else
    let kc := lmotsCandidate (i ++ beBytes 4 q) ((sig.drop 8).take 32) ((sig.drop 40).take 2144) msg
    let leaf := sha256 (i ++ beBytes 4 (2 ^ 15 + q) ++ beBytes 2 0x8282 ++ kc)
    lmsRoot i ((sig.drop 2188).take 480) 15 (2 ^ 15 + q) leaf == (pub.drop 24).take 32

/-! ## LMS signing (RFC 8554), with LMOTS_SHA256_N32_W4 -/

/-- The secrets of a tree of height `h`: its identifier I, its one-time private values by leaf and chain, its randomizers by leaf. -/
structure LmsKey where
  h : Nat
  id : List Byte
  x : Nat → Nat → List Byte
  c : Nat → List Byte

/-- The one-time public key of leaf `q`. -/
def LmsKey.ots (k : LmsKey) (q : Nat) : List Byte :=
  let idq := k.id ++ beBytes 4 q
  sha256 (idq ++ beBytes 2 0x8080 ++ (upTo 67).flatMap (fun i => lmotsChain idq i 15 0 (k.x q i)))

/-- Node `r` of the tree, `n` levels above the leaves. -/
def LmsKey.node (k : LmsKey) : Nat → Nat → List Byte
  | 0, r => sha256 (k.id ++ beBytes 4 r ++ beBytes 2 0x8282 ++ k.ots (r - 2 ^ k.h))
  | n + 1, r => sha256 (k.id ++ beBytes 4 r ++ beBytes 2 0x8383 ++ k.node n (2 * r) ++ k.node n (2 * r + 1))

/-- The public key of the tree: the types LMS_SHA256_M32_H10 and LMOTS_SHA256_N32_W4, I and the root. -/
def LmsKey.pub (k : LmsKey) : List Byte := beBytes 4 6 ++ beBytes 4 3 ++ k.id ++ k.node k.h 1

/-- The signature of a message with leaf `q`: the one-time signature and the path to the root. -/
def LmsKey.sign (k : LmsKey) (q : Nat) (msg : List Byte) : List Byte :=
  let idq := k.id ++ beBytes 4 q
  let ds := lmotsDigits idq (k.c q) msg
  beBytes 4 q ++ beBytes 4 3 ++ k.c q ++ ds.zipIdx.flatMap (fun p => lmotsChain idq p.2 p.1 0 (k.x q p.2)) ++ beBytes 4 6 ++
    (upTo k.h).flatMap (fun j => k.node j ((2 ^ k.h + q) / 2 ^ j ^^^ 1))

end Sys2Proof.Machine
end

