-- ==== Sys2Proof/Machine/Ledger.lean ====
section
/-!
DEFINITION. The ledger unit: reads, programs and erases of the flash devices (R542–R547, R556, R557).
-/
namespace Sys2Proof.Machine

open Sys2Proof

/-- Address in the read window of a flash byte (R542). -/
def flashAddr (cs a : Nat) : Nat := 0x38000000 + cs * 0x4000000 + a

/-- STATE codes of LDG_STAT. -/
def ldgIdle : Nat := 0
def ldgBusy : Nat := 1
def ldgSuspended : Nat := 2

/-- The range [a, a + n) meets [b, b + m). -/
def overlaps (a n b m : Nat) : Bool := decide (a < b + m) && decide (b < a + n)

/-- Writes to a boot record, and into the booted slot's region, are protected without BOOT_WE (R547): slot A is on chip select 0, slot B on
chip select 1 (R540). -/
def State.ldgProtected (s : State) (cs a n : Nat) : Bool :=
  !s.flag F.LDG_CTL_BOOT_WE && (overlaps a n 0 16 || (cs == s.get F.GLB_BOOT_IMAGE_B && overlaps a n 0x1000 0x200000))

/-- Whether an operation lies in the TRIP region (R543). -/
def inTrip (a n : Nat) : Bool := decide (0x440000 ≤ a) && decide (a + n ≤ 0x450000)

/-- The command ends: its result, LDG_LAST for a refusal or an error, and its event (R556, R557). -/
def State.ldgEnd (s : State) (res cs a : Nat) : State :=
  let s := { s with ledger := { s.ledger with op := none, suspended := none } }
  let s := (s.set F.LDG_STAT_STATE ldgIdle).set F.LDG_STAT_RESULT res
  if res = 0 then s.raiseIf (s.flag F.LDG_EVMASK_DONE_EN) 0xD8
  else
    let s := ((s.set F.LDG_LAST_RESULT res).set F.LDG_LAST_CS cs).set F.LDG_LAST_FADDR a
    s.raiseIf (s.flag F.LDG_EVMASK_ERR_EN) 0xD9

/-- A refusal: counted in LDG_REFUSED, and in GLB_WR_GATE under R528. A refused trip record is pending (R525). -/
def State.ldgRefuse (s : State) (res cs a n : Nat) : State :=
  let s := s.incSat R.LDG_REFUSED
  let s := if res ≤ 3 then s.incFld F.GLB_WR_GATE_REFUSALS else s
  let s := if res ≤ 3 && inTrip a n then s.set F.KLN_STAT_LEDGER_PEND 1 else s
  s.ldgEnd res cs a

/-- The next page program or erase starts, if R528 allows it now (R547). What a page in a hole of the map holds is free (R601). -/
def State.ldgStart (s : State) (o : LdgOp) : State :=
  let a := o.faddr + o.done
  let n := if o.op = 1 then 256 else o.len
  let why := s.ledgerWhy (inTrip a n)
  if why = 0 then
    let page := if o.op ≠ 1 then []
      else if s.unitRange (o.maddr + o.done) 256 then s.rdBytes (o.maddr + o.done) 256
      else (upTo 256).map (fun i => BitVec.ofNat 8 (Config.freeFun .result [47, s.upNs, o.maddr + o.done + i]))
    let s := if o.op = 1 then s.unitTouch (o.maddr + o.done) 256 else s
    { s with ledger := { s.ledger with op := some { o with page := page }, suspended := none } }.set F.LDG_STAT_STATE ldgBusy
  else s.ldgRefuse why o.cs a n

/-- The bytes transferred are counted and checked (R556). -/
def State.ldgMoved (s : State) (l : List Byte) : State :=
  let m := s.ledger.moved ++ l
  ({ s with ledger := { s.ledger with moved := m } }.wr R.LDG_DONE m.length).wr R.LDG_CRC (crc32c m)

/-- A write of LDG_CMD (R547, R556, R557): with GO the command is checked and starts. A READ copies at once. Memory
in a hole of the map is a host error (R601). -/
def State.writeLdgCmd (s : State) (v : RegWord) : Res :=
  let s := s.typedWr (R.LDG_CMD.at 0 0) v
  if !bitAt v.toNat 3 || !s.flag F.LDG_CTL_EN then .next s
  else if s.get F.LDG_STAT_STATE ≠ ldgIdle then .next (s.set F.LDG_STAT_RESULT 8)
  else
    let op := s.get F.LDG_CMD_OP
    let cs := s.get F.LDG_CMD_CS
    let a := s.get F.LDG_FADDR_ADDR
    let m := s.rd64 R.LDG_MADDR_LO % 2 ^ 48
    let n := if op = 2 then 4096 else if op = 3 then 65536 else s.rd R.LDG_LEN
    let unit := if op = 1 then 256 else if op = 2 then 4096 else if op = 3 then 65536 else 1
    let s := { s with ledger := { s.ledger with moved := [] } }
    let s := (s.wr R.LDG_DONE 0).wr R.LDG_CRC 0
    if a % unit ≠ 0 ∨ n % unit ≠ 0 ∨ (op ≤ 1 ∧ m % 64 ≠ 0) ∨ s.ledger.flashBytes < a + n then .next (s.ldgRefuse 5 cs a n)
    else if 0 < op ∧ s.ldgProtected cs a n then .next (s.ldgRefuse 4 cs a n)
    else if op = 0 then
      let l := s.rdBytes (flashAddr cs a) n
      let t := ((((s.wrBytes m l).unitTouch m n).ldgMoved l).count 3 0x11 n).ldgEnd 0 cs a
      .next (if n = 0 ∨ s.unitRange m n then t else t.unpredictable { mem := inRange m n })
    else if n = 0 then .next (s.ldgEnd 0 cs a)
    else .next (s.ldgStart { op := op, cs := cs, faddr := a, maddr := m, len := n, done := 0, page := [] })

/-- A command of the ledger unit, written with GO by `who`. -/
def State.ldgCommand (s : State) (who : Requester) (op : Nat) (cs : Fin 2) : Res :=
  s.ifWrite who (R.LDG_CMD.at 0 0) (fun s => s.writeLdgCmd (BitVec.ofNat 32 (op + 4 * cs.val + 8)))

/-- R547: READ. -/
def execLedgerRead (who : Requester) (cs : Fin 2) (s : State) : Res := s.ldgCommand who 0 cs

/-- R547: PROGRAM. -/
def execLedgerProgram (who : Requester) (cs : Fin 2) (s : State) : Res := s.ldgCommand who 1 cs

/-- R547: ERASE_4K. -/
def execLedgerErase4k (who : Requester) (cs : Fin 2) (s : State) : Res := s.ldgCommand who 2 cs

/-- R547: ERASE_64K. -/
def execLedgerErase64k (who : Requester) (cs : Fin 2) (s : State) : Res := s.ldgCommand who 3 cs

/-- The flash content after an operation: programming clears bits, erasing sets them all; a failed operation leaves free bytes. -/
def State.flashAfter (s : State) (o : LdgOp) (failed : Bool) : State :=
  let a := flashAddr o.cs (o.faddr + o.done)
  if failed then
    forN (if o.op = 1 then 256 else o.len) (fun i s =>
      s.burn (a + i) (BitVec.ofNat 8 (Config.freeFun .result [9, s.upNs, o.op, a + i]))) s
  else if o.op = 1 then s.burnBytes a (o.page.zipIdx.map (fun p => p.1 &&& s.rdB (a + p.2)))
  else { s with mem := s.mem.filter (fun e => !(decide (a ≤ e.1) && decide (e.1 < a + o.len))) }

/-- R547: the flash device completes the page program or the erase. FLASH_ERR where it reports a failure, VERIFY_FAIL where the page reads
back different; otherwise the next page, or the end. -/
def execLedgerOpDone (failed : Bool) (s : State) : Res :=
  match s.ledger.op with
  | none => .next s
  | some o =>
    let a := o.faddr + o.done
    let s := s.flashAfter o failed
    if failed then .next (s.ldgEnd 6 o.cs a)
    else if o.op = 1 then
      let s := (s.incSat R.LDG_PROGS).count 3 0x10
      if s.rdBytes (flashAddr o.cs a) 256 ≠ o.page then .next (s.ldgEnd 7 o.cs a)
      else
        let s := s.ldgMoved o.page
        if o.done + 256 < o.len then .next (s.ldgStart { o with done := o.done + 256 })
        else .next ((if inTrip o.faddr o.len then s.set F.KLN_STAT_LEDGER_PEND 0 else s).ldgEnd 0 o.cs a)
    else .next (((s.incSat R.LDG_ERASES).wr R.LDG_DONE o.len).ldgEnd 0 o.cs a)

/-- Chip select of an address of the read window (R542). -/
def windowCs (a : Nat) : Nat := (a - 0x38000000) / 0x4000000

/-- The operation that was suspended for a read resumes within 50 µs; when before is free (R542). -/
def State.ldgResume (s : State) : State :=
  match s.ledger.suspended with
  | some t =>
    if t + 50000 ≤ s.upNs ∨ Config.freeFun .latency [542, s.upNs] % 2 = 1 then
      ({ s with ledger := { s.ledger with suspended := none } }).set F.LDG_STAT_STATE ldgBusy
    else s
  | none => s

/-- R542: a read of the ledger window returns the word in the flash; a program or erase of that chip select is suspended for it, and
STATE reads SUSPENDED until it resumes (R556). -/
def execLedgerWindowRead (addr : Nat) (s : State) : Res :=
  if s.region addr == .ledger then
    let t := { s with readData := s.rd32 (addr / 4 * 4) }
    .next (match s.ledger.op with
      | some o => if o.cs = windowCs addr then
          ({ t with ledger := { t.ledger with suspended := some s.upNs } }).set F.LDG_STAT_STATE ldgSuspended else t
      | none => t)
  else .next s

end Sys2Proof.Machine
end

