-- ==== Sys2Proof/Machine/Trust.lean ====
section
/-!
DEFINITION. The trust unit: signature blocks, OTP, the verify engine and its log, the LMS state, attestation and debug unlock (R535–R555).
-/
namespace Sys2Proof.Machine

open Sys2Proof

/-- `n` free bytes that depend on the operands. -/
def freeBytes (k : Config.Open) (args : List Nat) (n : Nat) : List Byte :=
  (upTo n).map (fun i => BitVec.ofNat 8 (Config.freeFun k (i :: args)))

/-- Bytes as operands of a free function. -/
def asNats (l : List Byte) : List Nat := l.map (·.toNat)

/-- TRU_ALERT bit `k` is set, and EV_TRUST_ALERT raised under TRU_EVMASK (R554). -/
def State.alert (s : State) (k : Nat) : State :=
  (s.set F.TRU_ALERT_BITS (setBits (s.get F.TRU_ALERT_BITS) k 1 1)).raiseIf (bitAt (s.get F.TRU_EVMASK_BITS) k) 0xDA

/-! ## OTP (R537) -/

/-- Address of the OTP read image. -/
def otpAt (o : Nat) : Nat := 0x31000000 + o

/-- A byte of OTP programmed: bits only go to 1. -/
def State.otpSet (s : State) (o : Nat) (b : Byte) : State := s.burn (otpAt o) (s.rdB (otpAt o) ||| b)

/-- Root hash of slot `k`. -/
def State.otpRoot (s : State) (k : Nat) : List Byte := s.rdBytes (otpAt (0x40 + 0x40 * k)) 48

def State.otpProg (s : State) (k : Nat) : Bool := bitAt (s.rd32 (otpAt 0x180)) (8 + k)
def State.otpRevoked (s : State) (k : Nat) : Bool := bitAt (s.rd32 (otpAt 0x180)) k

/-- A root that may sign: the vendor root, or an owner root that is programmed and not revoked (R539). -/
def State.rootOk (s : State) (k : Nat) : Bool := k == 0 || (decide (k ≤ 4) && s.otpProg k && !s.otpRevoked k)

/-- Bits set in the 32 bytes at an OTP offset: a unary count. -/
def State.otpCount (s : State) (o : Nat) : Nat :=
  (s.rdBytes (otpAt o) 32).foldl (fun n b => n + ((List.range 8).filter (bitAt b.toNat)).length) 0

/-- Anti-rollback counter `i`, and RESV. -/
def State.rbCounter (s : State) (i : Nat) : Nat := s.otpCount (0x200 + 32 * i)
def State.otpResv (s : State) : Nat := s.otpCount 0xA00

/-- A unary count raised to `v`. -/
def State.otpRaise (s : State) (o v : Nat) : State :=
  forN 32 (fun j s => s.otpSet (o + j) (BitVec.ofNat 8 (2 ^ Nat.min 8 (v - 8 * j) - 1))) s

/-- TRU_ROOTS and TRU_LMS_RESV as OTP stands (R554). -/
def State.otpShow (s : State) : State :=
  let w := s.rd32 (otpAt 0x180)
  let s := (s.set F.TRU_ROOTS_REVOKED (bitsOf w 1 4)).set F.TRU_ROOTS_PROG (bitsOf w 8 5)
  s.set F.TRU_LMS_RESV_RESV s.otpResv

/-! ## Signature blocks (R535, R536) -/

/-- What a signature block says of a message under a root hash: it verifies, the ECDSA signature does, the LMS signature does. -/
def verifyBlock (block root msg : List Byte) : Bool × Bool × Bool :=
  let pub := (block.drop 8).take 97
  let lms := (block.drop 0x6C).take 56
  let e := ecdsaVerify pub ((block.drop 0xA4).take 96) msg
  let l := lmsVerify lms ((block.drop 0x104).take 2668) msg
  (leAt block 0 4 == 0x5167B10C && leAt block 4 4 == 2928 && sha384 (pub ++ lms) == root && e && l, e, l)

/-- Length of a signature block. -/
def sigLen : Nat := 2928

/-! ## Images (R334–R337, R539) -/

/-- A field of an image header. -/
def hdr (h : List Byte) (o n : Nat) : Nat := leAt h o n

/-- Whether a segment entry's reserved fields and alignments are right (R335). -/
def segOk (e : List Byte) : Bool :=
  leAt e 0 8 / 2 ^ 48 == 0 && leAt e 0 6 % 64 == 0 && leAt e 8 4 % 64 == 0 && leAt e 0x14 4 / 8 == 0 && leAt e 0x18 8 == 0

/-- Whether a header and its segment table are right (R337, code 1). -/
def headerOk (h table : List Byte) : Bool :=
  let segs := hdr h 0xC 1
  hdr h 0 4 == 0x9A51C0C5 && hdr h 4 2 == 1 && hdr h 6 2 == 256 && decide (1 ≤ segs) && decide (segs ≤ 15) &&
  hdr h 8 4 / 8 == 0 && hdr h 0xC 4 / 16 == 0 && hdr h 0x10 8 / 2 ^ 48 == 0 && hdr h 0x18 8 / 2 ^ 48 == 0 && hdr h 0x20 8 / 2 ^ 48 == 0 &&
  hdr h 0x28 4 / 2 ^ 16 == 0 && bitsOf (hdr h 0x38 4) 6 2 == 0 && hdr h 0x38 4 / 2 ^ 11 == 0 && (h.drop 0x78).all (· == 0) &&
  (upTo segs).all (fun i => segOk ((table.drop (32 * i)).take 32))

/-- WARDEN, ROOT, RB_INDEX and RB_VALUE of a header. -/
def imgWarden (h : List Byte) : Bool := bitAt (hdr h 8 1) 0
def imgRoot (h : List Byte) : Nat := bitsOf (hdr h 0x38 4) 8 3
def imgRbIndex (h : List Byte) : Nat := bitsOf (hdr h 0x38 4) 0 6

/-- The verification of the image at `a` (R541): result 0 OK, 1 BAD_HEADER, 2 VERIFY, 3 ROLLBACK, and whether the ECDSA and the LMS
signature failed. Memory that reads poisoned does not verify. -/
def State.verifyImage (s : State) (a : Nat) : Nat × Bool × Bool :=
  let h := s.rdBytes a 256
  let segs := hdr h 0xC 1 % 16
  let bodyLen := hdr h 0x40 4
  if s.poisoned a 256 then (2, false, false)
  else if !headerOk h (s.rdBytes (a + 0x100) (32 * segs)) || decide (2 ^ 24 < 0x100 + bodyLen + sigLen) then (1, false, false)
  else
    let root := imgRoot h
    if !s.rootOk root || (imgWarden h && root != 0) || s.poisoned (a + 0x100) (bodyLen + sigLen) then (2, false, false)
    else if sha384 (s.rdBytes (a + 0x100) bodyLen) != (h.drop 0x48).take 48 then (2, false, false)
    else
      let (ok, e, l) := verifyBlock (s.rdBytes (a + 0x100 + bodyLen) sigLen) (s.otpRoot root) h
      if !ok then (2, !e, !l)
      else if (decide (imgRbIndex h < 16) != (root == 0)) || decide (hdr h 0x3C 4 < s.rbCounter (imgRbIndex h)) then (3, false, false)
      else (0, false, false)

/-- A measurement is appended to the log, or only extends the accumulator once it holds 64 entries (R541). -/
def State.measure (s : State) (core : Nat) (h : List Byte) : State :=
  let m := sha384 h
  let acc := sha384 ((upTo 12).flatMap (fun j => leBytes 4 (s.rd R.TRU_ACC 0 j)) ++ m)
  let s := forN 12 (fun j s => s.wr R.TRU_ACC (leAt acc (4 * j) 4) 0 j) s
  if 64 ≤ s.trust.log.length then s.set F.TRU_MEAS_CNT_OVERFLOW 1
  else
    let e : Meas := { who := core + imgRoot h * 2 ^ 4 + b2n (imgWarden h) * 2 ^ 7, image := hdr h 0x30 4, ver := hdr h 0x34 4, stroke := 0, hash := m }
    ({ s with trust := { s.trust with log := s.trust.log ++ [e] } }).set F.TRU_MEAS_CNT_CNT (s.trust.log.length + 1)

/-- The image `id` starts on a core in stroke `n`: its newest log entry takes the stroke (R550). -/
def State.measStart (s : State) (core id n : Nat) : State :=
  let hit (e : Meas) : Bool := e.who % 16 == core && e.image == id
  let last := ((s.trust.log.zipIdx).filter (fun p => hit p.1)).getLast?
  match last with
  | some (_, i) => { s with trust := { s.trust with log := s.trust.log.modify i (fun e => { e with stroke := n % 2 ^ 32 }) } }
  | none => s

/-- A write of TRU_VFY_HI (R541, R555): GO starts the engine, or is ignored while it is busy, and RESULT reads BUSY. -/
def State.writeVfyHi (s : State) (who : Requester) (v : RegWord) : State :=
  let busy := s.trust.vfy.isSome
  let s := s.commitPair who (R.TRU_VFY_LO.at 0 0) v
  if !bitAt v.toNat 21 then s
  else
    let s := s.set F.TRU_VFY_RES_RESULT 4
    if busy then s
    else { s with trust := { s.trust with vfy := some (s.rd64 R.TRU_VFY_LO % 2 ^ 48, bitsOf v.toNat 16 4, bitAt v.toNat 20) } }

/-- R541: verification starts. -/
def execImageVerify (who : Requester) (hi : RegWord) (s : State) : Res :=
  s.ifWriteV who (R.TRU_VFY_HI.at 0 0) hi (fun s => .next (s.writeVfyHi who hi))

/-- R541: verification ends. -/
def execImageVerifyDone (s : State) : Res :=
  match s.trust.vfy with
  | none => .next s
  | some (a, core, rec') =>
    -- an image in a hole of the map does not verify; how it fails is free (R3, R601)
    let (res, e, l) := if s.region a == .hole then (1 + Config.freeFun .result [45, s.freeCtr] % 3, false, false) else s.verifyImage a
    let s := { s with trust := { s.trust with vfy := none }, freeCtr := s.freeCtr + 1 }
    let s := ((s.set F.TRU_VFY_RES_RESULT res).set F.TRU_VFY_RES_ECDSA_FAIL (b2n e)).set F.TRU_VFY_RES_LMS_FAIL (b2n l)
    let s := (s.set F.TRU_VFY_RES_ROOT (imgRoot (s.rdBytes a 256))).count 4 0x10
    let s := if res = 0 ∧ rec' then s.measure core (s.rdBytes a 256) else s
    .next (if res = 2 then s.alert 3 else s)

/-! ## OTP operations (R538) -/

/-- Whether an enrolment or revocation record at `a` is right for slot `k`, 1 to 4 (R538): its fields, and a signature under a root that is
allowed. -/
def State.otpRecordOk (s : State) (a op k : Nat) : Bool :=
  let r := s.rdBytes a 256
  let block := s.rdBytes (a + 256) sigLen
  let rest := (r.drop 0x18).take 8 ++ (if op = 1 then r.drop 0x50 else r.drop 0x20)
  let signer (j : Nat) : Bool := s.rootOk j && (j != k || op == 2) && (verifyBlock block (s.otpRoot j) r).1
  decide (1 ≤ k) && decide (k ≤ 4) && !s.poisoned a (256 + sigLen) && leAt r 0 4 == 0xE9A00001 && leAt r 4 4 == op && leAt r 8 4 == k && leAt r 0xC 4 == 0 &&
    leAt r 0x10 8 == s.rd64 R.TRU_UID_LO && rest.all (· == 0) && [0, 1, 2, 3, 4].any signer

/-- The refusal or the work of an OTP command: BAD_OP, for an OP that names none and for REVOKE of slot 0, then R528, then the operation's
own check. -/
def State.otpCheck (s : State) : Nat ⊕ OtpWork :=
  let op := s.get F.TRU_OTP_CMD_OP
  let k := s.get F.TRU_OTP_CMD_SLOT
  let i := s.get F.TRU_OTP_CMD_INDEX
  let v := s.get F.TRU_OTP_CMD_VALUE
  let a := s.rd64 R.TRU_OTP_ADDR_LO % 2 ^ 48
  if op = 0 ∨ 4 < op ∨ (op = 2 ∧ k = 0) then .inl 3
  else if s.otpWhy ≠ 0 then .inl s.otpWhy
  else if op = 1 then
    (if s.otpProg k then .inl 5 else if s.otpRecordOk a 1 k then .inr (.enrol k (s.rdBytes (a + 0x20) 48)) else .inl 4)
  else if op = 2 then (if s.otpRecordOk a 2 k then .inr (.revoke k) else .inl 4)
  else if op = 3 then (if v < s.rbCounter i ∨ 256 < v then .inl 6 else .inr (.advance i v))
  else (if 256 ≤ s.otpResv then .inl 6 else .inr .reserve)

/-- A write of TRU_OTP_CMD (R538, R555). RESULT reads BUSY until the operation completes. -/
def State.writeOtpCmd (s : State) (v : RegWord) : Res :=
  let busy := s.trust.otp.isSome
  let s := s.typedWr (R.TRU_OTP_CMD.at 0 0) v
  let op := s.get F.TRU_OTP_CMD_OP
  if !bitAt v.toNat 31 then .next s
  else if busy then .next (s.set F.TRU_OTP_STAT_RESULT 7)
  else if (op = 1 ∨ op = 2) ∧ s.region (s.rd64 R.TRU_OTP_ADDR_LO % 2 ^ 48) == .hole then
    -- a record in a hole of the map programs nothing; how it fails is free (R3, R601)
    let x := s.free .result
    .next (x.2.set F.TRU_OTP_STAT_RESULT (1 + x.1 % 6))
  else
    match s.otpCheck with
    | .inl r =>
      let s := s.set F.TRU_OTP_STAT_RESULT r
      .next (if r = 1 ∨ r = 2 then
        ({ s with trust := { s.trust with resvRefused := s.trust.resvRefused || op == 4 } }).incFld F.GLB_WR_GATE_REFUSALS else s)
    | .inr w => .next ({ s with trust := { s.trust with otp := some w } }.set F.TRU_OTP_STAT_RESULT 7)

/-- An OTP command written with GO by `who`. -/
def State.otpCommand (s : State) (who : Requester) (op slot index value : Nat) : Res :=
  s.ifWrite who (R.TRU_OTP_CMD.at 0 0) (fun s =>
    s.writeOtpCmd (BitVec.ofNat 32 (op + slot * 2 ^ 8 + index * 2 ^ 16 + value * 2 ^ 22 + 2 ^ 31)))

/-- R538: ENROL. -/
def execOtpEnrol (who : Requester) (slot : Fin 8) (s : State) : Res := s.otpCommand who 1 slot.val 0 0

/-- R538: REVOKE. -/
def execOtpRevoke (who : Requester) (slot : Fin 8) (s : State) : Res := s.otpCommand who 2 slot.val 0 0

/-- R538: RB_ADVANCE. -/
def execOtpRbAdvance (who : Requester) (index : Fin 64) (value : Fin 512) (s : State) : Res := s.otpCommand who 3 0 index.val value.val

/-- R538: LMS_RESERVE. -/
def execOtpLmsReserve (who : Requester) (s : State) : Res := s.otpCommand who 4 0 0 0

/-- What an operation programs. Where no LMS state was set since power-on, LMS_RESERVE sets q to 4,096 × the old RESV (R549). -/
def State.otpApply (s : State) (w : OtpWork) : State :=
  match w with
  | .enrol k h =>
    let s := h.zipIdx.foldl (fun s p => s.otpSet (0x40 + 0x40 * k + p.2) p.1) s
    s.otpSet 0x181 (BitVec.ofNat 8 (2 ^ k))
  | .revoke k => s.otpSet 0x180 (BitVec.ofNat 8 (2 ^ k))
  | .advance i v => s.otpRaise (0x200 + 32 * i) v
  | .reserve =>
    let old := s.otpResv
    let s := s.otpRaise 0xA00 (old + 1)
    let s := { s with trust := { s.trust with resvRefused := false } }
    if s.trust.lmsSet then s else { s with trust := { s.trust with lmsSet := true } }.set F.TRU_LMS_Q_Q (4096 * old)

/-- R538: the operation completes. -/
def execOtpOpDone (s : State) : Res :=
  match s.trust.otp with
  | none => .next s
  | some w =>
    let s := ({ s with trust := { s.trust with otp := none } }.otpApply w).otpShow
    let s := (s.set F.TRU_OTP_STAT_RESULT 0).alert 4
    .next (if w = .reserve ∧ 248 ≤ s.otpResv then s.alert 5 else s)

/-! ## The LMS state (R549) -/

/-- The key of the LMS_STATE record's MAC: derived from the device secret, which nothing shows. -/
def lmsKey : List Byte := freeBytes .crypto [1] 48

/-- A write of TRU_LMS_HI: LOAD takes the record's Q_LIMIT where its MAC and its RESV are right; SEAL writes a record with
Q_LIMIT = q + 64. OP 0 and 3 name no operation: reserved codes (R601). In a hole of the map there is no record, and none is written. -/
def State.writeLmsHi (s : State) (who : Requester) (v : RegWord) : Res :=
  let s := s.commitPair who (R.TRU_LMS_LO.at 0 0) v
  let op := bitsOf v.toNat 16 2
  let a := s.rd64 R.TRU_LMS_LO % 2 ^ 48
  if !bitAt v.toNat 18 then .next s
  else if op = 0 ∨ op = 3 then .next (s.reservedCode who (R.TRU_LMS_HI.at 0 0))
  else if s.region a == .hole then
    let x := s.free .result
    .next (x.2.set F.TRU_LMS_STAT_STATUS (if op = 1 then 1 else x.1 % 2))
  else
    let resv := s.otpResv
    if op = 1 then
      let r := s.rdBytes a 56
      let q := leAt r 0 4
      if !s.poisoned a 56 && hmac384 lmsKey (r.take 8) == r.drop 8 && leAt r 4 4 == resv && decide ((resv - 1) * 4096 ≤ q) &&
          decide (q ≤ resv * 4096) then
        let s := ((s.set F.TRU_LMS_Q_Q q).set F.TRU_LMS_LIMIT_LIMIT q).set F.TRU_LMS_STAT_STATUS 0
        .next { s with trust := { s.trust with lmsSet := true } }
      else .next (s.set F.TRU_LMS_STAT_STATUS 1)
    else
      let q := s.get F.TRU_LMS_Q_Q + 64
      if resv * 4096 < q then .next (s.set F.TRU_LMS_STAT_STATUS 1)
      else
        let body := leBytes 4 q ++ leBytes 4 resv
        .next (((s.wrBytes a (body ++ hmac384 lmsKey body)).unitTouch a 56).set F.TRU_LMS_STAT_STATUS 0)

/-- R549: LOAD. -/
def execLmsLoad (who : Requester) (addrHi : BitVec 16) (s : State) : Res :=
  s.ifWrite who (R.TRU_LMS_HI.at 0 0) (fun s => s.writeLmsHi who (BitVec.ofNat 32 (addrHi.toNat + 2 ^ 16 + 2 ^ 18)))

/-- R549: SEAL. -/
def execLmsSeal (who : Requester) (addrHi : BitVec 16) (s : State) : Res :=
  s.ifWrite who (R.TRU_LMS_HI.at 0 0) (fun s => s.writeLmsHi who (BitVec.ofNat 32 (addrHi.toNat + 2 ^ 17 + 2 ^ 18)))

/-- A write of TRU_LMS_LIMIT: a limit above RESV × 4,096 is refused (R549). -/
def State.writeLmsLimit (s : State) (v : RegWord) : State :=
  if v.toNat % 2 ^ 21 ≤ s.otpResv * 4096 then s.set F.TRU_LMS_LIMIT_LIMIT v.toNat else s

/-! ## Attestation (R550) -/

/-- Why the trust unit refuses to sign (R549): 0 it signs, 2 STATE_PEND, 3 OTP_BLOCKED since an LMS_RESERVE that R528 refused,
4 LMS_EXHAUSTED. -/
def State.signWhy (s : State) : Nat :=
  let q := s.get F.TRU_LMS_Q_Q
  let resv := s.otpResv
  if q < s.get F.TRU_LMS_LIMIT_LIMIT ∧ q < resv * 4096 then 0
  else if resv = 256 ∧ q = 1048576 then 4
  else if s.trust.resvRefused then 3
  else 2

/-- Where the report of a buffer at `a` goes: R550 wants it on 64 bytes, and does not say which bytes a buffer off them takes. -/
def attAt (a : Nat) : Nat := a / 64 * 64 + Config.freeFun .result [46, a] % (a % 64 + 1)

/-- A write of TRU_ATT_HI (R550): GO starts a report, or it is refused. -/
def State.writeAttHi (s : State) (who : Requester) (v : RegWord) : Res :=
  let busy := s.trust.att.isSome
  let s := s.commitPair who (R.TRU_ATT_LO.at 0 0) v
  let a := s.rd64 R.TRU_ATT_LO % 2 ^ 48
  let a := if a % 64 = 0 then a else attAt a
  if !bitAt v.toNat 16 then .next s
  else if busy then .next (s.set F.TRU_ATT_STAT_STATUS 1)
  else if s.poisoned (a + 0x10) 32 then .next (s.set F.TRU_ATT_STAT_STATUS 5)
  else if s.signWhy ≠ 0 then .next (s.set F.TRU_ATT_STAT_STATUS s.signWhy)
  else .next ({ s with trust := { s.trust with att := some a } }.set F.TRU_ATT_STAT_STATUS 1)

/-- R550: an attestation report is asked for. -/
def execAttestation (who : Requester) (hi : RegWord) (s : State) : Res :=
  s.ifWriteV who (R.TRU_ATT_HI.at 0 0) hi (fun s => s.writeAttHi who hi)

/-- The identity keys (R548): free values, as the device secret is; the spec does not say how they derive from it. -/
def identityKey : Nat := 1 + Config.freeFun .crypto [2] % (p384N - 1)
def identityPub : List Byte := ecdsaPub identityKey

/-- The HSS tree of level 0, and that of level 1 under its leaf `t`. -/
def hssTree (level t : Nat) : LmsKey :=
  { h := 10, id := freeBytes .crypto [3, level, t] 16, x := fun q i => freeBytes .crypto [5, level, t, q, i] 32,
    c := fun q => freeBytes .crypto [6, level, t, q] 32 }

/-- The HSS public key: L = 2 and the key of the top tree (RFC 8554). -/
def hssPub : List Byte := beBytes 4 2 ++ (hssTree 0 0).pub

/-- The HSS signature of a message with index `q`: one signed public key, that of the tree of `q`, then the message's signature. -/
def hssSign (q : Nat) (msg : List Byte) : List Byte :=
  let tree := hssTree 1 (q / 1024)
  beBytes 4 1 ++ (hssTree 0 0).sign (q / 1024) tree.pub ++ tree.pub ++ tree.sign (q % 1024) msg

/-- The two signatures of a report (R550). RFC 6979 finds no nonce for one message in 2^2000 or so: the bytes are free then. -/
def signatures (q : Nat) (body : List Byte) : List Byte :=
  (ecdsaSign identityKey body).getD (freeBytes .crypto (4 :: asNats body) 96) ++ hssSign q body

/-- The signed part of a report (R550). -/
def State.reportBody (s : State) (a : Nat) : List Byte :=
  let log := s.trust.log
  let len := 0x200 + 64 * log.length + 5172
  let word (v : Nat) : List Byte := leBytes 4 v
  let head := word 0xA77E5701 ++ word 1 ++ word len ++ word (s.get F.GLB_CHIP_INDEX + 0xB0 * 2 ^ 16) ++ s.rdBytes (a + 0x10) 32 ++
    leBytes 8 (s.rd64 R.TIME_STK_NUM_LO) ++ leBytes 8 s.now ++
    word (s.get F.TRU_STAT_DBG_LEVEL + s.get F.GLB_BOOT_IMAGE_B * 4 + s.get F.TRU_MEAS_CNT_OVERFLOW * 8) ++ word (s.rd32 (otpAt 0x180) &&& 0x1F1E) ++
    word log.length ++ word 0 ++ (upTo 12).flatMap (fun j => word (s.rd R.TRU_ACC 0 j)) ++
    (upTo 64).map (fun i => BitVec.ofNat 8 (Nat.min 255 (s.rbCounter i))) ++ identityPub ++ [0, 0, 0] ++ hssPub ++ word (s.get F.TRU_LMS_Q_Q)
  head ++ List.replicate (0x200 - head.length) 0 ++
    log.flatMap (fun e => word e.who ++ word e.image ++ word e.ver ++ word e.stroke ++ e.hash)

/-- R550: the report is complete: signed with both algorithms, written, and one index used. -/
def execAttestationDone (s : State) : Res :=
  match s.trust.att with
  | none => .next s
  | some a =>
    let body := s.reportBody a
    let q := s.get F.TRU_LMS_Q_Q
    let r := body ++ signatures q body
    let s := { s with trust := { s.trust with att := none } }
    let s := (s.wrBytes a r).unitTouch a (body.length + 5172)
    .next (((s.set F.TRU_LMS_Q_Q (q + 1)).set F.TRU_ATT_STAT_STATUS 0).count 4 0x11 2)

/-! ## Debug unlock (R551, R552) -/

/-- A failed attempt: counted; the eighth locks unlocking out. -/
def State.unlockFail (s : State) (why : Nat) : State :=
  let s := (s.set F.TRU_DBG_STAT_STATUS why).incFld F.TRU_STAT_FAILS
  let s := s.alert 1
  if 8 ≤ s.get F.TRU_STAT_FAILS then (s.set F.TRU_STAT_LOCKOUT 1).alert 2 else s

/-- The level that a token at `a` grants, or why it fails: 1 VERIFY, 2 UID, 3 CHALLENGE. -/
def State.tokenCheck (s : State) (a : Nat) : Nat ⊕ Nat :=
  let t := s.rdBytes a 256
  let lv := leAt t 4 4
  let root := leAt t 0x30 4
  let ok := !s.poisoned a (256 + sigLen) && leAt t 0 4 == 0xDB600001 && decide (1 ≤ lv) && decide (lv ≤ 3) && (t.drop 0x34).all (· == 0) &&
    s.rootOk root && (root == 0 || lv != 3) && (verifyBlock (s.rdBytes (a + 256) sigLen) (s.otpRoot root) t).1
  if !ok then .inl 1
  else if leAt t 8 8 ≠ s.rd64 R.TRU_UID_LO then .inl 2
  else if !s.trust.chal || (t.drop 0x10).take 32 != (upTo 8).flatMap (fun j => leBytes 4 (s.rd R.TRU_DBG_CHAL 0 j)) then .inl 3
  else .inr lv

/-- A write of TRU_DBG_HI: CHAL, UNLOCK or RELOCK. OP 0 names no operation: a reserved code (R601). A token in a hole does not verify. At level 0 boundary scan lets go of the pins (R551). -/
def State.writeDbgHi (s : State) (who : Requester) (v : RegWord) : Res :=
  let s := s.commitPair who (R.TRU_DBG_LO.at 0 0) v
  let op := bitsOf v.toNat 16 2
  let a := s.rd64 R.TRU_DBG_LO % 2 ^ 48
  if !bitAt v.toNat 18 then .next s
  else if op = 0 then .next (s.reservedCode who (R.TRU_DBG_HI.at 0 0))
  else if op = 1 then
    let s := forN 8 (fun j s => let (r, s) := s.free .random; s.wr R.TRU_DBG_CHAL (r % 2 ^ 32) 0 j) s
    .next ({ s with trust := { s.trust with chal := true } }.set F.TRU_DBG_STAT_STATUS 0)
  else if op = 3 then .next ({ s with board := { s.board with bscan := false } }.set F.TRU_STAT_DBG_LEVEL 0 |>.set F.TRU_DBG_STAT_STATUS 0)
  else if s.flag F.TRU_STAT_LOCKOUT then .next (s.set F.TRU_DBG_STAT_STATUS 4)
  else
    let r := if s.region a == .hole then .inl 1 else s.tokenCheck a
    let s := ({ s with trust := { s.trust with chal := false } }).count 4 0x10
    match r with
    | .inl why => .next (s.unlockFail why)
    | .inr lv => .next (((s.set F.TRU_STAT_DBG_LEVEL lv).set F.TRU_DBG_STAT_STATUS 0).alert 0)

/-- R552: CHAL. -/
def execDebugChal (who : Requester) (s : State) : Res :=
  s.ifWrite who (R.TRU_DBG_HI.at 0 0) (fun s => s.writeDbgHi who (BitVec.ofNat 32 (2 ^ 16 + 2 ^ 18)))

/-- R552: UNLOCK. -/
def execDebugUnlock (who : Requester) (addrHi : BitVec 16) (s : State) : Res :=
  s.ifWrite who (R.TRU_DBG_HI.at 0 0) (fun s => s.writeDbgHi who (BitVec.ofNat 32 (addrHi.toNat + 2 ^ 17 + 2 ^ 18)))

/-- R552: RELOCK. -/
def execDebugRelock (who : Requester) (s : State) : Res :=
  s.ifWrite who (R.TRU_DBG_HI.at 0 0) (fun s => s.writeDbgHi who (BitVec.ofNat 32 (3 * 2 ^ 16 + 2 ^ 18)))

end Sys2Proof.Machine
end

