-- ==== Sys2Proof/Machine/Cox.lean ====
section
/-!
DEFINITION. The control of the cox cores: state, caches written back, run and reset, and the replacement of a program (R314, R316, R338–R344).
-/
namespace Sys2Proof.Machine

open Sys2Proof

/-! ## State and caches -/

/-- STATE code of COX_STAT (R343). -/
def Core.stateCode (c : Core) : Nat :=
  match c.run with
  | .halted => 0
  | .faulted => 5
  | .running =>
    match c.wait with
    | .none => 1
    | .wait _ _ _ => 2
    | .tick _ => 3
    | .sys _ _ => 4
    | .issue _ _ _ => 4

/-- COX_STAT as core `n` stands: STATE and PRIV. -/
def State.coxShow (s : State) (n : Nat) : State :=
  (s.set F.COX_STAT_STATE (s.core n).stateCode n).set F.COX_STAT_PRIV (s.core n).priv.code n

/-! ## What software's accesses reach in the yard (R403–R405) -/

/-- How cores, the host and the debug port reach an address of the yard: as plain memory, for reading only, not at all, the CI word of a
ring context, an address that no structure covers (it reads 0 and ignores writes), or at W only. -/
inductive SwAccess where
  | plain | readOnly | none | ci | gap | warden
deriving DecidableEq, Repr

/-- The access that R404 and R405 give to a byte of the yard. The device writes the word of FLAT_BAD, whose other bits read 0 (R406). -/
def swAccess (a : Nat) : SwAccess :=
  if a < 0x08000000 then .plain
  else if a < 0x0C800000 then .none
  else if a < 0x0D700000 then (if a % 64 < 0x18 then .readOnly else .plain)
  else if a < 0x0D800000 then .plain
  else if a < 0x0D880000 then (if 0x14 ≤ a % 64 ∧ a % 64 < 0x18 then .ci else .readOnly)
  else if a < 0x0DA00000 then .none
  else if a < 0x0DA00140 then (if 0x0DA00008 ≤ a ∧ a < 0x0DA0000C then .readOnly else .plain)
  else if 0x0DA00200 ≤ a ∧ a < 0x0DA00280 then .plain
  else if 0x0DA01000 ≤ a ∧ a < 0x0DA01000 + 64 * 0x440 then (if (a - 0x0DA01000) % 0x440 < 1028 then .plain else .gap)
  else if 0x0DA20000 ≤ a ∧ a < 0x0DA20000 + 262208 then .plain
  else if 0x0DA80000 ≤ a ∧ a < 0x0DB00000 then .warden
  else if 0x0DB00000 ≤ a then .none
  else .gap

/-- Whether a store by software to a byte takes effect as a plain write of memory. -/
def State.swPlain (s : State) (a : Nat) : Bool :=
  match s.region a with
  | .yard => swAccess a == .plain || swAccess a == .warden
  | .localStore _ => true
  | .dram => true
  | .host => true
  | _ => false

/-- Whether bytes `a … a + n − 1` touch the CI word of a ring's context. -/
def touchesCi (a n : Nat) : Bool :=
  decide (0x0D800000 ≤ a) && decide (a < 0x0D880000) && decide (a % 64 < 0x18) && decide (0x14 < a % 64 + n)

/-- The CI that a store of bytes at `a` leaves in the context it touches. -/
def State.newCi (s : State) (a : Nat) (l : List Byte) : Nat :=
  let w := a / 64 * 64 + 0x14
  leVal ((upTo 4).map (fun i => if a ≤ w + i ∧ w + i < a + l.length then BitVec.ofNat 8 (byteAt l (w + i - a)) else s.rdB (w + i)))

/-- Ring whose context holds `a`. -/
def ciRing (a : Nat) : Nat := (a - 0x0D800000) / 64

/-- Bytes stored where a store by software takes effect, one by one. -/
def State.putPlain (s : State) (a : Nat) : List Byte → State
  | [] => s
  | b :: l => (if s.swPlain a then s.wrB a b else s).putPlain (a + 1) l

/-- A store by software of bytes within one line: plain memory is written, the CI word of a ring's context advances CI (R377), and
everything else is ignored. A change of a structure in use is a host error (R601). -/
def State.swStore (s : State) (a : Nat) (l : List Byte) : State :=
  if touchesCi a l.length then s.consume (ciRing a) (s.newCi a l)
  else s.changed a l (if s.swPlain a && s.swPlain (a + l.length - 1) then s.wrBytes a l else s.putPlain a l)

/-! ## Data cache -/

/-- The attributes of core `n`'s request for `a` (R561). A memory request carries a service class (R48), for a core's one no rule names it. -/
def State.coxAttr (s : State) (n : Nat) (a : Option Nat := none) : Attr :=
  { priv := some (s.core n).priv, req := some n, addr := a, cls := a.map (fun a => Config.freeFun .result [48, n, a] % 4) }

/-- Core `n` asks memory for `k` bytes at `a`, at most 64: MEM_RD or MEM_WR counts (R562), and DRAM serves it (R420). -/
def State.memReq (s : State) (n a k : Nat) (write : Bool) : State :=
  let s := s.count (20 + n) (if write then 0x04 else 0x03) 1 (s.coxAttr n (some a))
  if s.region a == .dram then s.dramTouch a k write (s.coxAttr n (some a)) else s

/-- A line that core `n` has flushed reaches memory. -/
def State.lineOut (s : State) (n line : Nat) : State :=
  match (s.core n).flushed.find? (fun e => e.1 == line) with
  | some (_, l) => (s.setCore n { s.core n with flushed := KMap.del (s.core n).flushed line }).swStore (64 * line) l
  | none => s

/-- A line of core `n`'s data cache is written back if it is dirty (R316). -/
def State.lineBack (s : State) (n : Nat) (line : Nat) : State :=
  match (s.core n).dcache.find? (fun e => e.1 == line) with
  | some (_, l) =>
    if l.dirty then
      let s := (((s.lineOut n line).swStore (64 * line) l.bytes).memReq n (64 * line) 64 true).count (20 + n) 0x14 1 (s.coxAttr n (some (64 * line)))
      s.setCore n { s.core n with dcache := KMap.put (fun _ => { bytes := [], dirty := false }) (s.core n).dcache line { l with dirty := false } }
    else s
  | none => s

/-- A line of core `n`'s data cache is discarded. -/
def State.lineDrop (s : State) (n line : Nat) : State := s.setCore n { s.core n with dcache := KMap.del (s.core n).dcache line }

/-- Lines of core `n`'s data cache that are dirty. -/
def State.dirtyLines (s : State) (n : Nat) : List Nat := ((s.core n).dcache.filter (fun e => e.2.dirty)).map (·.1)

/-- Every dirty line of core `n` is written back. -/
def State.allBack (s : State) (n : Nat) : State := (s.dirtyLines n).foldl (fun s l => s.lineBack n l) s

/-- FLUSH writes a dirty line of core `n` back: no other agent sees it before a FENCE (R316). -/
def State.lineFlush (s : State) (n line : Nat) : State :=
  match (s.core n).dcache.find? (fun e => e.1 == line) with
  | some (_, l) =>
    if l.dirty then
      let c := s.core n
      let s := s.setCore n { c with
        dcache := KMap.put (fun _ => { bytes := [], dirty := false }) c.dcache line { l with dirty := false }, flushed := KMap.put (fun _ => []) c.flushed line l.bytes }
      (s.memReq n (64 * line) 64 true).count (20 + n) 0x14 1 (s.coxAttr n (some (64 * line)))
    else s
  | none => s

/-- Every earlier store and write-back of core `n` is visible to every agent (R316, R317). -/
def State.fenced (s : State) (n : Nat) : State :=
  let c := s.core n
  let s := if c.stores.isEmpty && c.flushed.isEmpty then s else s.setCore n { c with stores := [], flushed := [] }
  c.flushed.foldl (fun s e => s.swStore (64 * e.1) e.2) s

/-- Cycles until then: none with nothing outstanding; R316 states no time for a line written back. -/
def State.fenceWait (s : State) (n : Nat) : Nat :=
  let c := s.core n
  Nat.max (c.stores.foldl (fun m t => Nat.max m (t - c.cyc)) 0) (if c.flushed.isEmpty then 0 else Config.freeFun .latency [n, 316, c.cyc])

/-- Core `n` acts as on a FENCE (R316, R317). -/
def State.fence (s : State) (n : Nat) : State :=
  (if s.fenceWait n = 0 then s else s.spend n (s.fenceWait n) 0 0 0).fenced n

/-- Both caches of core `n` are written back and invalidated. -/
def State.cachesOut (s : State) (n : Nat) : State :=
  let s := (s.fenced n).allBack n
  s.setCore n { s.core n with dcache := [], icache := [] }

/-! ## Run and reset (R340, R368) -/

/-- RUN at 0: the core halts; a wait ends without effect and the pc stays on its instruction. -/
def State.coxHalt (s : State) (n : Nat) : State :=
  let s := (s.set F.COX_CTL_RUN 0 n).settle n
  let c := s.core n
  if c.run = .running then s.setCore n { c with run := .halted, wait := .none } else s

/-- RUN at 1: a halted core resumes where it stopped. -/
def State.coxResume (s : State) (n : Nat) : State :=
  let s := s.set F.COX_CTL_RUN 1 n
  let c := s.core n
  if c.run = .halted then s.setCore n { c with run := .running } else s

/-- RESET: caches are written back and invalidated, g, p and cc return to their reset values, and the core is HALTED; the pc, which R340
does not name, stays on its instruction (R368). In the cycle of a swap's catch it wins (R340): the catch is due then, and no command has
brought it yet. -/
def State.coxReset (s : State) (n : Nat) : State :=
  let s := (s.cachesOut n).settle n
  let c := s.core n
  let atCatch := c.swapStart.isSome && decide (s.nextCatch ≤ s.now)
  let r := Core.reset n
  let s := s.setCore n { r with
    pc := c.pc, run := .halted, cyc := c.cyc, budget := c.budget, swapTries := c.swapTries, swapAddr := c.swapAddr, swapMax := c.swapMax, swapStart := if atCatch then none else c.swapStart }
  let s := (s.set F.COX_CTL_RUN 0 n).set F.COX_EXC_COUNT 0 n
  if atCatch then (s.set F.COX_STAT_SWAP 3 n).set F.COX_STAT_SWAP_WHY 5 n else s

/-- A write of COX_CTL (R343). -/
def State.writeCoxCtl (s : State) (n : Nat) (v : RegWord) : State :=
  let s := s.set F.COX_CTL_BUDGET_HALT (bitsOf v.toNat 2 1) n
  if bitAt v.toNat 1 then s.coxReset n
  else if bitAt v.toNat 0 then s.coxResume n
  else s.coxHalt n

/-- R340: COX_CTL.RUN is written 0, the other field kept. -/
def execCoxHaltRequest (who : Requester) (c : Fin 16) (s : State) : Res :=
  s.ifWrite who (R.COX_CTL.at c.val 0) (fun s => .next (s.coxHalt c.val))

/-- R340: COX_CTL.RUN is written 1, the other field kept. -/
def execCoxResume (who : Requester) (c : Fin 16) (s : State) : Res :=
  s.ifWrite who (R.COX_CTL.at c.val 0) (fun s => .next (s.coxResume c.val))

/-- R340: COX_CTL.RESET is written 1. -/
def execCoxReset (who : Requester) (c : Fin 16) (s : State) : Res :=
  s.ifWrite who (R.COX_CTL.at c.val 0) (fun s => .next (s.coxReset c.val))

/-! ## Replacing a program (R338) -/

/-- SWAP codes of COX_STAT. -/
def swapPending : Nat := 1

/-- A write of COX_SWAP_HI: GO submits the image, unless a swap is PENDING. -/
def State.writeCoxSwap (s : State) (who : Requester) (n : Nat) (v : RegWord) : State :=
  let busy := s.get F.COX_STAT_SWAP n = swapPending
  let s := s.commitPair who (R.COX_SWAP_LO.at n 0) v
  if !bitAt v.toNat 16 || busy then s
  else
    let tries := s.get F.COX_SWAP_HI_TRIES n
    let s := (s.set F.COX_STAT_SWAP swapPending n).set F.COX_STAT_SWAP_WHY 0 n
    s.setCore n { s.core n with
      swapAddr := s.rd64 R.COX_SWAP_LO n % 2 ^ 48 / 256 * 256, swapMax := if tries = 0 then 64 else tries, swapTries := 0 }

/-- R338: an image is submitted. -/
def execCoxSwapSubmit (who : Requester) (c : Fin 16) (hi : RegWord) (s : State) : Res :=
  s.ifWriteV who (R.COX_SWAP_HI.at c.val 0) hi (fun s => .next (s.writeCoxSwap who c.val hi))

/-- Segment `i` of the image at `a`, as 32 bytes (R335). -/
def State.segment (s : State) (a i : Nat) : List Byte := s.rdBytes (a + 0x100 + 32 * i) 32

/-- The LS segments of an image. -/
def State.lsSegments (s : State) (a : Nat) : List (List Byte) :=
  ((upTo (s.rdN (a + 0xC) 1 % 16)).map (s.segment a)).filter (fun e => bitAt (leAt e 0x14 1) 2)

/-- The segments of an image that are not LS. -/
def State.plainSegments (s : State) (a : Nat) : List (List Byte) :=
  ((upTo (s.rdN (a + 0xC) 1 % 16)).map (s.segment a)).filter (fun e => !bitAt (leAt e 0x14 1) 2)

/-- Why a staged image is refused at a finish: 0 none, 1 BAD_HEADER, 2 CORE, 3 LIVE, 4 TOO_BIG. -/
def State.swapWhy (s : State) (n a : Nat) : Nat :=
  let ls := s.lsSegments a
  if s.rd32 a ≠ 0x9A51C0C5 ∨ s.rdN (a + 4) 2 ≠ 1 then 1
  else if !bitAt (s.rd32 (a + 0x28)) n || (bitAt (s.rd32 (a + 8)) 0 != decide (n < 4)) then 2
  else if 65536 < (ls.map (fun e => leAt e 0x10 4)).sum ∨ ls.any (fun e => decide (65536 < leAt e 0 6 + leAt e 0x10 4)) then 4
  else if (s.core n).run ≠ .halted ∧ !bitAt (s.rd32 (a + 8)) 1 then 3
  else 0

/-- A segment is copied to `dest` and zero-filled to MEM_LEN. -/
def State.copySegment (s : State) (a dest : Nat) (e : List Byte) : State :=
  let n := leAt e 0xC 4
  (s.wrBytes dest (s.rdBytes (a + leAt e 8 4) n)).wrBytes (dest + n) (List.replicate (leAt e 0x10 4 - n) 0)

/-- Address of an offset in core `n`'s local store (R313). -/
def localStore (n o : Nat) : Nat := 0x20000000 + n * 0x100000 + o

/-- Whether a non-LS segment of the image at `a` shares memory with one of the image at `b`: each runs in place, MEM_LEN bytes at its
DEST (R335). -/
def State.imagesMeet (s : State) (a b : Nat) : Bool :=
  (s.plainSegments a).any (fun x => (s.plainSegments b).any (fun y =>
    decide (leAt x 0 6 < leAt y 0 6 + leAt y 0x10 4) && decide (leAt y 0 6 < leAt x 0 6 + leAt x 0x10 4)))

/-- Core `n`'s registers take any value. -/
def State.freeCore (s : State) (n : Nat) : State :=
  (Config.freeWrites s.freeCtr).foldl (fun s e => s.setCore n ((s.core n).setG (e.1 % 32) (BitVec.ofNat 64 e.2))) { s with freeCtr := s.freeCtr + 1 }

/-- A replacing image whose non-LS segments overlap memory of the running one is a host error: the running program, its local store and those
segments are disturbed (R339, R601). -/
def State.imageError (s : State) (n a : Nat) : State :=
  let b := (s.core n).image
  if (s.core n).run ≠ .halted ∧ b ≠ 0 ∧ s.imagesMeet a b then
    (s.unpredictable { mem := fun x => inRange (localStore n 0) 65536 x ||
      (s.plainSegments a ++ s.plainSegments b).any (fun e => inRange (leAt e 0 6) (leAt e 0x10 4) x) }).freeCore n
  else s

/-- The examination of core `n` at a finish (R338). -/
def State.swapCheck (s : State) (n : Nat) : State :=
  if s.get F.COX_STAT_SWAP n ≠ swapPending then s
  else
    let c := s.core n
    let idle := c.run == .halted || (c.run == .running && (match c.wait with | .tick _ => true | _ => false))
    if !idle then
      let s := s.setCore n { c with swapTries := c.swapTries + 1 }
      if c.swapMax ≤ c.swapTries + 1 then s.set F.COX_STAT_SWAP 4 n else s
    else
      let why := s.swapWhy n c.swapAddr
      if why ≠ 0 then (s.set F.COX_STAT_SWAP 3 n).set F.COX_STAT_SWAP_WHY why n
      else
        let s := (s.cachesOut n).imageError n c.swapAddr
        let s := (s.lsSegments c.swapAddr).foldl (fun s e => s.copySegment c.swapAddr (localStore n (leAt e 0 6)) e) s
        s.setCore n { s.core n with swapStart := some c.swapAddr }

/-- COX_SWAP_CHECK: every core at a finish. -/
def State.coxFinish (s : State) : State := forN 16 (fun n s => s.swapCheck n) s

/-- ENTRY of the image at `a` (R334); its bits [1:0] are ignored, for the program counter is a multiple of 4 (R306). -/
def State.entry (s : State) (a : Nat) : Word := BitVec.ofNat 64 (s.rdN (a + 0x10) 6 / 4 * 4)

/-- The core starts the image at `a` in stroke `num` (R338). -/
def State.startImage (s : State) (n a num : Nat) : State :=
  let c := s.core n
  let flags := s.rd32 (a + 8)
  let prev := if c.run = .halted then 0 else c.image
  let core : Core := { c with
    g := [], p := 1, pc := s.entry a, priv := if bitAt flags 0 then .w else if bitAt flags 2 then .u else .m, inexc := false, tvec := BitVec.ofNat 64 (s.rdN (a + 0x18) 6), evpend := 0, evslot := [], run := .running, wait := .none, loads := [], stores := [], atomic := none, ready := [], pair := none, image := a, swapStart := none }
  let core := ((core.setG 1 (BitVec.ofNat 64 num)).setG 2 (BitVec.ofNat 64 prev)).setG 30 (BitVec.ofNat 64 (s.rdN (a + 0x20) 6))
  let s := s.setCore n core
  let id := s.rd32 (a + 0x30)
  let s := (s.set F.COX_CTL_RUN 1 n).wr R.COX_LOADED id n
  (s.set F.COX_STAT_SWAP 2 n).measStart n id num |>.raise (0xA0 + n)

/-! ## The budget (R323–R325) -/

/-- cc.BCOUNT reaches cc.BUDGET for the first time in this stroke. -/
def State.budgetNew (s : State) (n : Nat) : Bool :=
  (s.core n).budget != 0 && !(s.core n).budgetHit && decide ((s.core n).budget ≤ (s.core n).bcount)

/-- EV_COX_BUDGET and BUDGET_HIT, once in a stroke. -/
def State.budgetNote (s : State) (n : Nat) : State :=
  if s.budgetNew n then
    ((s.setCore n { s.core n with budgetHit := true, budgetDue := true }).set F.COX_STAT_BUDGET_HIT 1 n).raise (0x80 + n)
  else s

/-- TICK returns at a catch (R322). -/
def State.tickReturn (s : State) (n num : Nat) : State :=
  match (s.core n).run, (s.core n).wait with
  | .running, .tick d => s.endWait n d (BitVec.ofNat 64 num)
  | _, _ => s

/-- What a catch that begins stroke `num` does to core `n`: the budget restarts, a checked image starts, otherwise TICK returns
where `ticks` (R322, R323, R325, R338). -/
def State.coxCatch1 (s : State) (num : Nat) (ticks : Bool) (n : Nat) : State :=
  let s := (s.settle n).budgetNote n
  let c := s.core n
  let s := s.wr R.COX_USED (Nat.min c.bcount 0xFFFFFFFF) n
  let c := { c with bcount := 0, budget := s.rd R.COX_BUDGET n, budgetHit := false, budgetDue := false }
  match c.swapStart with
  | some a => (s.setCore n c).startImage n a num
  | none => if ticks then (s.setCore n c).tickReturn n num else s.setCore n c

/-- COX_SWAP_START and TICK_RETURN at a catch. -/
def State.coxCatch (s : State) (num : Nat) (ticks : Bool) : State := forN 16 (fun n s => s.coxCatch1 num ticks n) s

end Sys2Proof.Machine
end

