-- ==== Sys2Proof/Machine/HostPort.lean ====
section
/-!
DEFINITION. Accesses of the host and of the debug port outside the registers: the yard and DRAM through the BARs, the MSI-X table and its
pending bits, and the debug port's reach by its level (R393, R396, R404, R409, R551).
-/
namespace Sys2Proof.Machine

open Sys2Proof

/-- What the word at an address on the bus of the host or of the debug port is: memory at a device address, word `j` of the MSI-X entry of a
vector, a word of the pending bits, or nothing, which reads 0 and ignores writes. -/
inductive BusTo where
  | mem (p : Nat)
  | table (vec j : Nat)
  | pba (j : Nat)
  | nothing
deriving DecidableEq, Repr

/-- The host's BARs (R393): the register window, with the MSI-X table and PBA in it, and the yard stand at their device addresses; an offset
of BAR 4–5 stands as that offset into DRAM, to which HOST_DWIN.BASE_GIB is added. -/
def State.barTo (s : State) (a : Nat) : BusTo :=
  if a < 0x0E000000 then .mem a
  else if 0x40FF0000 ≤ a ∧ a < 0x40FF0400 then .table ((a - 0x40FF0000) / 16) (a % 16 / 4)
  else if 0x40FF8000 ≤ a ∧ a < 0x40FF8008 then .pba (a % 8 / 4)
  else if 0x100000000 ≤ a ∧ a < 0x100000000 + 2 ^ (30 + s.get F.HOST_DWIN_SIZE_LOG) then
    let p := a + s.get F.HOST_DWIN_BASE_GIB * 2 ^ 30
    if s.region p = .dram then .mem p else .nothing
  else .nothing

/-- The debug port's reach (R551): at level 2 memory but for the local stores of cores 0–3 and what belongs to TRUST and LEDGER; at level 3 all
of it. -/
def State.debugTo (s : State) (a : Nat) : BusTo :=
  let lv := s.get F.TRU_STAT_DBG_LEVEL
  if lv < 2 then .nothing
  else match s.region a with
    | .yard => .mem a
    | .dram => .mem a
    | .bootRom => .mem a
    | .localStore m => if lv = 3 ∨ 4 ≤ m then .mem a else .nothing
    | .otp => if lv = 3 then .mem a else .nothing
    | .ledger => if lv = 3 then .mem a else .nothing
    | .host => if s.hostOff a then .nothing else .mem a
    | .regs => .nothing
    | .hole => .nothing

/-- What the word that holds address `a` is to a requester; a core has no such bus. -/
def State.busTo (s : State) (who : Requester) (a : Nat) : BusTo :=
  match who with
  | .core _ => .nothing
  | .host => s.barTo (a / 4 * 4)
  | .debug => s.debugTo (a / 4 * 4)

/-- Whether R404 and R405 let a requester see a byte of the yard: not a region marked None, no address without a structure, and the warden
area only at debug level 3. -/
def State.busSees (s : State) (who : Requester) (p : Nat) : Bool :=
  s.region p != .yard || (match swAccess p with
    | .none => false
    | .gap => false
    | .warden => who == .debug && s.get F.TRU_STAT_DBG_LEVEL == 3
    | _ => true)

/-- The host's or the debug port's request of a word of memory: DRAM serves it (R419, R420). -/
def State.busTouch (s : State) (who : Requester) (p : Nat) (write : Bool) : State :=
  if s.region p = .dram then s.dramTouch p 4 write { req := some who.code, addr := some p } else s

/-- A vector is masked or unmasked; a pending bit sends its message at the unmask (R396). -/
def State.maskVector (s : State) (v : Nat) (on : Bool) : State :=
  if on then { s with host := { s.host with masked := setBits s.host.masked v 1 1 } } else s.unmask v

/-- A word read over the bus, left in `readData`. Poisoned data comes as a poisoned completion, whose data is free (R409). -/
def State.busRead (s : State) (who : Requester) (a : Nat) : State :=
  match s.busTo who a with
  | .mem p =>
    if !s.busSees who p then { s with readData := 0 }
    else if s.poisoned p 4 then
      let x := s.free .result
      { (x.2.poisonReads p 1).emit (.poisonedCpl who.code a) with readData := x.1 % 2 ^ 32 }
    else { s.busTouch who p false with readData := s.rdN p 4 }
  | .table v j => { s with readData := if j = 3 then b2n (bitAt s.host.masked v) else KMap.get (fun _ => 0) s.host.table (4 * v + j) }
  | .pba j => { s with readData := bitsOf s.host.pend (32 * j) 32 }
  | .nothing => { s with readData := 0 }

/-- A word written over the bus. -/
def State.busWrite (s : State) (who : Requester) (a : Nat) (v : RegWord) : State :=
  match s.busTo who a with
  | .mem p => if s.busSees who p && !fixedMem p then (s.swStore p (leBytes 4 v.toNat)).busTouch who p true else s
  | .table vec j =>
    if j = 3 then s.maskVector vec (bitAt v.toNat 0)
    else { s with host := { s.host with table := KMap.put (fun _ => 0) s.host.table (4 * vec + j) (if j = 0 then v.toNat / 4 * 4 else v.toNat) } }
  | .pba _ => s
  | .nothing => s

/-- Whether an access is one of the bus: the host's or the debug port's outside the register window, or the host's of the MSI-X structures. -/
def onBus (who : Requester) (a : Nat) : Bool :=
  (decodeReg a).isNone && (match who with
    | .core _ => false
    | .host => decide (a < 0x40000000) || decide (0x40FF0000 ≤ a)
    | .debug => decide (a < 0x40000000) || decide (0x41000000 ≤ a))

end Sys2Proof.Machine
end

