-- ==== Sys2Proof/Machine/Stroke.lean ====
section
/-!
DEFINITION. The stroke engine: finish, catch, seams, requests and HOUSE_SYNC (R28–R59).
-/
namespace Sys2Proof.Machine

open Sys2Proof

/-! ## HOUSE_SYNC (R36, R37) -/

/-- HS_STATE codes of TIME_STK_HS_STAT (R59). -/
def hsAbsent : Nat := 0
def hsLocking : Nat := 1
def hsLocked : Nat := 2
def hsFlywheel : Nat := 3

def State.hsState (s : State) : Nat := s.get F.TIME_STK_HS_STAT_HS_STATE

/-- Whether a period in twelfths of a ns matches P of a rate within ±500 ppm. -/
def matchesRate (p12 rate : Nat) : Bool :=
  let f := rateFrac rate
  let p : Int := 12 * f.2 * 1000000000
  decide (((p12 * f.1 : Nat) - p : Int).natAbs * 2000 ≤ p.natAbs)

/-- The HOUSE_SYNC registers follow the state `st`: PERIOD in 2 ns while LOCKED or FLYWHEEL, and MISMATCH (R59). Under SOURCE 2 the next
catch follows the slots (R57). -/
def State.hsShow (s : State) (st : Nat) : State :=
  let live := st == hsLocked || st == hsFlywheel
  let s := s.set F.TIME_STK_HS_STAT_HS_STATE st
  let s := s.set F.TIME_STK_HS_STAT_PERIOD (if live then Nat.min (s.stroke.hsPeriod / 24) (2 ^ 25 - 1) else 0)
  let s := s.set F.TIME_STK_HS_STAT_MISMATCH (b2n (live && !matchesRate s.stroke.hsPeriod (s.get F.TIME_STK_STAT_RATE)))
  (if s.get F.TIME_STK_STAT_SOURCE = 2 then s.wr64 R.TIME_STK_NEXT_LO s.nextCatch else s).showStkState

/-- Whether HOUSE_SYNC is tracked under R36: SOURCE 2 is in force, or a request for it is accepted. -/
def State.hsTracks (s : State) : Bool :=
  s.get F.TIME_STK_STAT_SOURCE == 2 || (match s.stroke.accept with | some a => a.seam && a.source == 2 | none => false)

/-- Whether every spacing lies within ±500 ppm of their mean. -/
def spacingsAgree (l : List Nat) : Bool :=
  l.all (fun v => v != 0 && decide (((l.length * v : Nat) - l.sum : Int).natAbs * 2000 ≤ l.sum))

/-- The mean of the spacings, in twelfths of a ns. -/
def meanSpacing (l : List Nat) : Nat := 12 * l.sum / Nat.max 1 l.length

/-- The open slot is resolved; the slot after it opens at `next`. -/
def State.slotDone (s : State) (next : Nat) : State :=
  { s with stroke := { s.stroke with hsOld := s.stroke.hsPred, hsPred := next, hsLead := s.stroke.hsLead - 1 } }

/-- An edge accepted for the open slot (R36): it sets the phase, and PERIOD where the slot before had its edge. -/
def State.hsAccept (s : State) : State :=
  let x := s.stroke
  let sp := if x.hsPrevHit then (s.upNs - x.hsLast) :: x.hsSpacings.take 3 else x.hsSpacings
  let per := if x.hsPrevHit then meanSpacing sp else x.hsPeriod
  let s := s.slotDone (12 * s.upNs + per)
  let s := { s with stroke := { s.stroke with hsSpacings := sp, hsPeriod := per, hsLast := s.upNs, hsPrevHit := true } }
  (s.set F.TIME_STK_HS_STAT_MISSES 0).hsShow hsLocked

/-- A count of edges begins at this one. -/
def State.hsCount (s : State) : State :=
  ({ s with stroke := { s.stroke with hsLast := s.upNs, hsSpacings := [] } }).hsShow hsLocking

/-- An edge while HOUSE_SYNC is monitored only (R37). -/
def State.hsMonitor (s : State) : State :=
  let x := s.stroke
  let sp := s.upNs - x.hsLast
  if s.hsState = hsAbsent then s.hsCount
  else if s.hsState = hsLocked then
    if ((12 * sp : Nat) - x.hsPeriod : Int).natAbs * 2000 ≤ x.hsPeriod then
      let l := sp :: x.hsSpacings.take 3
      let s := { s with stroke := { s.stroke with
        hsLast := s.upNs, hsSpacings := l, hsPeriod := meanSpacing l, hsPred := 12 * s.upNs + meanSpacing l } }
      s.hsShow hsLocked
    else s.hsCount
  else
    let l := sp :: x.hsSpacings
    if !spacingsAgree l then s.hsCount
    else if l.length < 3 then ({ s with stroke := { s.stroke with hsLast := s.upNs, hsSpacings := l } }).hsShow hsLocking
    else
      let s := { s with stroke := { s.stroke with
        hsLast := s.upNs, hsSpacings := [], hsPeriod := meanSpacing l, hsPred := 12 * s.upNs + meanSpacing l, hsPrevHit := true, relock := s.stroke.hsFree.isSome } }
      (s.set F.TIME_STK_HS_STAT_MISSES 0).hsShow hsLocked

/-- R36, R37: an edge of the selected polarity, long enough to count (R274), arrives now. -/
def execHouseSyncEdge (s : State) : Res :=
  if s.hsTracks && (s.hsState == hsLocked || s.hsState == hsFlywheel) then
    .next (if ((12 * s.upNs : Nat) - s.stroke.hsPred : Int).natAbs ≤ 12000 then s.hsAccept else s)
  else .next s.hsMonitor

/-- R36: the open slot's window closes without an accepted edge; the eighth miss in a row gives ABSENT and free-run. A free-run that has
not ended at a seam yet goes on as it is (R37). -/
def execHouseSyncMiss (s : State) : Res :=
  if s.hsTracks && (s.hsState == hsLocked || s.hsState == hsFlywheel) then
    let s := s.advanceUp (s.stroke.hsPred / 12 + 1000)
    let s := s.slotDone (s.stroke.hsPred + s.stroke.hsPeriod)
    let s := { s with stroke := { s.stroke with hsPrevHit := false } }
    let s := s.incFld F.TIME_STK_HS_STAT_MISSES
    if s.get F.TIME_STK_HS_STAT_MISSES < 8 then .next (s.hsShow hsFlywheel)
    else
      let s := { s with stroke := { s.stroke with
        hsFree := s.stroke.hsFree.orElse (fun _ => some (s.slotPred, s.stroke.hsPeriod)), hsSpacings := [], relock := false } }
      .next ((s.hsShow hsAbsent).raise 0x17)
  else .next s

/-- R37: 100 ms without an edge, in LOCKING, or in LOCKED while HOUSE_SYNC is not tracked. -/
def execHouseSyncTimeout (s : State) : Res :=
  if s.hsState = hsLocking ∨ (s.hsState = hsLocked ∧ !s.hsTracks) then
    let s := s.advanceUp (s.stroke.hsLast + 100000000)
    .next (({ s with stroke := { s.stroke with hsSpacings := [], relock := false } }).hsShow hsAbsent)
  else .next s

/-- R37: the device's own seam after a relock, as if a request had been accepted in this recovery window. -/
def execHouseSyncRelockSeam (s : State) : Res :=
  if s.stroke.relock && s.stroke.recovery && s.stroke.req.isNone && s.stroke.accept.isNone && s.stroke.trans.isNone &&
      s.get F.TIME_STK_STAT_SOURCE == 2 && (s.hsState == hsLocked || s.hsState == hsFlywheel) && !s.flag F.TIME_STK_HS_STAT_MISMATCH then
    let a : StrokeAccept := { rate := s.get F.TIME_STK_STAT_RATE, source := 2, recovery := s.get F.TIME_STK_WIN_RECOVERY_US, margin := s.get F.TIME_STK_WIN_MARGIN_US, seam := true, setArm := false, load := false, hsoff := s.stroke.hsoff, own := true }
    .next ({ s with stroke := { s.stroke with accept := some a, relock := false } }).showStkState
  else .next s

/-! ## Requests (R38, R50) -/

/-- A write of TIME_STK_REQ (R50). -/
def State.writeStkReq (s : State) (v : RegWord) : State :=
  let s := s.typedWr (R.TIME_STK_REQ.at 0 0) v
  if !bitAt v.toNat 31 then s
  else
    let st := s.get F.TIME_STK_STAT_STATE
    if st = 1 ∨ st = 2 then s.set F.TIME_STK_STAT_RESULT 4
    else
      let r : StrokeReq := { rate := s.get F.TIME_STK_REQ_RATE, source := s.get F.TIME_STK_REQ_SOURCE, recovery := s.get F.TIME_STK_REQ_RECOVERY_US, margin := s.get F.TIME_STK_REQ_MARGIN_US }
      ({ s with stroke := { s.stroke with req := some r, reqLate := s.stroke.recovery } }).showStkState

/-- R50: a request is submitted. -/
def execStrokeRequestSubmit (who : Requester) (v : RegWord) (s : State) : Res :=
  s.ifWriteV who (R.TIME_STK_REQ.at 0 0) v (fun s => .next (s.writeStkReq v))

/-- The first failing check of a request: 0 none, 1 BAD_WINDOW, 2 RATE_LIMIT, 3 NO_SOURCE. -/
def State.stkCheck (s : State) (r : StrokeReq) : Nat :=
  let f := rateFrac r.rate
  let off := (sgn 32 (s.rd R.TIME_STK_HSOFF)).natAbs
  if r.recovery ≠ 0 ∧ (r.recovery < 200 ∨ f.2 * 100000 / f.1 < r.recovery) then 1
  else if r.source = 2 ∧ f.2 * 1000000000 < 2 * off * f.1 then 1
  else if r.rate ≠ s.get F.TIME_STK_STAT_RATE ∧ overCeiling s.raysNext r.rate (s.anyWide || s.mirrorAsked) then 2
  else if r.source = 1 ∧ s.domState 0 ≠ domLocked ∧ s.domState 1 ≠ domLocked then 3
  else if r.source = 2 ∧ (s.hsState ≠ hsLocked ∨ !matchesRate s.stroke.hsPeriod r.rate) then 3
  else 0

/-- R50, R51: the request is checked in the recovery window. -/
def execStrokeRequestCheck (s : State) : Res :=
  match s.stroke.req with
  | none => .next s
  | some r =>
    if !s.stroke.recovery ∨ s.stroke.reqLate then .next s
    else
      let why := s.stkCheck r
      let s := { s with stroke := { s.stroke with req := none } }
      let s := s.set F.TIME_STK_STAT_RESULT why
      if why ≠ 0 then .next s.showStkState
      else
        let f := rateFrac r.rate
        let src := s.get F.TIME_STK_STAT_SOURCE
        let hsoff := s.rd R.TIME_STK_HSOFF
        let arm := s.flag F.TIME_CTL_SET_ARM && r.source != 1
        let load := r.source == 1 && (src != 1 || s.flag F.TIME_STAT_FAR)
        let seam := r.rate != s.get F.TIME_STK_STAT_RATE || r.source != src || load || arm ||
          (r.source == 2 && hsoff != s.stroke.hsoff)
        let a : StrokeAccept := { rate := r.rate, source := r.source, recovery := if r.recovery = 0 then Nat.max 200 (f.2 * 50000 / f.1) else r.recovery, margin := r.margin, seam := seam, setArm := arm, load := load, hsoff := hsoff, own := false }
        .next ({ s with stroke := { s.stroke with accept := some a, relock := s.stroke.relock && !seam } }).showStkState

/-- A write of TIME_STK_NUM_HI: the number of the next catch under SOURCE 0 or 2; ignored under SOURCE 1 (R38). -/
def State.writeStkNum (s : State) (who : Requester) (hi : RegWord) : State :=
  if s.get F.TIME_STK_STAT_SOURCE = 1 then s
  else { s with stroke := { s.stroke with numLoad := some (s.held who (R.TIME_STK_NUM_LO.at 0 0) + 2 ^ 32 * hi.toNat) } }

/-- R38: a stroke number is loaded. -/
def execStrokeNumberLoad (who : Requester) (hi : RegWord) (s : State) : Res :=
  s.ifWriteV who (R.TIME_STK_NUM_HI.at 0 0) hi (fun s => .next (s.writeStkNum who hi))

/-! ## The finish (R28) -/

/-- R28: the finish ends the render window and opens the recovery window. -/
def execFinish (s : State) : Res :=
  if s.stroke.recovery then .next s
  else
    let s := s.advanceTo s.finishTime
    let s := { s with stroke := { s.stroke with recovery := true, reqLate := false } }
    let s := forN 4 (fun k s => s.shellFinish k) s
    let s := s.fidFinish.condFinish
    let s := forN 96 (fun k s => s.strandFinish k) s
    .next (s.coxFinish.raise 1)

/-! ## The catch (R28, R51) -/

/-- The time counter is given a value: what is dated by it begins anew. -/
def State.setCounter (s : State) (now frac : Nat) : State :=
  let t := s.time
  { s with
    now := now, nowFrac := frac, time := { t with trig := t.trig.map (fun e => (e.1, { e.2 with lastFire := none })), ppsAt := none } }

/-- The time counter at a seam (R247, R248): its mode; it is loaded from the domain clock in force where the check said so, which ends
FAR, or from TIME_SET where SET_ARM read 1. -/
def State.loadCounter (s : State) (a : StrokeAccept) : State :=
  let s := s.set F.TIME_STAT_MODE (b2n (a.source == 1))
  let s := if a.source = 1 then s else { s with time := { s.time with rate := 0 } }
  if a.load then
    let x := s.dom (s.get F.TIME_STAT_DOM_ACT)
    let q := s.nowQ
    (((s.setCounter x.clk x.clkFrac).shiftLanes ((x.clk * 4294967296 + x.clkFrac : Nat) - q)).set F.TIME_STAT_FAR 0).ppsHold
  else if a.setArm then
    let q := s.nowQ
    ((s.setCounter (s.rd64 R.TIME_SET_LO) 0).shiftLanes ((s.rd64 R.TIME_SET_LO * 4294967296 : Nat) - q)).set F.TIME_CTL_SET_ARM 0
  else s

/-- The first slot whose catch lies at or after the counter time `x` (R51): slots from local time `p`, spaced `per`, both in twelfths of a
ns. -/
def State.slotsTo (s : State) (p per : Nat) (off : Int) (x : Nat) : Nat :=
  let need : Int := 12 * (x - off) - 12 * ((s.nowQ : Int) - s.upQ) / 4294967296 - p
  if need ≤ 0 then 0 else ceilDiv need.toNat (Nat.max 1 per)

/-- The seam at catch S (R51): the new timing comes into force, the counter is loaded, a hold ends, and the interval to catch A begins. -/
def State.seam (s : State) (a : StrokeAccept) : State :=
  let oldF := rateFrac (s.get F.TIME_STK_STAT_RATE)
  let old := s.get F.TIME_STK_STAT_SOURCE
  let s := s.loadCounter a
  let s := { s with stroke := { s.stroke with lastCatch := s.now } }
  let x := ceilDiv (s.now * oldF.1 + oldF.2 * 1000000000) oldF.1
  let s := (s.set F.TIME_STK_STAT_RATE a.rate).set F.TIME_STK_STAT_SOURCE a.source
  let s := if a.source = 2 then
      let off := sgn 32 a.hsoff
      let track := s.hsState == hsLocked || s.hsState == hsFlywheel
      if track then
        { s with stroke := { s.stroke with hsFree := none, hsLead := 1 + s.slotsTo s.stroke.hsPred s.stroke.hsPeriod off x, hsoff := a.hsoff, trans := some x } }
      else
        let (p, per) := s.stroke.hsFree.getD (s.stroke.hsPred, s.stroke.hsPeriod)
        { s with stroke := { s.stroke with hsFree := some (p + s.slotsTo p per off x * per, per), hsoff := a.hsoff, trans := some x } }
    else
      let f := rateFrac a.rate
      let n := (x - 1) * f.1 / (f.2 * 1000000000) + 1
      { s with stroke := { s.stroke with trans := some (ceilDiv (n * f.2 * 1000000000) f.1), hsFree := none, relock := false } }
  let s := { s with stroke := { s.stroke with qual := 0, held := 0, noSwap := false } }
  let s := if old = 2 ∧ a.source ≠ 2 ∧ s.hsState = hsFlywheel then
      ({ s with stroke := { s.stroke with hsSpacings := [] } }).hsShow hsLocking
    else s.hsShow s.hsState
  s.raise 2

/-- What was accepted for the timing takes effect at the catch (R50, R51). -/
def State.timingCatch (s : State) : State :=
  match s.stroke.accept with
  | none => s
  | some a =>
    let s := { s with stroke := { s.stroke with accept := none } }
    let s := (s.set F.TIME_STK_WIN_RECOVERY_US a.recovery).set F.TIME_STK_WIN_MARGIN_US a.margin
    if a.seam then s.seam a else s

/-- The stroke that the catch begins: its number, its time, nothing of the last one held. -/
def State.newStroke (s : State) (num : Nat) : State :=
  let x := s.stroke
  let s := { s with stroke := { x with
    lastCatch := s.now, recovery := false, trans := none, admitted := false, numLoad := none, noSwap := false, wake := false, strokeOut := !x.noSwap && s.driven, hsLead := if s.get F.TIME_STK_STAT_SOURCE = 2 then x.hsLead + 1 else 0, hsFree := x.hsFree.map (fun (p : Nat × Nat) => (p.1 + p.2, p.2)) } }
  s.wr64 R.TIME_STK_NUM_LO (num % 2 ^ 64)

/-- Every unit's part of a catch; `swap` says that the strands sent rays and a swap for it, `seam` that it is a seam. -/
def State.unitsCatch (s : State) (num : Nat) (swap seam : Bool) : State :=
  let s := s.plumbSwap
  let s := { s with render := { s.render with stage2 := s.get F.KLN_STAT_STAGE == 2 } }
  let s := ((s.bankCatch.condCatch swap).latchContexts).fidCatch seam
  let s := forN 4 (fun k s => s.shellCatch k) s
  s.coxCatch num true

/-- R28: a catch. Every commit accepted in the recovery window takes effect, as one step (R30). -/
def execCatchStroke (s : State) : Res :=
  let s := (s.interimSwap s.nextCatch).advanceTo s.nextCatch
  let num := s.nextNum
  let swap := s.swapsNext && s.cond.sent
  let seam := match s.stroke.accept with | some a => a.seam | none => false
  let s := s.newStroke num
  let s := if seam then s else s.landingAbandon (num + 1)
  let s := s.unitsCatch num swap seam
  let s := s.timingCatch
  -- entries armed for the number after S lose their catch T − 1 at S, unless catch A has that number (R51, R75)
  let s := if seam && s.nextNum != num + 1 then s.landingAbandon (num + 1) else s
  let s := (s.wr64 R.TIME_STK_NEXT_LO s.nextCatch).showStkState
  let s := forN 176 (fun i s => s.count i 2) s
  let s := s.raise 0
  .next (if s.flag F.PERF_CTL_AUTO_CATCH then s.snapshot 2 18 else s)

/-- R31: 1.0 µs after it rose, STROKE_OUT falls. -/
def execStrokeOutPulseEnd (s : State) : Res :=
  if s.stroke.strokeOut then
    let s := s.advanceTo (s.stroke.lastCatch + 1000)
    .next { s with stroke := { s.stroke with strokeOut := false } }
  else .next s

end Sys2Proof.Machine
end

