-- ==== Sys2Proof/Machine/Power.lean ====
section
/-!
DEFINITION. Power-on, warm reset, the boot ROM, showing and standby, power fail, and the kiln's evaluation (R509–R526, R540, R580, R616).
-/
namespace Sys2Proof.Machine

open Sys2Proof

/-! ## STATE of GLB_SHOW (R516) -/

/-- A write of GLB_SHOW: ARM in STANDBY, DISARM in SHOWING; anything else of the two is refused and changes nothing. STATE reads STANDBY
from Off 1, which lies in a recovery window (R243). -/
def State.writeShow (s : State) (v : RegWord) : State :=
  let arm := bitAt v.toNat 3
  let dis := bitAt v.toNat 4
  let st := s.get F.GLB_SHOW_STATE
  if !arm && !dis then s
  else if arm && !dis && st == showStandby then (s.set F.GLB_SHOW_STATE showShowing).set F.GLB_SHOW_RESULT 0
  else if dis && !arm && st == showShowing then
    let s := if s.stroke.recovery then s.offAll else { s with board := { s.board with disarm := true } }
    s.set F.GLB_SHOW_RESULT 0
  else s.set F.GLB_SHOW_RESULT 1

/-- R516: ARM. -/
def execShowArm (who : Requester) (s : State) : Res :=
  s.ifWrite who (R.GLB_SHOW.at 0 0) (fun s => .next (s.writeShow 8))

/-- R516: DISARM. -/
def execShowDisarm (who : Requester) (s : State) : Res :=
  s.ifWrite who (R.GLB_SHOW.at 0 0) (fun s => .next (s.writeShow 16))

/-! ## What a stop of the render clocks does (R517, R525) -/

/-- BLANK STEP 3 to every device of every strand that is driven (R244, R525). -/
def State.blankAll (s : State) : State := forN 96 (fun k s => s.sendBlank k none 3) s

/-- The owner cores 4–15 halt with RUN at 0. -/
def State.ownersHalt (s : State) : State := forN 12 (fun i s => s.coxHalt (4 + i)) s

/-- Every DRAM channel that runs drains its writes and enters self-refresh; a frequency change, which goes through it, ends there (R511, R517,
R525). -/
def State.dramSleep (s : State) : State :=
  forN 8 (fun c s =>
    let d := s.drc c
    let st := s.drcState c
    let freq := d.freqTo.filter (fun f => f.2 == drcRun)
    let s := match freq with
      | some (i, _) => (s.setDrc c { d with freqTo := none, leaving := false }).set F.DRC_STAT_FREQ_ACT i c
      | none => s.setDrc c { d with leaving := false }
    if st = drcRun ∨ st = drcMigrating ∨ (st = drcFreqChange ∧ freq.isSome) then
      (s.setDrcState c drcSelfRefresh).incFldWrap F.DRC_SR_CNT_ENTRIES 1 c
    else s) s

/-- Rendering stands still, owner cores halt, DRAM keeps itself, a waiting DISARM is moot. -/
def State.stopWork (s : State) : State :=
  let s := { s with render := { s.render with showT := none }, board := { s.board with disarm := false } }
  s.ownersHalt.dramSleep

/-! ## The boot ROM (R540) -/

/-- SEQ and PREF of the boot record of a chip select, where it is valid. -/
def State.bootRecord (s : State) (cs : Nat) : Option (Nat × Nat) :=
  let b := s.rdBytes (flashAddr cs 0) 16
  if leAt b 0 4 = 0xB0075E1F ∧ leAt b 12 4 = crc32c (b.take 12) then some (leAt b 4 4, leAt b 8 4 % 2) else none

/-- The preferred slot: PREF of the newer valid record (R545), slot A where none is valid. -/
def State.bootPref (s : State) : Nat :=
  match s.bootRecord 0, s.bootRecord 1 with
  | some (q0, p0), some (q1, p1) =>
    let d := (q1 + 2 ^ 32 - q0) % 2 ^ 32
    if 1 ≤ d ∧ d ≤ 2 ^ 31 - 1 then p1 else p0
  | some (_, p), none => p
  | none, some (_, p) => p
  | none, none => 0

/-- Address of the first-stage image of slot `k`. -/
def slotAddr (k : Nat) : Nat := flashAddr k 0x1000

/-- Whether slot `k` may be booted: a body of at most 2 MiB, ROOT 0, and a verification that succeeds (R536, R539, R540). -/
def State.slotOk (s : State) (k : Nat) : Bool :=
  let h := s.rdBytes (slotAddr k) 256
  decide (hdr h 0x40 4 ≤ 2 ^ 21) && imgRoot h == 0 && (s.verifyImage (slotAddr k)).1 == 0

/-- The slot that boots: the preferred one, else the other. -/
def State.bootSlot (s : State) : Option Nat :=
  let p := s.bootPref
  if s.slotOk p then some p else if s.slotOk (1 - p) then some (1 - p) else none

/-- What OTP and the flash devices give the registers before the first stage runs (R392, R393, R527, R546, R549, R556). The layout of the identifiers in
OTP is not in the spec: free functions of its first 64 bytes. -/
def State.bootIds (s : State) : State :=
  let otp := asNats (s.rdBytes (otpAt 0) 64)
  let s := forN 2 (fun k s => s.wr R.LDG_DEVID (Config.freeFun .result [44, k] % 2 ^ 32) 0 k) s
  let s := s.otpShow.wr64 R.TRU_UID_LO (leAt (sha384 identityPub) 0 8)
  let s := if 248 ≤ s.otpResv then s.alert 5 else s
  let s := (s.set F.HOST_ID_VENDOR (Config.freeFun .result (40 :: otp))).set F.HOST_ID_DEVICE (Config.freeFun .result (41 :: otp))
  let s := { s with host := { s.host with subsystem := Config.freeFun .result (45 :: otp) % 2 ^ 32 } }
  let s := s.set F.HOST_DWIN_SIZE_LOG (Config.freeFun .result [42] % 7)
  s.writeFlashCfg (BitVec.ofNat 32 (Config.freeFun .result (43 :: otp)))

/-- Latest time of each step of R513 in µs. -/
def mileLimit (retrained : Bool) (k : Nat) : Nat :=
  [1000, 20000, 40000, 120000, 180000, if retrained then 1500000 else 400000].getD k 0

/-- GLB_MILE of the first `n` steps: free within the limits of R513. -/
def State.setMiles (s : State) (n : Nat) (retrained : Bool) : State :=
  forN n (fun k s => let (r, s) := s.free .result; s.wr R.GLB_MILE (r % (mileLimit retrained k + 1)) 0 k) s

/-- Core 0 starts the image at `a` at ENTRY and W, with HANDLER and STACK as the image names them (R334, R540). -/
def State.startBoot (s : State) (a : Nat) : State :=
  let c : Core := { Core.reset 0 with
    pc := s.entry a, tvec := BitVec.ofNat 64 (s.rdN (a + 0x18) 6), image := a }
  (s.setCore 0 (c.setG 30 (BitVec.ofNat 64 (s.rdN (a + 0x20) 6)))).wr R.COX_LOADED (s.rd32 (a + 0x30)) 0

/-- The segments of the image at `a` are copied, LS segments into core 0's local store. -/
def State.copyImage (s : State) (a : Nat) : State :=
  (upTo (s.rdN (a + 0xC) 1 % 16)).foldl (fun s i =>
    let e := s.segment a i
    s.copySegment a (if bitAt (leAt e 0x14 4) 2 then localStore 0 (leAt e 0 6) else leAt e 0 6) e) s

/-- STATE where the start-up steps end: HALTED in stage 3, POWER_FAIL while PWR_FAIL_N is low, else STANDBY (R513, R516, R526). -/
def State.startState (s : State) : Nat :=
  if s.flag F.GLB_PWR_PWR_FAIL then showPowerFail else if s.get F.KLN_STAT_STAGE = 3 then showHalted else showStandby

/-- SEQ of the copy of record `kind` at flash address `f`, in a region of `n` bytes, on chip select `cs`, where it is valid (R544, R545). -/
def State.copySeq (s : State) (kind f n cs : Nat) : Option Nat :=
  let a := flashAddr cs f
  let len := s.rd32 (a + 0xC)
  if s.rd32 a = 0x1ED64EC0 ∧ s.rdN (a + 4) 1 = kind ∧ 64 + len ≤ n then
    if s.rd32 (a + 0x10) = crc32c (s.rdBytes a 16 ++ s.rdBytes (a + 64) len) then some (s.rd32 (a + 8)) else none
  else none

/-- Address of the payload of a record's newest valid copy; chip select 0's of two with equal SEQ (R545). -/
def State.newestCopy (s : State) (kind f n : Nat) : Option Nat :=
  match s.copySeq kind f n 0, s.copySeq kind f n 1 with
  | some q0, some q1 =>
    let d := (q1 + 2 ^ 32 - q0) % 2 ^ 32
    some (flashAddr (if 1 ≤ d ∧ d ≤ 2 ^ 31 - 1 then 1 else 0) f + 64)
  | some _, none => some (flashAddr 0 f + 64)
  | none, some _ => some (flashAddr 1 f + 64)
  | none, none => none

/-- Stock firmware loads the trim record of the ledger; without a good one it requests every domain (R498). -/
def State.stockTrim (s : State) : State :=
  match s.newestCopy 4 0x410000 0x10000 with
  | some a => s.trimTake (s.rdBytes a 2064) true
  | none => s.set F.PLB_LOAD_STAT_RESULT 2

/-- STRANDS_SAFE: every strand is enabled, and has BLANK STEP 0 for all its devices to send from step 2 of R206 on (R513). Without a trim
record each port waits for its domain's first swap (R498). -/
def State.stockStrands (s : State) : State :=
  if s.get F.PLB_LOAD_STAT_RESULT = 1 then
    forN 96 (fun k s => (s.writeStrCtl k (BitVec.ofNat 32 (setBits (s.rd R.STR_CTL k) 0 1 1))).offerMgmt k {
      header := brickHeader 3 0 0 true 0 0 0 0, addr := 0, cap := 0, payload := [], own := false, sentAt := s.upNs, since := s.upNs }) s
  else s.writePlbRun 0xFFFFFFFF

/-- DRAM is brought up on the ledger's configuration and training (R418, R515). The layout of either is not in the spec: the devices, ranks
and rates of DRC_CFG are free, the same at every start. -/
def State.stockDram (s : State) : State :=
  forN 8 (fun c s =>
    let v (k m : Nat) : Nat := Config.freeFun .dram [418, k] % m
    let s := ((s.set F.DRC_CFG_WIDTH (v 0 2) c).set F.DRC_CFG_DENSITY (v 1 3) c).set F.DRC_CFG_RANKS (v 2 2) c
    let s := forN 4 (fun i s => s.set { F.DRC_CFG_RATE with lsb := 6 + 3 * i, width := 3 } (v (4 + i) 7) c) (s.set F.DRC_CFG_RDIMM (v 3 2) c)
    s.drcEnable c true) s

/-- Steps 2–6 of R513 after the first stage has been verified, as stock firmware takes them; in kiln stage 3 they end at STRANDS_SAFE (R526),
and while PWR_FAIL_N is low no strand is enabled and DRAM stays in self-refresh. -/
def State.stockStart (s : State) : State :=
  let s := s.stockTrim
  if s.startState = showPowerFail then s
  else if s.startState = showHalted then s.stockStrands
  else s.stockStrands.stockDram

/-- The boot ROM, and the start-up steps that follow it (R513, R514, R526, R540, R541). -/
def State.bootRom (s : State) (retrained : Bool) : State :=
  let s := s.bootIds
  match s.bootSlot with
  | none =>
    let s := (s.set F.GLB_BOOT_STAGE 8).setMiles 1 retrained
    (s.coxHalt 0).set F.GLB_SHOW_STATE (if s.startState = showStandby then showStarting else s.startState)
  | some k =>
    let a := slotAddr k
    let s := (s.set F.GLB_BOOT_IMAGE_B k).measure 0 (s.rdBytes a 256)
    let s := (s.copyImage a).startBoot a
    let s := (s.measStart 0 (s.rd32 (a + 0x30)) s.strokeNum).stockStart
    let s := if s.get F.KLN_STAT_STAGE = 3 then (s.set F.GLB_BOOT_STAGE 3).setMiles 3 retrained
      else ((s.set F.GLB_BOOT_STAGE 6).set F.GLB_BOOT_RETRAINED (b2n retrained)).setMiles 6 retrained
    s.set F.GLB_SHOW_STATE s.startState

/-! ## Power-on and power loss (R510) -/

/-- Memory that outlives a power loss: OTP, the ledger, and the host's own. -/
def outlives (a : Nat) : Bool :=
  (decide (0x31000000 ≤ a) && decide (a < 0x31010000)) || (decide (0x38000000 ≤ a) && decide (a < 0x40000000)) || decide (2 ^ 64 ≤ a)

/-- What a power loss leaves of a page program, an erase or an OTP operation in progress: the bytes of the flash operation are free (R517),
and the OTP operation has been done or not. -/
def State.storesTorn (s : State) : State :=
  let s := match s.ledger.op with
    | some o => s.flashAfter o true
    | none => s
  match s.trust.otp with
  | some w => let (r, s) := s.free .result; if r % 2 = 0 then s else s.otpApply w
  | none => s

/-- GLB_GPIO_IN as it reads with every INV at its reset value. -/
def State.gpioPlain (s : State) : State :=
  forN 32 (fun n s => if s.flag F.GLB_GPIO_CFG_INV 0 n then
    s.wr R.GLB_GPIO_IN (setBits (s.rd R.GLB_GPIO_IN) n 1 (b2n (!bitAt (s.rd R.GLB_GPIO_IN) n))) else s) s

/-- The state after a power loss: reset values everywhere outside OTP and the ledger; what lies outside the device (the levels at its
inputs, the flash fitted, what it has sent, the waiting commands) stays. -/
def State.powerCycle (s : State) : State :=
  let s := s.storesTorn.gpioPlain
  let r : State := { State.reset with
    mem := s.mem.filter (fun e => outlives e.1), ledger := { Ledger.reset with flashBytes := s.ledger.flashBytes }, out := s.out, freeCtr := s.freeCtr, pending := s.pending }
  (r.set F.GLB_CLK_STAT_PRESENT (s.get F.GLB_CLK_STAT_PRESENT)).wr R.GLB_GPIO_IN (s.rd R.GLB_GPIO_IN)

/-- R510: PWR_OK falls. -/
def execPowerLoss (s : State) : Res :=
  let s := s.powerCycle
  .next { s with board := { s.board with pwrOk := false } }

/-- R510, R513: PWR_OK rises: power-on reset, BIST with the rows it repairs and the first array that it cannot repair (R496), the boot ROM
and the start-up steps. -/
def execPowerOn (rows : BitVec 12) (unrepaired : Option (BitVec 8)) (retrained : Bool) (s : State) : Res :=
  let s := s.powerCycle
  let s := s.set F.GLB_CLK_STAT_PRESENT (setBits (s.get F.GLB_CLK_STAT_PRESENT) 0 1 1)
  let s := s.set F.PLB_SRAM_ROWS_USED rows.toNat
  let s := match unrepaired with
    | some k => (s.set F.PLB_SRAM_UNREPAIRED 1).set F.PLB_SRAM_ARRAY k.toNat
    | none => s
  .next ((s.set F.GLB_BOOT_STAGE 1).bootRom retrained)

/-! ## Warm reset (R511, R515, R580, R616) -/

/-- Bits that a warm reset keeps at `a`: the sticky ones (R580); plumb's SRAM repairs, temperatures in force and record number (R511); the
levels at input pins. -/
def warmKeep (a : Nat) : Nat :=
  let pins :=
    if a = R.GLB_PWR.at 0 0 then 1
    else if a = R.GLB_CLK_STAT.at 0 0 ∨ a = R.GLB_GPIO_IN.at 0 0 ∨ a = R.PLB_SRAM.at 0 0 ∨ a = R.PLB_SEQ.at 0 0 then 2 ^ 32 - 1
    else if R.PLB_DOM_TEMP.at 0 0 ≤ a ∧ a ≤ R.PLB_DOM_TEMP.at 0 31 then 2 ^ 32 - 1
    else 0
  regSticky a ||| pins

/-- Every register returns to its reset value but for the bits kept; KLN_STAT.STAGE is kept while it reads 3 (R580). -/
def warmRegs (l : KMap RegWord) : KMap RegWord :=
  l.filterMap (fun e =>
    let m := BitVec.ofNat 32 (if e.1 = R.KLN_STAT.at 0 0 ∧ e.2.toNat % 4 ≠ 3 then 0 else warmKeep e.1)
    let v := (e.2 &&& m) ||| (regReset e.1 &&& ~~~m)
    if v = regReset e.1 then none else some (e.1, v))

/-- A range of memory returns to what unlisted memory reads as, without poison. -/
def State.eraseRange (s : State) (a n : Nat) : State :=
  { s with mem := s.mem.filter (fun e => !(decide (a ≤ e.1) && decide (e.1 < a + n))) }.clearPoison a n

/-- R616: ring contexts return to the never-configured state; landing entries that read FILLING or DECODING become ERROR, ABANDONED,
without a record. -/
def State.yardOrder (s : State) : State :=
  let s := s.eraseRange (ringCtx 0) (64 * 8192)
  s.ingest.objs.foldl (fun s e =>
    if e.2.isSome && (s.entryState e.1 == 1 || s.entryState e.1 == 2) then s.wr32 (e.1 + 0x38) (4 + 23 * 8) else s) s

/-- Units at reset; what R511 keeps stays: the time counter, the kiln's model, plumb's sets, the state of DRAM devices and of buffers in
memory. -/
def State.unitsWarm (s : State) : State :=
  { State.reset with
    regs := s.regs
    mem := s.mem
    poison := s.poison
    now := s.now
    nowFrac := s.nowFrac
    upNs := s.upNs
    freeCtr := s.freeCtr
    out := s.out
    dram := s.dram.map (fun e => (e.1, { Dram.reset with mr := e.2.mr, released := e.2.released }))
    stroke := { Stroke.reset with lastCatch := s.now }
    perf := { Perf.reset with cycAt := s.upNs }
    plumb := { Plumb.reset with active := s.plumb.active, valid := s.plumb.valid, stroke := s.plumb.stroke }
    render := { Render.reset with reinstate := 7, missing := 7 }
    zip := { Zip.reset with streams := s.zip.streams }
    board := { s.board with resetLow := false, bscan := false, disarm := false, i2c := [] }
    ledger := { Ledger.reset with flashBytes := s.ledger.flashBytes }
    pending := s.pending }

/-- What the flash device and the OTP array complete over a warm reset: the page or erase in progress, and the OTP operation (R511). -/
def State.storesSettle (s : State) : State :=
  let s := match s.ledger.op with
    | some o => s.flashAfter o false
    | none => s
  match s.trust.otp with
  | some w => s.otpApply w
  | none => s

/-- A warm reset with GLB_RST_CAUSE bit `bit` (R511, R515, R531, R616). -/
def State.warmReset (s : State) (bit : Nat) : State :=
  let trip := s.get F.KLN_STAT_STAGE = 3
  let s := s.storesSettle.yardOrder.gpioPlain
  let s := { s with regs := warmRegs s.regs }.unitsWarm
  let c := setBits (s.get F.GLB_RST_CAUSE_CAUSE) bit 1 1
  let s := s.set F.GLB_RST_CAUSE_CAUSE (if trip then setBits c 5 1 1 else c)
  let s := if trip then s.set F.PLB_STAT_STATE plbHalted else s
  let s := forN 4 (fun k s => s.rolesShown k) s
  (s.sensorStates.set F.GLB_BOOT_STAGE 1).bootRom false

/-- R511, R597: RESET_N falls: outputs go idle, and every DRAM channel enters self-refresh. -/
def execResetNAssert (s : State) : Res :=
  let s := { s with
    board := { s.board with resetLow := true }, stroke := { s.stroke with strokeOut := false }, time := { s.time with pps := none, pulse := [] } }
  .next s.dramSleep

/-- R511: RESET_N rises: the warm reset, not before BLANK has left in a power-fail sequence (R518). -/
def execWarmReset (s : State) : Res :=
  if s.board.resetLow then
    let s := if s.flag F.GLB_PWR_PWR_FAIL then s.advanceTo (s.rd64 R.GLB_PFAIL_LO + 60000) else s
    .next (s.warmReset 1)
  else .next s

/-- A write of GLB_RST_CTL: 0xA5A5 from W or the debug port starts a warm reset; any other write only holds its value (R511). -/
def State.writeRstCtl (s : State) (who : Requester) (v : RegWord) : State :=
  let s := s.typedWr (R.GLB_RST_CTL.at 0 0) v
  if v.toNat % 2 ^ 16 = 0xA5A5 then
    match who with
    | .core _ => s.warmReset 2
    | .debug => s.warmReset 3
    | .host => s
  else s

/-- R511: a write of GLB_RST_CTL. -/
def execSoftReset (who : Requester) (v : RegWord) (s : State) : Res :=
  s.ifWriteV who (R.GLB_RST_CTL.at 0 0) v (fun s => .next (s.writeRstCtl who v))

/-! ## Power fail (R517, R518) -/

/-- R517: PWR_FAIL_N falls. In the same evaluation as a trip the strands send one FAIL brick (R518). -/
def execPowerFail (s : State) : Res :=
  if s.flag F.GLB_PWR_PWR_FAIL then .next s
  else
    let s := (s.set F.GLB_PWR_PWR_FAIL 1).set F.GLB_PWR_PF_SEEN 1
    let s := (s.wr64 R.GLB_PFAIL_LO s.now).set F.GLB_SHOW_STATE showPowerFail
    let s := s.raise 0xCC
    let s := if s.board.thermTrip ∧ s.rd64 R.KLN_TRIP_LO = s.now then s else s.blankAll
    .next s.stopWork

/-- R518: PWR_FAIL_N has been high for 10 ms. -/
def execPowerFailRecovery (s : State) : Res :=
  if s.flag F.GLB_PWR_PWR_FAIL then
    .next (((s.set F.GLB_PWR_PWR_FAIL 0).warmReset 4).incSat R.GLB_PFAIL_CNT)
  else .next s

/-! ## The kiln's evaluation (R519, R522–R526) -/

/-- e of point `p`: its anchor's, or that of the nearest healthy sensor after it; 0 with fewer than 4 healthy sensors (R520, R521). -/
def State.pointErr (s : State) (p : Nat) : Int :=
  if s.healthyCount < 4 then 0
  else
    match ((List.range 16).map (fun k => (anchorOf p + k) % 16)).find? s.healthy with
    | some i => KMap.get (fun _ => 0) s.board.errs i
    | none => 0

/-- Temperature of point `p`. -/
def State.pointTemp (s : State) (p : Nat) : Int := sgn 16 (s.get F.KLN_PT_TEMP 0 p)

/-- The hottest point, the lowest of several. -/
def State.hottest (s : State) : Nat := (List.range 64).foldl (fun b p => if s.pointTemp b < s.pointTemp p then p else b) 0

/-- The monitors are read, the network evaluated: KLN_PWR, KLN_PT, KLN_TJ, and the AVS code (R519, R522, R531). -/
def State.kilnModel (s : State) (mw : List (BitVec 24)) (model : List (BitVec 16)) : State :=
  let w (i : Nat) : Nat := ((mw[i]?).getD 0).toNat
  let m (p : Nat) : Int := ((model[p]?).getD 0).toInt
  let s := { s with board := { s.board with
    pmon := (upTo 48).foldl (fun l i => KMap.put (fun _ => 0) l i (w i)) s.board.pmon
    model := (upTo 64).foldl (fun l p => KMap.put (fun _ => 0) l p (m p)) s.board.model } }
  let s := s.wr R.KLN_PWR ((upTo 48).foldl (fun a i => a + w i) 0)
  let s := forN 64 (fun p s => s.set F.KLN_PT_TEMP (enc 16 (satS 16 (m p + s.pointErr p))) 0 p) s
  let hot := s.hottest
  let s := (s.set F.KLN_TJ_TJ (s.get F.KLN_PT_TEMP 0 hot)).set F.KLN_TJ_POINT hot
  s.set F.GLB_AVS_CODE (Config.freeFun .sensor (s.get F.KLN_TJ_TJ :: asNats (s.rdBytes (otpAt 0) 64)) % 17)

/-- The temperatures that a stage is decided by: TJ and the readings of the healthy sensors (R523). -/
def State.stageTemps (s : State) : List Int :=
  sgn 16 (s.get F.KLN_TJ_TJ) :: ((List.range 16).filter s.healthy).map s.reading

/-- A stage's entry holds. -/
def State.entryHolds (s : State) (thr : Nat) : Bool := s.stageTemps.any (fun t => decide (sgn 16 thr ≤ t))

/-- Every temperature lies below a limit. -/
def State.allBelow (s : State) (lim : Int) : Bool := s.stageTemps.all (fun t => decide (t < lim))

/-- k of R523: the highest stage whose entry holds, raised to FLOOR and to the floor of R521. -/
def State.stageWanted (s : State) : Nat :=
  let k := if s.entryHolds (s.get F.KLN_TH1_TRIP) then 3
    else if s.entryHolds (s.get F.KLN_TH0_THROTTLE) then 2
    else if s.entryHolds (s.get F.KLN_TH0_WARN) then 1
    else 0
  Nat.max k (Nat.max (Nat.min 2 (s.get F.KLN_CTL_FLOOR)) (if s.healthyCount < 4 then 2 else 0))

/-- Whether the leave condition of stage `st` holds. -/
def State.stageLeaves (s : State) (st : Nat) : Bool :=
  let hyst : Int := Nat.max 1 (s.get F.KLN_HOLD_HYST) * 256
  if st = 3 then
    match s.board.below with
    | some t => decide (t + Nat.max 1 (s.get F.KLN_HOLD_HOLD_S) * 1000000000 ≤ s.upNs)
    | none => false
  else if st = 2 then s.allBelow (sgn 16 (s.get F.KLN_TH0_THROTTLE) - hyst)
  else s.allBelow (sgn 16 (s.get F.KLN_TH0_WARN) - hyst)

/-- Stage 3 below RELEASE: since when, without a break. -/
def State.trackRelease (s : State) : State :=
  let b := if s.get F.KLN_STAT_STAGE = 3 ∧ s.allBelow (sgn 16 (s.get F.KLN_TH1_RELEASE)) then some (s.board.below.getD s.upNs) else none
  { s with board := { s.board with below := b } }.set F.KLN_STAT_RELEASING (b2n b.isSome)

/-- Entry to stage 3 (R525). -/
def State.kilnTrip (s : State) : State :=
  let s := s.cyclesPass
  let pf := s.get F.GLB_SHOW_STATE = showPowerFail
  let s := { s with board := { s.board with thermTrip := s.board.pwrOk } }
  let s := if pf then s else s.set F.GLB_SHOW_STATE showHalted
  let s := (s.wr64 R.KLN_TRIP_LO s.now).incSat R.KLN_TRIP_CNT
  let s := s.raise 0xCA
  let s := if pf then s else s.blankAll
  s.stopWork.plumbAborted.set F.PLB_STAT_STATE plbHalted

/-- Stage 3 is left for stage `k` (R526). -/
def State.kilnRelease (s : State) : State :=
  let s := s.cyclesPass
  let s := { s with board := { s.board with thermTrip := false } }
  -- the power-fail sequence keeps plumb halted and DRAM in self-refresh (R492, R517)
  let s : State := if s.get F.GLB_SHOW_STATE = showPowerFail then s
    else forN 8 (fun c (s : State) => if s.drcState c = drcSelfRefresh then s.setDrc c { s.drc c with leaving := true } else s) (s.set F.PLB_STAT_STATE plbIdle)
  let s := s.raise 0xCA
  let s := if s.get F.GLB_BOOT_STAGE = 3 then (s.set F.GLB_BOOT_STAGE 6).setMiles 6 false else s
  if s.get F.GLB_SHOW_STATE = showHalted then s.set F.GLB_SHOW_STATE showStandby else s

/-- The stage becomes `k`: counts and events of R523. -/
def State.stageTo (s : State) (k : Nat) : State :=
  let old := s.get F.KLN_STAT_STAGE
  if k = old then s
  else
    let s := (s.set F.KLN_STAT_STAGE k).set F.KLN_STAT_RELEASING 0
    let s := { s with board := { s.board with below := none } }
    let s := if old = 3 then s.kilnRelease else s
    if k = 1 then (s.incFld F.KLN_STAGE_CNT_S1).raiseIf (s.flag F.KLN_EVMASK_WARN_EN) 0xC8
    else if k = 2 then (s.incFld F.KLN_STAGE_CNT_S2).raise 0xC9
    else if k = 3 then s.kilnTrip
    else s

/-- Time in stage 2 (R524), and the kiln's counter in any stage above 0 (R563). -/
def State.stageTime (s : State) : State :=
  let st := s.get F.KLN_STAT_STAGE
  let s := if st = 0 then s else s.count 1 0x10
  if st ≠ 2 then s
  else if s.board.quarter = 3 then { s.incSat R.KLN_STAGE2_MS with board := { s.board with quarter := 0 } }
  else { s with board := { s.board with quarter := s.board.quarter + 1 } }

/-- R523: an evaluation of the kiln, 250 µs after the one before. -/
def execKilnEvaluation (mw : List (BitVec 24)) (model : List (BitVec 16)) (s : State) : Res :=
  let s := s.advanceUp (s.board.kilnAt + 250000)
  let s := { s with board := { s.board with kilnAt := s.upNs } }
  let s := (s.kilnModel mw model).stageTime.trackRelease
  let cur := s.get F.KLN_STAT_STAGE
  let k := s.stageWanted
  let s := s.stageTo (if cur ≤ k then k else if s.stageLeaves cur then k else cur)
  .next s.plumbAuto

end Sys2Proof.Machine
end

