-- ==== Sys2Proof/Machine/Inflate.lean ====
section
/-!
DEFINITION. The decompressor of RFC 1951 with the wraps of RFC 1950 and RFC 1952, as R454–R456 use it.
-/
namespace Sys2Proof.Machine

open Sys2Proof

/-- The input of a stream: `len` bits, the first the least significant bit of `v`. -/
structure ZIn where
  v : Nat
  len : Nat
deriving DecidableEq, Repr

/-- `n` bits from `pos`; error 0 says that the input has ended. -/
def ZIn.bits (z : ZIn) (pos n : Nat) : Except Nat Nat := if pos + n ≤ z.len then .ok (bitsOf z.v pos n) else .error 0

/-- The input of a list of bytes. -/
def zIn (l : List Byte) : ZIn := { v := leVal l, len := 8 * l.length }

/-- The input followed by another from the other's bit `skip`. -/
def ZIn.append (z w : ZIn) (skip : Nat) : ZIn :=
  { v := bitsOf z.v 0 z.len + w.v / 2 ^ skip * 2 ^ z.len, len := z.len + (w.len - skip) }

/-! ## Codes -/

/-- A canonical code: how many symbols have each length 1–15, and the symbols in order of length and value. -/
structure Huff where
  count : List Nat
  syms : List Nat
deriving DecidableEq, Repr

/-- The code of a list of code lengths. -/
def huffOf (lens : List Nat) : Huff :=
  { count := (upTo 15).map (fun n => lens.countP (· == n + 1)),
    syms := (upTo 15).flatMap (fun n => (lens.zipIdx.filter (fun e => e.1 == n + 1)).map (·.2)) }

/-- Whether the lengths make a complete code; a distance code may be empty or one code of one bit (R455). -/
def lensOk (lens : List Nat) (dist : Bool) : Bool :=
  let used := lens.filter (· != 0)
  used.foldl (fun s n => s + 2 ^ (15 - n)) 0 == 2 ^ 15 || (dist && (used == [] || used == [1]))

/-- The symbol at `pos`, and the position after it: error 0 where the input ends, 3 where no code matches. -/
def Huff.sym (h : Huff) (z : ZIn) (pos : Nat) : Except Nat (Nat × Nat) :=
  let rec go : List Nat → Nat → Nat → Nat → Nat → Except Nat (Nat × Nat)
    | [], _, _, _, _ => .error 3
    | n :: l, code, first, index, pos =>
      match z.bits pos 1 with
      | .error e => .error e
      | .ok b =>
        let code := code + b
        if code - first < n ∧ first ≤ code then .ok (h.syms.getD (index + (code - first)) 0, pos + 1)
        else go l (2 * code) (2 * (first + n)) (index + n) (pos + 1)
  go h.count 0 0 0 pos

/-- Base and extra bits of length symbols from 257, and of distance symbols. -/
def lenTable : List (Nat × Nat) :=
  [(3, 0), (4, 0), (5, 0), (6, 0), (7, 0), (8, 0), (9, 0), (10, 0), (11, 1), (13, 1), (15, 1), (17, 1), (19, 2), (23, 2), (27, 2),
    (31, 2), (35, 3), (43, 3), (51, 3), (59, 3), (67, 4), (83, 4), (99, 4), (115, 4), (131, 5), (163, 5), (195, 5), (227, 5), (258, 0)]
def distTable : List (Nat × Nat) :=
  [(1, 0), (2, 0), (3, 0), (4, 0), (5, 1), (7, 1), (9, 2), (13, 2), (17, 3), (25, 3), (33, 4), (49, 4), (65, 5), (97, 5), (129, 6),
    (193, 6), (257, 7), (385, 7), (513, 8), (769, 8), (1025, 9), (1537, 9), (2049, 10), (3073, 10), (4097, 11), (6145, 11), (8193, 12),
    (12289, 12), (16385, 13), (24577, 13)]

/-- The fixed codes. -/
def fixedLit : Huff := huffOf (List.replicate 144 8 ++ List.replicate 112 9 ++ List.replicate 24 7 ++ List.replicate 8 8)
def fixedDist : Huff := huffOf (List.replicate 32 5)

/-- The order of the code-length code's lengths. -/
def clOrder : List Nat := [16, 17, 18, 0, 8, 7, 9, 6, 10, 5, 11, 4, 12, 3, 13, 2, 14, 1, 15]

/-- The code lengths of a dynamic block, up to `total` of them, newest first in `acc`. -/
def codeLens (h : Huff) (z : ZIn) (total : Nat) : Nat → List Nat → Nat → Except Nat (List Nat × Nat)
  | 0, _, _ => .error 5
  | fuel + 1, acc, pos =>
    if total ≤ acc.length then .ok (acc.reverse, pos)
    else match h.sym z pos with
      | .error e => .error e
      | .ok (s, p) =>
        if s < 16 then codeLens h z total fuel (s :: acc) p
        else if s = 16 ∧ acc = [] then .error 5
        else
          let n := if s = 16 then 2 else if s = 17 then 3 else 7
          match z.bits p n with
          | .error e => .error e
          | .ok r =>
            let rep := r + (if s = 18 then 11 else 3)
            if total < acc.length + rep then .error 5
            else codeLens h z total fuel (List.replicate rep (if s = 16 then acc.headD 0 else 0) ++ acc) (p + n)

/-- The codes of a dynamic block whose header begins at `pos`. -/
def dynamicCodes (z : ZIn) (pos : Nat) : Except Nat (Huff × Huff × Nat) := do
  let nl ← z.bits pos 5
  let nd ← z.bits (pos + 5) 5
  let nc ← z.bits (pos + 10) 4
  let cl ← (upTo (nc + 4)).mapM (fun i => z.bits (pos + 14 + 3 * i) 3)
  let lens := (upTo 19).map (fun s => cl.getD (clOrder.findIdx (· == s)) 0)
  if !lensOk lens false then .error 3
  else
    let r ← codeLens (huffOf lens) z (nl + nd + 258) 400 [] (pos + 14 + 3 * (nc + 4))
    let lit := r.1.take (nl + 257)
    let dist := r.1.drop (nl + 257)
    if !lensOk lit false || !lensOk dist true then .error 3
    else .ok (huffOf lit, huffOf dist, r.2)

/-! ## The decoder -/

/-- Where the decoder stands: before a block, in a stored block with bytes left, in a coded block, at the trailer. -/
inductive InfPhase where
  | start
  | stored (n : Nat)
  | codes (lit dist : Huff)
  | trailer
deriving DecidableEq, Repr

/-- The decoder: position, phase, whether the block is the last, output newest first and its length, and the position at which the
output limit was reached. -/
structure InfSt where
  pos : Nat
  phase : InfPhase
  last : Bool
  out : List Byte
  cnt : Nat
  cand : Option Nat
deriving DecidableEq, Repr

/-- How the decoder stops: the stream's end, the output limit with what is left of a match, the input's end, an error code. -/
inductive InfStop where
  | ok (pos : Nat)
  | full (rem dist : Nat)
  | fullAt (pos rem dist : Nat)
  | need
  | err (code pos : Nat)
deriving DecidableEq, Repr

/-- The decoder after one more output byte, at position `p`. -/
def InfSt.push (st : InfSt) (lim : Nat) (b : Byte) (p : Nat) : InfSt :=
  { st with out := b :: st.out, cnt := st.cnt + 1, pos := p, cand := if st.cnt + 1 = lim then some p else st.cand }

/-- The decoder after `n` bytes copied from `dist` back. -/
def InfSt.copy (st : InfSt) (lim dist p : Nat) : Nat → InfSt
  | 0 => st
  | n + 1 => (st.push lim (st.out.getD (dist - 1) 0) p).copy lim dist p n

/-- Adler-32 of a list of bytes (RFC 1950). -/
def adler32 (l : List Byte) : Nat :=
  let r := l.foldl (fun (x : Nat × Nat) b => ((x.1 + b.toNat) % 65521, (x.2 + (x.1 + b.toNat) % 65521) % 65521)) (1, 0)
  r.2 * 65536 + r.1

/-- The end of a wait or an error of the decoder at its position. -/
def infErr (e pos : Nat) : InfStop := if e = 0 then .need else .err e pos

/-- `pos` moved to a byte boundary. -/
def alignUp (pos : Nat) : Nat := (pos + 7) / 8 * 8

/-- The trailer of the wrap at the decoder's position. -/
def InfSt.checkTrailer (st : InfSt) (z : ZIn) (wrap : Nat) : InfStop :=
  let p := alignUp st.pos
  if wrap = 0 then .ok st.pos
  else if wrap = 1 then
    match z.bits p 32 with
    | .error e => infErr e st.pos
    | .ok v => if beVal (leBytes 4 v) = adler32 st.out.reverse then .ok (p + 32) else .err 8 st.pos
  else
    match z.bits p 64 with
    | .error e => infErr e st.pos
    | .ok v =>
      if v % 2 ^ 32 = crc32 st.out.reverse ∧ v / 2 ^ 32 = st.cnt % 2 ^ 32 then .ok (p + 64) else .err 8 st.pos

/-- One symbol of a coded block. -/
def InfSt.symbol (st : InfSt) (z : ZIn) (lim : Nat) (lit dist : Huff) : InfStop ⊕ InfSt :=
  match lit.sym z st.pos with
  | .error e => .inl (infErr e st.pos)
  | .ok (s, p) =>
    if s < 256 then (if st.cnt = lim then .inl (.full 0 0) else .inr (st.push lim (BitVec.ofNat 8 s) p))
    else if s = 256 then .inr { st with pos := p, phase := if st.last then .trailer else .start }
    else if 285 < s then .inl (.err 3 st.pos)
    else
      let le := lenTable.getD (s - 257) (0, 0)
      match z.bits p le.2 with
      | .error e => .inl (infErr e st.pos)
      | .ok x =>
        let len := le.1 + x
        match dist.sym z (p + le.2) with
        | .error e => .inl (infErr e st.pos)
        | .ok (d, p) =>
          if 29 < d then .inl (.err 3 st.pos)
          else
            let de := distTable.getD d (0, 0)
            match z.bits p de.2 with
            | .error e => .inl (infErr e st.pos)
            | .ok y =>
              let back := de.1 + y
              if st.cnt < back then .inl (.err 4 st.pos)
              else if st.cnt = lim then .inl (.full 0 0)
              else
                let n := Nat.min len (lim - st.cnt)
                let st' := st.copy lim back (p + de.2) n
                if n < len then .inl (.fullAt (p + de.2) (len - n) back) else .inr st'

/-- The header of a block. -/
def InfSt.block (st : InfSt) (z : ZIn) : InfStop ⊕ InfSt :=
  match z.bits st.pos 3 with
  | .error e => .inl (infErr e st.pos)
  | .ok h =>
    let last := h % 2 == 1
    let p := st.pos + 3
    if h / 2 = 0 then
      match z.bits (alignUp p) 32 with
      | .error e => .inl (infErr e st.pos)
      | .ok v =>
        if v % 65536 + v / 65536 = 65535 then .inr { st with pos := alignUp p + 32, last := last, phase := .stored (v % 65536) }
        else .inl (.err 7 st.pos)
    else if h / 2 = 1 then .inr { st with pos := p, last := last, phase := .codes fixedLit fixedDist }
    else if h / 2 = 2 then
      match dynamicCodes z p with
      | .error e => .inl (infErr e st.pos)
      | .ok (l, d, p) => .inr { st with pos := p, last := last, phase := .codes l d }
    else .inl (.err 6 st.pos)

/-- One step of the decoder. -/
def InfSt.step (st : InfSt) (z : ZIn) (wrap lim : Nat) : InfStop ⊕ InfSt :=
  match st.phase with
  | .start => st.block z
  | .stored 0 => .inr { st with phase := if st.last then .trailer else .start }
  | .stored (n + 1) =>
    if st.cnt = lim then .inl (.full 0 0)
    else match z.bits st.pos 8 with
      | .error e => .inl (infErr e st.pos)
      | .ok b => .inr { st.push lim (BitVec.ofNat 8 b) (st.pos + 8) with phase := .stored n }
  | .codes l d => st.symbol z lim l d
  | .trailer => .inl (st.checkTrailer z wrap)

/-- The decoder runs until it stops; every step takes a bit of the input or ends a block. A match cut short leaves its bytes in the
output of the state that the stop returns. -/
def InfSt.run (z : ZIn) (wrap lim : Nat) : Nat → InfSt → InfStop × InfSt
  | 0, st => (.need, st)
  | fuel + 1, st =>
    match st.step z wrap lim with
    | .inr st' => InfSt.run z wrap lim fuel st'
    | .inl (.fullAt p rem dist) => (.fullAt p rem dist, st.copy lim dist p (lim - st.cnt))
    | .inl x => (x, st)

/-- One byte of a header and its test: error 9 where it fails. -/
def hdrByte (z : ZIn) (i : Nat) (ok : Nat → Bool) : Except Nat Nat := do
  let b ← z.bits (8 * i) 8
  if ok b then .ok b else .error 9

/-- The index after the zero byte that ends a string of a gzip header. -/
def hdrString (z : ZIn) : Nat → Nat → Except Nat Nat
  | 0, _ => .error 0
  | fuel + 1, i =>
    match z.bits (8 * i) 8 with
    | .error e => .error e
    | .ok b => if b = 0 then .ok (i + 1) else hdrString z fuel (i + 1)

/-- The header of a wrap: the position after it (R454). -/
def wrapHeader (z : ZIn) (wrap : Nat) : Except Nat Nat := do
  if wrap = 0 then .ok 0
  else if wrap = 1 then
    let a ← hdrByte z 0 (fun b => b % 16 == 8 && decide (b / 16 ≤ 7))
    let _ ← hdrByte z 1 (fun b => (a * 256 + b) % 31 == 0 && !bitAt b 5)
    .ok 16
  else
    let _ ← hdrByte z 0 (· == 0x1F)
    let _ ← hdrByte z 1 (· == 0x8B)
    let _ ← hdrByte z 2 (· == 8)
    let f ← hdrByte z 3 (fun b => decide (b < 32))
    let _ ← z.bits 32 48
    let i ← (if bitAt f 2 then do
        let n ← z.bits 80 16
        let _ ← z.bits 96 (8 * n)
        .ok (12 + n)
      else .ok 10)
    let i ← if bitAt f 3 then hdrString z (z.len + 1) i else .ok i
    let i ← if bitAt f 4 then hdrString z (z.len + 1) i else .ok i
    if bitAt f 1 then
      let c ← z.bits (8 * i) 16
      if c = crc32 (leBytes i (bitsOf z.v 0 (8 * i))) % 65536 then .ok (8 * i + 16) else .error 8
    else .ok (8 * i)

/-- The result of decoding a stream from its first bit: the code of R455, the position reached, the output from the stream's start, and
what is left of a match. -/
structure InfRes where
  code : Nat
  pos : Nat
  out : List Byte
  rem : Nat
  dist : Nat
deriving DecidableEq, Repr

/-- Decodes the stream up to `lim` output bytes. `p0` is the position that earlier jobs reached; `final` says that the input holds the
stream's end. At the limit the decoder reads on to the trailer, and the stop is OUT_FULL where more output, or no whole trailer,
follows (R456). -/
def inflate (z : ZIn) (wrap lim p0 : Nat) (final : Bool) : InfRes :=
  let short : Nat := if final then 10 else 2
  match wrapHeader z wrap with
  | .error e => if e = 0 then ⟨short, z.len, [], 0, 0⟩ else ⟨e, p0, [], 0, 0⟩
  | .ok p =>
    let r := InfSt.run z wrap lim (2 * z.len + 16) { pos := p, phase := .start, last := false, out := [], cnt := 0, cand := none }
    let out := r.2.out.reverse
    let full (c : Nat) : InfRes := ⟨1, Nat.max p0 c, out, 0, 0⟩
    match r.1 with
    | .ok q => ⟨0, q, out, 0, 0⟩
    | .full _ _ => full (r.2.cand.getD p0)
    | .fullAt q rem dist => ⟨1, q, out, rem, dist⟩
    | .need => match r.2.cand with
      | some c => full c
      | none => ⟨short, z.len, out, 0, 0⟩
    | .err e q => match r.2.cand with
      | some c => if e = 8 then ⟨8, Nat.max p0 q, out, 0, 0⟩ else full c
      | none => ⟨e, Nat.max p0 q, out, 0, 0⟩

end Sys2Proof.Machine
end

