-- ==== Sys2Proof/Machine/Deflate.lean ====
section
/-!
DEFINITION. The compressor: its greedy pass, its dynamic-Huffman blocks and the items that it never splits (R454, R457, R458).
-/
namespace Sys2Proof.Machine

open Sys2Proof

/-! ## The greedy pass (R457) -/

/-- How many leading bytes two lists share, at most `n`. -/
def sharedPrefix : Nat → List Byte → List Byte → Nat
  | n + 1, a :: l, b :: m => if a = b then sharedPrefix n l m + 1 else 0
  | _, _, _ => 0

/-- The longest match of the bytes from `i` on with an earlier position within 32,768 bytes, at most `lim` bytes long, and its distance: the
nearest of equal ones. How many earlier positions of one hash are compared the spec does not bound: all (DESIGN CHOICE, log entry 138). -/
def bestMatch (data : List Byte) (i lim : Nat) : Nat × Nat :=
  (upTo (Nat.min i 32768)).foldl (fun b k =>
    let n := sharedPrefix lim (data.drop (i - 1 - k)) (data.drop i)
    if b.1 < n then (n, k + 1) else b) (0, 0)

/-- The literals (byte, 0) and matches (length, distance) of `data` from `i` up to `stop`; a match does not run past the end of its block, so
that a block depends on its own and on earlier bytes only. -/
def lzPass (data : List Byte) (stop : Nat) : Nat → Nat → List (Nat × Nat)
  | 0, _ => []
  | fuel + 1, i =>
    if stop ≤ i then []
    else
      let m := bestMatch data i (Nat.min 258 (stop - i))
      if 3 ≤ m.1 then m :: lzPass data stop fuel (i + m.1)
      else (((data[i]?).getD 0).toNat, 0) :: lzPass data stop fuel (i + 1)

/-! ## Codes -/

/-- `n` bits of a code word, most significant first, as the stream takes them: least significant first. -/
def codeBits (v n : Nat) : Nat := (upTo n).foldl (fun r k => r * 2 + v / 2 ^ k % 2) 0

/-- The code word of a symbol in the canonical code of a list of lengths: its bits and their number. -/
def codeWord (lens : List Nat) (s : Nat) : Nat × Nat :=
  let n := lens.getD s 0
  let first := (upTo n).foldl (fun c b => (c + (if b = 0 then 0 else lens.countP (· == b))) * 2) 0
  (codeBits (first + (lens.take s).countP (· == n)) n, n)

/-- The index of the last entry of a table whose base is not above `v`. -/
def tableIndex (t : List (Nat × Nat)) (v : Nat) : Nat := (t.filter (fun e => decide (e.1 ≤ v))).length - 1

/-- Symbols of an item: of the literal/length code, and of the distance code. -/
def itemSym (x : Nat × Nat) : Nat := if x.2 = 0 then x.1 else 257 + tableIndex lenTable x.1
def itemDist (x : Nat × Nat) : List Nat := if x.2 = 0 then [] else [tableIndex distTable x.2]

/-- A symbol's code word with its extra bits. -/
def withExtra (w : Nat × Nat) (t : Nat × Nat) (v : Nat) : Nat × Nat := (w.1 + (v - t.1) * 2 ^ w.2, w.2 + t.2)

/-- The code words of an item: a literal's; or a length's and a distance's, each with its extra bits. -/
def itemWords (lit dist : List Nat) (x : Nat × Nat) : List (Nat × Nat) :=
  if x.2 = 0 then [codeWord lit x.1]
  else
    let l := tableIndex lenTable x.1
    let d := tableIndex distTable x.2
    [withExtra (codeWord lit (257 + l)) (lenTable.getD l (0, 0)) x.1, withExtra (codeWord dist d) (distTable.getD d (0, 0)) x.2]

/-- Free numbers of a block: `key` names the block by its bytes. -/
def blockFree (key : List Nat) (k i : Nat) : Nat := Config.freeFun .zip (1 :: k :: i :: key)

/-- Free code lengths for the symbols that occur, from `lo` to `hi` of them: any valid code may be chosen (R457); `dflt` is one. -/
def freeCode (key : List Nat) (k lo hi : Nat) (used : List Nat) (dist : Bool) (dflt : List Nat) : List Nat :=
  let l := (upTo (lo + blockFree key k 0 % (hi + 1 - lo))).map (fun i => blockFree key k (i + 1) % 16)
  if lensOk l dist && used.all (fun s => l.getD s 0 != 0) then l else dflt

/-- Codes that hold every symbol. -/
def wideLit : List Nat := List.replicate 226 8 ++ List.replicate 60 9
def wideDist : List Nat := List.replicate 2 4 ++ List.replicate 28 5
def wideCl : List Nat := List.replicate 13 4 ++ List.replicate 6 5

/-- The code lengths that a list of code-length symbols and repeats stands for, newest first; none where one does not fit. -/
def expandLens : List (Nat × Nat) → List Nat → Option (List Nat)
  | [], acc => some acc
  | (s, r) :: l, acc =>
    if s < 16 then expandLens l (s :: acc)
    else if s = 16 then (match acc with | a :: _ => if r < 4 then expandLens l (List.replicate (r + 3) a ++ acc) else none | [] => none)
    else if s = 17 then (if r < 8 then expandLens l (List.replicate (r + 3) 0 ++ acc) else none)
    else if s = 18 ∧ r < 128 then expandLens l (List.replicate (r + 11) 0 ++ acc)
    else none

/-- The symbols that state a list of lengths in a block header: any that stand for them may be chosen. -/
def lensWords (key : List Nat) (lens : List Nat) : List (Nat × Nat) :=
  let l := (upTo (blockFree key 4 0 % 317)).map (fun i => (blockFree key 4 (2 * i + 1) % 19, blockFree key 4 (2 * i + 2) % 128))
  let l := l.map (fun e => if e.1 < 16 then (e.1, 0) else e)
  if expandLens l [] = some lens.reverse then l else lens.map (fun n => (n, 0))

/-- Items put behind one another: value and number of bits. -/
def joinItems (l : List (Nat × Nat)) : Nat × Nat := l.foldl (fun x e => (x.1 + e.1 * 2 ^ x.2, x.2 + e.2)) (0, 0)

/-- The items of a dynamic-Huffman block with the literals and matches `xs`: its header, its code words and the end of the block. -/
def zipBlock (key : List Nat) (xs : List (Nat × Nat)) (last : Bool) : List (Nat × Nat) :=
  let lit := freeCode key 2 257 286 (256 :: xs.map itemSym) false wideLit
  let dist := freeCode key 3 1 30 (xs.flatMap itemDist) true wideDist
  let ws := lensWords key (lit ++ dist)
  let cl := freeCode key 5 19 19 (ws.map (·.1)) false wideCl
  let order := clOrder.map (fun s => cl.getD s 0)
  let n := Nat.max 4 (19 - (order.reverse.takeWhile (· == 0)).length)
  let head := [(b2n last, 1), (2, 2), (lit.length - 257, 5), (dist.length - 1, 5), (n - 4, 4)] ++ (order.take n).map (fun v => (v, 3)) ++
    ws.map (fun e => let w := codeWord cl e.1; (w.1 + e.2 * 2 ^ w.2, w.2 + (if e.1 = 16 then 2 else if e.1 = 17 then 3 else if e.1 = 18 then 7 else 0)))
  joinItems head :: (xs.flatMap (itemWords lit dist) ++ [codeWord lit 256])

/-! ## The stream (R454, R457, R458) -/

/-- The header of a wrap as the compressor writes it (R454). -/
def wrapBytes (wrap : Nat) : List Byte :=
  if wrap = 1 then [0x78, 0x5E] else if wrap = 2 then [0x1F, 0x8B, 8, 0, 0, 0, 0, 0, 0, 0xFF] else []

/-- Bytes as items of 8 bits. -/
def byteItems (l : List Byte) : List (Nat × Nat) := l.map (fun b => (b.toNat, 8))

/-- The items of a stream whose bytes so far are `data`, none of which is ever split, and the number of items up to each block's end. A block
is closed after every 16,384 bytes, and with `final` at the end of the stream, where the trailer follows from the next whole byte on. -/
def zipItems (wrap : Nat) (data : List Byte) (final : Bool) : List (Nat × Nat) × List Nat :=
  let full := data.length / 16384
  let block (k : Nat) (last : Bool) : List (Nat × Nat) :=
    let stop := Nat.min data.length (16384 * (k + 1))
    zipBlock ((data.take stop).map BitVec.toNat) (lzPass data stop 16384 (16384 * k)) last
  let r := (upTo full).foldl (fun (x : List (Nat × Nat) × List Nat) k =>
    let l := x.1 ++ block k false
    (l, x.2 ++ [l.length])) (byteItems (wrapBytes wrap), [])
  if !final then r
  else
    let l := r.1 ++ block full true
    let t := if wrap = 1 then beBytes 4 (adler32 data) else if wrap = 2 then leBytes 4 (crc32 data) ++ leBytes 4 data.length else []
    let bits := (joinItems l).2
    (l ++ (if alignUp bits = bits then [] else [(0, alignUp bits - bits)]) ++ byteItems t, r.2 ++ [l.length])

/-- How many of the first items fit into `room` bits. -/
def itemsFit (room : Nat) : List (Nat × Nat) → Nat
  | [] => 0
  | e :: l => if e.2 ≤ room then itemsFit (room - e.2) l + 1 else 0

end Sys2Proof.Machine
end

