-- ==== Sys2Proof/Machine/Zip.lean ====
section
/-!
DEFINITION. The zip engines: jobs, streams, stopping and resuming, classes, ingest's jobs (R451–R463, R467–R469, R612).
-/
namespace Sys2Proof.Machine

open Sys2Proof

/-- Engine `e`. -/
def State.zipEng (s : State) (e : Nat) : ZipEngine := KMap.get (fun _ => ZipEngine.reset) s.zip.engines e

/-- The state with engine `e` set. -/
def State.setZipEng (s : State) (e : Nat) (x : ZipEngine) : State :=
  { s with zip := { s.zip with engines := KMap.put (fun _ => ZipEngine.reset) s.zip.engines e x } }

/-- The stream whose private state lies in the buffer at `a` (R453). -/
def State.zipStream (s : State) (a : Nat) : Option ZipStream := KMap.get (fun _ => none) s.zip.streams a

/-- Byte `i` that an engine leaves in a state buffer: its own, a free value of the save `key`. -/
def zipByte (key i : Nat) : Byte := BitVec.ofNat 8 (Config.freeFun .zip [0, key, i])

/-- The engine writes its private state to the buffer at `a`, for the stream `x` or, with none, for a job that begins one (R453, R462). -/
def State.zipSave (s : State) (a : Nat) (x : Option ZipStream) : State :=
  let r := s.free .zip
  let s := r.2.wrBytes a ((upTo 65536).map (zipByte r.1))
  { s with zip := { s.zip with streams := KMap.put (fun _ => none) s.zip.streams a (x.map (fun x => { x with key := r.1 })) } }

/-- The stream of the buffer at `a` after a job: saved there where it can be resumed. -/
def State.setZipStream (s : State) (a : Nat) (x : Option ZipStream) : State :=
  if x.isSome then s.zipSave a x
  else { s with zip := { s.zip with streams := KMap.put (fun _ => none) s.zip.streams a none } }

/-! ## A job -/

/-- A job descriptor (R452), or what ingest submits for a COURSE_Z object (R81). -/
structure ZipDesc where
  deflate : Bool
  wrap : Nat
  final : Bool
  cont : Bool
  src : Nat
  srcLen : Nat
  dst : Nat
  dstLen : Nat
  state : Nat
  bad : Bool
deriving DecidableEq, Repr

/-- The descriptor at `a`; `bad` says that OP, WRAP or a reserved field of it is reserved, or STATE is 0 or misaligned (R455). -/
def State.zipDesc (s : State) (a : Nat) : ZipDesc :=
  let w := s.rd32 a
  let st := s.rdN (a + 0x20) 6
  { deflate := bitsOf w 0 2 == 1, wrap := bitsOf w 2 2, final := bitAt w 4, cont := bitAt w 5, src := s.rdN (a + 8) 6,
    srcLen := s.rd32 (a + 0x10), dstLen := s.rd32 (a + 0x14), dst := s.rdN (a + 0x18) 6, state := st,
    bad := decide (2 ≤ bitsOf w 0 2) || bitsOf w 2 2 == 3 || bitsOf w 6 26 != 0 || s.rd32 (a + 4) != 0 || s.rdN (a + 0xE) 2 != 0 ||
      s.rdN (a + 0x1E) 2 != 0 || s.rdN (a + 0x26) 2 != 0 || st == 0 || st % 64 != 0 }

/-- What a job works on. -/
def State.zipJobDesc (s : State) (j : ZipJob) : ZipDesc :=
  match j.entry with
  | none => s.zipDesc j.desc
  | some e =>
    { deflate := false, wrap := 1, final := true, cont := false, src := s.entryAddr e 0,
      srcLen := match s.ingObj e with
        | some o => o.objLen
        | none => 0,
      dst := s.entryAddr e 0x10, dstLen := s.rd32 (e + 0x28), state := 0, bad := false }

/-- The result of a job: CODE, bytes used and made, BITS, the rest of a match, the bytes written, CHECK, STREAM and the stream as it is
held for the next job. -/
structure ZipRes where
  code : Nat
  used : Nat
  made : Nat
  bits : Nat
  rem : Nat
  dist : Nat
  bytes : List Byte
  check : Nat
  total : Nat
  next : ZipStream
deriving DecidableEq, Repr

/-- CHECK of R452. -/
def zipCheck (wrap : Nat) (l : List Byte) : Nat := if wrap = 1 then adler32 l else crc32 l

/-- How many of the `n` bytes from `a` can be read before a poisoned line. -/
def State.readable (s : State) (a n : Nat) : Nat :=
  if n = 0 ∨ s.hostOff a ∨ s.hostOff (a + n - 1) then 0 else
  s.poison.foldl (fun m e => if e.2 ∧ a / 64 ≤ e.1 ∧ e.1 * 64 < a + n then Nat.min m (e.1 * 64 - a) else m) n

/-- The stream that a job without CONT begins. -/
def newStream (d : ZipDesc) : ZipStream :=
  { key := 0, deflate := d.deflate, wrap := d.wrap, bits := 0, nbits := 0, data := [], part := 0, outMade := 0, outFull := false, check := zipCheck d.wrap [] }

/-- An INFLATE job: the stream is decoded from its first bit, its input the bits of the earlier jobs and this one's (R456, R459). `lim`
is the output space, or the byte at which an abort stops it. -/
def State.runInflate (s : State) (d : ZipDesc) (st : ZipStream) (lim : Nat) : ZipRes :=
  let n := s.readable d.src d.srcLen
  let z := (ZIn.mk st.bits st.nbits).append (zIn (s.rdBytes d.src n)) st.part
  let r := inflate z d.wrap (st.outMade + lim) st.nbits (d.final || decide (n < d.srcLen))
  let code := if n < d.srcLen ∧ (r.code = 2 ∨ r.code = 10) then 12 else r.code
  let pos := r.pos - (st.nbits - st.part)
  let bytes := r.out.drop st.outMade
  { code := code, used := pos / 8, made := bytes.length, bits := pos % 8, rem := r.rem, dist := r.dist, bytes := bytes,
    check := zipCheck d.wrap r.out, total := r.out.length % 2 ^ 32,
    next := { st with bits := bitsOf z.v 0 r.pos, nbits := r.pos, part := pos % 8, outMade := r.out.length, outFull := code == 1, check := zipCheck d.wrap r.out } }

/-! ## DEFLATE (R457, R458) -/

/-- A DEFLATE job: it stops after the last whole item that fits. -/
def State.runDeflate (s : State) (d : ZipDesc) (st : ZipStream) (lim : Nat) : ZipRes :=
  let n := s.readable d.src d.srcLen
  let data := st.data ++ s.rdBytes d.src n
  let final := d.final && n == d.srcLen
  let c := zipItems d.wrap data final
  let base := st.nbits - st.part
  let fit := itemsFit (base + 8 * lim) c.1
  let whole := fit == c.1.length
  let all := joinItems c.1
  let stop := Nat.max st.nbits (joinItems (c.1.take fit)).2
  let absorbed := if whole then data.length
    else match c.2.findIdx? (fun e => decide (fit < e)) with
      | some k => Nat.max st.data.length (Nat.min data.length (16384 * (k + 1)))
      | none => data.length
  let code := if n < d.srcLen ∧ whole then 12 else if !whole then 1 else if final then 0 else 2
  let pos := (if code = 0 then alignUp stop else stop) - base
  let low := if st.outFull ∧ st.part ≠ 0 then (s.rdB d.dst).toNat % 2 ^ st.part else all.1 / 2 ^ base % 2 ^ st.part
  let v := bitsOf all.1 (base + st.part) (pos - st.part) * 2 ^ st.part + low
  let kept := data.take absorbed
  { code := code, used := absorbed - st.data.length, made := pos / 8, bits := pos % 8, rem := 0, dist := 0,
    bytes := leBytes (Nat.min (ceilDiv pos 8) d.dstLen) v, check := zipCheck d.wrap kept, total := kept.length % 2 ^ 32,
    next := { st with data := kept, nbits := stop, part := pos % 8, outMade := kept.length, outFull := code == 1, check := zipCheck d.wrap kept } }

/-- The result of a job whose code was decided at its start. -/
def earlyRes (code : Nat) (st : ZipStream) : ZipRes :=
  { code := code, used := 0, made := 0, bits := 0, rem := 0, dist := 0, bytes := [], check := st.check, total := st.outMade % 2 ^ 32, next := st }

/-- The job's result, and the state with the free value it took. With less than 512 bytes of output space the job may make none (R612). An
abort counts where the job had not ended by then (R463). -/
def State.zipResult (s : State) (j : ZipJob) (d : ZipDesc) : ZipRes × State :=
  let st := match d.cont, s.zipStream d.state with
    | true, some x => x
    | _, _ => newStream d
  match j.code with
  | some c => (earlyRes c st, s)
  | none =>
    let kl := s.free .zip
    let none' := decide (d.dstLen < 512) && kl.1 % 2 == 1
    let lim := if none' then 0 else match j.abort with
      | some m => Nat.min m d.dstLen
      | none => d.dstLen
    let r := if d.deflate then kl.2.runDeflate d st lim else kl.2.runInflate d st lim
    (if r.code = 1 ∧ lim < d.dstLen ∧ !none' then { r with code := 13, next := { r.next with outFull := true } } else r, kl.2)

/-! ## Starting -/

/-- The class of the job that waits in engine `e`'s own ring (R461), and of ingest's next one. -/
def State.zipRingCls (s : State) (e : Nat) : Option Nat :=
  let r := s.get F.ZIP_RING_RING e
  if s.flag F.ZIP_CTL_ENABLE e && s.flag F.ZIP_RING_EN e && s.unitCanTake r then some (s.ringClass r) else none
def State.zipIngCls (s : State) (e : Nat) : Option Nat :=
  if s.flag F.ZIP_CTL_ENABLE e && s.flag F.ZIP_CTL_INGEST e then (s.ingest.zWait.map (·.2)).min? else none

/-- Whether engine `e` takes ingest's next job rather than its ring's (R461); none where no job waits for it. An engine that holds a
suspended job takes class 0 only (R462). -/
def State.zipPick (s : State) (e : Nat) : Option (Bool × Nat) :=
  let ok (c : Option Nat) : Option Nat := match c with
    | some c => if (s.zipEng e).susp.isSome ∧ c ≠ 0 then none else some c
    | none => none
  match ok (s.zipRingCls e), ok (s.zipIngCls e) with
  | none, none => none
  | some a, none => some (false, a)
  | none, some b => some (true, b)
  | some a, some b => if a < b then some (false, a) else if b < a then some (true, b) else some (!(s.zipEng e).lastIngest, a)

/-- Engine `e` runs job `j`. -/
def State.zipStart (s : State) (e : Nat) (j : ZipJob) : State :=
  let x := s.zipEng e
  let s := s.setZipEng e { x with job := some j, lastIngest := j.entry.isSome }
  ((s.set F.ZIP_STAT_STATE 1 e).set F.ZIP_STAT_CLASS j.cls e).set F.ZIP_STAT_SRC (b2n j.entry.isSome) e

/-- Whether a job's buffers lie where a unit may reach (R402). -/
def State.zipIn (s : State) (d : ZipDesc) : Bool :=
  (d.srcLen == 0 || s.unitRange d.src d.srcLen) && (d.dstLen == 0 || s.unitRange d.dst d.dstLen) &&
    (d.state == 0 || s.unitRange d.state 65536)

/-- Whether software changed a stream's state buffer since its last job (R453). -/
def State.zipTouched (s : State) (d : ZipDesc) : Bool :=
  d.cont && match s.zipStream d.state with
    | some x => (upTo 65536).any (fun i => s.rdB (d.state + i) != zipByte x.key i)
    | none => false

/-- Whether a job names a hole of the map, or continues a stream whose buffer was changed (R601). -/
def State.zipHole (s : State) (j : ZipJob) : Bool :=
  (j.entry.isNone && !s.unitRange j.desc 128) || (j.code.isNone && (!s.zipIn (s.zipJobDesc j) || s.zipTouched (s.zipJobDesc j)))

/-- What such a job of engine `e` may disturb (R601): what it writes, and the ring's later jobs. -/
def State.zipReach (s : State) (e : Nat) (j : ZipJob) : Reach :=
  let d := s.zipJobDesc j
  let m (a : Nat) : Bool := inRange d.dst d.dstLen a || inRange d.state 65536 a || inRange (j.desc + 0x28) 24 a ||
    (s.flag F.ZIP_DONE_EN e && (s.ringReach (s.get F.ZIP_DONE_RING e) false).mem a)
  if j.entry.isSome then { mem := m } else s.jobReach (s.get F.ZIP_RING_RING e) m (fun _ => false)

/-- The result of such a job: its codes and counts are free. -/
def ZipRes.spoil (r : ZipRes) (x : Nat) : ZipRes :=
  { r with
    code := Config.freeFun .zip [3, x] % 14, used := Config.freeFun .zip [4, x] % 2 ^ 32, made := Config.freeFun .zip [5, x] % 2 ^ 32
    check := Config.freeFun .zip [6, x] % 2 ^ 32, total := Config.freeFun .zip [7, x] % 2 ^ 32 }

/-- The code that ends a ring job before it reads input: POISON for an unreadable descriptor or state, BAD_JOB (R455). -/
def State.zipEarly (s : State) (desc : Nat) (d : ZipDesc) : Option Nat :=
  if s.poisoned desc 128 then some 12
  else if d.bad then some 11
  else if !d.cont then none
  else if s.poisoned d.state 65536 then some 12
  else match s.zipStream d.state with
    | some x => if x.deflate = d.deflate ∧ x.wrap = d.wrap then none else some 11
    | none => some 11

/-- Engine `e`, idle, takes the job that R461 chooses, where it is a DEFLATE job of its ring exactly when `deflate` says so. -/
def State.zipTake (s : State) (e : Nat) (deflate : Bool) : Res := if s.clocksOff then .next s else
  if (s.zipEng e).job.isSome then .next s
  else match s.zipPick e with
    | none => .next s
    | some (true, c) =>
      if deflate then .next s
      else match s.ingest.zWait.find? (fun x => x.2 == c) with
        | none => .next s
        | some w =>
          let s := { s with ingest := { s.ingest with zWait := s.ingest.zWait.erase w } }
          let j : ZipJob := { desc := 0, entry := some w.1, tag := 0, cls := w.2, deflate := false, code := none, abort := none }
          .next (s.zipStart e j)
    | some (false, c) =>
      let r := s.get F.ZIP_RING_RING e
      let a := s.ringElem r (s.ringCI r)
      let desc := s.rdN a 6
      let d := s.zipDesc desc
      let early := s.zipEarly desc d
      if (early != some 12 && d.deflate) ≠ deflate then .next s
      else .next ((s.unitTaken r 1).zipStart e { desc := desc, entry := none, tag := s.rdN (a + 6) 2, cls := c, deflate := d.deflate, code := early, abort := none })

/-- R455, R461: an engine starts an INFLATE job, or one that ends before its operation matters. -/
def execZipInflate (e : Fin 4) (s : State) : Res := s.zipTake e.val false

/-- R457: an engine starts a DEFLATE job. -/
def execZipDeflate (e : Fin 4) (s : State) : Res := s.zipTake e.val true

/-! ## Ending -/

/-- STATE of an engine that runs no job. -/
def State.zipIdle (s : State) (e : Nat) : State := s.set F.ZIP_STAT_STATE (if s.flag F.ZIP_CTL_ENABLE e then 0 else 3) e

/-- R460: the running job of engine `e` ends. -/
def execZipJobEnd (e : Fin 4) (s : State) : Res := if s.clocksOff then .next s else
  let e := e.val
  match (s.zipEng e).job with
  | none => .next s
  | some j =>
    let d := s.zipJobDesc j
    let hole := s.zipHole j
    let reach := s.zipReach e j
    let rs := s.zipResult j d
    let r := if hole then rs.1.spoil rs.2.freeCtr else rs.1
    let s := (((rs.2.unitTouch d.src d.srcLen).wrBytes d.dst r.bytes)).unitTouch d.dst d.dstLen
    let s := if j.entry.isSome then s
      else s.setZipStream d.state (if r.code = 1 ∨ r.code = 2 ∨ r.code = 13 then some r.next else none)
    let at' : Attr := { req := some 18, cls := some j.cls }
    let s := ((s.inc64 R.ZIP_IN_LO r.used e).inc64 R.ZIP_OUT_LO r.made e).incWrap R.ZIP_JOBS 1 e
    let s := ((s.count (16 + e) 0x10 r.used at').count (16 + e) 0x11 r.made at').count (16 + e) 0x12 1 at'
    let bad := decide (3 ≤ r.code) && decide (r.code ≤ 12)
    let s := if bad then ((s.incSat R.ZIP_ERRS 1 e).set F.ZIP_LAST_ERR_CODE r.code e).set F.ZIP_LAST_ERR_TAG j.tag e else s
    let s := (s.setZipEng e { s.zipEng e with job := none }).zipIdle e
    let s := match j.entry with
      | some en =>
        match s.ingObj en with
        | some o =>
          let o := { o with outBytes := r.made }
          let s := if o.cls = 0 then s.incWrap R.ING_Z_BYTES r.made else s
          if r.code = 0 then s.objEnd en o 3 0 0 else if r.code = 1 then s.objEnd en o 4 21 0 else s.objEnd en o 4 20 r.code
        | none => s
      | none =>
        let dev := leBytes 4 r.used ++ leBytes 4 r.made ++ leBytes 4 (r.code + r.bits * 256) ++ leBytes 4 (r.rem + r.dist * 65536) ++
          leBytes 4 r.check ++ leBytes 4 r.total
        let s := s.wrBytes (j.desc + 0x28) dev
        let rec' := leBytes 2 j.tag ++ leBytes 1 r.code ++ leBytes 5 j.cls ++ leBytes 8 j.desc ++ leBytes 4 r.used ++ leBytes 4 r.made ++
          leBytes 4 r.check ++ leBytes 4 s.now
        if s.flag F.ZIP_DONE_EN e then (s.unitRecord (s.get F.ZIP_DONE_RING e) rec').2 else s
    let s := s.raiseIf (s.flag F.ZIP_EVMASK_DONE_EN e) (0xB8 + e)
    let s := s.raiseIf (bad && s.flag F.ZIP_EVMASK_ERR_EN e) 0xBC
    .next (if hole then s.unpredictable reach else s)

/-! ## Suspension and abort (R462, R463) -/

/-- Engines that may take some waiting class-0 job. -/
def State.zipFor0 (s : State) : List Nat := (upTo 4).filter (fun e => s.zipRingCls e == some 0 || s.zipIngCls e == some 0)

/-- R462: a class-0 job waits, no engine eligible for it is free, and engine `e` runs the job of the highest class 1–3 among them: it
suspends that job. -/
def execZipSuspend (e : Fin 4) (s : State) : Res := if s.clocksOff then .next s else
  let e := e.val
  let el := s.zipFor0
  let cls (k : Nat) : Nat := match (s.zipEng k).job with
    | some j => j.cls
    | none => 0
  match (s.zipEng e).job with
  | some j =>
    if el.contains e ∧ el.all (fun k => (s.zipEng k).job.isSome ∧ cls k ≤ j.cls) ∧ 1 ≤ j.cls ∧ (s.zipEng e).susp.isNone then
      let s := s.setZipEng e { s.zipEng e with job := none, susp := some j }
      let d := s.zipDesc j.desc
      let s := if j.entry.isNone ∧ j.code.isNone then s.zipSave d.state (if d.cont then s.zipStream d.state else none) else s
      .next (((s.set F.ZIP_STAT_STATE 2 e).incSat R.ZIP_SUSPEND 1 e).count (16 + e) 0x13 1 { req := some 18, cls := some j.cls })
    else .next s
  | none => .next s

/-- R462: a suspended job resumes when no class-0 job waits for its engine. -/
def execZipResume (e : Fin 4) (s : State) : Res := if s.clocksOff then .next s else
  let e := e.val
  match (s.zipEng e).job, (s.zipEng e).susp with
  | none, some j =>
    if s.zipPick e = none then
      let s := s.setZipEng e { s.zipEng e with job := some j, susp := none }
      .next (((s.set F.ZIP_STAT_STATE 1 e).set F.ZIP_STAT_CLASS j.cls e).set F.ZIP_STAT_SRC (b2n j.entry.isSome) e)
    else .next s
  | _, _ => .next s

/-- A write of ZIP_CTL: ENABLE and INGEST, and ABORT, which stops the running ring job once it has made `made` output bytes (R463). -/
def State.writeZipCtl (s : State) (e : Nat) (v : RegWord) (made : Nat) : State :=
  let s := (s.set F.ZIP_CTL_ENABLE (bitsOf v.toNat 0 1) e).set F.ZIP_CTL_INGEST (bitsOf v.toNat 2 1) e
  match (s.zipEng e).job with
  | none => if s.get F.ZIP_STAT_STATE e = 2 then s else s.zipIdle e
  | some j =>
    if bitAt v.toNat 1 ∧ j.entry.isNone ∧ j.abort.isNone then s.setZipEng e { s.zipEng e with job := some { j with abort := some made } }
    else s

/-- R463: ZIP_CTL.ABORT; `made` says how many output bytes the job has made at its stop. -/
def execZipAbort (who : Requester) (e : Fin 4) (v : RegWord) (made : Nat) (s : State) : Res :=
  s.ifWriteV who (R.ZIP_CTL.at e.val 0) v (fun s => .next (s.writeZipCtl e.val v made))

/-- A write of ZIP_RING or ZIP_DONE, checked where it sets EN (R469). -/
def State.writeZipRing (s : State) (e : Nat) (done : Bool) (v : RegWord) : State :=
  let reg := if done then R.ZIP_DONE else R.ZIP_RING
  if !bitAt v.toNat 13 then s.wr reg (bitsOf v.toNat 0 14) e
  else if s.ringFits (bitsOf v.toNat 0 13) (if done then 32 else 16) (!done) then
    (s.wr reg (bitsOf v.toNat 0 14) e).set F.ZIP_STAT_RESULT 0 e
  else s.set F.ZIP_STAT_RESULT 1 e

/-- R469: a write of ZIP_RING or ZIP_DONE. -/
def execZipRingEnable (who : Requester) (e : Fin 4) (done : Bool) (v : RegWord) (s : State) : Res :=
  s.ifWriteV who ((if done then R.ZIP_DONE else R.ZIP_RING).at e.val 0) v (fun s => .next (s.writeZipRing e.val done v))

end Sys2Proof.Machine
end

