-- ==== Sys2Proof/Machine/RegAccess.lean ====
section
/-!
DEFINITION. Reads and writes of the register window by any requester: the field types, the 64-bit pairs, the registers that do more when
written, and those that show something live when read (R4–R9, R576–R578).
-/
namespace Sys2Proof.Machine

open Sys2Proof

/-! ## Pairs (R7) -/

/-- The _LO registers of the 64-bit pairs: register, instances, elements. -/
def pairLos : List (Rg × Nat × Nat) := [
  (R.TIME_STK_NUM_LO, 1, 1), (R.TIME_STK_NEXT_LO, 1, 1), (R.ING_CLS_LO, 1, 4), (R.ING_DSC_PIX_LO, 1, 1), (R.ING_DSC_SLC_LO, 1, 1),
  (R.ING_SEQ_GAP_LO, 1, 1), (R.ING_OBJ_LO, 1, 1), (R.ING_PMC_LO, 1, 8), (R.NET_MAC_LO, 4, 1), (R.NET_RX_FRAMES_LO, 4, 1),
  (R.NET_TX_FRAMES_LO, 4, 1), (R.NET_MCAST_LO, 4, 32), (R.SHL_RAYS_LO, 4, 1), (R.SHL_SAMP_LO, 4, 1), (R.SHL_LATE_LO, 4, 1),
  (R.SHL_TERM_LO, 4, 1), (R.SHL_PMC_LO, 4, 1), (R.OAR_SAMP_LO, 4, 9), (R.OAR_BUNDLES_LO, 4, 9), (R.STR_TX_BRICKS_LO, 96, 1),
  (R.STR_PMC_LO, 96, 1), (R.TIME_NOW_LO, 1, 1), (R.TIME_SET_LO, 1, 1), (R.TIME_DOM_MASTER_LO, 1, 2), (R.TIME_CLKID_LO, 1, 1),
  (R.TIME_TC_LO, 1, 8), (R.MRT_TX_FRAMES_LO, 8, 1), (R.MRT_RX_FRAMES_LO, 8, 1), (R.MRT_TX_BYTES_LO, 8, 1), (R.MRT_RX_BYTES_LO, 8, 1),
  (R.MRT_PMC0_LO, 8, 1), (R.MRT_PMC1_LO, 8, 1), (R.COX_SWAP_LO, 16, 1), (R.COX_EXC_PC_LO, 16, 1), (R.COX_EXC_ADDR_LO, 16, 1),
  (R.COX_PMC_LO, 16, 1), (R.MBX_NOTICE_LO, 64, 1), (R.HOST_HWIN_LO, 1, 8), (R.HOST_PMC_LO, 1, 1), (R.RNG_SET_BASE_LO, 1, 1),
  (R.RNG_PMC_LO, 1, 1), (R.DRC_PAT_LO, 8, 1), (R.DRC_ECC_ADDR_LO, 8, 1), (R.DRC_RD_BYTES_LO, 8, 1), (R.DRC_WR_BYTES_LO, 8, 1),
  (R.DRC_PMC_LO, 8, 1), (R.TRW_CMDS_LO, 1, 1), (R.TRW_PIX_LO, 1, 1), (R.TRW_PMC_LO, 1, 1), (R.ZIP_IN_LO, 4, 1), (R.ZIP_OUT_LO, 4, 1),
  (R.ZIP_PMC_LO, 4, 1), (R.CAM_P_RAW_LO, 4, 1), (R.CAM_P_SOF_LO, 4, 1), (R.CAM_K_OUT_LO, 2, 1), (R.CAM_K_STATS_LO, 2, 1),
  (R.CAM_K_DEFECT_LO, 2, 1), (R.CAM_K_SHADE_LO, 2, 1), (R.CAM_K_TONE_LO, 2, 1), (R.CAM_K_PMC_LO, 2, 8), (R.CAM_K_PIX_LO, 2, 1),
  (R.PLB_LOAD_LO, 1, 1), (R.PLB_PMC_LO, 1, 1), (R.GLB_PMC_LO, 1, 1), (R.GLB_PFAIL_LO, 1, 1), (R.KLN_TRIP_LO, 1, 1), (R.KLN_PMC_LO, 1, 1),
  (R.TRU_VFY_LO, 1, 1), (R.TRU_OTP_ADDR_LO, 1, 1), (R.TRU_ATT_LO, 1, 1), (R.TRU_LMS_LO, 1, 1), (R.TRU_DBG_LO, 1, 1), (R.TRU_UID_LO, 1, 1),
  (R.TRU_PMC_LO, 1, 1), (R.LDG_MADDR_LO, 1, 1), (R.LDG_PMC_LO, 1, 1), (R.PERF_SNAP_TIME_LO, 1, 1), (R.PERF_SNAP_STROKE_LO, 1, 1),
  (R.PERF_DUMP_LO, 1, 1), (R.PERF_SH_LO, 1, 1), (R.PERF_TD_LO, 1, 1)]

/-- Whether `a` is the _LO register of a pair. -/
def isLo (a : Nat) : Bool := pairLos.any (fun e => rgHas e.1 e.2.1 e.2.2 a)

/-- Whether `a` is the _HI register of a pair. -/
def isHi (a : Nat) : Bool := decide (4 ≤ a) && isLo (a - 4)

/-- Element of an array register that `a` lies in. -/
def elemOf (r : Rg) (i a : Nat) : Nat := (a - r.at i 0) / Nat.max 1 r.estr

/-- Whether `a` is an element 0 … m − 1 of array register `r` of instance `i`. -/
def inArr (r : Rg) (i m a : Nat) : Bool :=
  decide (r.at i 0 ≤ a) && (a - r.at i 0) % Nat.max 1 r.estr == 0 && decide (elemOf r i a < m)

/-! ## Writes by block -/

/-- The counter whose _HI register lies at `a`. -/
def pmcHiIndex (a : Nat) : Option Nat := (List.range 176).find? (fun i => pmcLoAddr i + 4 == a)

/-- Counters whose pair their own chapters make read-only: PLUMB, LEDGER, TRUST, the trowel, zip and the camera pipes (R465, R468, R486, R507,
R555, R557). -/
def pmcReadOnly (i : Nat) : Bool :=
  (decide (2 ≤ i) && decide (i ≤ 4)) || i == 7 || (decide (16 ≤ i) && decide (i < 20)) || (decide (40 ≤ i) && decide (i < 56))

/-- A write of a counter's _HI register loads its 48 bits (R559). -/
def State.loadCounterPair (s : State) (who : Requester) (i : Nat) (hi : RegWord) : State :=
  if pmcReadOnly i then s else s.cyclesPass.setCtr i (s.held who (pmcLoAddr i) + 2 ^ 32 * (hi.toNat % 2 ^ 16))

/-- GLOBAL (R529–R531). -/
def State.wrGlobal (s : State) (who : Requester) (a : Nat) (v : RegWord) : Res :=
  if a = R.GLB_RST_CTL.at 0 0 then .next (s.writeRstCtl who v)
  else if a = R.GLB_SHOW.at 0 0 then .next (s.writeShow v)
  else if inArr R.GLB_GPIO_CFG 0 32 a then .next (s.claimGpio who (elemOf R.GLB_GPIO_CFG 0 a) v)
  else if a = R.GLB_GPIO_SET.at 0 0 then .next (s.wr R.GLB_GPIO_OUT (s.rd R.GLB_GPIO_OUT ||| v.toNat))
  else if a = R.GLB_GPIO_CLR.at 0 0 then .next (s.wr R.GLB_GPIO_OUT (s.rd R.GLB_GPIO_OUT &&& (2 ^ 32 - 1 - v.toNat)))
  else if a = R.GLB_I2C_CMD.at 0 0 then s.writeI2cCmd 0 v
  else if a = R.GLB_I2C_CMD.at 0 1 then s.writeI2cCmd 1 v
  else .next (s.typedWr a v)

/-- A changed PERIOD or OFFSET of an enabled trigger counts from now (R269). A ONCE that is given another stroke (`other`) has it to come
again; one whose instant has passed reports MISSED. -/
def State.trigChanged (s : State) (n : Nat) (other : Bool) : State :=
  if s.flag F.TIME_TT_CTL_EN 0 n then
    let s := s.setTrig n { s.trig n with changed := s.upNs, done := (s.trig n).done && !other }
    if s.get F.TIME_TT_CTL_ANCHOR 0 n = 3 ∧ !(s.trig n).done ∧ s.onceMissed n then s.missed n else s
  else s

/-- TIME (R52–R59, R276–R281). -/
def State.wrTime (s : State) (who : Requester) (a : Nat) (v : RegWord) : Res :=
  if a = R.TIME_STK_REQ.at 0 0 then .next (s.writeStkReq v)
  else if a = R.TIME_STK_NUM_HI.at 0 0 then .next (s.writeStkNum who v)
  else if a = R.TIME_CTL.at 0 0 then .next (s.writeTimeCtl v)
  else if a = R.TIME_PPS.at 0 0 then .next (s.writePps v)
  else if inArr R.TIME_TT_CTL 0 16 a then .next (s.claimTrigger who (elemOf R.TIME_TT_CTL 0 a) v)
  else if inArr R.TIME_TT_OFFSET 0 16 a then .next ((s.typedWr a v).trigChanged (elemOf R.TIME_TT_OFFSET 0 a) false)
  else if inArr R.TIME_TT_PERIOD 0 16 a then .next ((s.typedWr a v).trigChanged (elemOf R.TIME_TT_PERIOD 0 a) (s.rdReg a != v))
  else if inArr R.TIME_DOM_CTL 0 2 a then .next (s.enableDomain (elemOf R.TIME_DOM_CTL 0 a) v)
  else if inArr R.TIME_DOM_MPORT 0 2 a then .next (s.nameMaster (elemOf R.TIME_DOM_MPORT 0 a) v)
  else .next (s.typedWr a v)

/-- TRUST (R555): GO acts at the commit of its pair. -/
def State.wrTrust (s : State) (who : Requester) (a : Nat) (v : RegWord) : Res :=
  if a = R.TRU_VFY_HI.at 0 0 then .next (s.writeVfyHi who v)
  else if a = R.TRU_OTP_CMD.at 0 0 then s.writeOtpCmd v
  else if a = R.TRU_ATT_HI.at 0 0 then s.writeAttHi who v
  else if a = R.TRU_LMS_HI.at 0 0 then s.writeLmsHi who v
  else if a = R.TRU_LMS_LIMIT.at 0 0 then .next (s.writeLmsLimit v)
  else if a = R.TRU_DBG_HI.at 0 0 then s.writeDbgHi who v
  else .next (s.typedWr a v)

/-- A write of KLN_TH1: TRIP is at most 118 °C, RELEASE at most TRIP − 5 °C (R533). -/
def State.writeTh1 (s : State) (v : RegWord) : State :=
  let trip := Min.min (sgn 16 v.toNat) 0x7600
  let rel := Min.min (sgn 16 (v.toNat / 65536)) (trip - 0x500)
  (s.set F.KLN_TH1_TRIP (enc 16 trip)).set F.KLN_TH1_RELEASE (enc 16 rel)

/-- KILN (R533, R534). -/
def State.wrKiln (s : State) (a : Nat) (v : RegWord) : Res :=
  if a = R.KLN_TH1.at 0 0 then .next (s.writeTh1 v)
  else if a = R.KLN_SFAULT.at 0 0 then .next (s.typedWr a v).sensorStates
  else if a = R.KLN_FLASH_CFG.at 0 0 then .next (s.writeFlashCfg v)
  else .next (s.typedWr a v)

/-- A write of PLB_FID_RING or PLB_FID_DONE, checked where it sets EN; a refused write leaves EN and RING_OK at 0 (R508). -/
def State.writeFidRing (s : State) (done : Bool) (v : RegWord) : State :=
  let reg := if done then R.PLB_FID_DONE else R.PLB_FID_RING
  let other := if done then R.PLB_FID_RING else R.PLB_FID_DONE
  if !bitAt v.toNat 13 then (s.wr reg (bitsOf v.toNat 0 13)).set F.PLB_FID_STAT_RING_OK 0
  else if s.ringFits (bitsOf v.toNat 0 13) 32 (!done) then
    (s.wr reg (bitsOf v.toNat 0 14)).set F.PLB_FID_STAT_RING_OK (bitsOf (s.rd other) 13 1)
  else (s.wr reg (bitsOf v.toNat 0 13)).set F.PLB_FID_STAT_RING_OK 0

/-- PLUMB (R506–R508). -/
def State.wrPlumb (s : State) (who : Requester) (a : Nat) (v : RegWord) : Res :=
  if a = R.PLB_CTL.at 0 0 then .next (s.writePlbCtl v)
  else if a = R.PLB_RUN.at 0 0 then .next (s.writePlbRun v)
  else if a = R.PLB_LOAD_HI.at 0 0 then .next (s.writePlbLoad who v)
  else if a = R.PLB_FID_RING.at 0 0 then .next (s.writeFidRing false v)
  else if a = R.PLB_FID_DONE.at 0 0 then .next (s.writeFidRing true v)
  else .next (s.typedWr a v)

/-- MBOX (R385–R391). A write of MBX_CFG that names an agent code 19–30 is refused: it changes nothing (R373). -/
def State.wrMbox (s : State) (who : Requester) (n a : Nat) (v : RegWord) : Res :=
  if a = R.MBX_NOTICE_HI.at n 0 then .next (s.mboxPost who n v)
  else if a = R.MBX_CTL.at n 0 then .next (s.writeMbxCtl who n v)
  else if a = R.MBX_CFG.at n 0 ∧ (badAgent (bitsOf v.toNat 0 5) || badAgent (bitsOf v.toNat 5 5)) then .next s
  else .next (s.typedWr a v)

/-- NET (R90, R91): SPEED changed while the port is enabled is a host error (R601). -/
def State.wrNet (s : State) (who : Requester) (p a : Nat) (v : RegWord) : Res :=
  .next (if a = R.NET_CTL.at p 0 then
    (if s.netBusy p v then (s.netCtl p v).unpredictable (s.blockReach who .net) else s.netCtl p v) else s.typedWr a v)

/-- HOST (R395, R398). -/
def State.wrHost (s : State) (who : Requester) (a : Nat) (v : RegWord) : Res :=
  let w := v.toNat
  if a = R.HOST_DB.at 0 0 then s.doorbell who (bitAt w 13) (bitsOf w 0 13) (bitsOf w 16 16) else .next (s.typedWr a v)

/-- INGEST (R85): ING_UDP and ING_STEER changed while ENABLE is 1 are host errors: reception and forwarding are disturbed (R601). -/
def State.wrIngest (s : State) (a : Nat) (v : RegWord) : Res :=
  let t := s.typedWr a v
  if (a = R.ING_UDP.at 0 0 ∨ a = R.ING_STEER.at 0 0) ∧ s.flag F.ING_CTL_ENABLE ∧ t.rdReg a ≠ s.rdReg a then
    .next (t.unpredictable { out := fun o => o.block == .mortar, unit := some .ingest })
  else .next t

/-- How far a unit's work has come when a plain register write aborts it: no rule gives it. -/
def State.workDone (s : State) (unit : Nat) : Nat := Config.freeFun .order [50, unit, s.upNs, s.freeCtr]

/-- ZIP (R467–R469). -/
def State.wrZip (s : State) (e a : Nat) (v : RegWord) : Res :=
  if a = R.ZIP_CTL.at e 0 then .next (s.writeZipCtl e v (s.workDone e))
  else if a = R.ZIP_RING.at e 0 then .next (s.writeZipRing e false v)
  else if a = R.ZIP_DONE.at e 0 then .next (s.writeZipRing e true v)
  else .next (s.typedWr a v)

/-- TROWEL (R464–R466). -/
def State.wrTrowel (s : State) (a : Nat) (v : RegWord) : Res :=
  if a = R.TRW_CTL.at 0 0 then .next (s.writeTrwCtl v (s.workDone 8))
  else if a = R.TRW_RING.at 0 0 then .next (s.writeTrwRing false v)
  else if a = R.TRW_DONE.at 0 0 then .next (s.writeTrwRing true v)
  else .next (s.typedWr a v)

/-- COX (R341–R344). -/
def State.wrCox (s : State) (who : Requester) (n a : Nat) (v : RegWord) : Res :=
  if a = R.COX_CTL.at n 0 then .next (s.writeCoxCtl n v)
  else if a = R.COX_SWAP_HI.at n 0 then .next (s.writeCoxSwap who n v)
  else .next (s.typedWr a v)

/-- SHELL and OAR (R139–R146). -/
def State.wrShell (s : State) (k a : Nat) (v : RegWord) : Res :=
  if a = R.SHL_CMD.at k 0 then s.writeShlCmd k v else .next (s.typedWr a v)

def State.wrOar (s : State) (a : Nat) (v : RegWord) : Res :=
  let k := (a - 0x40200000) / 0x10000
  let m := a % 0x10000 / 0x1000 - 1
  if a = R.OAR_CTL.at k m then .next (s.writeOarCtl k m v) else .next (s.typedWr a v)

/-- CAM: ports (R485, R487) and pipes. -/
def State.wrCam (s : State) (a : Nat) (v : RegWord) : Res :=
  if a < 0x40300100 then
    let p := (a - 0x40300000) / 0x40
    if a = R.CAM_P_CTL.at p 0 then .next (s.writeCamCtl p v)
    else if a = R.CAM_P_SETSEQ.at p 0 then .next (s.writeSetseq p v)
    else .next (s.typedWr a v)
  else
    let k := (a - 0x40300100) / 0x180
    if a = R.CAM_K_CTL.at k 0 then .next (s.writeCamPipe k v (s.workDone (16 + k)))
    else if a = R.CAM_K_OUT_RING.at k 0 then .next (s.writeCamRing k v)
    else if a = R.CAM_K_APPLY.at k 0 then .next (s.writeCamApply k v)
    else .next (s.typedWr a v)

/-- RING (R382, R383, R401): from M only RNG_EV_RAISE and RNG_CEN_ATTN take effect. -/
def State.wrRing (s : State) (who : Requester) (a : Nat) (v : RegWord) : Res :=
  if a = R.RNG_EV_RAISE.at 0 0 then .next (s.softRaise v)
  else if inArr R.RNG_CEN_ATTN 0 3 a then .next (s.typedWr a v)
  else if !s.ringWriter who then .next s
  else if a = R.RNG_CMD.at 0 0 then .next (s.ringCommand (bitsOf v.toNat 13 3) (bitsOf v.toNat 0 13))
  else .next (s.typedWr a v)

/-- DRAMC (R427–R430). DRC_PANIC_WM exists in channel 0 only. -/
def State.wrDramc (s : State) (c a : Nat) (v : RegWord) : State :=
  if a = R.DRC_CTL.at c 0 then s.writeDrcCtl c v
  else if a = R.DRC_CFG.at c 0 then s.timingWrite c (s.typedWr a v)
  else if a = R.DRC_TRAIN_CTL.at c 0 then s.writeTrainCtl c v
  else if a = R.DRC_SWEEP.at c 0 then s.writeSweep c v
  else if a = R.DRC_CMP_SEL.at c 0 then (s.typedWr a v).drcShow c
  else if a = R.DRC_DLY_VAL.at c 0 then s.wrDly c v.toNat
  else if a = R.DRC_VREF.at c 0 then s.wrTim c 4 (v.toNat % 128)
  else if inArr R.DRC_TIM c 4 a then s.wrTim c (elemOf R.DRC_TIM c a) v.toNat
  else if a = R.DRC_MR.at c 0 then s.writeMr c v
  else if a = R.DRC_RETIRE.at c 0 then s.writeRetire c v
  else if a = R.DRC_PANIC_WM.at c 0 then (if c ≠ 0 then s else (s.typedWr a v).panicMarks)
  else s.typedWr a v

/-- STRAND (R209–R213). -/
def State.wrStrand (s : State) (k a : Nat) (v : RegWord) : Res :=
  if a = R.STR_CTL.at k 0 then .next (s.writeStrCtl k v)
  else if a = R.STR_RANGE.at k 0 then .next (s.writeStrRange k v)
  else if a = R.STR_PINTEST.at k 0 then .next (s.writePinTest k v)
  else if a = R.STR_DIAG.at k 0 then .next (s.writeStrDiag k v)
  else .next (s.typedWr a v)

/-- MORTAR (R303–R305): MODE, PRECODE and MRT_TXEQ changed while the link is enabled are host errors. -/
def State.wrMortar (s : State) (m a : Nat) (v : RegWord) : Res :=
  .next (if a = R.MRT_CTL.at m 0 then s.wrMrtCtl m v
    else if a = R.MRT_DIAG.at m 0 then s.writeMrtDiag m v
    else
      let t := s.typedWr a v
      if a = R.MRT_TXEQ.at m 0 ∧ s.flag F.MRT_CTL_ENABLE m ∧ t.rdReg a ≠ s.rdReg a then t.linkDisturbed m else t)

/-- LEDGER and PERF (R556, R573, R574). -/
def State.wrLedger (s : State) (a : Nat) (v : RegWord) : Res := if a = R.LDG_CMD.at 0 0 then s.writeLdgCmd v else .next (s.typedWr a v)
def State.wrPerf (s : State) (who : Requester) (a : Nat) (v : RegWord) : Res :=
  .next (if a = R.PERF_CTL.at 0 0 then s.writePerfCtl who v else s.typedWr a v)

/-- The write of a register that its requester may write, by its block. -/
def State.wrBlock (s : State) (who : Requester) (h : RegHit) (a : Nat) (v : RegWord) : Res :=
  match h.block with
  | .global => s.wrGlobal who a v
  | .time => s.wrTime who a v
  | .trust => s.wrTrust who a v
  | .kiln => s.wrKiln a v
  | .plumb => s.wrPlumb who a v
  | .mbox => s.wrMbox who h.inst a v
  | .perf => s.wrPerf who a v
  | .ledger => s.wrLedger a v
  | .net => s.wrNet who h.inst a v
  | .host => s.wrHost who a v
  | .ingest => s.wrIngest a v
  | .zip => s.wrZip h.inst a v
  | .trowel => s.wrTrowel a v
  | .cox => s.wrCox who h.inst a v
  | .shell => s.wrShell h.inst a v
  | .oar => s.wrOar a v
  | .cam => s.wrCam a v
  | .ring => s.wrRing who a v
  | .dramc => .next (s.wrDramc h.inst a v)
  | .strand => s.wrStrand h.inst a v
  | .mortar => s.wrMortar h.inst a v

/-- Registers whose write of _HI does more than commit the pair; the commit is part of what it does. -/
def hiActs : List Nat :=
  [R.TIME_STK_NUM_HI.at 0 0, R.TRU_VFY_HI.at 0 0, R.TRU_ATT_HI.at 0 0, R.TRU_LMS_HI.at 0 0, R.TRU_DBG_HI.at 0 0, R.PLB_LOAD_HI.at 0 0]

/-- Whether the _HI register at `a` is one of them. -/
def hiActsAt (h : RegHit) (a : Nat) : Bool :=
  hiActs.contains a || (h.block == .mbox && h.word == 4) || (h.block == .cox && h.word == 0x1C)

/-- The write of a register that its requester may write: pairs (R7), counters (R559, R564), the rest by block. -/
def State.wrAllowed (s : State) (who : Requester) (h : RegHit) (a : Nat) (v : RegWord) : Res :=
  if h.block == .ring && !s.ringWriter who && (isLo a || isHi a || (pmcIndexOf a).isSome) then .next s
  else if isLo a then .next (s.hold who a v.toNat)
  else if isHi a && !hiActsAt h a then
    match pmcHiIndex a with
    | some i => .next (s.loadCounterPair who i v)
    | none => .next (s.commitPair who (a - 4) v)
  else
    match pmcIndexOf a with
    | some i => .next (s.writePmcCfg i v)
    | none => s.wrBlock who h a v

/-- A register access that is not an aligned word: ALIGN on a core (R359); otherwise a host error, whose result is unpredictable (R601). -/
def State.misaligned (s : State) (who : Requester) (a : Nat) (write : Bool) : State :=
  match who with
  | .core n => s.takeException n.val causeAlign (s.core n.val).pc (BitVec.ofNat 64 a)
  | _ => if write then s.wrongWrite who a else s.wrongRead

/-- An access outside every block reads 0 and ignores writes (R9); a core at M or U may not make it (R309). -/
def State.outside (s : State) (who : Requester) (a : Nat) : State :=
  match who with
  | .core n => if (s.core n.val).priv = .w then s else s.refuseAccess who a
  | _ => s

/-- A write of `v` by `who` to address `a` of the register window (R4, R5, R576–R578). -/
def State.regWrite (s : State) (who : Requester) (a : Nat) (v : RegWord) : Res :=
  if a % 4 ≠ 0 then .next (s.misaligned who a true)
  else
    match decodeReg a with
    | none => .next (s.outside who a)
    | some h =>
      if !s.regAllowed who h.block h.inst h.word true then .next (s.refuseAccess who a)
      else if h.row.isNone then .next s
      else if rsvdWritten a v then .next (s.reservedCode who a)
      else s.wrAllowed who h a v

/-! ## Reads -/

/-- Seconds since a domain was last LOCKED, saturating (R281). -/
def State.awaySeconds (s : State) : Nat :=
  if s.domState 0 = domLocked ∨ s.domState 1 = domLocked then 0 else Nat.min ((s.upNs - s.time.lockedAt) / 1000000000) (2 ^ 24 - 1)

/-- The registers that show something live take it before they are read. -/
def State.refresh (s : State) (h : RegHit) (a : Nat) : State :=
  if a = R.TIME_NOW_LO.at 0 0 ∨ a = R.TIME_NOW_HI.at 0 0 then s.wr64 R.TIME_NOW_LO s.now
  else if a = R.TIME_FREQ.at 0 0 then s.wr R.TIME_FREQ (enc 32 (s.time.rate * 1024 / 1000000))
  else if a = R.TIME_DIFF.at 0 0 then s.wr R.TIME_DIFF (enc 32 (satS 32 s.clkDiff))
  else if a = R.TIME_GM_STAT.at 0 0 then s.set F.TIME_GM_STAT_AWAY_S s.awaySeconds
  else if a = R.GLB_UPTIME_S.at 0 0 then s.wr R.GLB_UPTIME_S (Nat.min (s.upNs / 1000000000) (2 ^ 32 - 1))
  else if a = R.GLB_WR_GATE.at 0 0 then s.gateShow
  else if a = R.PLB_READY.at 0 0 then s.interimSwap s.now
  else if a = R.LDG_STAT.at 0 0 then s.ldgResume
  else if a = R.MRT_STAT.at h.inst 0 then s.berSettle h.inst
  else if a = R.KLN_PMON_VAL.at 0 0 then
    s.set F.KLN_PMON_VAL_MW (KMap.get (fun _ => 0) s.board.pmon (s.get F.KLN_PMON_SEL_SEL))
  else if a = R.TRU_RB_VAL.at 0 0 then s.set F.TRU_RB_VAL_VAL (s.rbCounter (s.get F.TRU_RB_SEL_SEL))
  else if h.block == .cox && h.word == 4 then s.coxShow h.inst
  else if h.block == .dramc then
    let c := h.inst
    if inArr R.DRC_TIM c 4 a then s.wr R.DRC_TIM (s.rdTim c (elemOf R.DRC_TIM c a)) c (elemOf R.DRC_TIM c a)
    else if a = R.DRC_VREF.at c 0 then s.wr R.DRC_VREF (s.rdTim c 4) c
    else if a = R.DRC_DLY_VAL.at c 0 then s.set F.DRC_DLY_VAL_DELAY (s.rdDly c) c
    else if a = R.DRC_MIG_POS.at c 0 then (if s.drcState c = drcMigrating then s.wr R.DRC_MIG_POS (s.migBytes c / 2 ^ 20) c else s)
    else if a = R.DRC_POISON_CNT.at c 0 then
      (if s.drcState c = drcMigrating then s.wr R.DRC_POISON_CNT (Nat.min (s.migPoison c (s.migBytes c)) 0xFFFFFFFF) c else s)
    else if a = R.DRC_LTR_MIN.at c 0 then (s.set F.DRC_LTR_MIN_TOL_NS s.ltrMin.1 c).set F.DRC_LTR_MIN_SRC s.ltrMin.2 c
    else s
  else s

/-- The top-down counter that PERF_TD_SEL names (R571). -/
def State.tdSelected (s : State) : Nat := s.ctr (176 + 4 * s.get F.PERF_TD_SEL_CORE + s.get F.PERF_TD_SEL_T)

/-- A read of a _LO register returns it and latches the _HI half for the requester (R7). -/
def State.readLo (s : State) (who : Requester) (a : Nat) : State :=
  let s := if a = R.PERF_TD_LO.at 0 0 then s.wr64 R.PERF_TD_LO s.tdSelected else if (pmcHiIndex (a + 4)).isSome then s.cyclesPass else s
  { s with
    readData := typedRead (fieldsAt a) (s.rdReg a).toNat
    latches := KMap.put (fun _ => 0) s.latches (pairKey who a) (2 ^ 32 + typedRead (fieldsAt (a + 4)) (s.rdReg (a + 4)).toNat) }

/-- A read of a _HI register returns the half that the requester latched, else the live one (R7). -/
def State.readHi (s : State) (who : Requester) (h : RegHit) (a : Nat) : State :=
  if h.block == .mbox then s.mboxTake who h.inst
  else if inArr R.TIME_TC_HI 0 8 a then s.readCapture who (elemOf R.TIME_TC_HI 0 a)
  else
    let s := if a = R.PERF_TD_HI.at 0 0 then s.wr64 R.PERF_TD_LO s.tdSelected
      else if a = R.PERF_SH_HI.at 0 0 then s.wr64 R.PERF_SH_LO s.shadowSelected
      else s
    let l := KMap.get (fun _ => 0) s.latches (pairKey who (a - 4))
    { s with readData := if l = 0 then typedRead (fieldsAt a) (s.rdReg a).toNat else l - 2 ^ 32 }

/-- A read of another register by its field types; RC fields are left with what the hardware adds in the same cycle (R5, R6). -/
def State.readPlain (s : State) (a added : Nat) : State :=
  let x := (s.rdReg a).toNat
  { s.wrReg a (BitVec.ofNat 32 (typedClear (fieldsAt a) x added)) with readData := typedRead (fieldsAt a) x }

/-- The read of a register that its requester may read. -/
def State.rdAllowed (s : State) (who : Requester) (h : RegHit) (a added : Nat) : State :=
  if a = R.PERF_SH_LO.at 0 0 then s.shadowRead who
  else
    let s := s.refresh h a
    if isLo a then s.readLo who a else if isHi a then s.readHi who h a else s.readPlain a added

/-- A read by `who` of address `a` of the register window; `added` is what hardware adds to RC fields in the same cycle (R4–R9, R578).
The data is in `readData`. -/
def State.regRead (s : State) (who : Requester) (a added : Nat) : Res :=
  if a % 4 ≠ 0 then .next (s.misaligned who a false)
  else
    match decodeReg a with
    | none => .next ({ s with readData := 0 }.outside who a)
    | some h =>
      if !s.regAllowed who h.block h.inst h.word false then .next ({ s with readData := 0 }.refuseAccess who a)
      else if h.row.isNone then .next { s with readData := 0 }
      else .next (s.rdAllowed who h a added)

/-! ## The commands -/

/-- R5: a register is written; by the host or the debug port, also a word of memory or of the MSI-X table (R393, R551). -/
def execRegisterWrite (who : Requester) (addr : Nat) (v : RegWord) (s : State) : Res :=
  if onBus who addr then .next (s.busWrite who addr v) else s.regWrite who addr v

/-- R6: a register is read; by the host or the debug port, also a word of memory or of the MSI-X structures. -/
def execReadClear (who : Requester) (addr : Nat) (added : RegWord) (s : State) : Res :=
  if onBus who addr then .next (s.busRead who addr) else s.regRead who addr added.toNat

/-- R7: a _LO register is read. -/
def execPairLoRead (who : Requester) (addr : Nat) (s : State) : Res := s.regRead who addr 0

/-- R7: a _LO register is written. -/
def execPairLoWrite (who : Requester) (addr : Nat) (v : RegWord) (s : State) : Res := s.regWrite who addr v

/-- R7: a _HI register is written. -/
def execPairHiWrite (who : Requester) (addr : Nat) (v : RegWord) (s : State) : Res := s.regWrite who addr v

end Sys2Proof.Machine
end

