-- ==== Sys2Proof/Machine/Operands.lean ====
section
/-!
DEFINITION. How a cox core runs an instruction: operands and guard, the windows (R309–R312), the caches
(R314), the order of the exceptions (R327), the budget (R323–R325), pairing and cost (R371, R372).
-/
namespace Sys2Proof.Machine

open Sys2Proof

/-! ## Instructions -/

/-- What R345–R372 say of an instruction before it runs. Registers are 0–31 and predicates 32–39 in `reads` and `writes`. -/
structure Op where
  word : Nat
  /-- The encoding raises ILLEGAL (R347). -/
  illegal : Bool := false
  /-- U may not execute it (R370). -/
  uBad : Bool := false
  reads : List Nat := []
  writes : List Nat := []
  /-- It accesses memory, is in the multiply group, never pairs, transfers control (R371). -/
  mem : Bool := false
  mul : Bool := false
  alone : Bool := false
  ctl : Bool := false

/-- A register or predicate that a write reaches: g0 and p0 discard theirs (R348). -/
def live (l : List Nat) : List Nat := l.filter (fun r => r != 0 && r != 32)

/-! ## Guard and watchpoints -/

/-- Whether a guard holds: pk XOR GUARD[3] (R346). -/
def Core.guard (c : Core) (gu : Guard) : Bool := c.getP (gu.val % 8) != bitAt gu.val 3

/-- Whether a watchpoint of mode bit `m` (60 load, 61 store, 62 execute) covers the granule of `a` (R329). -/
def Core.watched (c : Core) (m a : Nat) : Bool :=
  [c.watch0, c.watch1].any (fun w => bitAt w.toNat m && bitsOf w.toNat 3 45 == bitsOf a 3 45)

/-! ## Windows (R310–R312) -/

/-- Window `k` of core `n` covers `a`. -/
def State.winCovers (s : State) (n k a : Nat) : Bool :=
  let sz := s.get F.COX_WIN_CFG_SIZE n k
  s.flag F.COX_WIN_CFG_EN n k && decide (16 ≤ sz) && decide (sz ≤ 38) && s.get F.COX_WIN_BASE_BASE n k * 2 ^ 16 / 2 ^ sz == a / 2 ^ sz

/-- Some window that core `n` may use at its privilege covers `a` with the grant `f`; on cores 0–3 the grants are ignored (R310). -/
def State.winGrants (s : State) (n : Nat) (f : Fld) (a : Nat) : Bool :=
  decide (4 ≤ n) && (upTo 8).any (fun k => s.winCovers n k a && s.flag f n k &&
    ((s.core n).priv != .u || (s.flag F.COX_WIN_CFG_U n k && bitAt (s.core n).umask k)))

/-- An address is cacheable: a window with C covers it, and it is neither local store nor the register window (R314). -/
def State.cacheable (s : State) (n a : Nat) : Bool :=
  (match s.region a with
    | .localStore _ => false
    | .regs => false
    | _ => true) &&
  (upTo 8).any (fun k => s.winCovers n k a && s.flag F.COX_WIN_CFG_C n k)

/-- Whether core `n` may load from `a`, or store to it with `f` the grant of W: the register window apart, R309–R312 and R402–R405. `a` is
after the alias, `raw` before it. -/
def State.mayAccess (s : State) (n : Nat) (f : Fld) (raw a : Nat) : Bool :=
  let w := (s.core n).priv == .w
  let win := w || s.winGrants n f raw || s.winGrants n f a
  match s.region a with
  | .hole => false
  | .regs => false
  | .localStore m => w || (m == n && ((s.core n).priv == .m || win))
  | .bootRom => w
  | .otp => w
  | .ledger => win
  | .host => win && !s.hostOff a
  | .dram => win
  | .yard => win && (match swAccess a with
    | .none => false
    | .warden => w
    | _ => true)

/-- Whether core `n` may fetch from `a`: its own local store, the windows with X on an owner core, the boot ROM on cores 0–3 (R310,
R312). -/
def State.mayFetch (s : State) (n a : Nat) : Bool :=
  let p := coreAddr n a
  match s.region p with
  | .localStore m => m == n
  | .bootRom => decide (n < 4)
  | .yard => decide (4 ≤ n) && (s.winGrants n F.COX_WIN_CFG_X a) && swAccess p != .none && swAccess p != .warden
  | .dram => decide (4 ≤ n) && s.winGrants n F.COX_WIN_CFG_X a
  | .host => decide (4 ≤ n) && s.winGrants n F.COX_WIN_CFG_X a && !s.hostOff p
  | .ledger => decide (4 ≤ n) && s.winGrants n F.COX_WIN_CFG_X a
  | _ => false

/-- Whether core `n` may reach the register at `a` (R309, R311, R578). -/
def State.mayReg (s : State) (n : Fin 16) (a : Nat) (write : Bool) : Bool :=
  match decodeReg a with
  | none => (s.core n.val).priv == .w
  | some h => s.regAllowed (.core n) h.block h.inst h.word write

/-! ## Caches (R314) -/

/-- The bytes of a line of memory as core `n` sees them: it sees its own write-backs at once (R315, R316). -/
def State.ownLine (s : State) (n line : Nat) : List Byte :=
  match (s.core n).flushed.find? (fun e => e.1 == line) with
  | some (_, l) => l
  | none => s.rdBytes (64 * line) 64

/-- A line is put into core `n`'s data cache, which holds four of each of 64 sets; which of four full ways leaves is free. -/
def State.lineFill (s : State) (n line : Nat) : State :=
  let inSet := ((s.core n).dcache.map (·.1)).filter (fun l => l % 64 == line % 64)
  let s := if inSet.length < 4 then s
    else
      let (x, s) := s.free .victim
      let v := inSet.getD (x % inSet.length) 0
      (s.lineBack n v).lineDrop n v
  let s := (s.memReq n (64 * line) 64 false).count (20 + n) 0x13 1 (s.coxAttr n (some (64 * line)))
  s.setCore n { s.core n with
    dcache := KMap.put (fun _ => { bytes := [], dirty := false }) (s.core n).dcache line { bytes := s.ownLine n line, dirty := false } }

/-- Whether core `n`'s data cache holds a line. -/
def State.lineIn (s : State) (n line : Nat) : Bool := (s.core n).dcache.any (fun e => e.1 == line)

/-- The line in the cache, filled where it is absent. -/
def State.lineGet (s : State) (n line : Nat) : State := if s.lineIn n line then s else s.lineFill n line

/-- The bytes of a line of core `n`'s data cache. -/
def State.lineBytes (s : State) (n line : Nat) : List Byte :=
  (KMap.get (fun _ => { bytes := [], dirty := false }) (s.core n).dcache line).bytes

/-- Bytes put into a line of core `n`'s data cache, which becomes dirty. -/
def State.linePut (s : State) (n a : Nat) (l : List Byte) : State :=
  let old := s.lineBytes n (a / 64)
  let new := old.take (a % 64) ++ l ++ old.drop (a % 64 + l.length)
  s.setCore n { s.core n with dcache := KMap.put (fun _ => { bytes := [], dirty := false }) (s.core n).dcache (a / 64) { bytes := new, dirty := true } }

/-- The core with a line in its instruction cache, which holds four of each of 128 sets; `x` chooses which of four full ways leaves. -/
def Core.icacheAdd (c : Core) (line x : Nat) : Core :=
  let inSet := c.icache.filter (fun l => l % 128 == line % 128)
  { c with icache := line :: (if inSet.length < 4 then c.icache else c.icache.filter (· != inSet.getD (x % 4) 0)) }

/-- A miss of core `n`'s instruction cache: the line is filled; the miss and its read request are counted (R562, R563). -/
def State.icacheFill (s : State) (n p : Nat) : State :=
  let x := (s.free .victim).1
  let s := (s.free .victim).2
  ((s.setCore n ((s.core n).icacheAdd (p / 64) x)).count (20 + n) 0x12 1 (s.coxAttr n (some p))).count (20 + n) 0x03 1 (s.coxAttr n (some p))

/-- The fetch of an instruction at `a`: a miss of the instruction cache and a fetch from elsewhere than local store cost cycles that R314
gives only typically; the lost slots are front-starved. -/
def State.fetch (s : State) (n a : Nat) : State :=
  let p := coreAddr n a
  let lat := Config.freeFun .latency [n, p / 64, (s.core n).cyc]
  match s.region p with
  | .localStore _ => s
  | _ =>
    if !s.cacheable n p then (s.count (20 + n) 0x03 1 (s.coxAttr n (some p))).spend n lat 0 0 (2 * lat)
    else if (s.core n).icache.contains (p / 64) then s
    else (s.icacheFill n p).spend n lat 0 0 (2 * lat)

/-! ## Budget (R323–R325) -/

/-- Whether a budget that has been reached acts at this boundary: with BUDGET_HALT the core halts; else BUDGET waits for INEXC 0. -/
def State.budgetActs (s : State) (n : Nat) : Bool :=
  ((s.core n).budgetDue || s.budgetNew n) && (s.flag F.COX_CTL_BUDGET_HALT n || !(s.core n).inexc)

/-- The core halts, or takes BUDGET with cc.EPC at the next instruction and cc.TVAL the count. -/
def State.budgetTake (s : State) (n : Nat) : State :=
  let s := s.setCore n { s.core n with budgetDue := false }
  if s.flag F.COX_CTL_BUDGET_HALT n then s.coxHalt n
  else s.takeException n causeBudget (s.core n).pc (BitVec.ofNat 64 (s.core n).bcount)

/-! ## Pairing and cost (R371, R372) -/

/-- Cycle from which core register or predicate `r` may be read. -/
def Core.readyAt (c : Core) (r : Nat) : Nat := KMap.get (fun _ => 0) c.ready r

/-- Key of the cycle from which a MAC may add to `gd` where a MAC wrote it last: back to back, 1 cycle (R372). -/
def macKey (d : Nat) : Nat := 64 + d

/-- Cycles for which an instruction that reads `rs` waits for its operands. -/
def Core.stall (c : Core) (rs : List Nat) : Nat := rs.foldl (fun m r => Nat.max m (c.readyAt r - c.cyc)) 0

/-- The loads that have not returned by the core's cycle (R360). -/
def Core.returned (c : Core) : Core := { c with loads := c.loads.filter (fun e => decide (c.cyc < e.2)) }

/-- Core `n` waits until registers and predicates `rs` may be read; the loads into them have then returned (R360). -/
def State.waitFor (s : State) (n : Nat) (rs : List Nat) : State :=
  let wait := (s.core n).stall rs
  if wait = 0 then s
  else
    let s := s.spend n wait 0 0 0
    s.setCore n (s.core n).returned

/-- Whether an instruction that waits for `rs` issues in the second slot of the cycle before (R371). -/
def Core.pairs (c : Core) (o : Op) (rs : List Nat) : Bool :=
  match c.pair with
  | none => false
  | some p => !o.alone && !(p.mem && o.mem) && !(p.mul && o.mul) && !(rs ++ o.reads).any (fun r => p.writes.contains r) &&
      !(live o.writes).any (fun r => p.writes.contains r) && rs.all (fun r => decide (c.readyAt r < c.cyc))

/-- An instruction of `occ` cycles takes its slot: in the open one of the cycle before, or in a new cycle. `good` says that it retires;
otherwise its slot is wasted. -/
def State.takeSlot (s : State) (n : Nat) (o : Op) (rs : List Nat) (occ : Nat) (good : Bool) : State :=
  let c := s.core n
  let t := if good then 0 else 1
  let front := if o.ctl then 2 * (occ - 1) else 0
  if c.pairs o rs then
    let s := ((s.setCore n { c with pair := none }).slots n t 1).count (20 + n) 0x11 1 (s.coxAttr n)
    if occ ≤ 1 then s else s.spend n (occ - 1) 0 0 front
  else if o.alone || o.ctl || decide (1 < occ) then s.spend n occ (b2n good) (1 - b2n good) front
  else
    let s := (s.settle n).slots n t 1
    let c := s.core n
    s.setCore n { c with bcount := c.bcount + 1, cyc := c.cyc + 1, pair := some { writes := live o.writes, mem := o.mem, mul := o.mul } }

/-- Results ready `lat` cycles after the issue of an instruction of `occ` cycles. -/
def Core.setReady (c : Core) (ws : List Nat) (occ lat : Nat) : Core :=
  { c with ready := ws.foldl (fun m r => KMap.put (fun _ => 0) (KMap.del m (macKey r)) r (c.cyc - occ + lat)) c.ready }

/-- What an instruction waits for: its guard's predicate and the registers it reads. -/
def Op.waits (o : Op) (gu : Guard) : List Nat := live ((32 + gu.val % 8) :: o.reads)

/-- An instruction completes: its slot is retired and counted (R563), its results are ready after `lat` cycles, and the core goes on at
`pc`. -/
def State.retire (s : State) (n : Nat) (gu : Guard) (o : Op) (occ lat : Nat) (pc : Word) : State :=
  let s := ((s.takeSlot n o (o.waits gu) occ true).count (20 + n) 0x10 1 (s.coxAttr n)).budgetNote n
  s.setCore n { (s.core n).setReady (live o.writes) occ lat with pc := pc }

/-- An instruction whose guard is false occupies its slot and has no other effect (R346, R371). -/
def State.skip (s : State) (n : Nat) (gu : Guard) (o : Op) (pc : Word) : State :=
  let g := live [32 + gu.val % 8]
  let s := ((s.waitFor n g).takeSlot n o g 1 false).budgetNote n
  s.setCore n { s.core n with pc := pc }

/-! ## Running an instruction -/

/-- Core `n` can begin an instruction: it runs and waits for nothing. -/
def Core.idle (c : Core) : Bool := c.run == .running && c.wait == .none && c.atomic.isNone

/-- Core `n` performs the instruction at its pc, whose effect is `k`. Nothing happens on a core that is halted or waits; a BUDGET that is
due comes first; then the exceptions come in the order of R327, ILLEGAL and PRIV before the guard. -/
def State.instr (s : State) (n : Nat) (gu : Guard) (o : Op) (k : State → Res) : Res :=
  let c := s.core n
  if !c.idle then .next s
  else if s.budgetActs n then .next ((s.budgetNote n).budgetTake n)
  else if !s.mayFetch n c.pc.toNat then .next ((s.budgetNote n).takeException n causeAccess c.pc c.pc)
  else
    let t := (s.budgetNote n).fetch n c.pc.toNat
    if o.illegal then .next (t.takeException n causeIllegal c.pc (BitVec.ofNat 64 o.word))
    else if o.uBad && c.priv == .u then .next (t.takeException n causePriv c.pc (BitVec.ofNat 64 o.word))
    else if !c.guard gu then .next (t.skip n gu o (c.pc + 4))
    else if c.watched 62 c.pc.toNat then .next (t.takeException n causeWatch c.pc c.pc)
    else k (t.waitFor n (o.waits gu))

/-- Whether the instruction at core `n`'s pc runs to its own effect: the core runs and waits for nothing, no BUDGET is due, and none of
the checks of `instr` stops it. -/
def State.issues (s : State) (n : Nat) (gu : Guard) (o : Op) : Bool :=
  let c := s.core n
  c.idle && !s.budgetActs n && s.mayFetch n c.pc.toNat && !o.illegal && !(o.uBad && c.priv == .u) && c.guard gu &&
    !c.watched 62 c.pc.toNat

/-- The core with a change. -/
def State.upd (s : State) (n : Nat) (f : Core → Core) : State := s.setCore n (f (s.core n))

/-- An instruction of `occ` cycles, its results ready after `lat`, that changes registers and predicates alone. -/
def State.compute (s : State) (n : Nat) (gu : Guard) (o : Op) (occ lat : Nat) (f : Core → Core) : Res :=
  s.instr n gu o (fun t => .next ((t.retire n gu o occ lat ((s.core n).pc + 4)).upd n f))

/-- An instruction that writes gd with `v` (R348: its sources are read first). -/
def State.writeG (s : State) (n : Nat) (gu : Guard) (o : Op) (lat d : Nat) (v : Word) : Res :=
  s.compute n gu o 1 lat (fun c => c.setG d v)

/-- An instruction that writes pd with `v`. -/
def State.writeP (s : State) (n : Nat) (gu : Guard) (o : Op) (d : Nat) (v : Bool) : Res :=
  s.compute n gu o 1 1 (fun c => c.setP d v)

/-- General register `k` of core `n`. -/
def State.g (s : State) (n k : Nat) : Word := (s.core n).getG k

/-- The three-register form, its word in group `op`. -/
def opRR (op fn d a b : Nat) (gu : Guard) : Op := { word := wordRR op d a b fn gu.val, reads := [a, b], writes := [d] }

/-- The form with an immediate. -/
def opRI (op d a : Nat) (imm : BitVec 12) (gu : Guard) : Op := { word := wordRI op d a imm.toNat gu.val, reads := [a], writes := [d] }

/-- IMM12 sign-extended (R350, R358). -/
def immW (imm : BitVec 12) : Word := imm.signExtend 64

end Sys2Proof.Machine
end

