-- ==== Sys2Proof/Machine/Memory.lean ====
section
/-!
DEFINITION. Loads, stores and yard atomics of the cox cores (R313–R319, R358–R361).
-/
namespace Sys2Proof.Machine

open Sys2Proof

/-! ## Effective address and latency -/

/-- The effective address of a MEM instruction: ga + sign-extended IMM12, modulo 2^64 (R358). -/
def State.ea (s : State) (n a : Nat) (imm : BitVec 12) : Word := s.g n a + immW imm

/-- Load-to-use latency from `p`: local store 2 cycles, a hit of the data cache 3, elsewhere a value that R314 gives only typically. -/
def State.loadLat (s : State) (n p : Nat) : Nat :=
  match s.region p with
  | .localStore _ => 2
  | _ => if s.cacheable n p && s.lineIn n (p / 64) then 3 else Config.freeFun .latency [n, p, (s.core n).cyc]

/-- Whether core `n` has written a line back that no FENCE has made visible (R316). -/
def State.lineHeld (s : State) (n line : Nat) : Bool := (s.core n).flushed.any (fun e => e.1 == line)

/-- The `k` bytes that core `n` loads from `p`: from its data cache where that holds the line of a cacheable address, else from memory as
it sees it. -/
def State.loadN (s : State) (n p k : Nat) : Nat :=
  if s.cacheable n p && s.lineIn n (p / 64) then leAt (s.lineBytes n (p / 64)) (p % 64) k
  else if s.lineHeld n (p / 64) then leAt (s.ownLine n (p / 64)) (p % 64) k
  else s.rdN p k

/-- Whether a load of `k` bytes from `p` reads poisoned data (R409): a line in the data cache is not. -/
def State.loadPoison (s : State) (n p k : Nat) : Bool := !(s.cacheable n p && s.lineIn n (p / 64)) && !s.lineHeld n (p / 64) && s.poisoned p k

/-- What a load leaves in the caches and asks of memory. -/
def State.loadTouch (s : State) (n p k : Nat) : State :=
  match s.region p with
  | .localStore _ => s
  | _ => if s.cacheable n p then s.lineGet n (p / 64) else s.memReq n p k false

/-- A fifth load waits until one of the four outstanding returns (R360). -/
def State.loadWait (s : State) (n : Nat) : State :=
  let s := s.upd n Core.returned
  let c := s.core n
  if c.loads.length < 4 then s
  else
    let first := c.loads.foldl (fun m e => Nat.min m e.2) ((c.loads.head?.map (·.2)).getD 0)
    (s.spend n (first - c.cyc) 0 0 0).upd n Core.returned

/-- A load into g`d` that has issued is outstanding until its data returns, also one into g0. -/
def State.loadHold (s : State) (n d lat : Nat) : State := s.upd n (fun c => { c with loads := c.loads ++ [(d, c.cyc - 1 + lat)] })

/-- A store takes an entry of the store buffer, and waits for one where the buffer is full (R360). Stores to local store and to the data
cache leave it at once; how long any other takes is free. -/
def State.storeSlot (s : State) (n p : Nat) : State :=
  let free (c : Core) : Core := { c with stores := c.stores.filter (fun t => decide (c.cyc < t)) }
  let s := s.upd n free
  let c := s.core n
  let s := if c.stores.length < 8 then s
    else (s.spend n (c.stores.foldl Nat.min (c.stores.headD 0) - c.cyc) 0 0 0).upd n free
  match s.region p with
  | .localStore _ => s
  | _ => if s.cacheable n p then s
    else s.upd n (fun c => { c with stores := c.stores ++ [c.cyc + Config.freeFun .latency [n, 360, p, c.cyc]] })

/-- A MEM instruction. -/
def opMem (op d a : Nat) (imm : BitVec 12) (load : Bool) (gu : Guard) : Op :=
  { word := wordRI op d a imm.toNat gu.val, reads := if load then [a] else [a, d], writes := if load then [d] else [], mem := true }

/-! ## Loads (R358–R360) -/

/-- A load of `k` bytes, sign-extended or zero-extended, in the order of checks of R327. An access to the register
window that is not of a word reads a free value (R601). -/
def State.loadOp (s : State) (c : Fin 16) (gu : Guard) (o : Op) (d a : Nat) (imm : BitVec 12) (k : Nat) (signed : Bool) : Res :=
  let n := c.val
  let pc := (s.core n).pc
  let ea := s.ea n a imm
  let p := coreAddr n ea.toNat
  s.instr n gu o (fun t =>
    if ea.toNat % k ≠ 0 then .next (t.takeException n causeAlign pc ea)
    else if s.region p = .regs then
      if !s.mayReg c (p / 4 * 4) false then .next (t.takeException n causeAccess pc ea)
      else if (s.core n).watched 60 p then .next (t.takeException n causeWatch pc ea)
      else if k ≠ 4 then
        let u := (((t.loadWait n).retire n gu o 1 (s.loadLat n p) (pc + 4)).loadHold n d (s.loadLat n p)).wrongRead
        .next (u.upd n (fun x => x.setG d (extendW k signed u.readData)))
      else
        match (((t.loadWait n).retire n gu o 1 (s.loadLat n p) (pc + 4)).loadHold n d (s.loadLat n p)).regRead (.core c) p 0 with
        | .next u => .next (u.upd n (fun x => x.setG d (extendW k signed u.readData)))
        | r => r
    else if !s.mayAccess n F.COX_WIN_CFG_R ea.toNat p then .next (t.takeException n causeAccess pc ea)
    else if s.loadPoison n p k then .next ((t.poisonReads p 1).takeException n causeAccess pc ea)
    else if (s.core n).watched 60 ea.toNat then .next (t.takeException n causeWatch pc ea)
    else .next (((((t.loadTouch n p k).loadWait n).retire n gu o 1 (s.loadLat n p) (pc + 4)).loadHold n d (s.loadLat n p)).upd n
      (fun x => x.setG d (extendW k signed (s.loadN n p k)))))

/-- R358: gd = a byte, sign-extended. -/
def execLb (c : Fin 16) (gu : Guard) (d a : Fin 32) (imm : BitVec 12) (s : State) : Res :=
  s.loadOp c gu (opMem 0x18 d.val a.val imm true gu) d.val a.val imm 1 true

/-- R358: gd = a byte, zero-extended. -/
def execLbu (c : Fin 16) (gu : Guard) (d a : Fin 32) (imm : BitVec 12) (s : State) : Res :=
  s.loadOp c gu (opMem 0x19 d.val a.val imm true gu) d.val a.val imm 1 false

/-- R358: gd = a half-word, sign-extended. -/
def execLh (c : Fin 16) (gu : Guard) (d a : Fin 32) (imm : BitVec 12) (s : State) : Res :=
  s.loadOp c gu (opMem 0x1A d.val a.val imm true gu) d.val a.val imm 2 true

/-- R358: gd = a half-word, zero-extended. -/
def execLhu (c : Fin 16) (gu : Guard) (d a : Fin 32) (imm : BitVec 12) (s : State) : Res :=
  s.loadOp c gu (opMem 0x1B d.val a.val imm true gu) d.val a.val imm 2 false

/-- R358: gd = a word, sign-extended. -/
def execLw (c : Fin 16) (gu : Guard) (d a : Fin 32) (imm : BitVec 12) (s : State) : Res :=
  s.loadOp c gu (opMem 0x1C d.val a.val imm true gu) d.val a.val imm 4 true

/-- R358: gd = a word, zero-extended. -/
def execLwu (c : Fin 16) (gu : Guard) (d a : Fin 32) (imm : BitVec 12) (s : State) : Res :=
  s.loadOp c gu (opMem 0x1D d.val a.val imm true gu) d.val a.val imm 4 false

/-- R358: gd = a double-word. -/
def execLd (c : Fin 16) (gu : Guard) (d a : Fin 32) (imm : BitVec 12) (s : State) : Res :=
  s.loadOp c gu (opMem 0x1E d.val a.val imm true gu) d.val a.val imm 8 false

/-- R360: the oldest outstanding load of a core returns; an instruction that waits for its register may issue. -/
def execLoadReturn (c : Fin 16) (s : State) : Res :=
  match (s.core c.val).loads with
  | [] => .next s
  | e :: l => .next (s.upd c.val (fun x => { x with
      loads := l, ready := if x.readyAt e.1 = e.2 ∧ x.cyc < e.2 then KMap.put (fun _ => 0) x.ready e.1 x.cyc else x.ready }))

/-! ## Stores (R358, R359) -/

/-- What a store of bytes to `p` does: a cacheable line is allocated and becomes dirty (R314), unless it is poisoned (R409); any other
store goes to memory, where R402–R405 say what it reaches. -/
def State.storeTo (s : State) (n p : Nat) (l : List Byte) : State :=
  if s.cacheable n p && (s.lineIn n (p / 64) || !s.poisoned p l.length) then (s.lineGet n (p / 64)).linePut n p l
  else
    match s.region p with
    | .localStore _ => s.swStore p l
    | _ => ((s.lineOut n (p / 64)).swStore p l).memReq n p l.length true

/-- A store of the low `k` bytes of gs; one to the register window that is not of a word is a host error (R601). -/
def State.storeOp (s : State) (c : Fin 16) (gu : Guard) (o : Op) (d a : Nat) (imm : BitVec 12) (k : Nat) : Res :=
  let n := c.val
  let pc := (s.core n).pc
  let ea := s.ea n a imm
  let p := coreAddr n ea.toNat
  let l := leBytes k (s.g n d).toNat
  s.instr n gu o (fun t =>
    if ea.toNat % k ≠ 0 then .next (t.takeException n causeAlign pc ea)
    else if s.region p = .regs then
      if !s.mayReg c (p / 4 * 4) true then .next (t.takeException n causeAccess pc ea)
      else if (s.core n).watched 61 p then .next (t.takeException n causeWatch pc ea)
      else if k ≠ 4 then .next (((t.fence n).retire n gu o 1 1 (pc + 4)).wrongWrite (.core c) p)
      else ((t.fence n).retire n gu o 1 1 (pc + 4)).regWrite (.core c) p ((s.g n d).setWidth 32)
    else if !s.mayAccess n F.COX_WIN_CFG_W ea.toNat p then .next (t.takeException n causeAccess pc ea)
    else if (s.core n).watched 61 ea.toNat then .next (t.takeException n causeWatch pc ea)
    else .next (((t.storeSlot n p).storeTo n p l).retire n gu o 1 1 (pc + 4)))

/-- R358: gs [7:0] is stored. -/
def execSb (c : Fin 16) (gu : Guard) (d a : Fin 32) (imm : BitVec 12) (s : State) : Res :=
  s.storeOp c gu (opMem 0x20 d.val a.val imm false gu) d.val a.val imm 1

/-- R358: gs [15:0] is stored. -/
def execSh (c : Fin 16) (gu : Guard) (d a : Fin 32) (imm : BitVec 12) (s : State) : Res :=
  s.storeOp c gu (opMem 0x21 d.val a.val imm false gu) d.val a.val imm 2

/-- R358: gs [31:0] is stored. -/
def execSw (c : Fin 16) (gu : Guard) (d a : Fin 32) (imm : BitVec 12) (s : State) : Res :=
  s.storeOp c gu (opMem 0x22 d.val a.val imm false gu) d.val a.val imm 4

/-- R358: gs is stored. -/
def execSd (c : Fin 16) (gu : Guard) (d a : Fin 32) (imm : BitVec 12) (s : State) : Res :=
  s.storeOp c gu (opMem 0x23 d.val a.val imm false gu) d.val a.val imm 8

/-! ## Yard atomics (R319, R361) -/

/-- An atomic of group 0x03; ACAS reads gd and writes p7 too. -/
def opAtomic (fn d a b : Nat) (cas : Bool) (gu : Guard) : Op :=
  { opRR 0x03 fn d a b gu with reads := if cas then [a, b, d] else [a, b], writes := if cas then [d, 39] else [d], mem := true, alone := true }

/-- An atomic of `k` bytes at ga: the matching line of the data cache is written back and invalidated, then the yard performs the step.
`f` gives, from the old value, what memory takes (none where it is left), and p7 of an ACAS. gd and p7 are written when the round trip
ends (ATOMIC_COMPLETE). -/
def State.atomicOp (s : State) (c : Fin 16) (gu : Guard) (o : Op) (d a k : Nat) (f : Nat → Option Nat × Option Bool) : Res :=
  let n := c.val
  let pc := (s.core n).pc
  let ea := s.g n a
  let p := ea.toNat
  s.instr n gu o (fun t =>
    if p % k ≠ 0 then .next (t.takeException n causeAlign pc ea)
    else
      let u := ((t.lineOut n (p / 64)).lineBack n (p / 64)).lineDrop n (p / 64)
      if s.region p ≠ .yard || !s.mayAccess n F.COX_WIN_CFG_R p p || !s.mayAccess n F.COX_WIN_CFG_W p p then
        .next (t.takeException n causeAccess pc ea)
      else if u.poisoned p k then .next ((t.poisonReads p 1).takeException n causeAccess pc ea)
      else if (s.core n).watched 60 p || (s.core n).watched 61 p then .next (t.takeException n causeWatch pc ea)
      else
        let old := u.rdN p k
        let r := f old
        let done (v : State) : Res := .next (((v.memReq n p k false).memReq n p k true).upd n (fun x =>
          { x with atomic := some { d := d, old := BitVec.ofNat 64 old, p7 := r.2 } }))
        match r.1 with
        | none => done u
        | some v => done (u.swStore p (leBytes k v)))

/-- R361: mem = old + gb, on 4 bytes; gd = old. -/
def execAaddW (c : Fin 16) (gu : Guard) (d a b : Fin 32) (s : State) : Res :=
  s.atomicOp c gu (opAtomic 0x00 d.val a.val b.val false gu) d.val a.val 4
    (fun old => (some ((old + (s.g c.val b.val).toNat) % 2 ^ 32), none))

/-- R361: mem = old + gb, on 8 bytes; gd = old. -/
def execAaddD (c : Fin 16) (gu : Guard) (d a b : Fin 32) (s : State) : Res :=
  s.atomicOp c gu (opAtomic 0x01 d.val a.val b.val false gu) d.val a.val 8
    (fun old => (some ((old + (s.g c.val b.val).toNat) % 2 ^ 64), none))

/-- R361: mem = gb, on 4 bytes; gd = old. -/
def execAswapW (c : Fin 16) (gu : Guard) (d a b : Fin 32) (s : State) : Res :=
  s.atomicOp c gu (opAtomic 0x02 d.val a.val b.val false gu) d.val a.val 4
    (fun _ => (some (((s.g c.val b.val).toNat % 2 ^ 32)), none))

/-- R361: mem = gb, on 8 bytes; gd = old. -/
def execAswapD (c : Fin 16) (gu : Guard) (d a b : Fin 32) (s : State) : Res :=
  s.atomicOp c gu (opAtomic 0x03 d.val a.val b.val false gu) d.val a.val 8
    (fun _ => (some (((s.g c.val b.val).toNat % 2 ^ 64)), none))

/-- R361: mem = gb where old == gd, and p7 says so, on 4 bytes; gd = old. -/
def execAcasW (c : Fin 16) (gu : Guard) (d a b : Fin 32) (s : State) : Res :=
  s.atomicOp c gu (opAtomic 0x04 d.val a.val b.val true gu) d.val a.val 4
    (fun old => if old = ((s.g c.val d.val).toNat % 2 ^ 32) then (some ((s.g c.val b.val).toNat % 2 ^ 32), some true) else (none, some false))

/-- R361: mem = gb where old == gd, and p7 says so, on 8 bytes; gd = old. -/
def execAcasD (c : Fin 16) (gu : Guard) (d a b : Fin 32) (s : State) : Res :=
  s.atomicOp c gu (opAtomic 0x05 d.val a.val b.val true gu) d.val a.val 8
    (fun old => if old = ((s.g c.val d.val).toNat % 2 ^ 64) then (some ((s.g c.val b.val).toNat % 2 ^ 64), some true) else (none, some false))

/-- R361, R372: the round trip ends: gd and p7 are written, after cycles that R372 gives only typically, and the core goes on. -/
def execAtomicComplete (c : Fin 16) (s : State) : Res :=
  let n := c.val
  match (s.core n).atomic with
  | none => .next s
  | some w =>
    let (lat, s) := s.free .latency
    let s := (s.spend n (lat + 1) 1 0 0).count (20 + n) 0x10 1 (s.coxAttr n)
    .next (s.upd n (fun x =>
      let x := { x.setG w.d w.old with
        atomic := none, pc := x.pc + 4, ready := KMap.put (fun _ => 0) (KMap.del x.ready (macKey w.d)) w.d x.cyc }
      match w.p7 with
      | some b => x.setP 7 b
      | none => x))

end Sys2Proof.Machine
end

