-- ==== Sys2Proof/Machine/Control.lean ====
section
/-!
DEFINITION. Control transfer and the control and system instructions of the cox cores, the waits they begin, and how waits end (R320–R332,
R362, R363, R367–R370).
-/
namespace Sys2Proof.Machine

open Sys2Proof

/-! ## Control transfer (R330, R362, R363) -/

/-- R362: the core goes on at the address of the instruction plus 4 × OFFSET22. -/
def execB (c : Fin 16) (gu : Guard) (off : BitVec 22) (s : State) : Res :=
  let o : Op := { word := wordBR 0x28 off.toNat gu.val, ctl := true }
  s.instr c.val gu o (fun t => .next (t.retire c.val gu o 3 1 ((s.core c.val).pc + (off.signExtend 64 <<< 2))))

/-- R362: as B; g31 takes the address of the instruction plus 4. -/
def execCall (c : Fin 16) (gu : Guard) (off : BitVec 22) (s : State) : Res :=
  let o : Op := { word := wordBR 0x29 off.toNat gu.val, writes := [31], ctl := true }
  let pc := (s.core c.val).pc
  s.instr c.val gu o (fun t => .next ((t.retire c.val gu o 3 1 (pc + (off.signExtend 64 <<< 2))).upd c.val (fun x => x.setG 31 (pc + 4))))

/-- R363: pc = ga; a target that is not a multiple of 4 raises ALIGN. -/
def execJr (c : Fin 16) (gu : Guard) (a : Fin 32) (s : State) : Res :=
  let o : Op := { word := wordRR 0x04 0 a.val 0 0x00 gu.val, reads := [a.val], ctl := true }
  let to' := s.g c.val a.val
  s.instr c.val gu o (fun t =>
    if to'.toNat % 4 ≠ 0 then .next (t.takeException c.val causeAlign (s.core c.val).pc to') else .next (t.retire c.val gu o 4 1 to'))

/-- R363: gd = the address of this instruction + 4; pc = ga. -/
def execJalr (c : Fin 16) (gu : Guard) (d a : Fin 32) (s : State) : Res :=
  let o : Op := { word := wordRR 0x04 d.val a.val 0 0x01 gu.val, reads := [a.val], writes := [d.val], ctl := true }
  let to' := s.g c.val a.val
  let pc := (s.core c.val).pc
  s.instr c.val gu o (fun t =>
    if to'.toNat % 4 ≠ 0 then .next (t.takeException c.val causeAlign pc to')
    else .next ((t.retire c.val gu o 4 1 to').upd c.val (fun x => x.setG d.val (pc + 4))))

/-- The return from an exception: PRIV takes PPRIV and INEXC clears (R330). -/
def Core.exceptionReturn (c : Core) : Core := { c with priv := Priv.ofCode c.ppriv, inexc := false }

/-- R330: pc = cc.EPC, PRIV = PPRIV, INEXC = 0. -/
def execRetE (c : Fin 16) (gu : Guard) (s : State) : Res :=
  let o : Op := { word := wordRR 0x04 0 0 0 0x02 gu.val, uBad := true, ctl := true }
  let k := s.core c.val
  s.instr c.val gu o (fun t =>
    if k.epc.toNat % 4 ≠ 0 then .next (t.takeException c.val causeAlign k.pc k.epc)
    else .next ((t.retire c.val gu o 4 1 k.epc).upd c.val Core.exceptionReturn))

/-! ## WAIT and TICK (R321, R322, R367) -/

/-- A system instruction of R367, which issues alone. -/
def opSys (fn d a b : Nat) (gu : Guard) (reads writes : List Nat) (uBad : Bool) : Op :=
  { word := wordRR 0x04 d a b fn gu.val, uBad := uBad, reads := reads, writes := writes, alone := true }

/-- The time of a timeout: 0xFFFF_FFFF_FFFF_FFFF waits without limit. -/
def State.waitLimit (s : State) (v : Word) : Option Nat := if v = BitVec.allOnes 64 then none else some (s.now + v.toNat)

/-- R321: the core waits for a latched slot of the mask, and returns at once where one is latched; the timeout 0 polls. -/
def execWait (c : Fin 16) (gu : Guard) (d a b : Fin 32) (s : State) : Res :=
  let mask := (s.g c.val a.val).toNat
  let lim := s.g c.val b.val
  s.instr c.val gu (opSys 0x08 d.val a.val b.val gu [a.val, b.val] [d.val] false) (fun t =>
    let t := (t.settle c.val).upd c.val (fun x => { x with wait := .wait d.val mask (s.waitLimit lim) })
    if (lowestSlot (t.core c.val).evpend mask).isSome then .next (t.wake c.val)
    else if lim = 0 then .next (t.endWait c.val d.val 0x400)
    else .next t)

/-- R321: the timeout of a WAIT expires: it returns 0x400. -/
def execWaitTimeout (c : Fin 16) (s : State) : Res :=
  match (s.core c.val).wait with
  | .wait d _ (some t) => .next ((s.advanceTo t).endWait c.val d 0x400)
  | _ => .next s

/-- R322: the core waits for the next catch. -/
def execTick (c : Fin 16) (gu : Guard) (d : Fin 32) (s : State) : Res :=
  s.instr c.val gu (opSys 0x09 d.val 0 0 gu [] [d.val] false) (fun t => .next ((t.settle c.val).upd c.val (fun x => { x with wait := .tick d.val })))

/-! ## TIME, SNAP, FENCE, HALT (R246, R316, R367, R568) -/

/-- R367: gd = the time counter. -/
def execTime (c : Fin 16) (gu : Guard) (d : Fin 32) (s : State) : Res :=
  s.compute c.val gu (opSys 0x0A d.val 0 0 gu [] [d.val] false) 6 6 (fun x => x.setG d.val (BitVec.ofNat 64 s.now))

/-- R367, R567: a snapshot is triggered. -/
def execSnap (c : Fin 16) (gu : Guard) (s : State) : Res :=
  let o := opSys 0x0B 0 0 0 gu [] [] false
  s.instr c.val gu o (fun t => .next ((t.snapshot 1 c.val).retire c.val gu o 2 2 ((s.core c.val).pc + 4)))

/-- R316: every earlier store and write-back becomes visible, and the core waits for that. -/
def execFence (c : Fin 16) (gu : Guard) (s : State) : Res :=
  let o := opSys 0x0C 0 0 0 gu [] [] false
  s.instr c.val gu o (fun t => .next ((t.fence c.val).retire c.val gu o 2 2 ((s.core c.val).pc + 4)))

/-- R367: the core halts after this instruction and COX_CTL.RUN becomes 0. It takes up to 4 cycles (R372). -/
def execHalt (c : Fin 16) (gu : Guard) (s : State) : Res :=
  let o := opSys 0x0E 0 0 0 gu [] [] true
  let occ := 1 + Config.freeFun .latency [c.val, (s.core c.val).cyc] % 4
  s.instr c.val gu o (fun t => .next ((t.retire c.val gu o occ occ ((s.core c.val).pc + 4)).coxHalt c.val))

/-! ## FLUSH (R316, R369) -/

/-- Whether a FLUSH mode is defined, and A is 0 where it names no address (R369). -/
def flushBad (a mode : Nat) : Bool := decide (8 ≤ mode) || ([3, 4, 5, 7].contains mode && a != 0)

/-- Lines of the data cache that a mode writes back. -/
def State.flushBack (s : State) (n mode line : Nat) (cacheable : Bool) : List Nat :=
  if mode = 0 ∨ mode = 2 then (if cacheable then (s.dirtyLines n).filter (· == line) else [])
  else if mode = 3 ∨ mode = 5 then s.dirtyLines n
  else []

/-- The invalidation of a mode. -/
def State.flushDrop (s : State) (n mode line : Nat) (cacheable : Bool) : State :=
  if mode = 1 ∨ mode = 2 then (if cacheable then s.lineDrop n line else s)
  else if mode = 4 ∨ mode = 5 then s.upd n (fun c => { c with dcache := [] })
  else if mode = 6 then (if cacheable then s.upd n (fun c => { c with icache := c.icache.filter (· != line) }) else s)
  else if mode = 7 then s.upd n (fun c => { c with icache := [] })
  else s

/-- Cycles of a FLUSH that writes back `k` lines (R372). -/
def flushCost (mode k : Nat) : Nat := if mode = 7 then 16 else if 3 ≤ mode ∧ mode ≤ 5 then 256 + 20 * k else 2 + 20 * k

/-- R369: FLUSH. -/
def execFlush (c : Fin 16) (gu : Guard) (a mode : Fin 32) (s : State) : Res :=
  let n := c.val
  let o := { opSys 0x0D 0 a.val mode.val gu [a.val] [] (mode.val == 1 || mode.val == 4) with illegal := flushBad a.val mode.val }
  let ea := (s.g n a.val).toNat
  let line := coreAddr n ea / 64
  let ok := decide (ea < 2 ^ 48) && s.cacheable n (coreAddr n ea)
  s.instr n gu o (fun t =>
    let back := t.flushBack n mode.val line ok
    let occ := flushCost mode.val back.length
    let u := (back.foldl (fun u l => u.lineFlush n l) t).flushDrop n mode.val line ok
    .next (u.retire n gu o occ occ ((s.core n).pc + 4)))

/-! ## Core control registers (R307, R308) -/

/-- Numbers of R307. -/
def ccKnown (k : Nat) : Bool := decide (k ≤ 6) || (decide (8 ≤ k) && decide (k ≤ 0xC)) || k == 0x10 || k == 0x11 || k == 0x20 || (decide (0x40 ≤ k) && decide (k ≤ 0x7F))

/-- Those that U may read. -/
def ccUser (k : Nat) : Bool := (decide (8 ≤ k) && decide (k ≤ 0xC)) || k == 0x20 || (decide (0x40 ≤ k) && decide (k ≤ 0x7F))

/-- The value of a core control register. -/
def State.ccRead (s : State) (n k : Nat) : Word :=
  let c := s.core n
  let w (v : Nat) : Word := BitVec.ofNat 64 v
  if k = 0 then w (c.priv.code + 4 * c.ppriv + 16 * b2n c.inexc)
  else if k = 1 then c.epc
  else if k = 2 then w c.cause
  else if k = 3 then c.tval
  else if k = 4 then c.tvec
  else if k = 5 then c.scratch
  else if k = 6 then w c.umask
  else if k = 8 then w (n + 16 * b2n (decide (n < 4)))
  else if k = 9 then w (s.upQ * 8 / 5 / 2 ^ 32)
  else if k = 0xA then w c.bcount
  else if k = 0xB then w c.budget
  else if k = 0xC then w (s.rd64 R.TIME_STK_NUM_LO)
  else if k = 0x10 then c.watch0
  else if k = 0x11 then c.watch1
  else if k = 0x20 then w c.evpend
  else w (KMap.get (fun _ => 0) c.evslot (k - 0x40))

/-- Whether a value written has a reserved bit or code of the register (R307, R601). -/
def ccReserved (k : Nat) (v : Word) : Bool :=
  if k = 0 then decide (32 ≤ v.toNat) || bitsOf v.toNat 2 2 == 3
  else if k = 2 then decide (8 ≤ v.toNat)
  else if 0x40 ≤ k then bitsOf v.toNat 10 6 != 0 || decide (2 ^ 17 ≤ v.toNat)
  else false

/-- The core after a write: read-only registers and fields keep theirs; 2 in PPRIV at M stores 1 (R308). -/
def Core.ccWrite (c : Core) (k : Nat) (v : Word) : Core :=
  if k = 0 then
    let pp := bitsOf v.toNat 2 2
    { c with ppriv := if pp = 2 ∧ c.priv = .m then 1 else pp, inexc := bitAt v.toNat 4 }
  else if k = 1 then { c with epc := v }
  else if k = 2 then { c with cause := v.toNat % 8 }
  else if k = 3 then { c with tval := v }
  else if k = 4 then { c with tvec := v }
  else if k = 5 then { c with scratch := v }
  else if k = 6 then { c with umask := v.toNat % 256 }
  else if k = 0x10 then { c with watch0 := v }
  else if k = 0x11 then { c with watch1 := v }
  else if k = 0x20 then { c with evpend := c.evpend &&& (2 ^ 64 - 1 - v.toNat) }
  else if 0x40 ≤ k then { c with evslot := KMap.put (fun _ => 0) c.evslot (k - 0x40) v.toNat }
  else c

/-- A reserved bit or code written by CSRW: the control registers that it could have written may hold anything (R3, R601). -/
def State.ccDisturb (s : State) (n : Nat) : State :=
  let x := { s with freeCtr := s.freeCtr + 1 }
  x.upd n (fun c => (Config.freeWrites s.freeCtr).foldl (fun c e =>
    if !ccKnown e.1 || ccReserved e.1 (BitVec.ofNat 64 e.2) then c else c.ccWrite e.1 (BitVec.ofNat 64 e.2)) c)

/-- R307: gd = the core control register; an undefined number raises ILLEGAL, and A must be 0. -/
def execCsrr (c : Fin 16) (gu : Guard) (d a : Fin 32) (cc : BitVec 12) (s : State) : Res :=
  s.compute c.val gu { opRI 0x05 d.val a.val cc gu with
    illegal := !ccKnown cc.toNat || a.val != 0, uBad := !ccUser cc.toNat, reads := [], alone := true } 4 4
    (fun x => x.setG d.val (s.ccRead c.val cc.toNat))

/-- R307, R367: gd = the old value; the register = ga. -/
def execCsrw (c : Fin 16) (gu : Guard) (d a : Fin 32) (cc : BitVec 12) (s : State) : Res :=
  let o := { opRI 0x06 d.val a.val cc gu with illegal := !ccKnown cc.toNat, uBad := true, alone := true }
  let v := s.g c.val a.val
  s.instr c.val gu o (fun t =>
    let t := t.retire c.val gu o 4 4 ((s.core c.val).pc + 4)
    .next ((if ccReserved cc.toNat v then t.ccDisturb c.val else t.upd c.val (fun x => x.ccWrite cc.toNat v)).upd c.val
      (fun x => x.setG d.val (s.ccRead c.val cc.toNat))))

/-! ## SYS (R331) -/

/-- R331: at M the core stalls until the warden answers; at W g1 becomes 1 and nothing else happens (R367). -/
def execSys (c : Fin 16) (gu : Guard) (svc : BitVec 12) (s : State) : Res :=
  let w := (s.core c.val).priv == .w
  let o : Op := { word := wordRI 0x07 0 0 svc.toNat gu.val, uBad := true, reads := if w then [] else [1, 2, 3, 4, 5, 6], writes := [1], alone := true }
  s.instr c.val gu o (fun t =>
    if w then .next ((t.retire c.val gu o 1 1 ((s.core c.val).pc + 4)).upd c.val (fun x => x.setG 1 1))
    else .next ((t.settle c.val).upd c.val (fun x => { x with wait := .sys svc.toNat (s.upNs + 10000000) })))

/-- The stall of a SYS ends: its own cycle counts, those of the stall do not (R324); g1 and g2 are ready after it (R372). -/
def State.endSys (s : State) (n : Nat) (f : Core → Core) : State :=
  ((s.spend n 1 1 0 0).count (20 + n) 0x10 1 (s.coxAttr n)).upd n (fun c => { (f c).setReady [1, 2] 0 0 with wait := .none, pc := c.pc + 4 })

/-- R331: the warden answers within the 10 ms: g1 takes the status and g2 the result. -/
def execSysAnswer (c : Fin 16) (status result : Word) (s : State) : Res :=
  match (s.core c.val).wait with
  | .sys _ t => if t < s.upNs then .next s else .next (s.endSys c.val (fun x => (x.setG 1 status).setG 2 result))
  | _ => .next s

/-- R331: 10 ms pass without an answer: g1 = 3, BUSY. -/
def execSysTimeout (c : Fin 16) (s : State) : Res :=
  match (s.core c.val).wait with
  | .sys _ t => .next ((s.advanceUp t).endSys c.val (fun x => x.setG 1 3))
  | _ => .next s

/-! ## ISSUE, ISSUE.NB and RING (R364–R366) -/

/-- A Q instruction: D names ga of ISSUE and ISSUE.NB. -/
def opQ (op d ring cnt : Nat) (gu : Guard) (reads writes : List Nat) : Op :=
  { word := wordQ op d ring cnt gu.val, reads := reads, writes := writes, mem := true, alone := true }

/-- Addresses that stand for `len` bytes from `a`: one for each line they touch. -/
def spanOf (a len : Nat) : List Nat := (a + len - 1) :: (upTo ((len + 63) / 64)).map (fun i => a + 64 * i)

/-- Whether core `n` may read `len` bytes from `a` throughout (R365). -/
def State.mayReadAll (s : State) (n : Fin 16) (a len : Nat) : Bool :=
  (spanOf a len).all (fun x => if s.region (coreAddr n.val x) = .regs then s.mayReg n x false else s.mayAccess n.val F.COX_WIN_CFG_R x (coreAddr n.val x))

/-- Whether a ring takes `k` elements now: R379 makes a disabled ring full. -/
def State.ringTakes (s : State) (r k : Nat) : Bool := s.ringEn r && decide (k ≤ s.ringFree r)

/-- Cycles of an ISSUE that copies `len` bytes from `p` (R372). -/
def State.issueCost (s : State) (n p len : Nat) : Nat :=
  4 + (match s.region p with
    | .localStore _ => 2
    | _ => Config.freeFun .latency [n, p, (s.core n).cyc]) + 2 * ((len + 31) / 32)

/-- The bytes that ISSUE reads: those of the register window are free, since no access of ISSUE is of an aligned word alone (R601). -/
def State.issueBytes (s : State) (src e : Nat) : List Byte :=
  (upTo e).map (fun i => if s.region (src + i) = .regs then BitVec.ofNat 8 (Config.freeFun .result [2, s.freeCtr, src + i]) else s.rdB (src + i))

/-- Core `n` copies `k` elements from `a` into ring `r`, read from memory and not through the data cache, and PI advances once. -/
def State.issueCopy (s : State) (n a r k : Nat) : State :=
  let e := s.ringEsize r
  let s := forN k (fun i s =>
    let src := coreAddr n (a + i * e)
    let dst := s.ringElem r (s.ringPI r + i)
    let s := { s.wrBytes dst (s.issueBytes src e) with freeCtr := s.freeCtr + 1 }
    forN ((e + 63) / 64) (fun j s => (s.memReq n (src + 64 * j) (Nat.min e 64) false).memReq n (dst + 64 * j) (Nat.min e 64) true) s) s
  s.produce r k

/-- What an instruction of core `n` that has named ring `r` leaves beside its own effect: on a ring whose producer is another agent,
anything in the ring and its context (R366, R601). -/
def State.foreignRing (s : State) (n r : Nat) (u : State) : State :=
  if s.ringProd r = n then u else u.unpredictable (s.ringReach r true)

/-- The checks that ISSUE and ISSUE.NB make before anything is copied (R365, R366), then `k`. -/
def State.issueChecks (s t : State) (c : Fin 16) (ea : Word) (r len : Nat) (k : State → State) : Res :=
  let n := c.val
  let pc := (s.core n).pc
  if ea.toNat % 8 ≠ 0 then .next (t.takeException n causeAlign pc ea)
  else if !s.mayReadAll c ea.toNat len then .next (t.takeException n causeAccess pc ea)
  else .next (s.foreignRing n r (k t))

/-- R364, R365: ISSUE copies n = COUNT + 1 elements, or waits for room. -/
def execIssue (c : Fin 16) (gu : Guard) (a : Fin 32) (ring : Fin 8192) (count : Fin 16) (s : State) : Res :=
  let n := c.val
  let k := count.val + 1
  let o := opQ 0x30 a.val ring.val count.val gu [a.val] []
  let ea := s.g n a.val
  let len := k * s.ringEsize ring.val
  s.instr n gu o (fun t => s.issueChecks t c ea ring.val len (fun t =>
    let t := t.fence n
    if s.ringTakes ring.val k then
      let occ := s.issueCost n (coreAddr n ea.toNat) len
      (t.retire n gu o occ occ ((s.core n).pc + 4)).issueCopy n ea.toNat ring.val k
    else (t.settle n).upd n (fun x => { x with wait := .issue a.val ring.val k })))

/-- R364, R365: ISSUE.NB copies only if the elements fit, and p7 says whether it did. At U to a ring of class 0 it takes one cycle more
(KL-12). -/
def execIssueNb (c : Fin 16) (gu : Guard) (a : Fin 32) (ring : Fin 8192) (count : Fin 16) (s : State) : Res :=
  let n := c.val
  let k := count.val + 1
  let o := opQ 0x31 a.val ring.val count.val gu [a.val] [39]
  let ea := s.g n a.val
  let len := k * s.ringEsize ring.val
  let slow := b2n ((s.core n).priv == .u && s.ringClass ring.val == 0)
  s.instr n gu o (fun t => s.issueChecks t c ea ring.val len (fun t =>
    let t := t.fence n
    let ok := s.ringTakes ring.val k
    let occ := s.issueCost n (coreAddr n ea.toNat) (if ok then len else 0) + slow
    let u := (t.retire n gu o occ occ ((s.core n).pc + 4)).upd n (fun x => x.setP 7 ok)
    if ok then u.issueCopy n ea.toNat ring.val k else u))

/-- R365: the ring that a waiting ISSUE needs has room: the copy proceeds. How long it waited is free; those cycles count (R324, R563). -/
def execIssueRoom (c : Fin 16) (s : State) : Res :=
  let n := c.val
  match (s.core n).wait with
  | .issue a r k =>
    if s.ringTakes r k then
      let ea := s.g n a
      let (w, s) := s.free .order
      let cost := w + s.issueCost n (coreAddr n ea.toNat) (k * s.ringEsize r)
      let s := (((s.spend n cost 1 0 0).count (20 + n) 0x15 w (s.coxAttr n)).count (20 + n) 0x10 1 (s.coxAttr n)).upd n
        (fun x => { x with wait := .none, pc := x.pc + 4 })
      .next (s.foreignRing n r (s.issueCopy n ea.toNat r k))
    else .next s
  | _ => .next s

/-- R364: RING advances PI by n over elements already written; gd = the new producer index. -/
def execRing (c : Fin 16) (gu : Guard) (d : Fin 32) (ring : Fin 8192) (count : Fin 16) (s : State) : Res :=
  let n := c.val
  let k := count.val + 1
  let o := opQ 0x32 d.val ring.val count.val gu [] [d.val]
  s.instr n gu o (fun t =>
    .next (s.foreignRing n ring.val ((((t.fence n).retire n gu o 4 4 ((s.core n).pc + 4)).upd n
      (fun x => x.setG d.val (BitVec.ofNat 64 ((s.ringPI ring.val + k) % 2 ^ 32)))).produce ring.val k)))

/-! ## The budget (R325) -/

/-- R325: cc.BCOUNT reaches the budget in a stroke in which it has not; a core that waits in WAIT, TICK or SYS, or is halted, does not
count. At the next boundary, which is now unless an ISSUE waits or an atomic has not ended, the core halts or takes BUDGET. -/
def execBudgetExhausted (c : Fin 16) (s : State) : Res :=
  let n := c.val
  let k := s.core n
  let counts := k.run == .running && (match k.wait with
    | .none => true
    | .issue _ _ _ => true
    | _ => false)
  if !counts || k.budget == 0 || k.budgetHit then .next s
  else
    let s := if k.budget ≤ k.bcount then s else s.spend n (k.budget - k.bcount) 0 0 0
    let s := s.budgetNote n
    .next (if (s.core n).idle && s.budgetActs n then s.budgetTake n else s)

end Sys2Proof.Machine
end

