-- ==== Sys2Proof/Machine/Integer.lean ====
section
/-!
DEFINITION. The integer, immediate, compare, predicate, multiply, bit-field and LU instructions of the cox cores (R350–R357).
-/
namespace Sys2Proof.Machine

open Sys2Proof

/-! ## Integer group, OP 0x00 (R350, R351) -/

/-- R351: gd = ga + gb. -/
def execAdd (c : Fin 16) (gu : Guard) (d a b : Fin 32) (s : State) : Res :=
  s.writeG c.val gu (opRR 0x00 0x00 d.val a.val b.val gu) 1 d.val (s.g c.val a.val + s.g c.val b.val)

/-- R351: gd = ga − gb. -/
def execSub (c : Fin 16) (gu : Guard) (d a b : Fin 32) (s : State) : Res :=
  s.writeG c.val gu (opRR 0x00 0x01 d.val a.val b.val gu) 1 d.val (s.g c.val a.val - s.g c.val b.val)

/-- R351: gd = ga & gb. -/
def execAnd (c : Fin 16) (gu : Guard) (d a b : Fin 32) (s : State) : Res :=
  s.writeG c.val gu (opRR 0x00 0x02 d.val a.val b.val gu) 1 d.val (s.g c.val a.val &&& s.g c.val b.val)

/-- R351: gd = ga | gb. -/
def execOr (c : Fin 16) (gu : Guard) (d a b : Fin 32) (s : State) : Res :=
  s.writeG c.val gu (opRR 0x00 0x03 d.val a.val b.val gu) 1 d.val (s.g c.val a.val ||| s.g c.val b.val)

/-- R351: gd = ga ^ gb. -/
def execXor (c : Fin 16) (gu : Guard) (d a b : Fin 32) (s : State) : Res :=
  s.writeG c.val gu (opRR 0x00 0x04 d.val a.val b.val gu) 1 d.val (s.g c.val a.val ^^^ s.g c.val b.val)

/-- R351: gd = ga << gb [5:0]. -/
def execSll (c : Fin 16) (gu : Guard) (d a b : Fin 32) (s : State) : Res :=
  s.writeG c.val gu (opRR 0x00 0x05 d.val a.val b.val gu) 1 d.val ((s.g c.val a.val) <<< shAmt (s.g c.val b.val))

/-- R351: gd = ga >> gb [5:0], logical. -/
def execSrl (c : Fin 16) (gu : Guard) (d a b : Fin 32) (s : State) : Res :=
  s.writeG c.val gu (opRR 0x00 0x06 d.val a.val b.val gu) 1 d.val ((s.g c.val a.val) >>> shAmt (s.g c.val b.val))

/-- R351: gd = ga >> gb [5:0], arithmetic. -/
def execSra (c : Fin 16) (gu : Guard) (d a b : Fin 32) (s : State) : Res :=
  s.writeG c.val gu (opRR 0x00 0x07 d.val a.val b.val gu) 1 d.val ((s.g c.val a.val).sshiftRight (shAmt (s.g c.val b.val)))

/-- R351: the signed minimum. -/
def execMin (c : Fin 16) (gu : Guard) (d a b : Fin 32) (s : State) : Res :=
  s.writeG c.val gu (opRR 0x00 0x08 d.val a.val b.val gu) 1 d.val (minW (s.g c.val a.val) (s.g c.val b.val))

/-- R351: the signed maximum. -/
def execMax (c : Fin 16) (gu : Guard) (d a b : Fin 32) (s : State) : Res :=
  s.writeG c.val gu (opRR 0x00 0x09 d.val a.val b.val gu) 1 d.val (maxW (s.g c.val a.val) (s.g c.val b.val))

/-- R351: leading zeros of ga; B must be 0. -/
def execClz (c : Fin 16) (gu : Guard) (d a b : Fin 32) (s : State) : Res :=
  s.writeG c.val gu { opRR 0x00 0x0A d.val a.val b.val gu with illegal := b.val != 0, reads := [a.val] } 1 d.val (clzW (s.g c.val a.val))

/-- R351: set bits of ga; B must be 0. -/
def execPopc (c : Fin 16) (gu : Guard) (d a b : Fin 32) (s : State) : Res :=
  s.writeG c.val gu { opRR 0x00 0x0B d.val a.val b.val gu with illegal := b.val != 0, reads := [a.val] } 1 d.val (popW (s.g c.val a.val))

/-! ## Immediate forms, OP 0x08–0x0E (R350, R351) -/

/-- R351: gd = ga + the sign-extended immediate. -/
def execAddi (c : Fin 16) (gu : Guard) (d a : Fin 32) (imm : BitVec 12) (s : State) : Res :=
  s.writeG c.val gu (opRI 0x08 d.val a.val imm gu) 1 d.val ((s.g c.val a.val) + immW imm)

/-- R351: gd = ga & the sign-extended immediate. -/
def execAndi (c : Fin 16) (gu : Guard) (d a : Fin 32) (imm : BitVec 12) (s : State) : Res :=
  s.writeG c.val gu (opRI 0x09 d.val a.val imm gu) 1 d.val ((s.g c.val a.val) &&& immW imm)

/-- R351: gd = ga | the sign-extended immediate. -/
def execOri (c : Fin 16) (gu : Guard) (d a : Fin 32) (imm : BitVec 12) (s : State) : Res :=
  s.writeG c.val gu (opRI 0x0A d.val a.val imm gu) 1 d.val ((s.g c.val a.val) ||| immW imm)

/-- R351: gd = ga ^ the sign-extended immediate. -/
def execXori (c : Fin 16) (gu : Guard) (d a : Fin 32) (imm : BitVec 12) (s : State) : Res :=
  s.writeG c.val gu (opRI 0x0B d.val a.val imm gu) 1 d.val ((s.g c.val a.val) ^^^ immW imm)

/-- R350, R351: shift left by IMM12 [5:0]; IMM12 [11:6] must be 0. -/
def execSlli (c : Fin 16) (gu : Guard) (d a : Fin 32) (imm : BitVec 12) (s : State) : Res :=
  s.writeG c.val gu { opRI 0x0C d.val a.val imm gu with illegal := decide (64 ≤ imm.toNat) } 1 d.val ((s.g c.val a.val) <<< (imm.toNat % 64))

/-- R350, R351: logical shift right by IMM12 [5:0]; IMM12 [11:6] must be 0. -/
def execSrli (c : Fin 16) (gu : Guard) (d a : Fin 32) (imm : BitVec 12) (s : State) : Res :=
  s.writeG c.val gu { opRI 0x0D d.val a.val imm gu with illegal := decide (64 ≤ imm.toNat) } 1 d.val ((s.g c.val a.val) >>> (imm.toNat % 64))

/-- R350, R351: arithmetic shift right by IMM12 [5:0]; IMM12 [11:6] must be 0. -/
def execSrai (c : Fin 16) (gu : Guard) (d a : Fin 32) (imm : BitVec 12) (s : State) : Res :=
  s.writeG c.val gu { opRI 0x0E d.val a.val imm gu with illegal := decide (64 ≤ imm.toNat) } 1 d.val ((s.g c.val a.val).sshiftRight (imm.toNat % 64))

/-! ## Compares and predicates, OP 0x01 and 0x0F–0x11 (R353, R354) -/

/-- A compare of group 0x01: D [25:24] must be 0. -/
def opCmp (fn d a b : Nat) (gu : Guard) : Op :=
  { opRR 0x01 fn d a b gu with illegal := decide (8 ≤ d), writes := [32 + d] }

/-- R354: pd = (ga == gb). -/
def execCmpEq (c : Fin 16) (gu : Guard) (d a b : Fin 32) (s : State) : Res :=
  s.writeP c.val gu (opCmp 0x00 d.val a.val b.val gu) d.val (s.g c.val a.val == s.g c.val b.val)

/-- R354: pd = (ga < gb), signed. -/
def execCmpLt (c : Fin 16) (gu : Guard) (d a b : Fin 32) (s : State) : Res :=
  s.writeP c.val gu (opCmp 0x01 d.val a.val b.val gu) d.val (ltS (s.g c.val a.val) (s.g c.val b.val))

/-- R354: pd = (ga < gb), unsigned. -/
def execCmpLtu (c : Fin 16) (gu : Guard) (d a b : Fin 32) (s : State) : Res :=
  s.writeP c.val gu (opCmp 0x02 d.val a.val b.val gu) d.val (ltU (s.g c.val a.val) (s.g c.val b.val))

/-- R354: pd = ((ga & gb) != 0). -/
def execTst (c : Fin 16) (gu : Guard) (d a b : Fin 32) (s : State) : Res :=
  s.writeP c.val gu (opCmp 0x03 d.val a.val b.val gu) d.val (((s.g c.val a.val) &&& (s.g c.val b.val)) != 0)

/-- A predicate operation of group 0x01: the high bits of D, A and B must be 0. -/
def opPred (fn d a b : Nat) (gu : Guard) : Op :=
  { opRR 0x01 fn d a b gu with illegal := decide (8 ≤ d) || decide (8 ≤ a) || decide (8 ≤ b), reads := [32 + a, 32 + b], writes := [32 + d] }

/-- Predicate `k` of core `n`. -/
def State.p (s : State) (n k : Nat) : Bool := (s.core n).getP k

/-- R354: pd = pa & pb. -/
def execPand (c : Fin 16) (gu : Guard) (d a b : Fin 32) (s : State) : Res :=
  s.writeP c.val gu (opPred 0x08 d.val a.val b.val gu) d.val (s.p c.val a.val && s.p c.val b.val)

/-- R354: pd = pa | pb. -/
def execPor (c : Fin 16) (gu : Guard) (d a b : Fin 32) (s : State) : Res :=
  s.writeP c.val gu (opPred 0x09 d.val a.val b.val gu) d.val (s.p c.val a.val || s.p c.val b.val)

/-- R354: pd = pa ^ pb. -/
def execPxor (c : Fin 16) (gu : Guard) (d a b : Fin 32) (s : State) : Res :=
  s.writeP c.val gu (opPred 0x0A d.val a.val b.val gu) d.val (s.p c.val a.val != s.p c.val b.val)

/-- R354: gd bit k = pk; A and B must be 0. -/
def execPget (c : Fin 16) (gu : Guard) (d a b : Fin 32) (s : State) : Res :=
  s.writeG c.val gu { opRR 0x01 0x10 d.val a.val b.val gu with
    illegal := a.val != 0 || b.val != 0, reads := (upTo 8).map (32 + ·) } 1 d.val (pgetW (s.core c.val).p)

/-- R354: pk = ga bit k for k = 1–7; D and B must be 0. -/
def execPset (c : Fin 16) (gu : Guard) (d a b : Fin 32) (s : State) : Res :=
  s.compute c.val gu { opRR 0x01 0x11 d.val a.val b.val gu with
    illegal := d.val != 0 || b.val != 0, reads := [a.val], writes := (upTo 8).map (32 + ·) } 1 1
    (fun k => { k with p := psetP (s.g c.val a.val) })

/-- A compare with an immediate. -/
def opCmpi (op d a : Nat) (imm : BitVec 12) (gu : Guard) : Op :=
  { opRI op d a imm gu with illegal := decide (8 ≤ d), writes := [32 + d] }

/-- R353: pd = (ga == the sign-extended immediate). -/
def execCmpiEq (c : Fin 16) (gu : Guard) (d a : Fin 32) (imm : BitVec 12) (s : State) : Res :=
  s.writeP c.val gu (opCmpi 0x0F d.val a.val imm gu) d.val ((s.g c.val a.val) == immW imm)

/-- R353: pd = (ga < the sign-extended immediate), signed. -/
def execCmpiLt (c : Fin 16) (gu : Guard) (d a : Fin 32) (imm : BitVec 12) (s : State) : Res :=
  s.writeP c.val gu (opCmpi 0x10 d.val a.val imm gu) d.val (ltS (s.g c.val a.val) (immW imm))

/-- R353: pd = (ga < the sign-extended immediate), both unsigned. -/
def execCmpiLtu (c : Fin 16) (gu : Guard) (d a : Fin 32) (imm : BitVec 12) (s : State) : Res :=
  s.writeP c.val gu (opCmpi 0x11 d.val a.val imm gu) d.val (ltU (s.g c.val a.val) (immW imm))

/-! ## Multiply group, OP 0x02 (R355, R356) -/

/-- R356: gd = bits [63:0] of ga × gb. -/
def execMul (c : Fin 16) (gu : Guard) (d a b : Fin 32) (s : State) : Res :=
  s.writeG c.val gu { opRR 0x02 0x00 d.val a.val b.val gu with mul := true } 3 d.val (s.g c.val a.val * s.g c.val b.val)

/-- R356: gd = bits [127:64] of the signed product. -/
def execMulh (c : Fin 16) (gu : Guard) (d a b : Fin 32) (s : State) : Res :=
  s.writeG c.val gu { opRR 0x02 0x01 d.val a.val b.val gu with mul := true } 3 d.val (BitVec.ofInt 64 (asr (mulS (s.g c.val a.val) (s.g c.val b.val)) 64))

/-- R356: Q16.16, rounded and saturated (R355). -/
def execMulq (c : Fin 16) (gu : Guard) (d a b : Fin 32) (s : State) : Res :=
  s.writeG c.val gu { opRR 0x02 0x02 d.val a.val b.val gu with mul := true } 3 d.val (mulqW (s.g c.val a.val) (s.g c.val b.val))

/-- R356: gd = gd + bits [63:0] of ga × gb. A MAC back to back on one gd has a latency of 1 (R372). -/
def execMac (c : Fin 16) (gu : Guard) (d a b : Fin 32) (s : State) : Res :=
  let k := s.core c.val
  let acc := if k.readyAt (macKey d.val) = 0 then d.val else macKey d.val
  s.compute c.val gu { opRR 0x02 0x03 d.val a.val b.val gu with mul := true, reads := [a.val, b.val, acc] } 1 3
    (fun k' => { k'.setG d.val (s.g c.val d.val + s.g c.val a.val * s.g c.val b.val) with
      ready := if d.val = 0 then k'.ready else KMap.put (fun _ => 0) k'.ready (macKey d.val) k'.cyc })

/-- R356: gd = ga clamped to a signed number of B + 1 bits. -/
def execSat (c : Fin 16) (gu : Guard) (d a : Fin 32) (n : Fin 32) (s : State) : Res :=
  s.writeG c.val gu { opRR 0x02 0x04 d.val a.val n.val gu with mul := true, reads := [a.val] } 1 d.val (satW (n.val + 1) (s.g c.val a.val))

/-! ## Bit fields, OP 0x12–0x14 (R357) -/

/-- A bit-field instruction: POS + LEN above 64 raises ILLEGAL. -/
def opBF (op d a pos len : Nat) (gu : Guard) : Op :=
  { word := wordBF op d a pos len gu.val, illegal := decide (64 < pos + (len + 1)), reads := [a], writes := [d] }

/-- R357: the field, sign-extended. `len` is LEN − 1. -/
def execExt (c : Fin 16) (gu : Guard) (d a : Fin 32) (pos len : Fin 64) (s : State) : Res :=
  s.writeG c.val gu (opBF 0x12 d.val a.val pos.val len.val gu) 1 d.val (extW pos.val (len.val + 1) (s.g c.val a.val))

/-- R357: the field, zero-extended. -/
def execExtu (c : Fin 16) (gu : Guard) (d a : Fin 32) (pos len : Fin 64) (s : State) : Res :=
  s.writeG c.val gu (opBF 0x13 d.val a.val pos.val len.val gu) 1 d.val (extuW pos.val (len.val + 1) (s.g c.val a.val))

/-- R357: the low bits of ga are inserted into gd. -/
def execIns (c : Fin 16) (gu : Guard) (d a : Fin 32) (pos len : Fin 64) (s : State) : Res :=
  s.writeG c.val gu { opBF 0x14 d.val a.val pos.val len.val gu with reads := [a.val, d.val] } 1 d.val
    (insW pos.val (len.val + 1) (s.g c.val d.val) (s.g c.val a.val))

/-! ## Constants and addresses, OP 0x15–0x17 (R352) -/

/-- R352: gd = the sign-extended IMM17. -/
def execLi (c : Fin 16) (gu : Guard) (d : Fin 32) (imm : BitVec 17) (s : State) : Res :=
  s.writeG c.val gu { word := wordLU 0x15 d.val imm.toNat gu.val, writes := [d.val] } 1 d.val (imm.signExtend 64)

/-- R352: gd = (gd << 17) | IMM17. -/
def execLsh (c : Fin 16) (gu : Guard) (d : Fin 32) (imm : BitVec 17) (s : State) : Res :=
  s.writeG c.val gu { word := wordLU 0x16 d.val imm.toNat gu.val, reads := [d.val], writes := [d.val] } 1 d.val
    ((s.g c.val d.val <<< 17) ||| imm.zeroExtend 64)

/-- R352: gd = the address of this instruction + 4 × the sign-extended IMM17. -/
def execAddpc (c : Fin 16) (gu : Guard) (d : Fin 32) (imm : BitVec 17) (s : State) : Res :=
  s.writeG c.val gu { word := wordLU 0x17 d.val imm.toNat gu.val, writes := [d.val] } 1 d.val
    ((s.core c.val).pc + (imm.signExtend 64 <<< 2))

end Sys2Proof.Machine
end

