-- ==== Sys2Proof/Machine/Dispatch.lean ====
section
/-!
DEFINITION. exec: one arm per command, each a direct call of its meaning.
-/
namespace Sys2Proof.Machine

open Sys2Proof

def exec (i : Instr) (s : State) : Host.Outcome State Fault Refusal :=
  match i with
  | .registerWrite who addr v => Sys2Proof.Machine.execRegisterWrite who addr v s
  | .readClear who addr added => Sys2Proof.Machine.execReadClear who addr added s
  | .pairLoRead who addr => Sys2Proof.Machine.execPairLoRead who addr s
  | .pairLoWrite who addr v => Sys2Proof.Machine.execPairLoWrite who addr v s
  | .pairHiWrite who addr v => Sys2Proof.Machine.execPairHiWrite who addr v s
  | .catchStroke => Sys2Proof.Machine.execCatchStroke s
  | .strokeOutPulseEnd => Sys2Proof.Machine.execStrokeOutPulseEnd s
  | .finish => Sys2Proof.Machine.execFinish s
  | .tileTableRequest => Sys2Proof.Machine.execTileTableRequest s
  | .strokeRequestSubmit who v => Sys2Proof.Machine.execStrokeRequestSubmit who v s
  | .strokeRequestCheck => Sys2Proof.Machine.execStrokeRequestCheck s
  | .strokeNumberLoad who hi => Sys2Proof.Machine.execStrokeNumberLoad who hi s
  | .houseSyncEdge => Sys2Proof.Machine.execHouseSyncEdge s
  | .houseSyncMiss => Sys2Proof.Machine.execHouseSyncMiss s
  | .houseSyncTimeout => Sys2Proof.Machine.execHouseSyncTimeout s
  | .houseSyncRelockSeam => Sys2Proof.Machine.execHouseSyncRelockSeam s
  | .bondAdmission => Sys2Proof.Machine.execBondAdmission s
  | .flattenBuildDone first => Sys2Proof.Machine.execFlattenBuildDone first s
  | .holdWake => Sys2Proof.Machine.execHoldWake s
  | .quickModeEntry sh => Sys2Proof.Machine.execQuickModeEntry sh s
  | .bundleRender sh oar wait => Sys2Proof.Machine.execBundleRender sh oar wait s
  | .bandRowArrival sh oar => Sys2Proof.Machine.execBandRowArrival sh oar s
  | .checkCompare sh result => Sys2Proof.Machine.execCheckCompare sh result s
  | .shellCmdRetire who sh v => Sys2Proof.Machine.execShellCmdRetire who sh v s
  | .shellCmdRestore who sh v => Sys2Proof.Machine.execShellCmdRestore who sh v s
  | .oarSelfTest who sh oar v => Sys2Proof.Machine.execOarSelfTest who sh oar v s
  | .oarSelfTestDone sh oar pass => Sys2Proof.Machine.execOarSelfTestDone sh oar pass s
  | .rayCondition wait => Sys2Proof.Machine.execRayCondition wait s
  | .mapDataArrival => Sys2Proof.Machine.execMapDataArrival s
  | .strandFifoRoom k => Sys2Proof.Machine.execStrandFifoRoom k s
  | .mirrorStrokeComplete => Sys2Proof.Machine.execMirrorStrokeComplete s
  | .mapSetRequest => Sys2Proof.Machine.execMapSetRequest s
  | .curveSelection => Sys2Proof.Machine.execCurveSelection s
  | .wireFormatChange k => Sys2Proof.Machine.execWireFormatChange k s
  | .netFrameReceived n fcsOk frame => Sys2Proof.Machine.execNetFrameReceived n fcsOk frame s
  | .dscSliceStart => Sys2Proof.Machine.execDscSliceStart s
  | .dscSliceDone k => Sys2Proof.Machine.execDscSliceDone k s
  | .netLinkUp n speed => Sys2Proof.Machine.execNetLinkUp n speed s
  | .netLinkDown n => Sys2Proof.Machine.execNetLinkDown n s
  | .strandEnable who k v => Sys2Proof.Machine.execStrandEnable who k v s
  | .strandSenseEnd k signal => Sys2Proof.Machine.execStrandSenseEnd k signal s
  | .strandRxValid k line => Sys2Proof.Machine.execStrandRxValid k line s
  | .strandOpenTimeout k => Sys2Proof.Machine.execStrandOpenTimeout k s
  | .strandUp k => Sys2Proof.Machine.execStrandUp k s
  | .strandDisable who k v => Sys2Proof.Machine.execStrandDisable who k v s
  | .strandFaultDetect k kind => Sys2Proof.Machine.execStrandFaultDetect k kind s
  | .strandFaultRetry k gone => Sys2Proof.Machine.execStrandFaultRetry k gone s
  | .pinTest who k v => Sys2Proof.Machine.execPinTest who k v s
  | .pinTestDone k coupled => Sys2Proof.Machine.execPinTestDone k coupled s
  | .catchBrickSend k => Sys2Proof.Machine.execCatchBrickSend k s
  | .raysBrickSend k pos => Sys2Proof.Machine.execRaysBrickSend k pos s
  | .keepIdleSend k => Sys2Proof.Machine.execKeepIdleSend k s
  | .ackReceived k line => Sys2Proof.Machine.execAckReceived k line s
  | .echoCutoff k => Sys2Proof.Machine.execEchoCutoff k s
  | .rangeSend k => Sys2Proof.Machine.execRangeSend k s
  | .rangeRequest who k v => Sys2Proof.Machine.execRangeRequest who k v s
  | .rangeRReceived k line rt => Sys2Proof.Machine.execRangeRReceived k line rt s
  | .rangeTimeout k pos => Sys2Proof.Machine.execRangeTimeout k pos s
  | .mgmtDescriptor k => Sys2Proof.Machine.execMgmtDescriptor k s
  | .wackReceived k line => Sys2Proof.Machine.execWackReceived k line s
  | .readRReceived k head body => Sys2Proof.Machine.execReadRReceived k head body s
  | .eventBrickReceived k head body => Sys2Proof.Machine.execEventBrickReceived k head body s
  | .mgmtReplyTimeout k => Sys2Proof.Machine.execMgmtReplyTimeout k s
  | .censusPoll k => Sys2Proof.Machine.execCensusPoll k s
  | .censusWalk k => Sys2Proof.Machine.execCensusWalk k s
  | .censusSweep k => Sys2Proof.Machine.execCensusSweep k s
  | .censusQuery k => Sys2Proof.Machine.execCensusQuery k s
  | .censusReset k => Sys2Proof.Machine.execCensusReset k s
  | .censusIdentReceived k frame => Sys2Proof.Machine.execCensusIdentReceived k frame s
  | .censusReplyTimeout k => Sys2Proof.Machine.execCensusReplyTimeout k s
  | .censusOpDone k => Sys2Proof.Machine.execCensusOpDone k s
  | .censusPresence k => Sys2Proof.Machine.execCensusPresence k s
  | .censusAlert k frame => Sys2Proof.Machine.execCensusAlert k frame s
  | .syncReceived src transport msg => Sys2Proof.Machine.execSyncReceived src transport msg s
  | .followUpReceived src transport msg => Sys2Proof.Machine.execFollowUpReceived src transport msg s
  | .delayReqReceived src transport msg => Sys2Proof.Machine.execDelayReqReceived src transport msg s
  | .delayRespReceived src transport msg => Sys2Proof.Machine.execDelayRespReceived src transport msg s
  | .delayReqSend dom => Sys2Proof.Machine.execDelayReqSend dom s
  | .syncSend src dom => Sys2Proof.Machine.execSyncSend src dom s
  | .domainLossTimeout dom => Sys2Proof.Machine.execDomainLossTimeout dom s
  | .masterName who dom v => Sys2Proof.Machine.execMasterName who dom v s
  | .domainSwitch who v => Sys2Proof.Machine.execDomainSwitch who v s
  | .counterFar => Sys2Proof.Machine.execCounterFar s
  | .grandmasterEntry => Sys2Proof.Machine.execGrandmasterEntry s
  | .triggerClaim who n v => Sys2Proof.Machine.execTriggerClaim who n v s
  | .triggerFire n => Sys2Proof.Machine.execTriggerFire n s
  | .triggerPulseEnd n => Sys2Proof.Machine.execTriggerPulseEnd n s
  | .gpioClaim who n v => Sys2Proof.Machine.execGpioClaim who n v s
  | .captureEdge n rising => Sys2Proof.Machine.execCaptureEdge n rising s
  | .captureRead who n => Sys2Proof.Machine.execCaptureRead who n s
  | .ppsOutRise => Sys2Proof.Machine.execPpsOutRise s
  | .ppsOutEnd => Sys2Proof.Machine.execPpsOutEnd s
  | .refLock => Sys2Proof.Machine.execRefLock s
  | .refLoss => Sys2Proof.Machine.execRefLoss s
  | .mortarEnable who m v => Sys2Proof.Machine.execMortarEnable who m v s
  | .mortarRxAdapted m => Sys2Proof.Machine.execMortarRxAdapted m s
  | .mortarBlockLock m => Sys2Proof.Machine.execMortarBlockLock m s
  | .mortarBringupTimeout m signal => Sys2Proof.Machine.execMortarBringupTimeout m signal s
  | .mortarLockLoss m => Sys2Proof.Machine.execMortarLockLoss m s
  | .mortarDisable who m v => Sys2Proof.Machine.execMortarDisable who m v s
  | .mortarBlockReceived m mark head body check => Sys2Proof.Machine.execMortarBlockReceived m mark head body check s
  | .mortarFrameReceived m frame => Sys2Proof.Machine.execMortarFrameReceived m frame s
  | .helloSend m => Sys2Proof.Machine.execHelloSend m s
  | .helloLoss m => Sys2Proof.Machine.execHelloLoss m s
  | .mortarFrameSend m => Sys2Proof.Machine.execMortarFrameSend m s
  | .pointJob m => Sys2Proof.Machine.execPointJob m s
  | .pointJobDone m => Sys2Proof.Machine.execPointJobDone m s
  | .msgTx m => Sys2Proof.Machine.execMsgTx m s
  | .add c gu d a b => Sys2Proof.Machine.execAdd c gu d a b s
  | .sub c gu d a b => Sys2Proof.Machine.execSub c gu d a b s
  | .and c gu d a b => Sys2Proof.Machine.execAnd c gu d a b s
  | .or c gu d a b => Sys2Proof.Machine.execOr c gu d a b s
  | .xor c gu d a b => Sys2Proof.Machine.execXor c gu d a b s
  | .sll c gu d a b => Sys2Proof.Machine.execSll c gu d a b s
  | .srl c gu d a b => Sys2Proof.Machine.execSrl c gu d a b s
  | .sra c gu d a b => Sys2Proof.Machine.execSra c gu d a b s
  | .min c gu d a b => Sys2Proof.Machine.execMin c gu d a b s
  | .max c gu d a b => Sys2Proof.Machine.execMax c gu d a b s
  | .clz c gu d a b => Sys2Proof.Machine.execClz c gu d a b s
  | .popc c gu d a b => Sys2Proof.Machine.execPopc c gu d a b s
  | .addi c gu d a imm => Sys2Proof.Machine.execAddi c gu d a imm s
  | .andi c gu d a imm => Sys2Proof.Machine.execAndi c gu d a imm s
  | .ori c gu d a imm => Sys2Proof.Machine.execOri c gu d a imm s
  | .xori c gu d a imm => Sys2Proof.Machine.execXori c gu d a imm s
  | .slli c gu d a imm => Sys2Proof.Machine.execSlli c gu d a imm s
  | .srli c gu d a imm => Sys2Proof.Machine.execSrli c gu d a imm s
  | .srai c gu d a imm => Sys2Proof.Machine.execSrai c gu d a imm s
  | .cmpEq c gu d a b => Sys2Proof.Machine.execCmpEq c gu d a b s
  | .cmpLt c gu d a b => Sys2Proof.Machine.execCmpLt c gu d a b s
  | .cmpLtu c gu d a b => Sys2Proof.Machine.execCmpLtu c gu d a b s
  | .tst c gu d a b => Sys2Proof.Machine.execTst c gu d a b s
  | .pand c gu d a b => Sys2Proof.Machine.execPand c gu d a b s
  | .por c gu d a b => Sys2Proof.Machine.execPor c gu d a b s
  | .pxor c gu d a b => Sys2Proof.Machine.execPxor c gu d a b s
  | .pget c gu d a b => Sys2Proof.Machine.execPget c gu d a b s
  | .pset c gu d a b => Sys2Proof.Machine.execPset c gu d a b s
  | .cmpiEq c gu d a imm => Sys2Proof.Machine.execCmpiEq c gu d a imm s
  | .cmpiLt c gu d a imm => Sys2Proof.Machine.execCmpiLt c gu d a imm s
  | .cmpiLtu c gu d a imm => Sys2Proof.Machine.execCmpiLtu c gu d a imm s
  | .mul c gu d a b => Sys2Proof.Machine.execMul c gu d a b s
  | .mulh c gu d a b => Sys2Proof.Machine.execMulh c gu d a b s
  | .mulq c gu d a b => Sys2Proof.Machine.execMulq c gu d a b s
  | .mac c gu d a b => Sys2Proof.Machine.execMac c gu d a b s
  | .sat c gu d a n => Sys2Proof.Machine.execSat c gu d a n s
  | .ext c gu d a pos len => Sys2Proof.Machine.execExt c gu d a pos len s
  | .extu c gu d a pos len => Sys2Proof.Machine.execExtu c gu d a pos len s
  | .ins c gu d a pos len => Sys2Proof.Machine.execIns c gu d a pos len s
  | .li c gu d imm => Sys2Proof.Machine.execLi c gu d imm s
  | .lsh c gu d imm => Sys2Proof.Machine.execLsh c gu d imm s
  | .addpc c gu d imm => Sys2Proof.Machine.execAddpc c gu d imm s
  | .lb c gu d a imm => Sys2Proof.Machine.execLb c gu d a imm s
  | .lbu c gu d a imm => Sys2Proof.Machine.execLbu c gu d a imm s
  | .lh c gu d a imm => Sys2Proof.Machine.execLh c gu d a imm s
  | .lhu c gu d a imm => Sys2Proof.Machine.execLhu c gu d a imm s
  | .lw c gu d a imm => Sys2Proof.Machine.execLw c gu d a imm s
  | .lwu c gu d a imm => Sys2Proof.Machine.execLwu c gu d a imm s
  | .ld c gu d a imm => Sys2Proof.Machine.execLd c gu d a imm s
  | .loadReturn c => Sys2Proof.Machine.execLoadReturn c s
  | .sb c gu d a imm => Sys2Proof.Machine.execSb c gu d a imm s
  | .sh c gu d a imm => Sys2Proof.Machine.execSh c gu d a imm s
  | .sw c gu d a imm => Sys2Proof.Machine.execSw c gu d a imm s
  | .sd c gu d a imm => Sys2Proof.Machine.execSd c gu d a imm s
  | .aaddW c gu d a b => Sys2Proof.Machine.execAaddW c gu d a b s
  | .aaddD c gu d a b => Sys2Proof.Machine.execAaddD c gu d a b s
  | .aswapW c gu d a b => Sys2Proof.Machine.execAswapW c gu d a b s
  | .aswapD c gu d a b => Sys2Proof.Machine.execAswapD c gu d a b s
  | .acasW c gu d a b => Sys2Proof.Machine.execAcasW c gu d a b s
  | .acasD c gu d a b => Sys2Proof.Machine.execAcasD c gu d a b s
  | .atomicComplete c => Sys2Proof.Machine.execAtomicComplete c s
  | .b c gu off => Sys2Proof.Machine.execB c gu off s
  | .call c gu off => Sys2Proof.Machine.execCall c gu off s
  | .jr c gu a => Sys2Proof.Machine.execJr c gu a s
  | .jalr c gu d a => Sys2Proof.Machine.execJalr c gu d a s
  | .retE c gu => Sys2Proof.Machine.execRetE c gu s
  | .wait c gu d a b => Sys2Proof.Machine.execWait c gu d a b s
  | .waitTimeout c => Sys2Proof.Machine.execWaitTimeout c s
  | .tick c gu d => Sys2Proof.Machine.execTick c gu d s
  | .time c gu d => Sys2Proof.Machine.execTime c gu d s
  | .snap c gu => Sys2Proof.Machine.execSnap c gu s
  | .fence c gu => Sys2Proof.Machine.execFence c gu s
  | .flush c gu a mode => Sys2Proof.Machine.execFlush c gu a mode s
  | .halt c gu => Sys2Proof.Machine.execHalt c gu s
  | .csrr c gu d a cc => Sys2Proof.Machine.execCsrr c gu d a cc s
  | .csrw c gu d a cc => Sys2Proof.Machine.execCsrw c gu d a cc s
  | .sys c gu svc => Sys2Proof.Machine.execSys c gu svc s
  | .sysAnswer c status result => Sys2Proof.Machine.execSysAnswer c status result s
  | .sysTimeout c => Sys2Proof.Machine.execSysTimeout c s
  | .issue c gu a ring count => Sys2Proof.Machine.execIssue c gu a ring count s
  | .issueNb c gu a ring count => Sys2Proof.Machine.execIssueNb c gu a ring count s
  | .issueRoom c => Sys2Proof.Machine.execIssueRoom c s
  | .ring c gu d ring count => Sys2Proof.Machine.execRing c gu d ring count s
  | .budgetExhausted c => Sys2Proof.Machine.execBudgetExhausted c s
  | .coxHaltRequest who c => Sys2Proof.Machine.execCoxHaltRequest who c s
  | .coxResume who c => Sys2Proof.Machine.execCoxResume who c s
  | .coxReset who c => Sys2Proof.Machine.execCoxReset who c s
  | .coxSwapSubmit who c hi => Sys2Proof.Machine.execCoxSwapSubmit who c hi s
  | .ringConfigure who ring => Sys2Proof.Machine.execRingConfigure who ring s
  | .ringEnable who ring => Sys2Proof.Machine.execRingEnable who ring s
  | .ringDisable who ring => Sys2Proof.Machine.execRingDisable who ring s
  | .ringCiWrite who ring ci => Sys2Proof.Machine.execRingCiWrite who ring ci s
  | .softEventRaise who v => Sys2Proof.Machine.execSoftEventRaise who v s
  | .hostDoorbellProduce who ring count => Sys2Proof.Machine.execHostDoorbellProduce who ring count s
  | .hostDoorbellConsume who ring count => Sys2Proof.Machine.execHostDoorbellConsume who ring count s
  | .mailboxPost who n hi => Sys2Proof.Machine.execMailboxPost who n hi s
  | .mailboxTake who n => Sys2Proof.Machine.execMailboxTake who n s
  | .mailboxTimeout n => Sys2Proof.Machine.execMailboxTimeout n s
  | .mailboxWithdraw who n => Sys2Proof.Machine.execMailboxWithdraw who n s
  | .msixUnmask vec => Sys2Proof.Machine.execMsixUnmask vec s
  | .hostFlr => Sys2Proof.Machine.execHostFlr s
  | .hostLinkDown => Sys2Proof.Machine.execHostLinkDown s
  | .hostLinkUp speed lanes bme d3hot => Sys2Proof.Machine.execHostLinkUp speed lanes bme d3hot s
  | .hostCplTimeout unsupported => Sys2Proof.Machine.execHostCplTimeout unsupported s
  | .scrubRead ch addr err => Sys2Proof.Machine.execScrubRead ch addr err s
  | .trainingSession who ch on => Sys2Proof.Machine.execTrainingSession who ch on s
  | .trainingCapture who ch v => Sys2Proof.Machine.execTrainingCapture who ch v s
  | .captureEnd ch window => Sys2Proof.Machine.execCaptureEnd ch window s
  | .trainingSweep who ch v => Sys2Proof.Machine.execTrainingSweep who ch v s
  | .frequencyChange who ch idx => Sys2Proof.Machine.execFrequencyChange who ch idx s
  | .frequencyChangeDone ch => Sys2Proof.Machine.execFrequencyChangeDone ch s
  | .modeRegisterAccess who ch v => Sys2Proof.Machine.execModeRegisterAccess who ch v s
  | .rankPowerDown ch rank => Sys2Proof.Machine.execRankPowerDown ch rank s
  | .selfRefreshEntry ch => Sys2Proof.Machine.execSelfRefreshEntry ch s
  | .selfRefreshExit ch request => Sys2Proof.Machine.execSelfRefreshExit ch request s
  | .rankRetire who ch rank => Sys2Proof.Machine.execRankRetire who ch rank s
  | .migrationDone ch failed poisoned => Sys2Proof.Machine.execMigrationDone ch failed poisoned s
  | .trowelRingEnable who done v => Sys2Proof.Machine.execTrowelRingEnable who done v s
  | .trowelListStart => Sys2Proof.Machine.execTrowelListStart s
  | .trowelFill => Sys2Proof.Machine.execTrowelFill s
  | .trowelCopy => Sys2Proof.Machine.execTrowelCopy s
  | .trowelOver => Sys2Proof.Machine.execTrowelOver s
  | .trowelGlyph => Sys2Proof.Machine.execTrowelGlyph s
  | .trowelConvert => Sys2Proof.Machine.execTrowelConvert s
  | .trowelScale => Sys2Proof.Machine.execTrowelScale s
  | .trowelListDone => Sys2Proof.Machine.execTrowelListDone s
  | .trowelAbort who v rows => Sys2Proof.Machine.execTrowelAbort who v rows s
  | .zipRingEnable who e done v => Sys2Proof.Machine.execZipRingEnable who e done v s
  | .zipInflate e => Sys2Proof.Machine.execZipInflate e s
  | .zipDeflate e => Sys2Proof.Machine.execZipDeflate e s
  | .zipJobEnd e => Sys2Proof.Machine.execZipJobEnd e s
  | .zipSuspend e => Sys2Proof.Machine.execZipSuspend e s
  | .zipResume e => Sys2Proof.Machine.execZipResume e s
  | .zipAbort who e v made => Sys2Proof.Machine.execZipAbort who e v made s
  | .camPortEnable who p v => Sys2Proof.Machine.execCamPortEnable who p v s
  | .camRoute who p v => Sys2Proof.Machine.execCamRoute who p v s
  | .camFrameStart p vc fn => Sys2Proof.Machine.execCamFrameStart p vc fn s
  | .camLineReceived p pkt => Sys2Proof.Machine.execCamLineReceived p pkt s
  | .camFrameEnd p vc => Sys2Proof.Machine.execCamFrameEnd p vc s
  | .pipeBFrameTake => Sys2Proof.Machine.execPipeBFrameTake s
  | .pipeFrameDone k => Sys2Proof.Machine.execPipeFrameDone k s
  | .camSetseq who p v => Sys2Proof.Machine.execCamSetseq who p v s
  | .camApply who k v => Sys2Proof.Machine.execCamApply who k v s
  | .camApplyDone k => Sys2Proof.Machine.execCamApplyDone k s
  | .camPipeAbort who k v lines => Sys2Proof.Machine.execCamPipeAbort who k v lines s
  | .plumbRunRequest who v => Sys2Proof.Machine.execPlumbRunRequest who v s
  | .plumbRunStart => Sys2Proof.Machine.execPlumbRunStart s
  | .plumbRunEnd ok => Sys2Proof.Machine.execPlumbRunEnd ok s
  | .plumbRunTimeout => Sys2Proof.Machine.execPlumbRunTimeout s
  | .plumbAbort who v => Sys2Proof.Machine.execPlumbAbort who v s
  | .trimLoad who hi => Sys2Proof.Machine.execTrimLoad who hi s
  | .fiducialJobLoad => Sys2Proof.Machine.execFiducialJobLoad s
  | .powerOn rows unrepaired retrained => Sys2Proof.Machine.execPowerOn rows unrepaired retrained s
  | .powerLoss => Sys2Proof.Machine.execPowerLoss s
  | .warmReset => Sys2Proof.Machine.execWarmReset s
  | .resetNAssert => Sys2Proof.Machine.execResetNAssert s
  | .softReset who v => Sys2Proof.Machine.execSoftReset who v s
  | .powerFail => Sys2Proof.Machine.execPowerFail s
  | .powerFailRecovery => Sys2Proof.Machine.execPowerFailRecovery s
  | .showArm who => Sys2Proof.Machine.execShowArm who s
  | .showDisarm who => Sys2Proof.Machine.execShowDisarm who s
  | .kilnEvaluation mw model => Sys2Proof.Machine.execKilnEvaluation mw model s
  | .sensorRound temps volts => Sys2Proof.Machine.execSensorRound temps volts s
  | .flashTempRead word => Sys2Proof.Machine.execFlashTempRead word s
  | .i2cTransaction who b v => Sys2Proof.Machine.execI2cTransaction who b v s
  | .i2cDone b result data => Sys2Proof.Machine.execI2cDone b result data s
  | .otpEnrol who slot => Sys2Proof.Machine.execOtpEnrol who slot s
  | .otpRevoke who slot => Sys2Proof.Machine.execOtpRevoke who slot s
  | .otpRbAdvance who index value => Sys2Proof.Machine.execOtpRbAdvance who index value s
  | .otpLmsReserve who => Sys2Proof.Machine.execOtpLmsReserve who s
  | .otpOpDone => Sys2Proof.Machine.execOtpOpDone s
  | .imageVerify who hi => Sys2Proof.Machine.execImageVerify who hi s
  | .imageVerifyDone => Sys2Proof.Machine.execImageVerifyDone s
  | .attestation who hi => Sys2Proof.Machine.execAttestation who hi s
  | .attestationDone => Sys2Proof.Machine.execAttestationDone s
  | .lmsLoad who addrHi => Sys2Proof.Machine.execLmsLoad who addrHi s
  | .lmsSeal who addrHi => Sys2Proof.Machine.execLmsSeal who addrHi s
  | .debugChal who => Sys2Proof.Machine.execDebugChal who s
  | .debugUnlock who addrHi => Sys2Proof.Machine.execDebugUnlock who addrHi s
  | .debugRelock who => Sys2Proof.Machine.execDebugRelock who s
  | .ledgerRead who cs => Sys2Proof.Machine.execLedgerRead who cs s
  | .ledgerProgram who cs => Sys2Proof.Machine.execLedgerProgram who cs s
  | .ledgerErase4k who cs => Sys2Proof.Machine.execLedgerErase4k who cs s
  | .ledgerErase64k who cs => Sys2Proof.Machine.execLedgerErase64k who cs s
  | .ledgerOpDone failed => Sys2Proof.Machine.execLedgerOpDone failed s
  | .ledgerWindowRead addr => Sys2Proof.Machine.execLedgerWindowRead addr s
  | .snapTrigger who => Sys2Proof.Machine.execSnapTrigger who s
  | .snapEpoch => Sys2Proof.Machine.execSnapEpoch s
  | .snapDumpDone => Sys2Proof.Machine.execSnapDumpDone s
  | .pmcConfigWrite who index v => Sys2Proof.Machine.execPmcConfigWrite who index v s
  | .counterWrap index => Sys2Proof.Machine.execCounterWrap index s
  | .shadowRead who => Sys2Proof.Machine.execShadowRead who s
  | .upBrickDiscard k line => Sys2Proof.Machine.execUpBrickDiscard k line s
  | .gpioInputEdge n level => Sys2Proof.Machine.execGpioInputEdge n level s
  | .clockPresenceChange c present => Sys2Proof.Machine.execClockPresenceChange c present s
  | .flashReadingExpired => Sys2Proof.Machine.execFlashReadingExpired s
  | .dramChannelEnable who ch on => Sys2Proof.Machine.execDramChannelEnable who ch on s
  | .netPortEnable who n v => Sys2Proof.Machine.execNetPortEnable who n v s
  | .ptpDomainEnable who dom v => Sys2Proof.Machine.execPtpDomainEnable who dom v s
  | .selfRefreshExitDone ch => Sys2Proof.Machine.execSelfRefreshExitDone ch s
  | .modeRegisterAccessDone ch => Sys2Proof.Machine.execModeRegisterAccessDone ch s
  | .caparError ch rank => Sys2Proof.Machine.execCaparError ch rank s
  | .boundaryScanInstruction holds => Sys2Proof.Machine.execBoundaryScanInstruction holds s

end Sys2Proof.Machine
end

