-- ==== Sys2Proof/Machine/Tick.lean ====
section
/-!
DEFINITION. What happens by itself: on an empty queue 1 ns passes, and one thing that no command brings may happen in it. Which one, and
with what values, is free (DESIGN CHOICE, log entry 1).
-/
namespace Sys2Proof.Machine

open Sys2Proof

/-- Value `i` of the tick whose free number is `k`. -/
def tickNat (k i : Nat) : Nat := Config.freeFun .tick [k, i]

/-- The levels of the real-time ports are free, and so is whether a panic request waits; the ns in which one waited count (R422, R423). -/
def State.tickPanic (s : State) (k : Nat) : State := (s.panicTime (tickNat k 1)).panicShow (fun p => tickNat k (8 + p)) (tickNat k 2)

/-- A unit reads a yard word whose check bits report an error (R408). -/
def State.tickYard (s : State) (k : Nat) : State := s.yardRead (tickNat k 1 % 0x0E000000) (tickNat k 2 % 2 == 1)

/-- A unit reads a DRAM line whose codeword reports an error (R412). -/
def State.tickEcc (s : State) (k : Nat) : State :=
  let a := tickNat k 1
  if s.region a == .dram then
    let c := dramChannel a
    s.eccRead c a (if tickNat k 2 % 2 = 0 then .corrected (tickNat k 3 % s.drcDevices c) (if s.flag F.DRC_CFG_WIDTH c then 1 else tickNat k 4 % 8 + 1)
      else .uncorrectable (tickNat k 3) 0)
  else s

/-- What the network's receivers find while the port is enabled: at 100G and 50G RS code words corrected or not (R66, R89), and the high
bit-error state (R91). -/
def State.tickNet (s : State) (k : Nat) : State :=
  let n := tickNat k 1 % 4
  if s.flag F.NET_CTL_ENABLE n then
    let act := s.get F.NET_STAT_SPEED_ACT n
    let rate := if act = 0 then s.get F.NET_CTL_SPEED n else act
    let s := if rate = 1 ∨ rate = 2 then (s.incSat R.NET_FEC_CORR (tickNat k 2) n).incSat R.NET_FEC_UNCORR (tickNat k 3) n else s
    s.set F.NET_PCS_STAT_HI_BER (tickNat k 4 % 2) n
  else s

/-- What a mortar receiver measures, and the bit errors of the test modes of links and strands (R213, R305). -/
def State.tickLink (s : State) (k : Nat) : State :=
  let m := tickNat k 1 % 8
  let p := tickNat k 2 % 96
  let s := if s.flag F.MRT_CTL_ENABLE m then s.set F.MRT_RX_SNR_SNR (tickNat k 3) m else s
  let s := if s.mrtDiag m then s.incFld F.MRT_DIAG_PRBS_ERR (tickNat k 4) m else s
  let s := if s.strDiag p then s.incFld F.STR_DIAG_PRBS_ERR (tickNat k 5) p else s
  s.berSettle m

/-- What counter `i`'s unit works on: the class of its job, and the memory of it, addresses and lengths; none where it has no job that asks
for memory. The trowel's requests are class 3 (R450), a zip job's its own class (R461), render jobs and strand ray traffic class 0 (R48). For
other units the spec names neither. -/
def State.unitWork (s : State) (i k : Nat) : Option (Nat × List (Nat × Nat)) :=
  if i = 7 then s.trwNext.map (fun x =>
    let c := trwCmdOf (s.rdBytes x.2 128)
    (3, [(x.1.addr, 128 * x.1.count), (c.dst.plane0, c.dst.h * c.dst.pitch0), (c.dst.plane1, c.dst.h * c.dst.pitch1),
      (c.src.plane0, c.src.h * c.src.pitch0), (c.src.plane1, c.src.h * c.src.pitch1)]))
  else if 16 ≤ i ∧ i < 20 then (s.zipEng (i - 16)).job.map (fun j =>
    let d := s.zipJobDesc j
    (j.cls, [(j.desc, if j.entry.isNone then 128 else 0), (d.src, d.srcLen), (d.dst, d.dstLen), (d.state, 65536)]))
  else if 36 ≤ i ∧ i < 40 then
    (if s.render.showT.isSome || s.render.flats.any (fun f => !f.built) then some (0, s.usedPlanes ++ s.render.flats.map (fun f => (f.addr, f.size))) else none)
  else if 64 ≤ i ∧ i < 160 then (if (s.strand (i - 64)).fifo.isEmpty then none else some (0, []))
  else some (tickNat k 3 % 4, [])

/-- The attributes of a request of counter `i`'s unit (R561): an address in the memory of its job, where the spec says what that is. -/
def State.unitAttr (s : State) (i k : Nat) : Option Attr :=
  (s.unitWork i k).map (fun w =>
    let l := w.2.filter (fun r => r.2 != 0)
    let r := (l[tickNat k 6 % Nat.max 1 l.length]?).getD (tickNat k 4, 1)
    { req := some 18, cls := some w.1, addr := some (r.1 + tickNat k 7 % Nat.max 1 r.2) })

/-- The source of DRC_LTR_MIN that counter `i`'s unit is; a unit that R420 does not list counts as software. -/
def ltrUnit (i : Nat) : Nat :=
  if 36 ≤ i ∧ i < 40 then i - 35 else if 40 ≤ i ∧ i < 56 then 6 else if 8 ≤ i ∧ i < 16 then 7 else if 16 ≤ i ∧ i < 20 then 8 else if i = 7 then 9 else 0

/-- A unit that has a job reads or writes up to 64 bytes of memory (R48, R562); DRAM serves and counts it (R420, R429). -/
def State.tickTraffic (s : State) (k : Nat) : State :=
  let i := tickNat k 1 % 176
  let write := tickNat k 2 % 2 == 1
  match s.unitAttr i k with
  | none => s
  | some at' =>
    if 20 ≤ i ∧ i < 36 then s
    else
      let a := at'.addr.getD 0
      let s := s.count i (if write then 0x04 else 0x03) 1 at'
      if s.region a == .dram then s.dramTouch a (tickNat k 5 % 64 + 1) write at' (ltrUnit i) else s

/-- The events of counter `i` that only time brings: the unit's clock, waits, panic, and what the memory controller, the host link and a
full queue do between commands (R562, R563). -/
def timedEvent (i ev : Nat) : Bool :=
  ev == 0x05 || ev == 0x06 ||
  (i == 5 && (ev == 0x10 || ev == 0x11)) ||
  (decide (56 ≤ i ∧ i < 64) && decide (0x12 ≤ ev ∧ ev ≤ 0x15)) ||
  (decide (160 ≤ i) && ev == 0x15)

/-- The attributes of a timed event (R561, R562). -/
def timedAttr (k i ev : Nat) : Attr :=
  if ev = 0x05 then { cls := some (tickNat k 3 % 4) } else if 56 ≤ i ∧ i < 64 ∧ 0x10 ≤ ev then { req := some 18, cls := some (tickNat k 3 % 4), addr := some (tickNat k 4) } else {}

/-- A counter set to an event that time brings counts a free number of them. -/
def State.tickCount (s : State) (k : Nat) : State :=
  let i := tickNat k 1 % 176
  let ev := bitsOf (s.pmcCfg i) 0 8
  if timedEvent i ev then s.count i ev (tickNat k 2) (timedAttr k i ev) else s

/-- A unit's transfer through the host window ends in a poisoned completion, a timeout or an Unsupported Request (R394). -/
def State.tickHost (s : State) (k : Nat) : State :=
  if s.linkOff then s
  else if tickNat k 1 % 3 = 0 then s.set F.HOST_ERR_POISONED 1
  else ((s.incSat R.HOST_DMA_ERR).set (if tickNat k 1 % 3 = 1 then F.HOST_ERR_CPL_TIMEOUT else F.HOST_ERR_UR) 1).raise 0xEA

/-- A management brick whose turn has come on an idle lane leaves (R201). -/
def State.tickLane (s : State) (k : Nat) : State := if s.laneStart k ≤ s.nowQ then State.pumpMgmt 1 s k else s

/-! ## The record of a retirement (R136, R543–R546) -/

/-- The retirement region: the same flash address in both chip selects (R543). -/
def retireAt (cs : Nat) : Nat := flashAddr cs 0x430000

/-- A header and a payload of KIND 7 (R544). -/
def retireRecord (seq : Nat) (payload : List Byte) : List Byte :=
  let head := leBytes 4 0x1ED64EC0 ++ leBytes 4 (7 + 2 ^ 8) ++ leBytes 4 seq ++ leBytes 4 payload.length
  head ++ leBytes 4 (crc32c (head ++ payload)) ++ leBytes 44 0 ++ payload

/-- The sequence number of a valid copy (R545). -/
def State.retireSeq (s : State) (cs : Nat) : Option Nat :=
  let a := retireAt cs
  let n := s.rd32 (a + 12)
  if s.rd32 a = 0x1ED64EC0 ∧ s.rdB (a + 4) = 7#8 ∧ 64 + n ≤ 0x10000 ∧ s.rd32 (a + 16) = crc32c (s.rdBytes a 16 ++ s.rdBytes (a + 64) n) then
    some (s.rd32 (a + 8))
  else none

/-- Where the next record goes and its sequence number: the copy that is not the newest valid one, chip select 0 where neither is (R546). -/
def State.retireNext (s : State) : Nat × Nat :=
  match s.retireSeq 0, s.retireSeq 1 with
  | none, none => (0, 1)
  | some x, none => (1, (x + 1) % 2 ^ 32)
  | none, some y => (0, (y + 1) % 2 ^ 32)
  | some x, some y => if 1 ≤ (y + 2 ^ 32 - x) % 2 ^ 32 ∧ (y + 2 ^ 32 - x) % 2 ^ 32 ≤ 2 ^ 31 - 1 then (0, (y + 1) % 2 ^ 32) else (1, (x + 1) % 2 ^ 32)

/-- The retirement of an oar is recorded while R528 permits it: the record's sectors are erased and its pages programmed (R546). The
payload is free: the spec gives the record no layout. -/
def State.tickRetire (s : State) (k : Nat) : State :=
  if s.ledger.retired = 0 ∨ s.ledger.op.isSome ∨ s.ledgerWhy false ≠ 0 then s
  else
    let payload := (upTo (tickNat k 1 % (0x10000 - 63))).map (fun i => BitVec.ofNat 8 (tickNat k (2 + i)))
    let (cs, seq) := s.retireNext
    let image := retireRecord seq payload
    let a := retireAt cs
    let sectors := ceilDiv image.length 4096
    let pages := ceilDiv image.length 256
    let s := { s with mem := s.mem.filter (fun e => !(decide (a ≤ e.1) && decide (e.1 < a + 4096 * sectors))) }.putBytes a image
    let s := ((s.incSat R.LDG_ERASES sectors).incSat R.LDG_PROGS pages).count 3 0x10 pages
    { s with ledger := { s.ledger with retired := 0 } }

/-- What happens by itself in an idle ns: nothing, or one of these, by a free choice. -/
def State.tickEvent (s : State) (k : Nat) : State :=
  match tickNat k 0 % 12 with
  | 1 => s.tickPanic k
  | 2 => s.tickYard k
  | 3 => s.tickEcc k
  | 4 => s.tickNet k
  | 5 => s.tickLink k
  | 6 => s.tickTraffic k
  | 7 => s.tickCount k
  | 8 => s.tickHost k
  | 9 => s.tickRetire k
  | 10 => s.tickLane (tickNat k 1 % 96)
  | _ => s

/-- One ns of an idle block. While PWR_OK or RESET_N is low no unit runs (R510, R597). -/
def State.tick (s : State) : State :=
  let r := (s.advance 1).cyclesPass.free .tick
  if s.board.pwrOk && !s.board.resetLow then r.2.tickEvent r.1 else r.2

end Sys2Proof.Machine
end

