-- ==== Sys2Proof/Machine/Step.lean ====
section
/-!
DEFINITION. The step: the command at the front of the queue is performed; on an empty queue the block idles for 1 ns.
-/
namespace Sys2Proof.Machine

open Sys2Proof

/-- One step (DESIGN CHOICE, log entry 1: on an empty queue 1 ns passes, with what happens by itself in it). -/
def step (s : State) : Host.Outcome State Fault Refusal :=
  match s.pending with
  | [] => .next s.tick
  | c :: rest => exec c { s with pending := rest }

/-- The state with the command that a word of the table spells put at the front of the queue; the state itself where it spells none. -/
def State.withFetchWord (s : State) (nbits w : Nat) : State :=
  match decodeTableWord nbits w with
  | some c => { s with pending := c :: s.pending }
  | none => s

end Sys2Proof.Machine
end

