-- ==== Sys2Proof/Safety.lean ====
section
/-!
DEFINITION. What counts as a safe run, and the canonical form of the stores, in the terms that statements use.
-/
namespace Sys2Proof.Machine

open Sys2Proof

/-- An outcome that is a next state. -/
def Safe (r : Res) : Prop := ∃ t, r = .next t

/-- The canonical form of memory: addresses strictly rising, no entry equal to what an unlisted address reads as. -/
def Memory.wf (m : List Host.Cell) : Bool := KMap.wf memDefault m

/-- The registers that counters write by themselves: the programmable counters' pairs and PERF_OVF (R558, R566). -/
def counterReg (a : Nat) : Bool :=
  (upTo 176).any (fun i => a == pmcLoAddr i || a == pmcLoAddr i + 4) || (upTo 8).any (fun j => a == R.PERF_OVF.at 0 j)

/-- Every register outside `l` holds the same value, the counters apart. -/
def SameRegs (s t : State) (l : List Nat) : Prop := ∀ a, a ∉ l → counterReg a = false → t.rdReg a = s.rdReg a

/-- Every byte of memory reads the same. -/
def SameMem (s t : State) : Prop := ∀ a, t.rdB a = s.rdB a

/-- Whether `who` may write the register at `a` (R578, R579). -/
def State.mayWrite (s : State) (who : Requester) (a : Nat) : Bool :=
  match decodeReg a with
  | some h => s.regAllowed who h.block h.inst h.word true
  | none => true

/-- Whether `who` may read the register at `a` (R578, R579). -/
def State.mayRead (s : State) (who : Requester) (a : Nat) : Bool :=
  match decodeReg a with
  | some h => s.regAllowed who h.block h.inst h.word false
  | none => true

/-- Whether `who` may write `v` to the register at `a`, no reserved bit of it set (R5). -/
def State.mayPut (s : State) (who : Requester) (a : Nat) (v : RegWord) : Bool := s.mayWrite who a && !rsvdWritten a v

/-- Every byte of memory outside the ranges `l`, given as address and length, reads the same. -/
def SameMemBut (s t : State) (l : List (Nat × Nat)) : Prop := ∀ a, (∀ e ∈ l, a < e.1 ∨ e.1 + e.2 ≤ a) → t.rdB a = s.rdB a

/-- Whether the `n` bytes from `a` lie in the address space outside the host window and outside OTP, the boot ROM and flash (R394, R402). -/
def plainRange (a n : Nat) : Bool := decide (a + n ≤ 0x30000000) || (decide (0x40000000 ≤ a) && decide (a + n ≤ 0x80000000)) ||
  (decide (0x100000000 ≤ a) && decide (a + n ≤ 2 ^ 64))

/-- Whether a write of the register at `a` does no more than the types of its fields say (R5): registers whose write commands something,
halves of a pair and counter configurations apart, and the blocks that are not named here. -/
def plainWrite (h : RegHit) (a : Nat) : Bool :=
  !isLo a && !isHi a && (pmcIndexOf a).isNone && (match h.block with
    | .kiln => !([R.KLN_TH1.at 0 0, R.KLN_SFAULT.at 0 0, R.KLN_FLASH_CFG.at 0 0].contains a)
    | .plumb => !([R.PLB_CTL.at 0 0, R.PLB_RUN.at 0 0, R.PLB_FID_RING.at 0 0, R.PLB_FID_DONE.at 0 0].contains a)
    | .mbox => a != R.MBX_CTL.at h.inst 0 && a != R.MBX_CFG.at h.inst 0
    | .perf => a != R.PERF_CTL.at 0 0
    | .ledger => a != R.LDG_CMD.at 0 0
    | .net => a != R.NET_CTL.at h.inst 0
    | .zip => !([R.ZIP_CTL.at h.inst 0, R.ZIP_RING.at h.inst 0, R.ZIP_DONE.at h.inst 0].contains a)
    | .trowel => !([R.TRW_CTL.at 0 0, R.TRW_RING.at 0 0, R.TRW_DONE.at 0 0].contains a)
    | .cox => a != R.COX_CTL.at h.inst 0
    | .shell => a != R.SHL_CMD.at h.inst 0
    | .strand => !([R.STR_CTL.at h.inst 0, R.STR_RANGE.at h.inst 0, R.STR_PINTEST.at h.inst 0, R.STR_DIAG.at h.inst 0].contains a)
    | _ => false)

/-- The stroke status registers that follow HOUSE_SYNC, requests and holds (R54, R56, R57, R59). -/
def strokeRegs : List Nat :=
  [R.TIME_STK_STAT.at 0 0, R.TIME_STK_HOLD.at 0 0, R.TIME_STK_HS_STAT.at 0 0, R.TIME_STK_NEXT_LO.at 0 0, R.TIME_STK_NEXT_LO.at 0 0 + 4]

/-- Every register outside the blocks `l` holds the same value, the counters apart. -/
def SameBlocks (s t : State) (l : List Block) : Prop :=
  ∀ a, (∀ h, decodeReg a = some h → h.block ∉ l) → counterReg a = false → t.rdReg a = s.rdReg a

/-- A Sync with the delay `ms` from the master completes in domain `d` (R256): the exchange that ended since the last Sync joins the path
delay, and a Sync with a path delay is counted. -/
def State.SyncCompletes (s : State) (d : Nat) (ms : Int) (t : State) : Prop :=
  (t.dom d).lastSync = s.upNs ∧ (t.dom d).sync = none ∧ (t.dom d).sm = none ∧
  (t.dom d).mpdf = (match (s.dom d).sm with
    | none => (s.dom d).mpdf
    | some sm => match (s.dom d).mpdf with
      | none => some ((ms + sm) / 2)
      | some f => some (f + ((ms + sm) / 2 - f) / (2 ^ Nat.min 8 (s.get F.TIME_DOM_DLY_DLY_LOG 0 d) : Nat))) ∧
  t.rd R.TIME_DOM_SYNC_CNT 0 d =
    (if (t.dom d).mpdf.isSome then (s.rd R.TIME_DOM_SYNC_CNT 0 d + 1) % 2 ^ 32 else s.rd R.TIME_DOM_SYNC_CNT 0 d) ∧
  SameBlocks s t [.time] ∧ SameMem s t

/-- Whether the ray at the head of conditioning's queue need not wait for its strand: no device shows it, its strand is not UP, or the
strand's FIFO has room for it (R203). -/
def State.roomFor (s : State) (r : Ray) : Bool :=
  match s.tileOfRay r.addr with
  | none => true
  | some t =>
    match s.deviceOf t (r.addr - t.base) with
    | none => true
    | some (pos, off, _) => s.strState t.strand != strUp ||
        decide (s.slotBytes t.strand ((s.strand t.strand).fifo.length + (if off = 0 then 1 + s.devSpares t.strand pos else 2)) ≤ 262144)

/-- The canonical form of the register store. -/
def Registers.wf (m : KMap RegWord) : Bool := KMap.wf regReset m

/-! ## Cores -/

/-- Two cores alike in privilege, in the control registers of R307, event latches apart, in what they run or wait for, and in an open atomic. -/
def SameCtl (x y : Core) : Prop :=
  y.priv = x.priv ∧ y.ppriv = x.ppriv ∧ y.inexc = x.inexc ∧ y.epc = x.epc ∧ y.cause = x.cause ∧ y.tval = x.tval ∧ y.tvec = x.tvec ∧
    y.scratch = x.scratch ∧ y.umask = x.umask ∧ y.watch0 = x.watch0 ∧ y.watch1 = x.watch1 ∧ y.evslot = x.evslot ∧ y.budget = x.budget ∧
    y.run = x.run ∧ y.wait = x.wait ∧ y.atomic = x.atomic

/-- Every core but `n` keeps its registers, one in WAIT apart: an event may end its wait (R321). -/
def SameOthers (s t : State) (n : Nat) : Prop :=
  ∀ m, m ≠ n → (∀ d k l, (s.core m).wait ≠ .wait d k l) →
    SameCtl (s.core m) (t.core m) ∧ (t.core m).g = (s.core m).g ∧ (t.core m).p = (s.core m).p ∧ (t.core m).pc = (s.core m).pc

/-- Core `n` went on at `pc`; general registers outside `gs`, predicates outside `ps`, the control registers and the other cores are kept. -/
def Ran (s t : State) (n : Nat) (pc : Word) (gs ps : List Nat) : Prop :=
  (t.core n).pc = pc ∧ (∀ k, k ∉ gs → t.g n k = s.g n k) ∧ (∀ k, k < 8 → k ∉ ps → t.p n k = s.p n k) ∧
    SameCtl (s.core n) (t.core n) ∧ SameOthers s t n

/-- The registers that record an exception of core `n` (R328, R343), with the budget's bit. -/
def excRegs (n : Nat) : List Nat :=
  [R.COX_STAT.at n 0, R.COX_EXC.at n 0, R.COX_EXC_PC_LO.at n 0, R.COX_EXC_PC_LO.at n 0 + 4, R.COX_EXC_ADDR_LO.at n 0,
    R.COX_EXC_ADDR_LO.at n 0 + 4]

/-- Core `n` took an exception as R328 says, and nothing else changed. -/
def Took (s t : State) (n cause : Nat) (epc tval : Word) : Prop :=
  (t.core n).epc = epc ∧ (t.core n).cause = cause ∧ (t.core n).tval = tval ∧ (t.core n).ppriv = (s.core n).priv.code ∧
    (t.core n).priv = (if n < 4 then .w else .m) ∧ (t.core n).inexc = true ∧ (t.core n).pc = (s.core n).tvec &&& ~~~3 ∧
    t.get F.COX_EXC_CAUSE n = cause ∧ t.get F.COX_EXC_PRIV n = (s.core n).priv.code ∧
    t.get F.COX_EXC_COUNT n = Nat.min (s.get F.COX_EXC_COUNT n + 1) 65535 ∧
    t.rd64 R.COX_EXC_PC_LO n = epc.toNat ∧ t.rd64 R.COX_EXC_ADDR_LO n = tval.toNat ∧
    (∀ k, t.g n k = s.g n k) ∧ (∀ k, t.p n k = s.p n k) ∧ SameOthers s t n ∧ SameRegs s t (excRegs n) ∧ SameMem s t

/-- Core `n` stopped in a double fault (R328), and nothing else changed. -/
def DoubleFault (s t : State) (n : Nat) : Prop :=
  (t.core n).run = .faulted ∧ t.get F.COX_STAT_DOUBLE n = 1 ∧ (t.core n).pc = (s.core n).pc ∧ (t.core n).epc = (s.core n).epc ∧
    (∀ k, t.g n k = s.g n k) ∧ (∀ k, t.p n k = s.p n k) ∧ SameOthers s t n ∧ SameRegs s t (excRegs n) ∧ SameMem s t

/-- Core `n` takes the exception, or stops in a double fault where INEXC is already 1 (R328). -/
def Raises (r : Res) (s : State) (n cause : Nat) (epc tval : Word) : Prop :=
  ∃ t, r = .next t ∧ (if (s.core n).inexc then DoubleFault s t n else Took s t n cause epc tval)

/-- A poisoned read of core `n` at `p` ends in ACCESS (R358, R409), the channel's error registers having counted it, those of the yard at least
once more (R408, R412). -/
def PoisonRaises (r : Res) (s : State) (n p : Nat) (epc tval : Word) : Prop :=
  ∃ u, u.cores = s.cores ∧ SameBlocks s u [.dramc, .cox] ∧ SameMem s u ∧
    (s.region p = .yard → Nat.min (s.rd R.DRC_YARD_UE + 1) 0xFFFFFFFF ≤ u.rd R.DRC_YARD_UE) ∧ Raises r u n causeAccess epc tval

/-- Whether the operands of a Grasin instruction make an encoding that raises ILLEGAL (R347, R354, R357, R367, R369). -/
def illegalCode : Instr → Bool
  | .clz _ _ _ _ b => b.val != 0
  | .popc _ _ _ _ b => b.val != 0
  | .slli _ _ _ _ imm => decide (64 ≤ imm.toNat)
  | .srli _ _ _ _ imm => decide (64 ≤ imm.toNat)
  | .srai _ _ _ _ imm => decide (64 ≤ imm.toNat)
  | .cmpEq _ _ d _ _ => decide (8 ≤ d.val)
  | .cmpLt _ _ d _ _ => decide (8 ≤ d.val)
  | .cmpLtu _ _ d _ _ => decide (8 ≤ d.val)
  | .tst _ _ d _ _ => decide (8 ≤ d.val)
  | .pand _ _ d a b => decide (8 ≤ d.val) || decide (8 ≤ a.val) || decide (8 ≤ b.val)
  | .por _ _ d a b => decide (8 ≤ d.val) || decide (8 ≤ a.val) || decide (8 ≤ b.val)
  | .pxor _ _ d a b => decide (8 ≤ d.val) || decide (8 ≤ a.val) || decide (8 ≤ b.val)
  | .pget _ _ _ a b => a.val != 0 || b.val != 0
  | .pset _ _ d _ b => d.val != 0 || b.val != 0
  | .cmpiEq _ _ d _ _ => decide (8 ≤ d.val)
  | .cmpiLt _ _ d _ _ => decide (8 ≤ d.val)
  | .cmpiLtu _ _ d _ _ => decide (8 ≤ d.val)
  | .ext _ _ _ _ pos len => decide (64 < pos.val + len.val + 1)
  | .extu _ _ _ _ pos len => decide (64 < pos.val + len.val + 1)
  | .ins _ _ _ _ pos len => decide (64 < pos.val + len.val + 1)
  | .flush _ _ a mode => decide (8 ≤ mode.val) || ([3, 4, 5, 7].contains mode.val && a.val != 0)
  | .csrr _ _ _ a cc => !ccKnown cc.toNat || a.val != 0
  | .csrw _ _ _ _ cc => !ccKnown cc.toNat
  | _ => false

/-- Whether a Grasin instruction raises PRIV at U (R370). -/
def uForbidden : Instr → Bool
  | .csrw _ _ _ _ _ => true
  | .sys _ _ _ => true
  | .retE _ _ => true
  | .halt _ _ => true
  | .flush _ _ _ mode => mode.val == 1 || mode.val == 4
  | .csrr _ _ _ _ cc => !ccUser cc.toNat
  | _ => false

/-- Whether core `n` fetches at its pc: it runs and waits for nothing, no BUDGET is due, and the address may be fetched (R309–R312, R325). -/
def State.fetches (s : State) (n : Nat) : Bool := (s.core n).idle && !s.budgetActs n && s.mayFetch n (s.core n).pc.toNat

/-- Whether the guard of an instruction word holds on core `n` (R346). -/
def State.guardOf (s : State) (n w : Nat) : Bool := s.p n (w % 8) != bitAt w 3

/-- Whether the core of a Grasin instruction runs it to its own effect: it fetches, and neither ILLEGAL, PRIV, the guard nor WATCH on
execute stops it (R327). -/
def State.runs (s : State) (i : Instr) : Bool :=
  match encodeGrasin i with
  | none => false
  | some (n, w) => s.fetches n.val && !illegalCode i && !(uForbidden i && (s.core n.val).priv == .u) && s.guardOf n.val w &&
      !(s.core n.val).watched 62 (s.core n.val).pc.toNat

end Sys2Proof.Machine
end

