-- ==== Sys2Proof/Certificates/Slice0/Obligations.lean ====
section
/-!
DEFINITION. The statements that the provers are asked to prove: what the commands of each family do, where they complete, and what they leave
unchanged.
-/

open Sys2Proof Sys2Proof.Machine

/-- For every command c and state with c at the front of its queue, step is exec of c on the state with the queue's rest. On an empty queue one
nanosecond of the local timebase passes, and the queue stays empty (the model's choice, log entry 1). -/
def Obligations.StepRunsFrontCommand : Prop :=
  ∀ s : State, (∀ (c : Instr) (q : List Instr), s.pending = c :: q → step s = exec c { s with pending := q }) ∧
    (s.pending = [] → ∃ t, step s = .next t ∧ t.pending = [] ∧ t.upQ = s.upQ + 2 ^ 32)

/-- Right after reset core 0 runs at W and every other core is halted, the registers read their reset values (shown for fields of several blocks and
for the registers of every core), no command waits, and both stores are canonical. That core 0 starts at the first word of the boot ROM is the model's
choice, log entry 4. -/
def Obligations.ResetValues : Prop :=
  (∀ c : Fin 16, State.reset.get F.COX_CTL_RUN c.val = (if c.val = 0 then 1 else 0) ∧
    State.reset.get F.COX_STAT_STATE c.val = (if c.val = 0 then 1 else 0) ∧ State.reset.get F.COX_STAT_PRIV c.val = (if c.val = 0 then 2 else 0) ∧
    (State.reset.core c.val).run = (if c.val = 0 then .running else .halted) ∧ (State.reset.core c.val).wait = .none ∧
    (∀ k, State.reset.g c.val k = 0) ∧ (∀ k, 1 ≤ k → State.reset.p c.val k = false) ∧ State.reset.p c.val 0 = true) ∧
  (State.reset.core 0).pc = 0x30000000 ∧ (State.reset.core 0).priv = .w ∧
  State.reset.get F.TIME_STK_REQ_RATE = 14 ∧ State.reset.get F.TIME_STK_WIN_RECOVERY_US = 416 ∧ State.reset.get F.TIME_STK_STAT_STATE = 0 ∧
  State.reset.get F.ING_UDP_PORT = 9600 ∧ State.reset.get F.KLN_TH0_WARN = 0x5F00 ∧ State.reset.get F.KLN_TH1_TRIP = 0x7600 ∧
  State.reset.get F.GLB_ID_PART = 0x960 ∧ State.reset.get F.GLB_RST_CAUSE_CAUSE = 1 ∧ State.reset.get F.GLB_SHOW_STATE = 0 ∧
  (∀ k : Fin 96, State.reset.get F.STR_CATCH_MARGIN_US k.val = 10 ∧ State.reset.get F.STR_STAT_STATE k.val = 0) ∧
  (∀ n : Fin 64, State.reset.get F.MBX_STAT_FULL n.val = 0) ∧ (∀ e : Fin 4, State.reset.rd R.ZIP_CTL e.val = 5) ∧
  (∀ r : Fin 8192, State.reset.ringEn r.val = false ∧ State.reset.ringPI r.val = 0) ∧
  State.reset.pending = [] ∧ Memory.wf State.reset.mem = true ∧ Registers.wf State.reset.regs = true

/-- The seven words of the stroke loop in the Grasin reference and the canonical NOP decode to the instructions it writes beside them; 0xFFFF_FFFF
decodes to none. -/
def Obligations.InstructionWords : Prop :=
  ∀ c : Fin 16, decodeGrasin c 0x54A80100 = some (.li c 0 5 0x8010) ∧ decodeGrasin c 0x58A00400 = some (.lsh c 0 5 0x40) ∧
    decodeGrasin c 0x10200090 = some (.tick c 0 1) ∧ decodeGrasin c 0x78540100 = some (.ld c 0 2 20 16) ∧
    decodeGrasin c 0x3C220000 = some (.cmpiEq c 0 1 2 0) ∧ decodeGrasin c 0xC2900409 = some (.issue c 9 20 4100 0) ∧
    decodeGrasin c 0xA3FFFFC0 = some (.b c 0 (-4)) ∧ decodeGrasin c 0x00000008 = some (.add c 8 0 0 0) ∧ decodeGrasin c 0xFFFFFFFF = none

/-- A write of a register that has no command of its own sets its RW fields, clears the W1C bits written 1, sets the W1S bits written 1, leaves every
other field, and changes no other register and no memory. An aligned write that R578 and R579 do not allow is ignored when the host or the debug port
makes it; from a core outside an exception the core takes ACCESS with the address as cc.TVAL, and the register keeps its value. -/
def Obligations.RegisterAccess : Prop :=
  (∀ (s : State) (who : Requester) (a : Nat) (v : RegWord) (h : RegHit) (r : RegDef),
     a % 4 = 0 → decodeReg a = some h → h.row = some r → plainWrite h a = true → s.mayPut who a v = true →
     ∃ t, exec (.registerWrite who a v) s = .next t ∧
       (∀ f ∈ r.fields, bitsOf (t.rdReg a).toNat f.lsb f.width = match f.ty with
         | .rw => bitsOf v.toNat f.lsb f.width
         | .w1c => bitsOf (s.rdReg a).toNat f.lsb f.width &&& (2 ^ f.width - 1 - bitsOf v.toNat f.lsb f.width)
         | .w1s => bitsOf (s.rdReg a).toNat f.lsb f.width ||| bitsOf v.toNat f.lsb f.width
         | _ => bitsOf (s.rdReg a).toNat f.lsb f.width) ∧
       SameRegs s t [a] ∧ SameMem s t) ∧
  (∀ (s : State) (who : Requester) (a : Nat) (v : RegWord) (h : RegHit), a % 4 = 0 → decodeReg a = some h → s.mayWrite who a = false →
     match who with
     | .core n => (s.core n.val).inexc = false →
         ∃ t, exec (.registerWrite who a v) s = .next t ∧ (t.core n.val).cause = causeAccess ∧ (t.core n.val).tval = BitVec.ofNat 64 a ∧
           (t.core n.val).epc = (s.core n.val).pc ∧
           SameRegs s t [R.COX_EXC.at n.val 0, R.COX_EXC_PC_LO.at n.val 0, R.COX_EXC_PC_LO.at n.val 0 + 4, R.COX_EXC_ADDR_LO.at n.val 0,
             R.COX_EXC_ADDR_LO.at n.val 0 + 4] ∧ SameMem s t
     | _ => exec (.registerWrite who a v) s = .next s)

/-- At an offset that no chapter defines, inside a block's range or, in the register window, outside every block, a write changes nothing and a read
returns 0, by a requester that may access it. -/
def Obligations.UndefinedOffsetReadsZero : Prop :=
  ∀ (s : State) (who : Requester) (a : Nat) (v added : RegWord), a % 4 = 0 →
    (match decodeReg a with
      | some h => h.row = none ∧ s.mayWrite who a = true ∧ s.mayRead who a = true
      | none => onBus who a = false ∧ (match who with
        | .core n => (s.core n.val).priv = .w
        | _ => True)) →
    exec (.registerWrite who a v) s = .next s ∧
    ∃ t, exec (.readClear who a added) s = .next t ∧ t.readData = 0 ∧ SameRegs s t [] ∧ SameMem s t

/-- A read of one of the RC error counters of a network port returns the count and leaves it at the counts that hardware added in the same cycle. A
write of a _LO register loads the requester's holding register and nothing else; a write of _HI writes the held _LO and the written _HI together and
keeps the holding register (shown on the output and statistics addresses of a camera pipe). A read of STR_TX_BRICKS_LO returns it, and every later
read of its _HI by the same requester, while it reads no other _LO, returns the half as it stood at that read. -/
def Obligations.RegisterPairs : Prop :=
  (∀ (s : State) (who : Requester) (p : Fin 4) (added : RegWord),
     ∀ r ∈ [R.NET_FEC_CORR, R.NET_FEC_UNCORR, R.NET_RX_BAD, R.NET_RX_OVERSIZE, R.NET_LINK_DOWN, R.NET_PAUSE_RX, R.NET_IP_ERR],
     s.mayRead who (r.at p.val 0) = true →
     ∃ t, exec (.readClear who (r.at p.val 0) added) s = .next t ∧ t.readData = s.rd r p.val ∧ t.rd r p.val = added.toNat ∧
       SameRegs s t [r.at p.val 0] ∧ SameMem s t) ∧
  ((∀ (s : State) (who : Requester) (a : Nat) (v : RegWord) (h : RegHit) (r : RegDef), a % 4 = 0 → isLo a = true → decodeReg a = some h →
     h.row = some r → h.block ≠ .ring → s.mayPut who a v = true →
     ∃ t, exec (.pairLoWrite who a v) s = .next t ∧ t.held who a = v.toNat ∧
       (∀ w b, pairKey w b ≠ pairKey who a → t.held w b = s.held w b) ∧ SameRegs s t [] ∧ SameMem s t) ∧
   (∀ (s : State) (who : Requester) (k : Fin 2) (v : RegWord), s.mayPut who (R.CAM_K_SHADE_LO.at k.val 0 + 4) v = true →
     ∃ t, exec (.pairHiWrite who (R.CAM_K_SHADE_LO.at k.val 0 + 4) v) s = .next t ∧
       (∀ f ∈ fieldsAt (R.CAM_K_SHADE_LO.at k.val 0), f.ty = .rw →
         bitsOf (t.rd R.CAM_K_SHADE_LO k.val) f.lsb f.width = bitsOf (s.held who (R.CAM_K_SHADE_LO.at k.val 0)) f.lsb f.width) ∧
       (∀ f ∈ fieldsAt (R.CAM_K_SHADE_LO.at k.val 0 + 4), f.ty = .rw →
         bitsOf (t.rdReg (R.CAM_K_SHADE_LO.at k.val 0 + 4)).toNat f.lsb f.width = bitsOf v.toNat f.lsb f.width) ∧
       t.held who (R.CAM_K_SHADE_LO.at k.val 0) = s.held who (R.CAM_K_SHADE_LO.at k.val 0) ∧
       SameRegs s t [R.CAM_K_SHADE_LO.at k.val 0, R.CAM_K_SHADE_LO.at k.val 0 + 4] ∧ SameMem s t)) ∧
  (∀ (s : State) (who : Requester) (k : Fin 96), s.mayRead who (R.STR_TX_BRICKS_LO.at k.val 0) = true →
     ∃ t, exec (.pairLoRead who (R.STR_TX_BRICKS_LO.at k.val 0)) s = .next t ∧ t.readData = s.rd R.STR_TX_BRICKS_LO k.val ∧
       SameRegs s t [] ∧ SameMem s t ∧
       ∀ (u : State) (added : RegWord), u.latches = t.latches → u.mayRead who (R.STR_TX_BRICKS_LO.at k.val 0 + 4) = true →
         ∃ w, exec (.readClear who (R.STR_TX_BRICKS_LO.at k.val 0 + 4) added) u = .next w ∧
           w.readData = (s.rdReg (R.STR_TX_BRICKS_LO.at k.val 0 + 4)).toNat)

/-- From ABSENT an edge enters LOCKING with PERIOD 0; a tracked edge within 1 us of the prediction is accepted (LOCKED, MISSES 0) and one outside is
ignored; a missed slot counts and enters FLYWHEEL, the eighth gives ABSENT; the timeout gives ABSENT; the relock seam is accepted as the device's own.
Registers other than the stroke status registers and all memory stay (R36, R37, R59). -/
def Obligations.HouseSync : Prop :=
  (∀ s : State, s.hsState = hsAbsent →
    ∃ t, exec .houseSyncEdge s = .next t ∧ t.hsState = hsLocking ∧ t.get F.TIME_STK_HS_STAT_PERIOD = 0 ∧ t.stroke.hsLast = s.upNs ∧
      t.get F.TIME_STK_HS_STAT_MISSES = s.get F.TIME_STK_HS_STAT_MISSES ∧ SameRegs s t strokeRegs ∧ SameMem s t) ∧
  (∀ s : State, s.hsTracks = true → s.hsState = hsLocked ∨ s.hsState = hsFlywheel →
    ((12 * s.upNs : Nat) - s.stroke.hsPred : Int).natAbs ≤ 12000 →
    ∃ t, exec .houseSyncEdge s = .next t ∧ t.hsState = hsLocked ∧ t.get F.TIME_STK_HS_STAT_MISSES = 0 ∧ t.stroke.hsLast = s.upNs ∧
      SameRegs s t strokeRegs ∧ SameMem s t) ∧
  (∀ s : State, s.hsTracks = true → s.hsState = hsLocked ∨ s.hsState = hsFlywheel →
    12000 < ((12 * s.upNs : Nat) - s.stroke.hsPred : Int).natAbs → exec .houseSyncEdge s = .next s) ∧
  (∀ s : State, s.hsTracks = true → s.hsState = hsLocked ∨ s.hsState = hsFlywheel →
    ∃ t, exec .houseSyncMiss s = .next t ∧
      (if s.get F.TIME_STK_HS_STAT_MISSES < 7 then
        t.hsState = hsFlywheel ∧ t.get F.TIME_STK_HS_STAT_MISSES = s.get F.TIME_STK_HS_STAT_MISSES + 1
       else t.hsState = hsAbsent) ∧ SameRegs s t strokeRegs ∧ SameMem s t) ∧
  (∀ s : State, s.hsState = hsLocking ∨ (s.hsState = hsLocked ∧ s.hsTracks = false) →
    ∃ t, exec .houseSyncTimeout s = .next t ∧ t.hsState = hsAbsent ∧ t.stroke.relock = false ∧ SameRegs s t strokeRegs ∧ SameMem s t) ∧
  (∀ s : State, s.stroke.relock = true → s.stroke.recovery = true → s.stroke.req = none → s.stroke.accept = none → s.stroke.trans = none →
    s.get F.TIME_STK_STAT_SOURCE = 2 → s.hsState = hsLocked ∨ s.hsState = hsFlywheel → s.flag F.TIME_STK_HS_STAT_MISMATCH = false →
    ∃ t a, exec .houseSyncRelockSeam s = .next t ∧ t.stroke.accept = some a ∧ a.rate = s.get F.TIME_STK_STAT_RATE ∧ a.source = 2 ∧
      a.seam = true ∧ a.own = true ∧ t.stroke.relock = false ∧ t.get F.TIME_STK_STAT_STATE = 1 ∧ SameRegs s t strokeRegs ∧ SameMem s t)

/-- A write of TIME_STK_REQ with GO latches the request, or is answered BUSY (RESULT 4) while one is pending; in the recovery window the check ends
the request with the first failing check, or with 0 and an accepted change of that rate and source; a write of TIME_STK_NUM_HI sets the next catch's
number, except under SOURCE 1 (R38, R50). -/
def Obligations.StrokeRequests : Prop :=
  (∀ (s : State) (who : Requester) (v : RegWord), s.mayPut who (R.TIME_STK_REQ.at 0 0) v = true → bitAt v.toNat 31 = true →
    s.get F.TIME_STK_STAT_STATE ≠ 1 → s.get F.TIME_STK_STAT_STATE ≠ 2 →
    ∃ t, exec (.strokeRequestSubmit who v) s = .next t ∧
      t.stroke.req = some ⟨bitsOf v.toNat 0 5, bitsOf v.toNat 5 2, bitsOf v.toNat 8 13, bitsOf v.toNat 21 10⟩ ∧
      t.stroke.reqLate = s.stroke.recovery ∧ SameRegs s t (R.TIME_STK_REQ.at 0 0 :: strokeRegs) ∧ SameMem s t) ∧
  (∀ (s : State) (who : Requester) (v : RegWord), s.mayPut who (R.TIME_STK_REQ.at 0 0) v = true → bitAt v.toNat 31 = true →
    s.get F.TIME_STK_STAT_STATE = 1 ∨ s.get F.TIME_STK_STAT_STATE = 2 →
    ∃ t, exec (.strokeRequestSubmit who v) s = .next t ∧ t.get F.TIME_STK_STAT_RESULT = 4 ∧ t.stroke = s.stroke ∧
      SameRegs s t (R.TIME_STK_REQ.at 0 0 :: strokeRegs) ∧ SameMem s t) ∧
  (∀ (s : State) (r : StrokeReq), s.stroke.req = some r → s.stroke.recovery = true → s.stroke.reqLate = false →
    ∃ t, exec .strokeRequestCheck s = .next t ∧ t.stroke.req = none ∧ t.get F.TIME_STK_STAT_RESULT = s.stkCheck r % 8 ∧
      (if s.stkCheck r = 0 then ∃ a, t.stroke.accept = some a ∧ a.rate = r.rate ∧ a.source = r.source ∧ a.margin = r.margin ∧ a.own = false
       else t.stroke.accept = s.stroke.accept) ∧ SameRegs s t strokeRegs ∧ SameMem s t) ∧
  (∀ (s : State) (who : Requester) (hi : RegWord), s.mayPut who (R.TIME_STK_NUM_HI.at 0 0) hi = true →
    ∃ t, exec (.strokeNumberLoad who hi) s = .next t ∧
      (if s.get F.TIME_STK_STAT_SOURCE = 1 then t = s
       else t.stroke.numLoad = some (s.held who (R.TIME_STK_NUM_LO.at 0 0) + 2 ^ 32 * hi.toNat)) ∧ SameRegs s t [] ∧ SameMem s t)

/-- In the render window the finish opens the recovery window, at the finish time or after it where no ranging was asked for and nothing is switched
off, and writes registers of the units that work at a finish alone; a catch answers a state whose TIME_STK_NEXT pair holds the time of its next catch;
a high STROKE_OUT falls 1 us after the catch (R28, R31, R57). -/
def Obligations.FinishAndCatch : Prop :=
  (∀ s : State, s.stroke.recovery = false →
    ∃ t, exec .finish s = .next t ∧ t.stroke.recovery = true ∧ t.stroke.reqLate = false ∧
      ((∀ k, (s.strand k).rangeReq = none) → s.render.toBleed = [] → s.board.disarm = false → s.finishTime ≤ t.now) ∧
      SameBlocks s t [.shell, .oar, .strand, .cox, .ring, .host, .dramc, .global, .plumb]) ∧
  (∀ s : State, ∃ t, exec .catchStroke s = .next t ∧ t.rd64 R.TIME_STK_NEXT_LO = t.nextCatch % 2 ^ 64) ∧
  (∀ s : State, s.stroke.strokeOut = true →
    ∃ t, exec .strokeOutPulseEnd s = .next t ∧ t.stroke.strokeOut = false ∧ s.stroke.lastCatch + 1000 ≤ t.now ∧ SameRegs s t [] ∧ SameMem s t)

/-- Outside a transition, with no bond in the slot for the next show time, admission writes RESULT NO_BOND (1); an admitted bond writes RESULT 0 and
its masks and becomes the table rendered; a flattened course in the yard is built by writing its pixels alone; HOLD_WAKE drops the tolerances 50 us
before the next catch of a hold (R45, R102, R103, R111, R421). -/
def Obligations.BondAdmission : Prop :=
  (∀ s : State, s.stroke.admitted = false → s.stroke.trans = none → s.rd32 (bondSlot s.nextNum + 8) ≠ s.nextNum % 2 ^ 32 →
    ∃ t, exec .bondAdmission s = .next t ∧ t.stroke.admitted = true ∧ t.memFld (bondSlot s.nextNum + 0x10) 0 4 = 1 ∧
      SameBlocks s t [.time, .shell] ∧ SameMemBut s t [(0x0DA00008, 4), (bondSlot s.nextNum + 0x10, 4)]) ∧
  (∀ (s : State) (b : Bond) (table : List Byte) (counts : List Nat) (flats : List FlatRun) (area : Nat × Nat) (al : Alloc)
    (cl om fl : List Nat) (still : Bool), s.stroke.admitted = false → s.stroke.trans = none →
    (s.setMemFld 0x0DA00008 0 1 (b2n s.flatAreaNow.2)).takeShellCtl.judgeBond s.nextNum = .admitted b table counts flats area al cl om fl still →
    ∃ t, exec .bondAdmission s = .next t ∧ t.stroke.admitted = true ∧ t.render.table = table ∧
      t.memFld (bondSlot s.nextNum + 0x10) 0 4 = 0 ∧ t.rdN (bondSlot s.nextNum + 0x20) 8 = maskOf om % 2 ^ 64 ∧
      SameBlocks s t [.time, .shell] ∧ SameMemBut s t [(0x0DA00008, 4), (bondSlot s.nextNum + 0x10, 32)]) ∧
  (∀ (s : State) (first : Fin 64) (f : FlatRun), s.clocksOff = false → s.stroke.recovery = false → s.stroke.admitted = true →
    s.render.flats.find? (fun f => f.first == first.val && !f.built) = some f → (upTo 4).all s.shellDone = true →
    0 < f.count →
    ∃ t, exec (.flattenBuildDone first) s = .next t ∧ (∀ g ∈ t.render.flats, g.first = first.val → g.built = true) ∧
      SameBlocks s t [.dramc] ∧ (s.poison = [] → SameRegs s t []) ∧
      (f.addr + (courseDesc (descBytes s.render.table f.first)).w * (courseDesc (descBytes s.render.table f.first)).h * 8 ≤ 0x0E000000 →
        SameMemBut s t [(f.addr, (courseDesc (descBytes s.render.table f.first)).w * (courseDesc (descBytes s.render.table f.first)).h * 8)])) ∧
  (∀ s : State, s.stroke.held ≠ 0 →
    ∃ t, exec .holdWake s = .next t ∧ t.stroke.wake = true ∧ s.nextCatch - 50000 ≤ t.now ∧ SameRegs s t [] ∧ SameMem s t)

/-- While clocks run: a free oar that takes the next bundle counts it, or stalls with OAR_STAT.BUSY where its band row is missing; the row's arrival
ends the stall; quick mode sets SHL_STAT.QUICK and counts the late stroke. Registers of the shell alone change, those that count poisoned reads apart,
and no memory (R45, R131, R617, R618). -/
def Obligations.ShellRendering : Prop :=
  (∀ (s : State) (sh : Fin 4) (oar : Fin 9) (b : Bundle) (x : Shell), s.clocksOff = false → s.oarFree sh.val oar.val = true →
    s.nextBundle sh.val = some (b, x) →
    (∃ t, exec (.bundleRender sh oar true) s = .next t ∧ t.get F.OAR_STAT_BUSY sh.val oar.val = 1 ∧
      KMap.get (fun _ => none) (t.shell sh.val).stalled oar.val = some b ∧ SameRegs s t [R.OAR_STAT.at sh.val oar.val] ∧ SameMem s t) ∧
    ∃ t, exec (.bundleRender sh oar false) s = .next t ∧
      t.rd64 R.OAR_BUNDLES_LO sh.val oar.val = (s.rd64 R.OAR_BUNDLES_LO sh.val oar.val + 1) % 2 ^ 64 ∧
      SameBlocks s t [.shell, .oar, .dramc] ∧ SameMem s t) ∧
  (∀ (s : State) (sh : Fin 4) (oar : Fin 9) (b : Bundle), s.clocksOff = false →
    KMap.get (fun _ => none) (s.shell sh.val).stalled oar.val = some b →
    ∃ t, exec (.bandRowArrival sh oar) s = .next t ∧ t.get F.OAR_STAT_BUSY sh.val oar.val = 0 ∧
      KMap.get (fun _ => none) (t.shell sh.val).stalled oar.val = none ∧ SameBlocks s t [.shell, .oar, .dramc] ∧ SameMem s t) ∧
  (∀ (s : State) (sh : Fin 4), s.clocksOff = false → s.render.showT.isSome = true → s.stroke.recovery = false →
    s.get F.SHL_STAT_QUICK sh.val = 0 → s.unrendered sh.val ≠ 0 →
    ∃ t, exec (.quickModeEntry sh) s = .next t ∧ t.get F.SHL_STAT_QUICK sh.val = 1 ∧
      t.rd R.SHL_LATE_STROKES sh.val = Nat.min (s.rd R.SHL_LATE_STROKES sh.val + 1) 0xFFFFFFFF ∧
      t.get F.SHL_QUICK_AT_STROKE sh.val = s.strokeNum % 65536 ∧
      SameRegs s t [R.SHL_STAT.at sh.val 0, R.SHL_LATE_STROKES.at sh.val 0, R.SHL_QUICK_AT.at sh.val 0] ∧ SameMem s t)

/-- An agreeing check counts for both oars and ends; SHL_CMD RETIRE and RESTORE wait with RESULT 3, or answer BAD_OAR (1) above oar 8; OAR_CTL.TEST is
noted on a spare or retired oar and ignored on an active one; a self-test ends as PASS (1) or FAIL (2) (R135, R138, R146). -/
def Obligations.OarChecksAndCommands : Prop :=
  (∀ (s : State) (sh : Fin 4) (c : Check), s.clocksOff = false → (s.shell sh.val).check = some c → c.oar < 9 → c.checker < 9 → c.oar ≠ c.checker →
    ∃ t, exec (.checkCompare sh .agree) s = .next t ∧ (t.shell sh.val).check = none ∧
      t.rd R.OAR_CHECK_CNT sh.val c.oar = Nat.min (s.rd R.OAR_CHECK_CNT sh.val c.oar + 1) 0xFFFFFFFF ∧
      t.rd R.OAR_CHECK_CNT sh.val c.checker = Nat.min (s.rd R.OAR_CHECK_CNT sh.val c.checker + 1) 0xFFFFFFFF ∧
      SameRegs s t [R.OAR_CHECK_CNT.at sh.val c.oar, R.OAR_CHECK_CNT.at sh.val c.checker] ∧ SameMem s t) ∧
  (∀ (s : State) (who : Requester) (sh : Fin 4) (v : RegWord), s.mayPut who (R.SHL_CMD.at sh.val 0) v = true →
    s.get F.SHL_STAT_CMD_RESULT sh.val ≠ 3 →
    (∃ t, exec (.shellCmdRetire who sh v) s = .next t ∧
      (if 8 < bitsOf v.toNat 0 4 then t.get F.SHL_STAT_CMD_RESULT sh.val = 1 ∧ t.shell sh.val = s.shell sh.val
       else t.get F.SHL_STAT_CMD_RESULT sh.val = 3 ∧ (t.shell sh.val).cmd = some (bitsOf v.toNat 0 4, 1)) ∧
      SameBlocks s t [.shell, .oar] ∧ SameMem s t) ∧
    ∃ t, exec (.shellCmdRestore who sh v) s = .next t ∧
      (if 8 < bitsOf v.toNat 0 4 then t.get F.SHL_STAT_CMD_RESULT sh.val = 1 ∧ t.shell sh.val = s.shell sh.val
       else t.get F.SHL_STAT_CMD_RESULT sh.val = 3 ∧ (t.shell sh.val).cmd = some (bitsOf v.toNat 0 4, 2)) ∧
      SameBlocks s t [.shell, .oar] ∧ SameMem s t) ∧
  (∀ (s : State) (who : Requester) (sh : Fin 4) (oar : Fin 9) (v : RegWord), s.mayPut who (R.OAR_CTL.at sh.val oar.val) v = true →
    bitAt v.toNat 0 = true →
    ∃ t, exec (.oarSelfTest who sh oar v) s = .next t ∧
      (if s.role sh.val oar.val = roleSpare ∨ s.role sh.val oar.val = roleRetired then bitAt (t.shell sh.val).tests oar.val = true else t = s) ∧
      SameRegs s t [] ∧ SameMem s t) ∧
  (∀ (s : State) (sh : Fin 4) (oar : Fin 9) (pass : Bool), s.clocksOff = false → s.get F.OAR_STAT_TEST sh.val oar.val = 3 →
    ∃ t, exec (.oarSelfTestDone sh oar pass) s = .next t ∧ t.get F.OAR_STAT_TEST sh.val oar.val = (if pass then 1 else 2) ∧
      SameBlocks s t [.shell, .oar] ∧ SameMem s t)

/-- While clocks run and mirroring is off, the ray at the head of the queue leaves it when it is conditioned, after its map data arrives, or after
room frees in its strand's FIFO; with its map data missing it waits; a complete mirror stroke writes CD_MIR_STROKE (R147, R169, R171, R203). -/
def Obligations.RayConditioning : Prop :=
  (∀ (s : State), s.clocksOff = false → s.cond.wait = .none → s.render.rays ≠ [] →
    ∃ t, exec (.rayCondition true) s = .next t ∧ t.cond.wait = .map ∧ t.render.rays = s.render.rays ∧ SameRegs s t [] ∧ SameMem s t) ∧
  (∀ (s : State) (r : Ray) (l : List Ray), s.clocksOff = false → s.cond.mirOn = false → s.render.rays = r :: l → s.roomFor r = true →
    (s.cond.wait = .none → ∃ t, exec (.rayCondition false) s = .next t ∧ t.render.rays = l ∧ t.cond.wait = .none ∧ SameBlocks s t [.strand]) ∧
    (s.cond.wait = .map → ∃ t, exec .mapDataArrival s = .next t ∧ t.render.rays = l ∧ t.cond.wait = .none ∧ SameBlocks s t [.strand]) ∧
    ∀ k : Fin 96, s.cond.wait = .fifo k.val →
      ∃ t, exec (.strandFifoRoom k) s = .next t ∧ t.render.rays = l ∧ t.cond.wait = .none ∧ SameBlocks s t [.strand]) ∧
  (∀ s : State, s.cond.mirrored = true → s.render.rays = [] → (upTo 4).all s.shellDone = true →
    ∃ t, exec .mirrorStrokeComplete s = .next t ∧ t.rdN (condHdr + 0x68) 8 = s.strokeNum ∧ t.cond.mirrored = false ∧ SameRegs s t [] ∧
      SameMemBut s t [(condHdr + 0x68, 8)])

/-- In a recovery window a new SEQ of TT_REQ, CD_REQ or CD_CURVE as it stood at the finish is answered with that SEQ in the result; a changed WIDE or
DITHER_EN is accepted, or refused with RATE_LIMIT (RESULT 1) where the tile table would break its ceiling; without a new request nothing changes (R22,
R162, R167, R212). -/
def Obligations.RecoveryRequests : Prop :=
  (∀ s : State, s.stroke.recovery = true → bitAt s.render.reinstate 0 = false → bitsOf s.render.ttReq 16 16 ≠ s.memFld (tileTable + 4) 16 16 →
    ∃ t, exec .tileTableRequest s = .next t ∧ t.memFld (tileTable + 4) 16 16 = bitsOf s.render.ttReq 16 16 ∧ SameBlocks s t [.strand] ∧
      SameMemBut s t [(tileTable + 4, 8)]) ∧
  (∀ s : State, s.stroke.recovery = false → exec .tileTableRequest s = .next s ∧ exec .mapSetRequest s = .next s ∧ exec .curveSelection s = .next s) ∧
  (∀ s : State, s.stroke.recovery = true → bitsOf s.render.reinstate 0 2 = 0 → bitsOf s.render.ttReq 16 16 = s.memFld (tileTable + 4) 16 16 →
    bitsOf s.render.cdReq 16 16 ≠ s.memFld (condHdr + 4) 16 16 →
    ∃ t, exec .mapSetRequest s = .next t ∧ t.memFld (condHdr + 4) 16 16 = bitsOf s.render.cdReq 16 16 ∧ SameRegs s t [] ∧
      SameMemBut s t [(condHdr + 4, 8), (condHdr + 0x54, 4)]) ∧
  (∀ s : State, s.stroke.recovery = true → bitAt s.render.reinstate 2 = false →
    bitsOf s.render.cdCurve 16 16 ≠ s.memFld (condHdr + 0x50) 16 16 →
    ∃ t, exec .curveSelection s = .next t ∧ t.memFld (condHdr + 0x50) 16 16 = bitsOf s.render.cdCurve 16 16 ∧ SameRegs s t [] ∧
      SameMemBut s t [(condHdr + 0x50, 4)]) ∧
  (∀ (s : State) (k : Fin 96), s.stroke.recovery = true → (s.strand k.val).nextFmt = none →
    bitAt (s.strand k.val).ctlReq 9 ≠ s.flag F.STR_STAT_WIDE_ACT k.val →
    ∃ t, exec (.wireFormatChange k) s = .next t ∧
      (if bitAt (s.strand k.val).ctlReq 9 = true ∧ overCeiling s.raysNext s.rateNext true = true then t.get F.STR_STAT_RESULT k.val = 1
       else t.get F.STR_STAT_RESULT k.val = 0 ∧
        (t.strand k.val).nextFmt = some (bitAt (s.strand k.val).ctlReq 9, bitAt (s.strand k.val).ctlReq 10)) ∧
      SameRegs s t [R.STR_STAT.at k.val 0] ∧ SameMem s t)

/-- A port's link comes up with its speed where the port is enabled, its reference present and the rate allowed; a lost link is counted; a write of
NET_CTL sets ENABLE, and 0 takes the link down; every frame has an effect, and none on a port that is down; a frame is counted as oversize, bad or
received, and a PAUSE frame goes no further; a candidate with a wrong magic is dropped for reason 3 (R66, R67, R76, R89, R91). -/
def Obligations.NetworkPorts : Prop :=
  (∀ (s : State) (n : Fin 4) (speed : Fin 4), s.flag F.NET_CTL_ENABLE n.val = true → s.flag F.NET_STAT_LINK n.val = false →
    s.refPresent 4 = true →
    (if s.get F.NET_CTL_SPEED n.val = 0 then bitAt (s.get F.NET_AN_CTL_ADV n.val) speed.val = true
     else s.get F.NET_CTL_SPEED n.val = speed.val + 1) →
    ∃ t, exec (.netLinkUp n speed) s = .next t ∧ t.get F.NET_STAT_LINK n.val = 1 ∧ t.get F.NET_STAT_SPEED_ACT n.val = speed.val + 1 ∧
      t.get F.NET_PCS_STAT_BLOCK_LOCK n.val = 1 ∧ SameRegs s t [R.NET_STAT.at n.val 0, R.NET_PCS_STAT.at n.val 0] ∧ SameMem s t) ∧
  (∀ (s : State) (n : Fin 4), s.flag F.NET_STAT_LINK n.val = true →
    ∃ t, exec (.netLinkDown n) s = .next t ∧ t.get F.NET_STAT_LINK n.val = 0 ∧
      t.rd R.NET_LINK_DOWN n.val = Nat.min (s.rd R.NET_LINK_DOWN n.val + 1) 0xFFFFFFFF ∧
      SameRegs s t [R.NET_STAT.at n.val 0, R.NET_PCS_STAT.at n.val 0, R.NET_LINK_DOWN.at n.val 0] ∧ SameMem s t) ∧
  (∀ (s : State) (who : Requester) (n : Fin 4) (v : RegWord), s.mayPut who (R.NET_CTL.at n.val 0) v = true → s.netBusy n.val v = false →
    ∃ t, exec (.netPortEnable who n v) s = .next t ∧
      t.get F.NET_CTL_ENABLE n.val = bitsOf v.toNat F.NET_CTL_ENABLE.lsb F.NET_CTL_ENABLE.width ∧
      (t.get F.NET_CTL_ENABLE n.val = 0 → t.get F.NET_STAT_LINK n.val = 0) ∧
      SameRegs s t [R.NET_CTL.at n.val 0, R.NET_STAT.at n.val 0, R.NET_PCS_STAT.at n.val 0, R.PLB_RUNS.at 0 0, R.PLB_STAT.at 0 0, R.PLB_PEND.at 0 0] ∧
      SameMem s t) ∧
  (∀ (s : State) (n : Fin 4) (ok : Bool) (f : List Byte), s.flag F.NET_STAT_LINK n.val = true → s.flag F.NET_CTL_ENABLE n.val = true →
    60 ≤ f.length →
    (9212 < f.length → ∃ t, exec (.netFrameReceived n ok f) s = .next t ∧
      t.rd R.NET_RX_OVERSIZE n.val = Nat.min (s.rd R.NET_RX_OVERSIZE n.val + 1) 0xFFFFFFFF ∧ SameRegs s t [R.NET_RX_OVERSIZE.at n.val 0] ∧
      SameMem s t) ∧
    (f.length ≤ 9212 → ok = false → ∃ t, exec (.netFrameReceived n ok f) s = .next t ∧
      t.rd R.NET_RX_BAD n.val = Nat.min (s.rd R.NET_RX_BAD n.val + 1) 0xFFFFFFFF ∧ SameRegs s t [R.NET_RX_BAD.at n.val 0] ∧ SameMem s t) ∧
    (f.length ≤ 9212 → ok = true → (s.netParse n.val f).etype = 0x8808 →
      beAt (s.netParse n.val f).body 0 2 = 1 ∨ beAt (s.netParse n.val f).body 0 2 = 0x0101 → ∃ t, exec (.netFrameReceived n ok f) s = .next t ∧
      t.rd64 R.NET_RX_FRAMES_LO n.val = (s.rd64 R.NET_RX_FRAMES_LO n.val + 1) % 2 ^ 64 ∧
      t.rd R.NET_PAUSE_RX n.val = Nat.min (s.rd R.NET_PAUSE_RX n.val + 1) 0xFFFFFFFF ∧
      SameRegs s t [R.NET_RX_FRAMES_LO.at n.val 0, R.NET_RX_FRAMES_LO.at n.val 0 + 4, R.NET_PAUSE_RX.at n.val 0] ∧ SameMem s t) ∧
    (f.length ≤ 9212 → ok = true → s.flag F.TIME_CTL_PTP_EN = false → s.flag F.ING_CTL_ENABLE = true → s.get F.GLB_SHOW_STATE ≠ 4 →
      (s.netParse n.val f).etype = 0x0800 → (s.netParse n.val f).vlanOk = true → (s.netParse n.val f).isUdp = true →
      (s.netParse n.val f).dst = s.netMac n.val → s.netIpOk n.val (s.netParse n.val f) = true →
      (s.netParse n.val f).port = s.get F.ING_UDP_PORT → (s.netParse n.val f).ipBad = false → (s.netParse n.val f).udpBad = false →
      beAt (((s.netParse n.val f).body.drop ((s.netParse n.val f).hdr + 8)).take ((s.netParse n.val f).udpLen - 8)) 0 2 ≠ 0x1A4E →
      ∃ t, exec (.netFrameReceived n ok f) s = .next t ∧ t.get F.ING_LAST_DROP_REASON = 3 ∧
        t.rd R.ING_DROP 0 3 = Nat.min (s.rd R.ING_DROP 0 3 + 1) 0xFFFFFFFF ∧
        t.rd R.ING_SRC 0 n.val = (s.rd R.ING_SRC 0 n.val + 1) % 2 ^ 32 ∧ SameBlocks s t [.net, .ingest] ∧ SameMem s t)) ∧
  (∀ (s : State) (n : Fin 4) (ok : Bool) (f : List Byte), ∃ t, exec (.netFrameReceived n ok f) s = .next t ∧
    (s.flag F.NET_STAT_LINK n.val = false ∨ s.flag F.NET_CTL_ENABLE n.val = false → t = s))

/-- While clocks run, the first waiting slice of the lowest class number starts where a decoder is free for it, and ING_STAT follows; a decoder that
finishes a slice of a landing object frees itself and counts the slice and its pixels (R80, R83). -/
def Obligations.DscDecoders : Prop :=
  (∀ (s : State) (x : DscSlice), s.clocksOff = false →
    [0, 1, 2, 3].findSome? (fun c => s.ingest.dscWait.find? (fun x => x.cls == c)) = some x → s.dscFits x = true →
    ∃ t, exec .dscSliceStart s = .next t ∧ t.ingest.dscRun = s.ingest.dscRun ++ [x] ∧ t.ingest.dscWait = s.ingest.dscWait.erase x ∧
      t.get F.ING_STAT_DSC_ACTIVE = s.ingest.dscRun.length + 1 ∧ SameRegs s t [R.ING_STAT.at 0 0] ∧ SameMem s t) ∧
  (∀ (s : State) (k : Fin 32) (x : DscSlice) (o : IngObj), s.clocksOff = false → s.ingest.dscRun[k.val]? = some x → s.ingObj x.entry = some o →
    ∃ t, exec (.dscSliceDone k) s = .next t ∧ t.ingest.dscRun = s.ingest.dscRun.erase x ∧
      t.rd64 R.ING_DSC_SLC_LO = (s.rd64 R.ING_DSC_SLC_LO + 1) % 2 ^ 64 ∧
      t.rd64 R.ING_DSC_PIX_LO = (s.rd64 R.ING_DSC_PIX_LO + (ppsOf (s.rdBytes (s.entryAddr x.entry 0) 128)).sw *
        (ppsOf (s.rdBytes (s.entryAddr x.entry 0) 128)).sh) % 2 ^ 64 ∧
      SameBlocks s t [.ingest, .ring, .host])

/-- Setting STR_CTL.ENABLE begins the bring-up at OFF with RESULT 0, or is refused with BAD_RATE (2); sensing ends in TRAINING or with REVERSED (8);
valid idle starts ranging; OPEN (7) reports a lane without idle after 50 ms, or a lost lock; 2 ms after the last RANGE_R of a ranging of all positions
STATE reads UP; clearing ENABLE returns the strand to OFF (R206, R207, R211). -/
def Obligations.StrandBringUp : Prop :=
  (∀ (s : State) (who : Requester) (k : Fin 96) (v : RegWord), s.mayPut who (R.STR_CTL.at k.val 0) v = true →
    s.flag F.STR_CTL_ENABLE k.val = false → s.get F.STR_FAULT_CODE k.val ≠ 6 →
    ∃ t, exec (.strandEnable who k v) s = .next t ∧ SameBlocks s t [.strand, .plumb] ∧ SameMem s t ∧
      (if bitsOf v.toNat F.STR_CTL_RATE.lsb F.STR_CTL_RATE.width < 10 ∨ 128 < bitsOf v.toNat F.STR_CTL_RATE.lsb F.STR_CTL_RATE.width then
        t.get F.STR_CTL_ENABLE k.val = 0 ∧ t.get F.STR_STAT_RESULT k.val = 2
       else t.get F.STR_CTL_ENABLE k.val = 1 ∧ t.get F.STR_STAT_RESULT k.val = 0 ∧ t.strState k.val = strOff)) ∧
  (∀ (s : State) (k : Fin 96) (signal : Bool), s.flag F.STR_CTL_ENABLE k.val = true → s.strState k.val = strOff →
    s.get F.STR_FAULT_CODE k.val ≠ 6 →
    ∃ t, exec (.strandSenseEnd k signal) s = .next t ∧ (s.strand k.val).enabledAt + 100000 ≤ t.upNs ∧
      (if signal then t.strState k.val = strFault ∧ t.get F.STR_FAULT_CODE k.val = 8 else t.strState k.val = strTraining) ∧
      SameRegs s t [R.STR_STAT.at k.val 0, R.STR_FAULT.at k.val 0] ∧ SameMem s t) ∧
  (∀ (s : State) (k : Fin 96) (line : List Bool), s.strState k.val = strTraining → (s.strand k.val).ranging = false →
    s.refPresent (if k.val < 48 then 1 else 2) = true → s.get F.STR_FAULT_CODE k.val ≠ 3 →
    ∃ t, exec (.strandRxValid k line) s = .next t ∧ (t.strand k.val).ranging = true ∧ (t.strand k.val).rangeNext = 0 ∧
      t.get F.STR_FAULT_CODE k.val ≠ 7 ∧
      t.flag F.STR_STAT_RX_INV k.val =
        (s.flag F.STR_STAT_RX_INV k.val != (upLine (s.flag F.STR_STAT_RX_INV k.val) (s.flag F.STR_CTL_AUTO_POL k.val) line).1) ∧
      SameRegs s t [R.STR_STAT.at k.val 0, R.STR_FAULT.at k.val 0] ∧ SameMem s t) ∧
  (∀ (s : State) (k : Fin 96), (s.strState k.val = strTraining ∧ (s.strand k.val).ranging = false) ∨ s.strState k.val = strUp →
    ∃ t, exec (.strandOpenTimeout k) s = .next t ∧ t.get F.STR_FAULT_CODE k.val = 7 ∧
      (s.strState k.val = strTraining → (s.strand k.val).enabledAt + 50000000 ≤ t.upNs) ∧ SameRegs s t [R.STR_FAULT.at k.val 0] ∧ SameMem s t) ∧
  (∀ (s : State) (k : Fin 96), s.strDriving k.val = true → (s.strand k.val).ranging = true → 2560 ≤ (s.strand k.val).rangeNext →
    (s.strand k.val).d ≠ [] →
    ∃ t, exec (.strandUp k) s = .next t ∧ t.strState k.val = strUp ∧ (t.strand k.val).ranging = false ∧
      (s.strand k.val).lastR + 2000000 ≤ t.upNs ∧ SameBlocks s t [.strand] ∧ SameMem s t) ∧
  (∀ (s : State) (who : Requester) (k : Fin 96) (v : RegWord), s.mayPut who (R.STR_CTL.at k.val 0) v = true →
    s.flag F.STR_CTL_ENABLE k.val = true →
    ∃ t, exec (.strandDisable who k v) s = .next t ∧ t.get F.STR_CTL_ENABLE k.val = 0 ∧ t.strState k.val = strOff ∧
      (t.strand k.val).fifo = [] ∧ (t.strand k.val).out = [] ∧ SameBlocks s t [.strand] ∧ SameMem s t)

/-- A pin fault sets its code, a driver fault only on a driven lane; a retry that finds it gone clears the code, or leaves LONG_CHAIN (10) on a chain
that is too long; a pin test runs on a disabled strand and ends with DONE, and on coupling with FAIL and NEIGHBOUR (6); an up brick is counted at its
failing check, and an inverted marker turns RX_INV over; a port that does not listen changes nothing (R180, R185, R207, R208). -/
def Obligations.StrandFaults : Prop :=
  (∀ (s : State) (k : Fin 96) (kind : StrandFault), faultCode kind ≤ 2 → s.strDriving k.val = true →
    ∃ t, exec (.strandFaultDetect k kind) s = .next t ∧ t.get F.STR_FAULT_CODE k.val = faultCode kind ∧
      SameRegs s t [R.STR_FAULT.at k.val 0] ∧ SameMem s t) ∧
  (∀ (s : State) (k : Fin 96) (kind : StrandFault), 3 ≤ faultCode kind →
    ∃ t, exec (.strandFaultDetect k kind) s = .next t ∧ t.get F.STR_FAULT_CODE k.val = faultCode kind ∧
      (∀ o, 4 ≤ faultCode kind → (s.strand k.val).census = some o →
        (t.strand k.val).census = some { o with waiting := false, done := some 3 }) ∧
      SameRegs s t [R.STR_FAULT.at k.val 0] ∧ SameMem s t) ∧
  (∀ (s : State) (k : Fin 96), s.get F.STR_FAULT_CODE k.val ∈ [1, 2, 3, 4, 5, 7] →
    ∃ t, exec (.strandFaultRetry k true) s = .next t ∧ t.get F.STR_FAULT_CODE k.val = (if (s.strand k.val).long then 10 else 0) ∧
      SameRegs s t [R.STR_FAULT.at k.val 0] ∧ SameMem s t) ∧
  (∀ (s : State) (who : Requester) (k : Fin 96) (v : RegWord), s.mayPut who (R.STR_PINTEST.at k.val 0) v = true →
    s.flag F.STR_CTL_ENABLE k.val = false → s.strState k.val ≠ strPinTest →
    ∃ t, exec (.pinTest who k v) s = .next t ∧ t.strState k.val = strPinTest ∧ t.get F.STR_PINTEST_DONE k.val = 0 ∧
      t.get F.STR_PINTEST_FAIL k.val = 0 ∧ SameRegs s t [R.STR_STAT.at k.val 0, R.STR_PINTEST.at k.val 0] ∧ SameMem s t) ∧
  (∀ (s : State) (k : Fin 96) (coupled : Option (Fin 96 × Fin 3)), s.strState k.val = strPinTest →
    ∃ t, exec (.pinTestDone k coupled) s = .next t ∧ t.strState k.val = strOff ∧ t.get F.STR_PINTEST_DONE k.val = 1 ∧
      (∀ p pin, coupled = some (p, pin) → t.get F.STR_PINTEST_FAIL k.val = 1 ∧ t.get F.STR_FAULT_CODE k.val = 6 ∧
        t.get F.STR_FAULT_PEER k.val = p.val ∧ t.get F.STR_FAULT_PIN k.val = pin.val) ∧
      (coupled = none → t.get F.STR_PINTEST_FAIL k.val = s.get F.STR_PINTEST_FAIL k.val) ∧
      SameRegs s t [R.STR_STAT.at k.val 0, R.STR_PINTEST.at k.val 0, R.STR_FAULT.at k.val 0] ∧ SameMem s t) ∧
  (∀ (s : State) (k : Fin 96) (line : List Bool) (turn : Bool) (e : BrickError), s.rxOn k.val = true →
    upLine (s.flag F.STR_STAT_RX_INV k.val) (s.flag F.STR_CTL_AUTO_POL k.val) line = (turn, some (.error e)) →
    let r := if e = .headerCheck then R.STR_HCRC_ERR else if e = .crc then R.STR_CRC_ERR else R.STR_STUFF_ERR
    ∃ t, exec (.upBrickDiscard k line) s = .next t ∧ t.flag F.STR_STAT_RX_INV k.val = (s.flag F.STR_STAT_RX_INV k.val != turn) ∧
      t.rd r k.val = Nat.min (s.rd r k.val + 1) 0xFFFFFFFF ∧ SameRegs s t [R.STR_STAT.at k.val 0, r.at k.val 0] ∧ SameMem s t) ∧
  (∀ (s : State) (k : Fin 96) (line : List Bool) (turn : Bool), s.rxOn k.val = true →
    upLine (s.flag F.STR_STAT_RX_INV k.val) (s.flag F.STR_CTL_AUTO_POL k.val) line = (turn, none) →
    ∃ t, exec (.upBrickDiscard k line) s = .next t ∧ t.flag F.STR_STAT_RX_INV k.val = (s.flag F.STR_STAT_RX_INV k.val != turn) ∧
      SameRegs s t [R.STR_STAT.at k.val 0] ∧ SameMem s t) ∧
  (∀ (s : State) (k : Fin 96) (line : List Bool), s.rxOn k.val = false → exec (.upBrickDiscard k line) s = .next s)

/-- A RAYS brick that is the next at the brick boundary leaves, is counted, and the next begins at the slot after it; at catch N - LEAD an UP strand
that runs sends CATCH for the next number where the catch swaps, and else, as a strand in training does, KEEP, its FIFO emptied either way; at a catch
inside a transition interval it sends KEEP and keeps its FIFO; an idle driven UP strand sends KEEP after 10 ms (R192, R199, R201, R202). -/
def Obligations.StrandDownBricks : Prop :=
  (∀ (s : State) (k : Fin 96) (pos : Fin 2560), ((s.laneServe k.val).laneWait k.val).brickReady k.val pos.val = true →
    ∃ t, exec (.raysBrickSend k pos) s = .next t ∧
      ((s.strand k.val).held = [] → t.rd64 R.STR_TX_BRICKS_LO k.val = (s.rd64 R.STR_TX_BRICKS_LO k.val + 1) % 2 ^ 64) ∧
      KMap.get (fun _ => 0) (t.strand k.val).next pos.val = (s.nextBrick k.val pos.val).1 + (s.nextBrick k.val pos.val).2 ∧
      SameRegs s t [R.STR_TX_BRICKS_LO.at k.val 0, R.STR_TX_BRICKS_LO.at k.val 0 + 4, R.STR_FIFO.at k.val 0] ∧ SameMem s t) ∧
  (∀ (s : State) (k : Fin 96), s.strState k.val = strUp ∨ s.strState k.val = strTraining → s.get F.GLB_SHOW_STATE ≠ showHalted →
    let u := s.setLead k.val
    let last := Nat.max u.stroke.lastCatch (u.strand k.val).keptTo
    (∀ c, u.interimCatch last = some c →
      ∃ t, exec (.catchBrickSend k) s = .next t ∧ (t.strand k.val).keptTo = c ∧ (t.strand k.val).fifo = (s.strand k.val).fifo ∧
        (t.strand k.val).catchT = (s.strand k.val).catchT ∧
        (s.strDriving k.val = true → t.rd64 R.STR_TX_BRICKS_LO k.val = (s.rd64 R.STR_TX_BRICKS_LO k.val + 1) % 2 ^ 64) ∧
        SameBlocks s t [.strand] ∧ SameMem s t) ∧
    (u.interimCatch last = none →
      ∃ t, exec (.catchBrickSend k) s = .next t ∧ (t.strand k.val).fifo = [] ∧
        (if u.swapsNext && u.portRuns k.val && s.strState k.val == strUp then (t.strand k.val).catchT = some s.nextNum ∧ (t.strand k.val).open_ = true ∧
           ((s.strand k.val).held = [] → t.rd64 R.STR_TX_BRICKS_LO k.val = (s.rd64 R.STR_TX_BRICKS_LO k.val + 1) % 2 ^ 64)
         else (t.strand k.val).catchT = (s.strand k.val).catchT ∧ (t.strand k.val).open_ = false ∧
           (s.strDriving k.val = true → (s.strand k.val).held = [] →
             t.rd64 R.STR_TX_BRICKS_LO k.val = (s.rd64 R.STR_TX_BRICKS_LO k.val + 1) % 2 ^ 64)) ∧
        SameBlocks s t [.strand] ∧ SameMem s t)) ∧
  (∀ (s : State) (k : Fin 96), s.strState k.val = strUp → s.strDriving k.val = true →
    ∃ t, exec (.keepIdleSend k) s = .next t ∧ (s.strand k.val).lastDown + 10000000 ≤ t.upNs ∧
      t.rd64 R.STR_TX_BRICKS_LO k.val = (s.rd64 R.STR_TX_BRICKS_LO k.val + 1) % 2 ^ 64 ∧
      SameRegs s t [R.STR_TX_BRICKS_LO.at k.val 0, R.STR_TX_BRICKS_LO.at k.val 0 + 4] ∧ SameMem s t)

/-- An ACK that passes the port checks is counted, and for positions below 2,560 its stroke number goes to the driver context and ends LOST; one for
the stroke of the last CATCH is kept for the echo check; the echo cutoff of the CATCH sent for this stroke writes how many devices sent rays without
an ACK, and closes the count (R185, R197, R198). -/
def Obligations.StrandAcknowledgement : Prop :=
  (∀ (s : State) (k : Fin 96) (line : List Bool) (turn : Bool) (header payload : List Byte), s.rxOn k.val = true →
    upLine (s.flag F.STR_STAT_RX_INV k.val) (s.flag F.STR_CTL_AUTO_POL k.val) line = (turn, some (.ok (header, payload))) →
    byteAt header 0 % 16 = 8 → hopOf header < 2560 →
    ∃ t, exec (.ackReceived k line) s = .next t ∧ t.rd R.STR_RX_BRICKS k.val = (s.rd R.STR_RX_BRICKS k.val + 1) % 2 ^ 32 ∧
      t.memFld (drvCtx k.val (hopOf header) + 0x14) 0 16 = leAt header 4 2 ∧
      t.memFld (drvCtx k.val (hopOf header)) 8 3 = bitsOf (leAt header 12 4) 3 3 ∧ t.memFld (drvCtx k.val (hopOf header)) 1 1 = 0 ∧
      (∀ n, (s.strand k.val).catchT = some n → n % 65536 = leAt header 4 2 →
        KMap.get (fun _ => none) (t.strand k.val).acks (hopOf header) = some (bitsOf (leAt header 12 4) 0 3, leAt header 8 4)) ∧
      SameRegs s t [R.STR_RX_BRICKS.at k.val 0, R.STR_STAT.at k.val 0, R.STR_TX_BRICKS_LO.at k.val 0, R.STR_TX_BRICKS_LO.at k.val 0 + 4] ∧
      SameMemBut s t [(drvCtx k.val (hopOf header), 4), (drvCtx k.val (hopOf header) + 0x14, 4)]) ∧
  (∀ (s : State) (k : Fin 96) (line : List Bool) (turn : Bool) (header payload : List Byte), s.rxOn k.val = true →
    upLine (s.flag F.STR_STAT_RX_INV k.val) (s.flag F.STR_CTL_AUTO_POL k.val) line = (turn, some (.ok (header, payload))) →
    byteAt header 0 % 16 = 8 → 2560 ≤ hopOf header →
    ∃ t, exec (.ackReceived k line) s = .next t ∧ t.rd R.STR_RX_BRICKS k.val = (s.rd R.STR_RX_BRICKS k.val + 1) % 2 ^ 32 ∧
      SameRegs s t [R.STR_RX_BRICKS.at k.val 0, R.STR_STAT.at k.val 0] ∧ SameMem s t) ∧
  (∀ (s : State) (k : Fin 96), (s.strand k.val).catchT = some s.strokeNum → (s.strand k.val).open_ = true →
    ∃ t, exec (.echoCutoff k) s = .next t ∧ (t.strand k.val).open_ = false ∧
      t.rd R.STR_ECHO_MISS k.val = (((s.strand k.val).chkTap.map (·.1)).filter (fun p =>
        (KMap.get (fun _ => none) (s.strand k.val).acks p).isNone)).length % 2 ^ 32 ∧ SameBlocks s t [.strand] ∧
      ((∀ p ∈ (s.strand k.val).chkTap.map (·.1) ++ (s.strand k.val).acks.map (·.1), p < 2560) →
        SameMemBut s t (((s.strand k.val).chkTap.map (·.1) ++ (s.strand k.val).acks.map (·.1)).map (fun p => (drvCtx k.val p + 0x10, 4)) ++
          (upTo (s.get F.STR_CHAIN_DEVICES k.val)).map (fun p => (drvCtx k.val p, 4)))))

/-- In the ranging of all positions the next position is ranged, while fewer than two bricks are outstanding to it: in training at once, and while UP
in the turn of a management brick; STR_RANGE.GO asks for a ranging or reports BUSY (2) while one waits; a RANGE_R of an outstanding position that
passes the port checks is counted, shows the round trip and sets its w; a timeout, 2 ms after the RANGE, marks the position as failed (R194, R195,
R204, R213). On a driven strand a well-formed management descriptor leaves the STR_MGMT ring, its brick sent or waiting for its turn, and a malformed
one is taken with a reply record; WACK, READ_R and a reply timeout end the brick they match; an EVENT brick is counted. Registers of STRAND, RING and
HOST alone change, and the error registers of DRAMC where the payload read is poisoned (R185, R204, R205). -/
def Obligations.StrandRangingAndManagement : Prop :=
  ((∀ (s : State) (k : Fin 96), s.portRuns k.val = true → s.strDriving k.val = true → (s.strand k.val).ranging = true →
     (s.strand k.val).rangeNext < 2560 → (s.strand k.val).outTo (s.strand k.val).rangeNext < 2 →
     ∃ t, exec (.rangeSend k) s = .next t ∧ (t.strand k.val).rangeNext = (s.strand k.val).rangeNext + 1 ∧
       (s.strState k.val = strTraining → (t.strand k.val).ranges.any (fun r => r.1 == (s.strand k.val).rangeNext) = true ∧
         t.rd64 R.STR_TX_BRICKS_LO k.val = (s.rd64 R.STR_TX_BRICKS_LO k.val + 1) % 2 ^ 64) ∧
       (s.strState k.val = strUp → (s.strand k.val).held = [] → (∃ r, (t.strand k.val).held = [r] ∧ hopOf r.header = (s.strand k.val).rangeNext) ∨
         (t.strand k.val).ranges.any (fun r => r.1 == (s.strand k.val).rangeNext) = true) ∧
       SameRegs s t [R.STR_TX_BRICKS_LO.at k.val 0, R.STR_TX_BRICKS_LO.at k.val 0 + 4] ∧ SameMem s t) ∧
   (∀ (s : State) (who : Requester) (k : Fin 96) (v : RegWord), s.mayPut who (R.STR_RANGE.at k.val 0) v = true →
     ∃ t, exec (.rangeRequest who k v) s = .next t ∧
       (if (s.strand k.val).rangeReq.isSome then t.get F.STR_RANGE_RESULT k.val = 2 ∧ t.strand k.val = s.strand k.val
        else (t.strand k.val).rangeReq = some (bitsOf v.toNat 0 12)) ∧ SameRegs s t [R.STR_RANGE.at k.val 0] ∧ SameMem s t) ∧
   (∀ (s : State) (k : Fin 96) (line : List Bool) (turn : Bool) (header payload : List Byte) (rt : Nat), s.rxOn k.val = true →
     upLine (s.flag F.STR_STAT_RX_INV k.val) (s.flag F.STR_CTL_AUTO_POL k.val) line = (turn, some (.ok (header, payload))) →
     byteAt header 0 % 16 = 11 → (s.strand k.val).ranges.any (fun r => r.1 == hopOf header) = true →
     ∃ t, exec (.rangeRReceived k line rt) s = .next t ∧ t.rd R.STR_RX_BRICKS k.val = (s.rd R.STR_RX_BRICKS k.val + 1) % 2 ^ 32 ∧
       t.rd R.STR_RANGE_RT k.val = rt % 2 ^ 32 ∧
       KMap.get (fun _ => none) (t.strand k.val).w (hopOf header) = some ((rt : Int) - (leAt header 8 4 : Nat)) ∧
       KMap.get (fun _ => false) (t.strand k.val).failed (hopOf header) = false ∧ SameBlocks s t [.strand] ∧
       SameMemBut s t [(drvCtx k.val (hopOf header) + 4, 4)]) ∧
   (∀ (s : State) (k : Fin 96) (pos : Fin 2560), (s.strand k.val).ranges.any (fun r => r.1 == pos.val) = true →
     ∃ t, exec (.rangeTimeout k pos) s = .next t ∧ KMap.get (fun _ => false) (t.strand k.val).failed pos.val = true ∧
       (∃ r ∈ (s.strand k.val).ranges, r.1 = pos.val ∧ r.2.1 + 2000000 ≤ t.upNs) ∧ SameBlocks s t [.strand] ∧ SameMem s t)) ∧
  ((∀ (s : State) (k : Fin 96), s.flag F.STR_MGMT_EN k.val = true → s.unitCanTake (s.get F.STR_MGMT_RING k.val) = true →
     s.strDriving k.val = true →
     let e := s.ringElem (s.get F.STR_MGMT_RING k.val) (s.ringCI (s.get F.STR_MGMT_RING k.val))
     let h := s.rdBytes e 16
     let ty := byteAt h 0 % 16
     let good := 3 ≤ ty ∧ ty ≤ 7 ∧ ¬ ((ty = 5 ∨ ty = 6) ∧ bitAt (leAt h 0 4) 30 = true)
     (good → (ty = 3 ∨ ty = 5 ∨ ty = 6 ∨ bitsOf (leAt h 0 4) 16 14 = 0 ∨ s.unitRange (s.rdN (e + 0x10) 6) (bitsOf (leAt h 0 4) 16 14) = true) →
       ∃ t, exec (.mgmtDescriptor k) s = .next t ∧
         t.ringCI (s.get F.STR_MGMT_RING k.val) = (s.ringCI (s.get F.STR_MGMT_RING k.val) + 1) % 2 ^ 32 ∧
         ((s.strand k.val).held = [] → (∃ r, r.header = h ∧ (t.strand k.val).held = [r]) ∨
           t.rd64 R.STR_TX_BRICKS_LO k.val = (s.rd64 R.STR_TX_BRICKS_LO k.val + 1) % 2 ^ 64) ∧
         SameBlocks s t [.strand, .host, .dramc] ∧ SameMemBut s t [(ringCtx (s.get F.STR_MGMT_RING k.val) + 0x14, 4)]) ∧
     (¬ good → ∃ t, exec (.mgmtDescriptor k) s = .next t ∧ t.strand k.val = s.strand k.val ∧ SameBlocks s t [.ring, .host])) ∧
   (∀ (s : State) (k : Fin 96) (line : List Bool) (turn : Bool) (header payload : List Byte) (r : MgmtReq), s.rxOn k.val = true →
     upLine (s.flag F.STR_STAT_RX_INV k.val) (s.flag F.STR_CTL_AUTO_POL k.val) line = (turn, some (.ok (header, payload))) →
     (byteAt header 0 % 16 = 9 → (s.strand k.val).matchOut 4 header = some r →
       ∃ t, exec (.wackReceived k line) s = .next t ∧ t.rd R.STR_RX_BRICKS k.val = (s.rd R.STR_RX_BRICKS k.val + 1) % 2 ^ 32 ∧
         ((s.strand k.val).held = [] → (t.strand k.val).out = (s.strand k.val).out.erase r) ∧ SameBlocks s t [.strand, .ring, .host]) ∧
     (byteAt header 0 % 16 = 10 → (s.strand k.val).matchOut 5 header = some r → ∀ (head body : List Bool), head ++ body = line →
       ∃ t, exec (.readRReceived k head body) s = .next t ∧ t.rd R.STR_RX_BRICKS k.val = (s.rd R.STR_RX_BRICKS k.val + 1) % 2 ^ 32 ∧
         ((s.strand k.val).held = [] → (t.strand k.val).out = (s.strand k.val).out.erase r) ∧ SameBlocks s t [.strand, .ring, .host] ∧
         (s.flag F.STR_REPLY_EN k.val = false → s.unitRange r.addr (payload.take r.cap).length = true →
           plainRange r.addr (payload.take r.cap).length = true → SameMemBut s t [(r.addr, (payload.take r.cap).length)]))) ∧
   (∀ (s : State) (k : Fin 96) (line : List Bool) (turn : Bool) (header payload : List Byte), s.rxOn k.val = true →
     upLine (s.flag F.STR_STAT_RX_INV k.val) (s.flag F.STR_CTL_AUTO_POL k.val) line = (turn, some (.ok (header, payload))) →
     byteAt header 0 % 16 = 12 → ∀ (head body : List Bool), head ++ body = line →
     ∃ t, exec (.eventBrickReceived k head body) s = .next t ∧
       t.rd R.STR_RX_BRICKS k.val = (s.rd R.STR_RX_BRICKS k.val + 1) % 2 ^ 32 ∧ SameBlocks s t [.strand, .ring, .host]) ∧
   (∀ (s : State) (k : Fin 96) (r : MgmtReq) (l : List MgmtReq), (s.strand k.val).out = r :: l →
     ∃ t, exec (.mgmtReplyTimeout k) s = .next t ∧ ((s.strand k.val).held = [] → (t.strand k.val).out = l) ∧ r.sentAt + 4000000 ≤ t.upNs ∧
       SameBlocks s t [.strand, .ring, .host]))

/-- A new SEQ of CEN_REQ starts the operation, or ends it at once as SHORT (3) or BAD_REQ (4); WALK and QUERY send a frame of 176 us and wait, no
sooner than the idle time after a reply; SWEEP is done when its frame has left, RESET 2 ms after its pulse of 100 us (R215, R217, R221, R224). A good
IDENT that answers a QUERY is stored and ends it OK; a bad one ends it as BAD_FRAME (2); no reply within 24 us + 0.8 us per position of the end of the
frame ends a step as unanswered, a retried one as BAD_FRAME; the end writes CEN_RESULT with its SEQ; a PRESENCE pulse and a good ALERT frame are
counted and mark the strand in RNG_CEN_ATTN (R221, R222, R224). -/
def Obligations.CensusRequestsAndReplies : Prop :=
  ((∀ (s : State) (k : Fin 96), s.memFld (cenHdr k.val) 16 16 ≠ s.memFld (cenHdr k.val + 8) 16 16 → (s.strand k.val).census = none →
     s.get F.GLB_SHOW_STATE ≠ showHalted →
     ∃ t o, exec (.censusPoll k) s = .next t ∧ (t.strand k.val).census = some o ∧ o.op = s.memFld (cenHdr k.val) 0 3 ∧
       o.pos = s.memFld (cenHdr k.val) 3 12 ∧ o.seq = s.memFld (cenHdr k.val) 16 16 ∧ o.idleTo = (s.strand k.val).cenIdle ∧
       (s.get F.STR_FAULT_CODE k.val = 4 ∨ s.get F.STR_FAULT_CODE k.val = 5 → o.done = some 3) ∧
       (s.get F.STR_FAULT_CODE k.val ≠ 4 → s.get F.STR_FAULT_CODE k.val ≠ 5 → 5 ≤ o.op → o.done = some 4) ∧
       (s.strand k.val).cenPoll ≤ t.upNs ∧ SameRegs s t [] ∧ SameMem s t) ∧
   (∀ (s : State) (k : Fin 96) (o : CenOp), s.cenReady k.val 1 = some o →
     ∃ t, exec (.censusWalk k) s = .next t ∧ (t.strand k.val).census = some { o with waiting := true, sentAt := t.upNs + 176000 } ∧
       o.idleTo ≤ t.upNs ∧ SameRegs s t [] ∧ SameMem s t) ∧
   (∀ (s : State) (k : Fin 96) (o : CenOp), s.cenReady k.val 2 = some o →
     ∃ t, exec (.censusSweep k) s = .next t ∧ (t.strand k.val).census = some { o with done := some 0 } ∧
       o.idleTo + 176000 ≤ t.upNs ∧ SameRegs s t [] ∧ SameMem s t) ∧
   (∀ (s : State) (k : Fin 96) (o : CenOp), s.cenReady k.val 3 = some o →
     ∃ t, exec (.censusQuery k) s = .next t ∧ (t.strand k.val).census = some { o with waiting := true, sentAt := t.upNs + 176000 } ∧
       o.idleTo ≤ t.upNs ∧ SameRegs s t [] ∧ SameMem s t) ∧
   (∀ (s : State) (k : Fin 96) (o : CenOp), s.cenReady k.val 4 = some o →
     ∃ t, exec (.censusReset k) s = .next t ∧ (t.strand k.val).census = some { o with done := some 0 } ∧ s.upNs + 2100000 ≤ t.upNs ∧
       SameRegs s t [] ∧ SameMem s t)) ∧
  ((∀ (s : State) (k : Fin 96) (o : CenOp) (frame : List Byte), (s.strand k.val).census = some o → o.waiting = true → o.op = 3 → o.pos < 2560 →
     (frame.length = 12 ∧ cenCrc (frame.take 11) = byteAt frame 11 ∧ leBits frame 0 2 = 0 →
       ∃ t, exec (.censusIdentReceived k frame) s = .next t ∧ t.rdBytes (cenHdr k.val + 0x14) 12 = frame ∧
         (t.strand k.val).census = some { o with
           idleTo := s.upNs + 20000, waiting := false, retried := false, replies := o.replies + 1, done := some 0 } ∧
         (t.strand k.val).cenIdle = s.upNs + 20000 ∧
         SameRegs s t [] ∧ SameMemBut s t [(cenHdr k.val + 0x14, 12), (drvCtx k.val o.pos, 16)]) ∧
     (frame.length ≠ 12 → ∃ t, exec (.censusIdentReceived k frame) s = .next t ∧
       (t.strand k.val).census = some { o with waiting := false, done := some 2 } ∧ SameRegs s t [] ∧ SameMem s t)) ∧
   (∀ (s : State) (k : Fin 96) (o : CenOp), (s.strand k.val).census = some o → o.waiting = true →
     ∃ t, exec (.censusReplyTimeout k) s = .next t ∧
       (t.strand k.val).census = some { o with waiting := false, done := some (if o.retried then 2 else if o.op = 1 ∧ o.replies ≠ 0 then 0 else 1) } ∧
       o.sentAt + 24000 + 800 * o.pos ≤ t.upNs ∧
       SameRegs s t [] ∧ SameMem s t) ∧
   (∀ (s : State) (k : Fin 96) (o : CenOp) (r : Nat), (s.strand k.val).census = some o → o.done = some r → r < 8 →
     ∃ t, exec (.censusOpDone k) s = .next t ∧ (t.strand k.val).census = none ∧ t.memFld (cenHdr k.val + 8) 0 3 = r ∧
       t.memFld (cenHdr k.val + 8) 16 16 = o.seq % 65536 ∧ SameRegs s t [] ∧ SameMemBut s t [(cenHdr k.val + 8, 4)]) ∧
   (∀ (s : State) (k : Fin 96),
     ∃ t, exec (.censusPresence k) s = .next t ∧ t.memFld (cenHdr k.val + 0xC) 0 16 = (s.memFld (cenHdr k.val + 0xC) 0 16 + 1) % 65536 ∧
       bitAt (t.rd R.RNG_CEN_ATTN 0 (k.val / 32)) (k.val % 32) = true ∧ SameRegs s t [R.RNG_CEN_ATTN.at 0 (k.val / 32)] ∧
       SameMemBut s t [(cenHdr k.val + 0xC, 4)]) ∧
   (∀ (s : State) (k : Fin 96) (frame : List Byte), frame.length = 4 → cenCrc (frame.take 3) = byteAt frame 3 → leBits frame 0 2 = 1 →
     ∃ t, exec (.censusAlert k frame) s = .next t ∧
       t.memFld (cenHdr k.val + 0xC) 16 16 = (s.memFld (cenHdr k.val + 0xC) 16 16 + 1) % 65536 ∧
       t.memFld (cenHdr k.val + 0x10) 0 12 = leBits frame 2 12 ∧ bitAt (t.rd R.RNG_CEN_ATTN 0 (k.val / 32)) (k.val % 32) = true ∧
       SameRegs s t [R.RNG_CEN_ATTN.at 0 (k.val / 32)] ∧
       SameMemBut s t [(cenHdr k.val + 0xC, 8), (drvCtx k.val (leBits frame 2 12), 4)]))

/-- A two-step Sync of the named master is kept for its Follow_Up; a one-step Sync, or a matching Follow_Up, completes: the exchange that ended since
the last Sync joins the path delay, and a Sync with a path delay is counted; a Delay_Req on a master port is answered, on a network port with one
frame and on a link with one frame in its queue; a matching Delay_Resp ends its exchange; a message of another version, or one that is not the named
master's, is counted as dropped (R249, R250, R251, R256, R301). -/
def Obligations.PtpReceived : Prop :=
  (∀ (s : State) (src : Fin 12) (tr : Fin 3) (m : PtpMsg) (d : Nat), s.ptpOpen src.val = true → s.ptpTaken src.val = true →
    m.version = 2 → m.minor = 0 ∨ m.minor = 1 → m.sdo = 0 → s.ptpDomain src.val tr.val m = some d →
    (s.takeMaster d).fromMaster d src.val m = true → m.log = 0x7F ∨ (-7 ≤ sgn 8 m.log ∧ sgn 8 m.log ≤ 1) →
    ∃ t, exec (.syncReceived src tr m) s = .next t ∧
      (m.twoStep = true → (t.dom d).sync = some (m.seq, s.stampQ16 d src.val false, sgn 64 m.cf) ∧ (t.dom d).lastSync = s.upNs ∧
        SameRegs s t [] ∧ SameMem s t) ∧
      (m.twoStep = false → s.SyncCompletes d (s.stampQ16 d src.val false - ptpTs m - sgn 64 m.cf) t)) ∧
  (∀ (s : State) (src : Fin 12) (tr : Fin 3) (m : PtpMsg) (d : Nat) (t2 cf : Int), s.ptpOpen src.val = true → s.ptpTaken src.val = true →
    m.version = 2 → m.minor = 0 ∨ m.minor = 1 → m.sdo = 0 → s.ptpDomain src.val tr.val m = some d →
    s.fromMaster d src.val m = true → (s.dom d).sync = some (m.seq, t2, cf) →
    ∃ t, exec (.followUpReceived src tr m) s = .next t ∧ s.SyncCompletes d (t2 - ptpTs m - (cf + sgn 64 m.cf)) t) ∧
  (∀ (s : State) (src : Fin 12) (tr : Fin 3) (m : PtpMsg) (d : Nat), s.ptpOpen src.val = true → s.ptpTaken src.val = true →
    m.version = 2 → m.minor = 0 ∨ m.minor = 1 → m.sdo = 0 → s.ptpDomain src.val tr.val m = some d → s.masterPort src.val = true →
    ∃ t, exec (.delayReqReceived src tr m) s = .next t ∧
      (src.val < 4 → t.rd64 R.NET_TX_FRAMES_LO src.val = (s.rd64 R.NET_TX_FRAMES_LO src.val + 1) % 2 ^ 64 ∧
        (s.driven = true → ∃ b, t.out = .ptp src.val 9 b :: s.out)) ∧
      (4 ≤ src.val → ∃ f, (t.link (src.val - 4)).queue = (s.link (src.val - 4)).queue ++ [f] ∧ f.ftype = 3 ∧ f.prio = 1) ∧
      SameBlocks s t [.net, .mortar] ∧ SameMem s t) ∧
  (∀ (s : State) (src : Fin 12) (tr : Fin 3) (m : PtpMsg) (d : Nat) (t3 : Int), s.ptpOpen src.val = true → s.ptpTaken src.val = true →
    m.version = 2 → m.minor = 0 ∨ m.minor = 1 → m.sdo = 0 → s.ptpDomain src.val tr.val m = some d → s.fromMaster d src.val m = true →
    (s.dom d).dreq = some (m.seq, t3) → m.reqId = s.clockId → m.reqPort = src.val + 1 →
    ∃ t, exec (.delayRespReceived src tr m) s = .next t ∧ (t.dom d).dreq = none ∧ (t.dom d).sm = some (ptpTs m - t3 - sgn 64 m.cf) ∧
      SameRegs s t [] ∧ SameMem s t) ∧
  (∀ (s : State) (src : Fin 12) (tr : Fin 3) (m : PtpMsg), s.ptpOpen src.val = true → s.ptpTaken src.val = true → m.version ≠ 2 →
    ∀ c ∈ [Instr.syncReceived src tr m, .followUpReceived src tr m, .delayReqReceived src tr m, .delayRespReceived src tr m],
    ∃ t, exec c s = .next t ∧ t.rd R.TIME_PTP_DROP = Nat.min (s.rd R.TIME_PTP_DROP + 1) 0xFFFFFFFF ∧
      SameRegs s t [R.TIME_PTP_DROP.at 0 0] ∧ SameMem s t) ∧
  (∀ (s : State) (src : Fin 12) (tr : Fin 3) (m : PtpMsg) (d : Nat), s.ptpOpen src.val = true → s.ptpTaken src.val = true →
    s.ptpDomain src.val tr.val m = some d → (s.takeMaster d).fromMaster d src.val m = false →
    ∃ t, exec (.syncReceived src tr m) s = .next t ∧ t.rd R.TIME_PTP_DROP = Nat.min (s.rd R.TIME_PTP_DROP + 1) 0xFFFFFFFF ∧
      SameRegs s t [R.TIME_PTP_DROP.at 0 0] ∧ SameMem s t)

/-- A Delay_Req of an enabled domain leaves to its master's source at its time and leaves its departure for the exchange; a Sync leaves a master port
at its time, and with TWO_STEP, or for domain 1 beside a running domain 0, a Follow_Up after it; each takes the next sequence number. A network port
whose link is up sends and counts the frames; a link that takes PTP frames queues the message, to be stamped at its departure (R252, R255, R265, R291,
R301). -/
def Obligations.PtpSent : Prop :=
  (∀ (s : State) (dom : Fin 2) (id port src : Nat), s.flag F.TIME_DOM_CTL_EN 0 dom.val = true →
    (s.dom dom.val).master = some (id, port, src) → src < 12 → s.slavePort src = true →
    ∃ t, exec (.delayReqSend dom) s = .next t ∧ (t.dom dom.val).dreqSeq = ((s.dom dom.val).dreqSeq + 1) % 65536 ∧
      (s.dom dom.val).dreqAt ≤ t.upNs ∧ (t.dom dom.val).dreqAt ≤ t.upNs + 2 * logNs (s.dreqLog dom.val) ∧
      (src < 4 → ∃ t3, (t.dom dom.val).dreq = some ((s.dom dom.val).dreqSeq, t3)) ∧
      (src < 4 → s.flag F.NET_STAT_LINK src = true →
        t.rd64 R.NET_TX_FRAMES_LO src = (s.rd64 R.NET_TX_FRAMES_LO src + 1) % 2 ^ 64 ∧
        (s.driven = true → ∃ b, t.out = .ptp src 1 b :: s.out)) ∧
      (4 ≤ src → s.flag F.MRT_CTL_PTP_EN (src - 4) = true →
        ∃ f, (t.link (src - 4)).queue = (s.link (src - 4)).queue ++ [f] ∧ f.ftype = 3 ∧ f.stamp = some (3, dom.val)) ∧
      SameBlocks s t [.net, .mortar] ∧ SameMem s t) ∧
  (∀ (s : State) (src : Fin 12) (dom : Fin 2), s.flag F.TIME_DOM_CTL_EN 0 dom.val = true → s.masterPort src.val = true →
    s.domState dom.val = domLocked ∨ s.flag F.TIME_STAT_GM = true →
    let two := s.flag F.TIME_DOM_CTL_TWO_STEP 0 dom.val ||
      (dom.val == 1 && s.flag F.TIME_DOM_CTL_EN 0 0 && (s.domState 0 == domLocked || s.flag F.TIME_STAT_GM))
    ∃ t, exec (.syncSend src dom) s = .next t ∧ (t.dom dom.val).syncSeq = ((s.dom dom.val).syncSeq + 1) % 65536 ∧
      s.syncAt src.val dom.val ≤ t.upNs ∧
      (src.val < 4 → s.flag F.NET_STAT_LINK src.val = true →
        t.rd64 R.NET_TX_FRAMES_LO src.val = (s.rd64 R.NET_TX_FRAMES_LO src.val + (if two then 2 else 1)) % 2 ^ 64 ∧
        (s.driven = true → two = false → ∃ b, t.out = .ptp src.val 0 b :: s.out) ∧
        (s.driven = true → two = true → ∃ a b, t.out = .ptp src.val 8 b :: .ptp src.val 0 a :: s.out)) ∧
      (4 ≤ src.val → s.flag F.MRT_CTL_PTP_EN (src.val - 4) = true →
        ∃ f, (t.link (src.val - 4)).queue = (s.link (src.val - 4)).queue ++ [f] ∧ f.ftype = 3 ∧
          f.stamp = some (if two then 2 else 1, dom.val)) ∧
      SameBlocks s t [.net, .mortar] ∧ SameMem s t)

/-- A LOCKED domain without Sync enters HOLDOVER; naming no master does the same, and naming one ends a grandmaster; EN takes a DISABLED domain to
LISTEN and EN 0 disables it; a switch to the other domain is made when it is LOCKED and within 1 us, else refused; FAR, GM and the 10 MHz reference
are shown (R258, R259, R261, R263, R265, R266, R275). -/
def Obligations.PtpDomains : Prop :=
  (∀ (s : State) (dom : Fin 2), s.domState dom.val = domLocked →
    ∃ t, exec (.domainLossTimeout dom) s = .next t ∧ t.domState dom.val = domHoldover ∧ (t.dom dom.val).heldLocked = true ∧
      (s.dom dom.val).lastSync + Nat.max 1 (s.get F.TIME_HOLD_LOSS_MS) * 1000000 ≤ t.upNs ∧ SameBlocks s t [.time] ∧ SameMem s t) ∧
  (∀ (s : State) (who : Requester) (dom : Fin 2) (v : RegWord), s.mayPut who (R.TIME_DOM_MPORT.at 0 dom.val) v = true →
    ∃ t, exec (.masterName who dom v) s = .next t ∧ SameBlocks s t [.time] ∧ SameMem s t ∧
      (if bitsOf v.toNat F.TIME_DOM_MPORT_VALID.lsb 1 = 1 then t.get F.TIME_STAT_GM = 0 ∧ t.domState dom.val = s.domState dom.val
       else s.domState dom.val = domLocked → t.domState dom.val = domHoldover)) ∧
  (∀ (s : State) (who : Requester) (dom : Fin 2) (v : RegWord), s.mayPut who (R.TIME_DOM_CTL.at 0 dom.val) v = true →
    ∃ t, exec (.ptpDomainEnable who dom v) s = .next t ∧ SameBlocks s t [.time] ∧ SameMem s t ∧
      (if bitsOf v.toNat F.TIME_DOM_CTL_EN.lsb 1 = 1 then s.domState dom.val = domDisabled → t.domState dom.val = domListen
       else t.domState dom.val = domDisabled)) ∧
  (∀ (s : State) (who : Requester) (v : RegWord), s.mayPut who (R.TIME_CTL.at 0 0) v = true →
    bitsOf v.toNat F.TIME_CTL_DOMAIN.lsb 1 ≠ s.get F.TIME_STAT_DOM_ACT →
    ∃ t, exec (.domainSwitch who v) s = .next t ∧
      (if s.domState (bitsOf v.toNat F.TIME_CTL_DOMAIN.lsb 1) = domLocked ∧
          ((s.nowQ : Int) - ((s.dom (bitsOf v.toNat F.TIME_CTL_DOMAIN.lsb 1)).clk * 2 ^ 32 +
            (s.dom (bitsOf v.toNat F.TIME_CTL_DOMAIN.lsb 1)).clkFrac : Nat)).natAbs ≤ 1000 * 2 ^ 32 then
        t.get F.TIME_STAT_DOM_ACT = bitsOf v.toNat F.TIME_CTL_DOMAIN.lsb 1
       else t.get F.TIME_STAT_SW_REFUSED = 1 ∧ t.get F.TIME_STAT_DOM_ACT = s.get F.TIME_STAT_DOM_ACT) ∧
      SameRegs s t [R.TIME_CTL.at 0 0, R.TIME_STAT.at 0 0, R.TIME_REF.at 0 0] ∧ SameMem s t) ∧
  (∀ s : State, s.flag F.TIME_STAT_MODE = true → s.flag F.TIME_STAT_FAR = false → 1000 * 2 ^ 32 < s.clkDiffQ.natAbs →
    ∃ t, exec .counterFar s = .next t ∧ t.get F.TIME_STAT_FAR = 1 ∧ SameRegs s t [R.TIME_STAT.at 0 0] ∧ SameMem s t) ∧
  (∀ s : State, s.flag F.TIME_GM_CTL_DESIGNATED = true → s.flag F.TIME_STAT_GM = false → s.domAway 0 = true → s.domAway 1 = true →
    ∃ t, exec .grandmasterEntry s = .next t ∧ t.get F.TIME_STAT_GM = 1 ∧
      t.get F.TIME_GM_STAT_CLASS = (if s.gmLocked then 7 else 248) ∧
      SameRegs s t [R.TIME_STAT.at 0 0, R.TIME_GM_STAT.at 0 0] ∧ SameMem s t) ∧
  (∀ s : State,
    ∃ t, exec .refLock s = .next t ∧ t.get F.TIME_REF_PRESENT = 1 ∧ t.get F.TIME_REF_LOCKED = b2n (s.flag F.TIME_CTL_REF_EN) ∧ SameRegs s t [R.TIME_REF.at 0 0] ∧
      SameMem s t) ∧
  (∀ s : State, s.flag F.TIME_REF_LOCKED = true →
    ∃ t, exec .refLoss s = .next t ∧ t.get F.TIME_REF_LOCKED = 0 ∧ t.get F.TIME_STAT_REF_LOST = 1 ∧
      SameRegs s t [R.TIME_REF.at 0 0, R.TIME_STAT.at 0 0] ∧ SameMem s t)

/-- A valid trigger without a routed pin, and an owner pin, go to a requester that may take them, and a cleared EN or OWN frees them; a claim that is
not allowed or not valid leaves another requester's trigger to it; an enabled, held trigger fires at its instant, sets FIRED and, where the device
drives its pins, drives its pin, whose pulse ends (R269, R270, R272). A selected edge of a capture source writes the time counter into its TIME_TC
pair and sets VALID, and within 100 ns of the last one OVF alone; a read of TIME_TC_HI clears VALID; PPS_OUT rises at a whole second under EN, unless
LOCKED_ONLY or a pin that is not driven holds it low, and falls (R271, R273). -/
def Obligations.TriggersAndCaptures : Prop :=
  ((∀ (s : State) (who : Requester) (n : Fin 16) (v : RegWord), s.mayPut who (R.TIME_TT_CTL.at 0 n.val) v = true →
     (bitsOf v.toNat F.TIME_TT_CTL_EN.lsb 1 = 0 →
       ∃ t, exec (.triggerClaim who n v) s = .next t ∧ t.claim n.val = none ∧ t.get F.TIME_TT_CTL_EN 0 n.val = 0 ∧
         SameBlocks s t [.time, .global] ∧ SameMem s t) ∧
     (bitsOf v.toNat F.TIME_TT_CTL_EN.lsb 1 = 1 → (s.typedWr (R.TIME_TT_CTL.at 0 n.val) v).trigValid n.val = true →
       (s.typedWr (R.TIME_TT_CTL.at 0 n.val) v).routePin n.val = none →
       s.canTake n.val (s.claimClass who (bitsOf v.toNat F.TIME_TT_CTL_CLASS.lsb F.TIME_TT_CTL_CLASS.width)) who.code = true →
       ∃ t c, exec (.triggerClaim who n v) s = .next t ∧ t.claim n.val = some c ∧ c.req = who.code ∧ t.get F.TIME_TT_CTL_EN 0 n.val = 1 ∧
         SameBlocks s t [.time, .global] ∧ SameMem s t) ∧
     (∀ c, bitsOf v.toNat F.TIME_TT_CTL_EN.lsb 1 = 1 → s.claim n.val = some c → c.req ≠ who.code →
       s.canTake n.val (s.claimClass who (bitsOf v.toNat F.TIME_TT_CTL_CLASS.lsb F.TIME_TT_CTL_CLASS.width)) who.code = false ∨
         (s.typedWr (R.TIME_TT_CTL.at 0 n.val) v).trigValid n.val = false →
       ∃ t, exec (.triggerClaim who n v) s = .next t ∧ t.claim n.val = some c ∧ t.rd R.TIME_TT_CTL 0 n.val = s.rd R.TIME_TT_CTL 0 n.val ∧
         SameBlocks s t [.time] ∧ SameMem s t)) ∧
   (∀ (s : State) (who : Requester) (n : Fin 32) (v : RegWord), s.mayPut who (R.GLB_GPIO_CFG.at 0 n.val) v = true →
     bitsOf v.toNat F.GLB_GPIO_CFG_OWN.lsb 1 = 1 →
     s.canTake (32 + n.val) (s.claimClass who (bitsOf v.toNat F.GLB_GPIO_CFG_CLASS.lsb F.GLB_GPIO_CFG_CLASS.width)) who.code = true →
     ∃ t c, exec (.gpioClaim who n v) s = .next t ∧ t.claim (32 + n.val) = some c ∧ c.req = who.code ∧ c.trig = none ∧
       t.get F.GLB_GPIO_CFG_HELD 0 n.val = 1 ∧ t.get F.GLB_GPIO_CFG_OWN 0 n.val = 1 ∧ SameBlocks s t [.time, .global] ∧ SameMem s t) ∧
   (∀ (s : State) (n : Fin 16) (at' : Nat), s.flag F.TIME_TT_CTL_EN 0 n.val = true → (s.claim n.val).isSome = true →
     s.nextFire n.val = some at' →
     ∃ t, exec (.triggerFire n) s = .next t ∧ at' ≤ t.now ∧ (t.trig n.val).lastFire = some at' ∧
       bitAt (t.get F.TIME_TT_STAT_FIRED) n.val = true ∧
       (∀ r, s.routePin n.val = some r → s.driven = true → KMap.get (fun _ => none) t.time.pulse r =
         some (t.upNs + Nat.max 1 (s.get F.TIME_TT_CTL_WIDTH 0 n.val) * 100, !s.flag F.TIME_TT_CTL_POL 0 n.val, n.val)) ∧
       SameRegs s t [R.TIME_TT_STAT.at 0 0] ∧ SameMem s t) ∧
   (∀ (s : State) (n : Fin 16) (r at' : Nat), s.pulseOf n.val = some (r, at') →
     ∃ t, exec (.triggerPulseEnd n) s = .next t ∧ at' ≤ t.upNs ∧ KMap.get (fun _ => none) t.time.pulse r = none ∧ SameRegs s t [] ∧ SameMem s t)) ∧
  ((∀ (s : State) (n : Fin 8) (rising : Bool),
     (let cfg := bitsOf (s.rd R.TIME_TC_CFG 0 (n.val / 4)) (8 * (n.val % 4)) 8
      cfg % 64 ≠ 0 ∧ (cfg % 64 < 4 ∨ 32 ≤ cfg % 64) ∧ cfg / 64 ≠ 3 ∧ (cfg / 64 = 0 → rising = true) ∧ (cfg / 64 = 1 → rising = false)) →
     ∃ t, exec (.captureEdge n rising) s = .next t ∧ SameMem s t ∧
       (if (match KMap.get (fun _ => none) s.time.capLast n.val with
           | some l => decide (s.upNs < l + 100)
           | none => false) = true then
         bitAt (t.get F.TIME_TC_STAT_OVF) n.val = true ∧ SameRegs s t [R.TIME_TC_STAT.at 0 0]
        else t.rd64 R.TIME_TC_LO 0 n.val = s.now % 2 ^ 64 ∧ bitAt (t.get F.TIME_TC_STAT_VALID) n.val = true ∧
         SameRegs s t [R.TIME_TC_STAT.at 0 0, R.TIME_TC_LO.at 0 n.val, R.TIME_TC_LO.at 0 n.val + 4])) ∧
   (∀ (s : State) (who : Requester) (n : Fin 8), s.regAllowed who .time 0 (0x204 + 8 * n.val) false = true →
     ∃ t, exec (.captureRead who n) s = .next t ∧ bitAt (t.get F.TIME_TC_STAT_VALID) n.val = false ∧
       SameRegs s t [R.TIME_TC_STAT.at 0 0] ∧ SameMem s t) ∧
   (∀ s : State, s.flag F.TIME_PPS_EN = true →
     ∃ t, exec .ppsOutRise s = .next t ∧ t.time.ppsAt = some t.now ∧
       t.now = (if s.now % 1000000000 = 0 ∧ s.time.ppsAt ≠ some s.now then s.now else (s.now / 1000000000 + 1) * 1000000000) ∧
       t.time.pps = (if s.ppsLow || !s.driven then none else some (t.upNs + Nat.max 1 (s.get F.TIME_PPS_WIDTH_US) * 1000)) ∧ SameRegs s t [] ∧ SameMem s t) ∧
   (∀ (s : State) (at' : Nat), s.time.pps = some at' →
     ∃ t, exec .ppsOutEnd s = .next t ∧ at' ≤ t.upNs ∧ t.time.pps = none ∧ SameRegs s t [] ∧ SameMem s t))

/-- Setting MRT_CTL.ENABLE starts TRAINING, clearing it stops the link with its status cleared and its queue empty; the link adapts, locks after four
good blocks, retries with a reason after 100 ms in TRAINING or LOCKED, returns to TRAINING as LOST 1 ms after it lost lock, and becomes LOST after
MISS periods without a HELLO; a link without a point job writes no memory (R292, R294, R305). -/
def Obligations.MortarLinks : Prop :=
  (∀ (s : State) (who : Requester) (m : Fin 8) (v : RegWord), s.mayPut who (R.MRT_CTL.at m.val 0) v = true →
    (s.flag F.MRT_CTL_ENABLE m.val = false → bitsOf v.toNat F.MRT_CTL_ENABLE.lsb 1 = 1 →
      ∃ t, exec (.mortarEnable who m v) s = .next t ∧ t.linkState m.val = mrtTraining ∧ (t.link m.val).adapted = false ∧
        (t.link m.val).everUp = false ∧ SameBlocks s t [.mortar, .plumb, .host] ∧ ((s.link m.val).job = none → SameMem s t)) ∧
    (s.flag F.MRT_CTL_ENABLE m.val = true → bitsOf v.toNat F.MRT_CTL_ENABLE.lsb 1 = 0 →
      ∃ t, exec (.mortarDisable who m v) s = .next t ∧ t.rd R.MRT_STAT m.val = 0 ∧ t.get F.MRT_FAULT_CODE m.val = 0 ∧
        (t.link m.val).queue = [] ∧ SameBlocks s t [.mortar, .host] ∧ ((s.link m.val).job = none → SameMem s t))) ∧
  (∀ (s : State) (m : Fin 8), s.linkState m.val = mrtTraining →
    (s.refPresent 3 = true →
      ∃ t, exec (.mortarRxAdapted m) s = .next t ∧ (t.link m.val).adapted = true ∧ SameRegs s t [] ∧ SameMem s t) ∧
    ((s.link m.val).adapted = true → 4 ≤ (s.link m.val).good →
      ∃ t, exec (.mortarBlockLock m) s = .next t ∧ t.linkState m.val = mrtLocked ∧
        SameRegs s t [R.MRT_STAT.at m.val 0, R.MRT_TXQ.at m.val 0] ∧ SameMem s t)) ∧
  (∀ (s : State) (m : Fin 8) (signal : Bool), s.linkState m.val = mrtTraining ∨ (s.linkState m.val = mrtLocked ∧ (s.link m.val).everUp = false) →
    ∃ t, exec (.mortarBringupTimeout m signal) s = .next t ∧ t.linkState m.val = mrtTraining ∧ (s.link m.val).tryAt + 100000000 ≤ t.upNs ∧
      t.get F.MRT_FAULT_CODE m.val = (if (s.link m.val).adapted then 3 else if signal then 2 else 1) ∧
      t.get F.MRT_TRAIN_TRIES m.val = Nat.min (s.get F.MRT_TRAIN_TRIES m.val + 1) (2 ^ F.MRT_TRAIN_TRIES.width - 1) ∧
      ((s.link m.val).job = none →
        SameRegs s t [R.MRT_STAT.at m.val 0, R.MRT_FAULT.at m.val 0, R.MRT_TRAIN.at m.val 0] ∧ SameMem s t)) ∧
  (∀ (s : State) (m : Fin 8),
    (s.linkLocked m.val = true → (s.link m.val).everUp = true →
      ∃ t, exec (.mortarLockLoss m) s = .next t ∧ t.linkState m.val = mrtTraining ∧ t.get F.MRT_FAULT_CODE m.val = 4 ∧
        (s.link m.val).lastGood + 1000000 ≤ t.upNs ∧ (t.link m.val).everUp = false ∧
        ((s.link m.val).job = none →
          SameRegs s t [R.MRT_STAT.at m.val 0, R.MRT_FAULT.at m.val 0, R.MRT_TRAIN.at m.val 0] ∧ SameMem s t)) ∧
    (s.linkUp m.val = true →
      ∃ t, exec (.helloLoss m) s = .next t ∧ t.linkState m.val = mrtLost ∧
        (s.link m.val).helloAt + s.helloMiss m.val * s.helloPeriod m.val ≤ t.upNs ∧
        t.rd R.MRT_LINK_DOWN m.val = Nat.min (s.rd R.MRT_LINK_DOWN m.val + 1) 0xFFFFFFFF ∧
        ((s.link m.val).job = none → SameRegs s t [R.MRT_STAT.at m.val 0, R.MRT_LINK_DOWN.at m.val 0] ∧ SameMem s t)))

/-- A block of a running link that cannot be corrected (MODE 0) or whose CRC is wrong (MODE 1) is counted and ends the frames being assembled; a good
block while training counts towards lock, in MODE 1 where it takes 5,500 UI; a line without a marker brings no block; a whole bad frame is counted in
MRT_FRM_ERR and a good HELLO frame is counted as received; a locked link queues a HELLO each period (R284, R286, R287, R288, R292, R293). -/
def Obligations.MortarReception : Prop :=
  (∀ (s : State) (m : Fin 8) (line mark head body check : List Nat), mark ++ head ++ body ++ check = line → s.linkState m.val ≠ mrtOff → (s.linkState m.val = mrtTraining → (s.link m.val).adapted = true) →
    ((s.link m.val).mode = 0 → pamParse (s.link m.val).precode (s.link m.val).rxLast line = none →
      ∃ t, exec (.mortarBlockReceived m mark head body check) s = .next t ∧
        t.rd R.MRT_FEC_UNCORR m.val = Nat.min (s.rd R.MRT_FEC_UNCORR m.val + 1) 0xFFFFFFFF ∧ (t.link m.val).good = 0 ∧
        (t.link m.val).asm = none ∧ SameBlocks s t [.mortar] ∧ SameMem s t) ∧
    ((s.link m.val).mode ≠ 0 → lineSegs (s.link m.val).rxInv (line.map (· != 0)) = [] →
      ∃ t, exec (.mortarBlockReceived m mark head body check) s = .next t ∧ (t.link m.val).good = 0 ∧ SameRegs s t [] ∧ SameMem s t) ∧
    ((s.link m.val).mode ≠ 0 → ∀ (inv bad : Bool) (d : List Bool) (rest : List (Bool × List Bool × Bool)),
      lineSegs (s.link m.val).rxInv (line.map (· != 0)) = (inv, d, bad) :: rest → nrzParse d = none →
      ∃ t, exec (.mortarBlockReceived m mark head body check) s = .next t ∧
        t.rd R.MRT_BLK_ERR m.val = Nat.min (s.rd R.MRT_BLK_ERR m.val + 1) 0xFFFFFFFF ∧ (t.link m.val).good = 0 ∧
        (t.link m.val).asm = none ∧ (t.link m.val).rxInv = ((s.link m.val).rxInv != inv) ∧ SameBlocks s t [.mortar] ∧ SameMem s t)) ∧
  (∀ (s : State) (m : Fin 8) (line mark head body check : List Nat) (hdr : Nat) (data : List Byte),
    mark ++ head ++ body ++ check = line → s.linkState m.val = mrtTraining →
    (s.link m.val).adapted = true → parity hdr 20 = 0 → (∀ b, (s.link m.val).bseq = some b → bitsOf hdr 0 12 = (b + 1) % 4096) →
    ((s.link m.val).mode = 0 → ∀ n, pamParse (s.link m.val).precode (s.link m.val).rxLast line = some (hdr, data, n) →
      ∃ t, exec (.mortarBlockReceived m mark head body check) s = .next t ∧ (t.link m.val).good = (s.link m.val).good + 1 ∧
        t.rd R.MRT_FEC_CORR m.val = Nat.min (s.rd R.MRT_FEC_CORR m.val + n) 0xFFFFFFFF ∧
        (t.link m.val).bseq = some (bitsOf hdr 0 12) ∧ (t.link m.val).lastGood = s.upNs ∧ SameBlocks s t [.mortar] ∧ SameMem s t) ∧
    ((s.link m.val).mode ≠ 0 → ∀ (inv bad : Bool) (d : List Bool) (rest : List (Bool × List Bool × Bool)),
      lineSegs (s.link m.val).rxInv (line.map (· != 0)) = (inv, d, bad) :: rest → nrzParse d = some (hdr, data) →
      ∃ t, exec (.mortarBlockReceived m mark head body check) s = .next t ∧
        (t.link m.val).good = (if line.length = 5500 then (s.link m.val).good + 1 else 0) ∧
        (t.link m.val).bseq = some (bitsOf hdr 0 12) ∧ (t.link m.val).lastGood = s.upNs ∧ SameBlocks s t [.mortar] ∧ SameMem s t)) ∧
  (∀ (s : State) (m : Fin 8) (f : List Byte), s.linkLocked m.val = true →
    ((frameHeadOk (leAt f 0 4) && decide (20 + bitsOf (leAt f 0 4) 8 14 ≤ f.length) && frameCrcOk f) = false →
      ∃ t, exec (.mortarFrameReceived m f) s = .next t ∧ t.rd R.MRT_FRM_ERR m.val = Nat.min (s.rd R.MRT_FRM_ERR m.val + 1) 0xFFFFFFFF ∧
        SameRegs s t [R.MRT_FRM_ERR.at m.val 0] ∧ SameMem s t) ∧
    (frameHeadOk (leAt f 0 4) = true → 20 + bitsOf (leAt f 0 4) 8 14 ≤ f.length → frameCrcOk f = true → bitsOf (leAt f 0 4) 0 4 = 4 →
      ∃ t, exec (.mortarFrameReceived m f) s = .next t ∧
        t.rd64 R.MRT_RX_FRAMES_LO m.val = (s.rd64 R.MRT_RX_FRAMES_LO m.val + 1) % 2 ^ 64 ∧
        t.rd64 R.MRT_RX_BYTES_LO m.val = (s.rd64 R.MRT_RX_BYTES_LO m.val + (16 + bitsOf (leAt f 0 4) 8 14 + 4)) % 2 ^ 64 ∧
        SameBlocks s t [.mortar] ∧ SameMem s t) ∧
    (∃ t h, exec (.helloSend m) s = .next t ∧ (s.link m.val).helloTx + s.helloPeriod m.val ≤ t.upNs ∧
        (t.link m.val).queue = (s.link m.val).queue ++ [h] ∧ h.ftype = 4 ∧
        SameRegs s t [R.MRT_TXQ.at m.val 0, R.MRT_HELLO_MISS.at m.val 0] ∧ SameMem s t))

/-- A locked link sends the next frame of its queue and counts it; a point job of an UP link with a valid descriptor begins, its first frame queued
where there is room, and its end is counted; a MSG_TX descriptor of a good length is queued as one MSG or PTP frame, and one of a bad length or with a
reserved bit set is discarded and counted, its element freed (R291, R297, R298, R302). -/
def Obligations.MortarTransmission : Prop :=
  (∀ (s : State) (m : Fin 8) (f : MortarFrame), s.linkLocked m.val = true →
    (s.link m.val).nextFrame (s.flag F.MRT_STAT_DUP_INDEX m.val) = some f →
    ∃ t, exec (.mortarFrameSend m) s = .next t ∧
      t.rd64 R.MRT_TX_FRAMES_LO m.val = (s.rd64 R.MRT_TX_FRAMES_LO m.val + 1) % 2 ^ 64 ∧
      (f.stamp = none → t.rd64 R.MRT_TX_BYTES_LO m.val = (s.rd64 R.MRT_TX_BYTES_LO m.val + (16 + f.payload.length + 4)) % 2 ^ 64 ∧
        ((s.link m.val).job = none → (t.link m.val).queue = (s.link m.val).queue.erase f)) ∧
      SameBlocks s t [.mortar] ∧ SameMem s t) ∧
  (∀ (s : State) (m : Fin 8) (e : Nat), s.flag F.MRT_CTL_POINT_EN m.val = true → s.flag F.MRT_POINT_RING_EN m.val = true →
    (s.link m.val).job = none → s.unitCanTake (s.get F.MRT_POINT_RING_RING m.val) = true → s.linkUp m.val = true →
    s.flag F.MRT_STAT_DUP_INDEX m.val = false →
    e = s.ringElem (s.get F.MRT_POINT_RING_RING m.val) (s.ringCI (s.get F.MRT_POINT_RING_RING m.val)) →
    s.rdN e 6 % 64 = 0 → s.memFld (e + 8) 0 20 % 64 = 0 → 64 ≤ s.memFld (e + 0xC) 0 14 → s.memFld (e + 0xC) 0 14 ≤ 8192 →
    s.memFld (e + 0xC) 0 14 % 64 = 0 → s.memFld (e + 0xC) 16 15 ≠ 0 → s.memFld (e + 0xC) 16 15 ≤ 16384 →
    s.unitRange (s.rdN e 6) (s.memFld (e + 0xC) 0 14) = true →
    s.unitRange (s.rdN e 6 + (s.memFld (e + 0xC) 16 15 - 1) * s.memFld (e + 8) 0 20) (s.memFld (e + 0xC) 0 14) = true →
    ∃ t, exec (.pointJob m) s = .next t ∧
      (if (s.link m.val).queue.any (fun f => f.ftype == 2) = false ∧ (s.link m.val).level + (s.pointFrame e 0).size ≤ 131072 then
        (t.link m.val).job = some (e, 2) ∧ (t.link m.val).queue = (s.link m.val).queue ++ [s.pointFrame e 0]
       else (t.link m.val).job = some (e, 1) ∧ (t.link m.val).queue = (s.link m.val).queue) ∧
      SameRegs s t [R.MRT_TXQ.at m.val 0] ∧ SameMem s t) ∧
  (∀ (s : State) (m : Fin 8) (e : Nat), (s.link m.val).job = some (e, 0) →
    ∃ t, exec (.pointJobDone m) s = .next t ∧ (t.link m.val).job = none ∧
      t.rd R.MRT_POINT_SENT m.val = Nat.min (s.rd R.MRT_POINT_SENT m.val + 1) 0xFFFFFFFF ∧ SameBlocks s t [.mortar, .host]) ∧
  (∀ (s : State) (m : Fin 8) (r e len : Nat), r = s.get F.MRT_MSG_TX_RING m.val → e = s.ringElem r (s.ringCI r) →
    len = bitsOf (s.rd32 (e + 8)) 0 8 → s.flag F.MRT_MSG_TX_EN m.val = true → s.unitCanTake r = true → s.linkUp m.val = true →
    (len < 4 ∨ 224 < len ∨ len % 4 ≠ 0 ∨ s.rdN (e + 6) 2 ≠ 0 ∨ bitsOf (s.rd32 (e + 8)) 11 21 ≠ 0 ∨ s.rdN (e + 0xC) 20 ≠ 0 → ∃ t, exec (.msgTx m) s = .next t ∧
      t.rd R.MRT_MSG_DROP m.val = Nat.min (s.rd R.MRT_MSG_DROP m.val + 1) 0xFFFFFFFF ∧ t.ringCI r = (s.ringCI r + 1) % 2 ^ 32 ∧
      SameBlocks s t [.mortar, .host] ∧ SameMemBut s t [(ringCtx r + 0x14, 4)]) ∧
    (4 ≤ len → len ≤ 224 → len % 4 = 0 → s.rdN (e + 6) 2 = 0 → bitsOf (s.rd32 (e + 8)) 11 21 = 0 → s.rdN (e + 0xC) 20 = 0 →
      s.unitRange (s.rdN e 6) len = true → (bitAt (s.rd32 (e + 8)) 8 = true → s.flag F.MRT_CTL_PTP_EN m.val = true) →
      (s.link m.val).level + 1024 ≤ 131072 →
      ∃ t f, exec (.msgTx m) s = .next t ∧ (t.link m.val).queue = (s.link m.val).queue ++ [f] ∧ f.ftype = (if bitAt (s.rd32 (e + 8)) 8 then 3 else 5) ∧
        f.payload = s.rdBytes (s.rdN e 6) len ∧ t.ringCI r = (s.ringCI r + 1) % 2 ^ 32 ∧ SameBlocks s t [.mortar, .host] ∧
        SameMemBut s t [(ringCtx r + 0x14, 4)]))

/-- CONFIGURE of a ring with allowed settings writes its context with PI and CI 0 and enables it, and answers OK; of an enabled ring it answers 2, and
with a bad capacity or agent 1; ENABLE of a ring never configured answers 1, of a configured one enables it; DISABLE clears EN (R374, R382). -/
def Obligations.RingCommands : Prop :=
  ∀ (s : State) (who : Requester) (ring : Fin 8192), s.mayWrite who (R.RNG_CMD.at 0 0) = true → s.ringWriter who = true →
    let r := ring.val
    let lc := s.get F.RNG_SET_GEOM_LOG_CAP
    let es := s.get F.RNG_SET_GEOM_ESIZE
    let prod := s.get F.RNG_SET_BIND_PROD
    let cons := s.get F.RNG_SET_BIND_CONS
    let base := s.rd64 R.RNG_SET_BASE_LO % 2 ^ 48
    (s.ringEn r = true → ∃ t, exec (.ringConfigure who ring) s = .next t ∧ t.get F.RNG_RESULT_RESULT = 2 ∧ t.get F.RNG_RESULT_RING = r ∧
      SameRegs s t [R.RNG_RESULT.at 0 0] ∧ SameMem s t) ∧
    (s.ringEn r = false → (lc = 0 ∨ 16 < lc ∨ 11 < es ∨ base % 64 ≠ 0 ∨ (19 ≤ prod ∧ prod ≤ 30) ∨ (19 ≤ cons ∧ cons ≤ 30)) →
      ∃ t, exec (.ringConfigure who ring) s = .next t ∧ t.get F.RNG_RESULT_RESULT = 1 ∧ t.get F.RNG_RESULT_RING = r ∧
        SameRegs s t [R.RNG_RESULT.at 0 0] ∧ SameMem s t) ∧
    (s.ringEn r = false → 1 ≤ lc → lc ≤ 16 → es ≤ 11 → base % 64 = 0 → (prod < 19 ∨ prod = 31) → (cons < 19 ∨ cons = 31) →
      ∃ t, exec (.ringConfigure who ring) s = .next t ∧ t.get F.RNG_RESULT_RESULT = 0 ∧ t.get F.RNG_RESULT_RING = r ∧
        t.ringEn r = true ∧ t.ringBase r = base ∧ t.ringLogCap r = lc ∧ t.ringEsize r = 8 * 2 ^ es ∧ t.ringProd r = prod ∧ t.ringCons r = cons ∧
        t.ringClass r = s.get F.RNG_SET_GEOM_CLASS ∧ t.ringEv r = s.get F.RNG_SET_BIND_EV ∧ t.ringVec r = s.get F.RNG_SET_BIND_VEC ∧
        t.ringPI r = 0 ∧ t.ringCI r = 0 ∧ SameRegs s t [R.RNG_RESULT.at 0 0] ∧ SameMemBut s t [(ringCtx r, 28)]) ∧
    (s.ringLogCap r = 0 → ∃ t, exec (.ringEnable who ring) s = .next t ∧ t.get F.RNG_RESULT_RESULT = 1 ∧ t.get F.RNG_RESULT_RING = r ∧
      SameRegs s t [R.RNG_RESULT.at 0 0] ∧ SameMem s t) ∧
    (s.ringLogCap r ≠ 0 → ∃ t, exec (.ringEnable who ring) s = .next t ∧ t.get F.RNG_RESULT_RESULT = 0 ∧ t.get F.RNG_RESULT_RING = r ∧
      t.ringEn r = true ∧ t.ringPI r = s.ringPI r ∧ t.ringCI r = s.ringCI r ∧ SameRegs s t [R.RNG_RESULT.at 0 0] ∧
      SameMemBut s t [(ringCtx r + 8, 4)]) ∧
    ∃ t, exec (.ringDisable who ring) s = .next t ∧ t.get F.RNG_RESULT_RESULT = 0 ∧ t.get F.RNG_RESULT_RING = r ∧
      t.ringEn r = false ∧ t.ringPI r = s.ringPI r ∧ t.ringCI r = s.ringCI r ∧ SameRegs s t [R.RNG_RESULT.at 0 0] ∧
      SameMemBut s t [(ringCtx r + 8, 4)]

/-- A CI write within the fill moves CI, and one past PI, a host error, may disturb that ring's elements and indices alone; a write of RNG_EV_RAISE
latches the slots bound to its line; an allowed doorbell moves PI or CI of its ring by COUNT, and any other is counted in HOST_DB_REJ alone (R375,
R377, R383, R395, R601). -/
def Obligations.RingIndicesAndEvents : Prop :=
  (∀ (s : State) (who : Requester) (ring : Fin 8192) (ci : RegWord),
    ((ci.toNat + 2 ^ 32 - s.ringCI ring.val) % 2 ^ 32 ≤ s.ringFill ring.val →
      ∃ t, exec (.ringCiWrite who ring ci) s = .next t ∧ t.ringCI ring.val = ci.toNat ∧ t.ringPI ring.val = s.ringPI ring.val ∧
        SameRegs s t [] ∧ SameMemBut s t [(ringCtx ring.val + 0x14, 4)]) ∧
    (s.ringFill ring.val < (ci.toNat + 2 ^ 32 - s.ringCI ring.val) % 2 ^ 32 →
      ∃ t, exec (.ringCiWrite who ring ci) s = .next t ∧ SameRegs s t [] ∧
        ∀ a, a < 2 ^ 64 → hostWin a = false → (s.ringReach ring.val false).mem a = false → t.rdB a = s.rdB a)) ∧
  (∀ (s : State) (who : Requester) (v : RegWord), s.mayPut who (R.RNG_EV_RAISE.at 0 0) v = true →
    ∃ t, exec (.softEventRaise who v) s = .next t ∧
      (∀ c : Fin 16, (s.core c.val).wait = .none → ∀ e ∈ (s.core c.val).evslot, bitAt e.2 16 = true →
        bitsOf e.2 0 10 = 0x1C0 + bitsOf v.toNat 0 6 → bitAt (t.core c.val).evpend e.1 = true) ∧ SameRegs s t [] ∧ SameMem s t) ∧
  (∀ (s : State) (who : Requester) (ring : Fin 8192) (count : BitVec 16), s.mayWrite who (R.HOST_DB.at 0 0) = true →
    (who = .host ∨ who = .debug → s.flag F.HOST_CTL_DB_EN = true → s.ringProd ring.val = who.code → s.ringEn ring.val = true →
      s.ringClash ring.val = none →
      ∃ t, exec (.hostDoorbellProduce who ring count) s = .next t ∧ t.ringPI ring.val = (s.ringPI ring.val + count.toNat) % 2 ^ 32 ∧
        SameRegs s t [] ∧ SameMemBut s t [(ringCtx ring.val + 0x10, 4)]) ∧
    (who = .host ∨ who = .debug → s.flag F.HOST_CTL_DB_EN = true → s.ringCons ring.val = who.code → s.ringEn ring.val = true →
      count.toNat ≤ s.ringFill ring.val →
      ∃ t, exec (.hostDoorbellConsume who ring count) s = .next t ∧ t.ringCI ring.val = (s.ringCI ring.val + count.toNat) % 2 ^ 32 ∧
        SameRegs s t [] ∧ SameMemBut s t [(ringCtx ring.val + 0x14, 4)]) ∧
    ((who ≠ .host ∧ who ≠ .debug) ∨ s.flag F.HOST_CTL_DB_EN = false ∨ s.ringEn ring.val = false ∨ s.ringProd ring.val ≠ who.code →
      ∃ t, exec (.hostDoorbellProduce who ring count) s = .next t ∧ t.rd R.HOST_DB_REJ = Nat.min (s.rd R.HOST_DB_REJ + 1) 0xFFFFFFFF ∧
        SameRegs s t [R.HOST_DB_REJ.at 0 0] ∧ SameMem s t) ∧
    ((who ≠ .host ∧ who ≠ .debug) ∨ s.flag F.HOST_CTL_DB_EN = false ∨ s.ringEn ring.val = false ∨ s.ringCons ring.val ≠ who.code →
      ∃ t, exec (.hostDoorbellConsume who ring count) s = .next t ∧ t.rd R.HOST_DB_REJ = Nat.min (s.rd R.HOST_DB_REJ + 1) 0xFFFFFFFF ∧
        SameRegs s t [R.HOST_DB_REJ.at 0 0] ∧ SameMem s t))

/-- A post by the bound sender to an enabled empty mailbox is held, sets FULL and its doorbell bit and counts it; a post to a full one sets REFUSED
and one by another agent WRONG, the notice kept; a read of the high half by the receiver empties it; its timeout sets TIMEOUT; a withdrawal by its
sender empties it and sets WITHDRAWN; a configuration that names an agent code 19 to 30 changes nothing (R373, R386–R388). Unmasking a vector clears
its mask and pending bits and sends the pending message; a Function Level Reset and a link loss return the host registers to reset with their own bits
set; the link comes up only with its references; a failed completion is counted and flagged, and the next access through the window fails; the host
and the debug port read and write words of memory where they may, a poisoned word comes as a poisoned completion, a part of the map that they do not
see reads 0 and ignores writes, and the host masks vectors and reads the pending bits (R392–R394, R396, R397, R404, R409, R551, R592). -/
def Obligations.MailboxesAndHostLink : Prop :=
  (∀ (s : State) (who : Requester) (n : Fin 64),
     (∀ hi : RegWord, s.mayPut who (R.MBX_NOTICE_HI.at n.val 0) hi = true →
       (s.flag F.MBX_CFG_EN n.val = true → s.get F.MBX_CFG_SENDER n.val = who.code → s.flag F.MBX_STAT_FULL n.val = false →
         ∃ t x, exec (.mailboxPost who n hi) s = .next t ∧ t.rd R.MBX_NOTICE_LO n.val = s.held who (R.MBX_NOTICE_LO.at n.val 0) % 2 ^ 32 ∧
           t.rd R.MBX_NOTICE_HI n.val = hi.toNat ∧ t.get F.MBX_STAT_FULL n.val = 1 ∧ t.get F.MBX_STAT_TIMEOUT n.val = 0 ∧
           t.rd R.MBX_DOORBELL n.val = 2 ^ s.get F.MBX_CTL_DBIT n.val ∧ t.mboxHeld n.val = some x ∧ x.sender = who.code ∧
           x.receiver = s.get F.MBX_CFG_RECEIVER n.val ∧
           t.get F.MBX_STAT_POSTS n.val = (s.get F.MBX_STAT_POSTS n.val + 1) % 2 ^ F.MBX_STAT_POSTS.width ∧
           SameRegs s t [R.MBX_NOTICE_LO.at n.val 0, R.MBX_NOTICE_HI.at n.val 0, R.MBX_STAT.at n.val 0, R.MBX_DOORBELL.at n.val 0] ∧
           SameMem s t) ∧
       (s.flag F.MBX_CFG_EN n.val = true → s.get F.MBX_CFG_SENDER n.val = who.code → s.flag F.MBX_STAT_FULL n.val = true →
         ∃ t, exec (.mailboxPost who n hi) s = .next t ∧ t.get F.MBX_STAT_REFUSED n.val = 1 ∧ t.get F.MBX_STAT_FULL n.val = s.get F.MBX_STAT_FULL n.val ∧
           t.mboxHeld n.val = s.mboxHeld n.val ∧ SameRegs s t [R.MBX_STAT.at n.val 0] ∧ SameMem s t) ∧
       (s.flag F.MBX_CFG_EN n.val = false ∨ s.get F.MBX_CFG_SENDER n.val ≠ who.code →
         ∃ t, exec (.mailboxPost who n hi) s = .next t ∧ t.get F.MBX_STAT_WRONG n.val = 1 ∧
           t.mboxHeld n.val = s.mboxHeld n.val ∧ SameRegs s t [R.MBX_STAT.at n.val 0] ∧ SameMem s t)) ∧
     (∀ x, s.mboxHeld n.val = some x →
       (s.mayRead who (R.MBX_NOTICE_HI.at n.val 0) = true → x.receiver = who.code →
         ∃ t, exec (.mailboxTake who n) s = .next t ∧ t.readData = s.latchedHi who (R.MBX_NOTICE_LO.at n.val 0) ∧
           t.get F.MBX_STAT_FULL n.val = 0 ∧ t.rd R.MBX_DOORBELL n.val = 0 ∧ t.mboxHeld n.val = none ∧
           SameRegs s t [R.MBX_STAT.at n.val 0, R.MBX_DOORBELL.at n.val 0] ∧ SameMem s t) ∧
       (s.mayRead who (R.MBX_NOTICE_HI.at n.val 0) = true → x.receiver ≠ who.code →
         ∃ t, exec (.mailboxTake who n) s = .next t ∧ t.readData = s.latchedHi who (R.MBX_NOTICE_LO.at n.val 0) ∧
           t.mboxHeld n.val = some x ∧ SameRegs s t [] ∧ SameMem s t) ∧
       (∀ d, x.deadline = some d →
         ∃ t, exec (.mailboxTimeout n) s = .next t ∧ t.get F.MBX_STAT_TIMEOUT n.val = 1 ∧
           t.mboxHeld n.val = some { x with deadline := none } ∧ s.upNs ≤ t.upNs ∧ d ≤ t.upNs ∧ SameRegs s t [R.MBX_STAT.at n.val 0] ∧ SameMem s t) ∧
       (s.mayWrite who (R.MBX_CTL.at n.val 0) = true → x.sender = who.code →
         ∃ t, exec (.mailboxWithdraw who n) s = .next t ∧ t.get F.MBX_STAT_FULL n.val = 0 ∧ t.get F.MBX_STAT_WITHDRAWN n.val = 1 ∧
           t.rd R.MBX_DOORBELL n.val = 0 ∧ t.mboxHeld n.val = none ∧
           SameRegs s t [R.MBX_STAT.at n.val 0, R.MBX_DOORBELL.at n.val 0] ∧ SameMem s t)) ∧
     (∀ v : RegWord, s.mayPut who (R.MBX_CFG.at n.val 0) v = true →
       ((19 ≤ bitsOf v.toNat F.MBX_CFG_SENDER.lsb 5 ∧ bitsOf v.toNat F.MBX_CFG_SENDER.lsb 5 ≤ 30) ∨
         (19 ≤ bitsOf v.toNat F.MBX_CFG_RECEIVER.lsb 5 ∧ bitsOf v.toNat F.MBX_CFG_RECEIVER.lsb 5 ≤ 30)) →
       exec (.registerWrite who (R.MBX_CFG.at n.val 0) v) s = .next s)) ∧
  ((∀ (s : State) (vec : Fin 64), ∃ t, exec (.msixUnmask vec) s = .next t ∧ bitAt t.host.masked vec.val = false ∧ bitAt t.host.pend vec.val = false ∧
     (bitAt s.host.masked vec.val = true → bitAt s.host.pend vec.val = true → s.board.bscan = false → s.board.resetLow = false →
       s.board.pwrOk = true → Out.msix vec.val ∈ t.out) ∧ SameRegs s t [] ∧ SameMem s t) ∧
   (∀ s : State, ∃ t, exec .hostFlr s = .next t ∧ t.get F.HOST_STAT_FLR_SEEN = 1 ∧ t.get F.HOST_STAT_BME = 0 ∧ t.get F.HOST_STAT_D3HOT = 0 ∧
     t.get F.HOST_STAT_LINK_UP = s.get F.HOST_STAT_LINK_UP ∧ t.rd R.HOST_CTL = (regReset (R.HOST_CTL.at 0 0)).toNat ∧
     t.get F.PERF_STAT_CFG_PENDING = b2n (!t.perf.waiting.isEmpty) ∧ SameBlocks s t [.host, .perf] ∧ (∀ a, hostWin a = false → t.rdB a = s.rdB a)) ∧
   (∀ s : State, s.flag F.HOST_STAT_LINK_UP = true → ∃ t, exec .hostLinkDown s = .next t ∧ t.get F.HOST_STAT_LINK_UP = 0 ∧
     t.rd R.HOST_LINK_DOWN = Nat.min (s.rd R.HOST_LINK_DOWN + 1) 0xFFFFFFFF ∧ t.rd R.HOST_CTL = (regReset (R.HOST_CTL.at 0 0)).toNat ∧
     t.get F.PERF_STAT_CFG_PENDING = b2n (!t.perf.waiting.isEmpty) ∧ SameBlocks s t [.host, .perf] ∧ (∀ a, hostWin a = false → t.rdB a = s.rdB a)) ∧
   (∀ (s : State) (speed : Fin 5) (lanes : Fin 3) (bme d3hot : Bool),
     (s.refPresent 4 = true → s.refPresent 5 = true → ∃ t, exec (.hostLinkUp speed lanes bme d3hot) s = .next t ∧
       t.get F.HOST_STAT_LINK_UP = 1 ∧ t.get F.HOST_STAT_SPEED = speed.val + 1 ∧ t.get F.HOST_STAT_WIDTH = 2 ^ lanes.val ∧
       t.get F.HOST_STAT_BME = bme.toNat ∧ t.get F.HOST_STAT_D3HOT = d3hot.toNat ∧ SameRegs s t [R.HOST_STAT.at 0 0] ∧ SameMem s t) ∧
     (s.refPresent 4 = false ∨ s.refPresent 5 = false → exec (.hostLinkUp speed lanes bme d3hot) s = .next s)) ∧
   (∀ (s : State) (unsupported : Bool), ∃ t, exec (.hostCplTimeout unsupported) s = .next t ∧
     t.rd R.HOST_DMA_ERR = Nat.min (s.rd R.HOST_DMA_ERR + 1) 0xFFFFFFFF ∧
     t.host.failed = true ∧ (if unsupported then t.get F.HOST_ERR_UR = 1 else t.get F.HOST_ERR_CPL_TIMEOUT = 1) ∧
     SameRegs s t [R.HOST_DMA_ERR.at 0 0, R.HOST_ERR.at 0 0] ∧ SameMem s t) ∧
   (∀ (s : State) (who : Requester) (a : Nat) (v added : RegWord), a % 4 = 0 → onBus who a = true →
     (∀ p, s.busTo who a = .mem p → s.busSees who p = true →
       (s.poisoned p 4 = false → ∃ t, exec (.readClear who a added) s = .next t ∧ t.readData = s.rdN p 4 ∧ SameBlocks s t [.dramc] ∧ SameMem s t) ∧
       (s.poisoned p 4 = true → ∃ t, exec (.readClear who a added) s = .next t ∧ SameBlocks s t [.dramc] ∧ SameMem s t ∧
         (s.driven = true → ∃ o, t.out = .poisonedCpl who.code a :: o)) ∧
       (fixedMem p = true → exec (.registerWrite who a v) s = .next s) ∧
       (fixedMem p = false → touchesCi p 4 = false → s.storeUse p (leBytes 4 v.toNat) = none → s.swPlain p = true → s.swPlain (p + 3) = true →
         plainRange p 4 = true → ∃ t, exec (.registerWrite who a v) s = .next t ∧ t.rdN p 4 = v.toNat ∧ SameBlocks s t [.dramc] ∧
           SameMemBut s t [(p, 4)])) ∧
     ((s.busTo who a = .nothing ∨ ∃ p, s.busTo who a = .mem p ∧ s.busSees who p = false) →
       exec (.registerWrite who a v) s = .next s ∧
       ∃ t, exec (.readClear who a added) s = .next t ∧ t.readData = 0 ∧ SameRegs s t [] ∧ SameMem s t)) ∧
   (∀ (s : State) (vec : Fin 64) (j : Fin 2) (v added : RegWord),
     let entry := 0x40FF0000 + 16 * vec.val + 12
     (bitAt v.toNat 0 = true → ∃ t, exec (.registerWrite .host entry v) s = .next t ∧ bitAt t.host.masked vec.val = true ∧
       t.host.pend = s.host.pend ∧ SameRegs s t [] ∧ SameMem s t) ∧
     (bitAt v.toNat 0 = false → exec (.registerWrite .host entry v) s = exec (.msixUnmask vec) s) ∧
     (∃ t, exec (.readClear .host entry added) s = .next t ∧ t.readData = b2n (bitAt s.host.masked vec.val) ∧ SameRegs s t [] ∧ SameMem s t) ∧
     ∃ t, exec (.readClear .host (0x40FF8000 + 4 * j.val) added) s = .next t ∧ t.readData = bitsOf s.host.pend (32 * j.val) 32 ∧
       SameRegs s t [] ∧ SameMem s t))

/-- ENABLE of a disabled channel outside a session reports its capacity and goes to RUN, and clearing it goes to OFF, but a migration goes on; DFC to
another index of a running channel goes to FREQ_CHANGE, to the same answers SAME, of a channel that is off is refused, and behind a capture waits; the
change ends at the new index; a mode register access begins, and outside a session, where it is a host error, may disturb DRAM alone; its end stores
or shows the byte (R410, R414, R417, R429, R430, R601). A rank of a live channel enters power-down where PD.EN is 1 and TIMER has passed since its
last command; a running channel whose smallest tolerance exceeds EXIT_NS enters self-refresh IDLE_US after its last request and counts it; a request
begins its exit, late where the unit's tolerance still exceeds EXIT_NS; the exit ends in RUN (R419, R420). -/
def Obligations.DramChannelsAndPower : Prop :=
  ((∀ (s : State) (who : Requester) (ch : Fin 8), s.mayWrite who (R.DRC_CTL.at ch.val 0) = true → bitAt (s.rd R.DRC_CTL ch.val) 3 = false →
     s.flag F.DRC_TRAIN_CTL_SESSION ch.val = false → s.drcState ch.val ≠ drcFreqChange →
     (s.flag F.DRC_CTL_ENABLE ch.val = false → s.drcState ch.val ≠ drcMigrating →
       ∃ t, exec (.dramChannelEnable who ch true) s = .next t ∧ t.get F.DRC_CTL_ENABLE ch.val = 1 ∧ t.drcState ch.val = drcRun ∧
         t.get F.DRC_CAP_GIB ch.val = s.channelGib ch.val % 2 ^ F.DRC_CAP_GIB.width ∧
         SameRegs s t [R.DRC_CTL.at ch.val 0, R.DRC_STAT.at ch.val 0, R.DRC_CAP.at ch.val 0] ∧ SameMem s t) ∧
     (s.flag F.DRC_CTL_ENABLE ch.val = true →
       ∃ t, exec (.dramChannelEnable who ch false) s = .next t ∧ t.get F.DRC_CTL_ENABLE ch.val = 0 ∧
         t.drcState ch.val = (if s.drcState ch.val = drcMigrating then drcMigrating else drcOff) ∧
         (s.drcState ch.val = drcMigrating → (t.drc ch.val).under = drcOff) ∧
         SameRegs s t [R.DRC_CTL.at ch.val 0, R.DRC_STAT.at ch.val 0] ∧ SameMem s t)) ∧
   (∀ (s : State) (who : Requester) (ch : Fin 8) (idx : Fin 4), s.mayWrite who (R.DRC_CTL.at ch.val 0) = true →
     (s.drcState ch.val = drcRun → idx.val ≠ s.get F.DRC_STAT_FREQ_ACT ch.val → (s.drc ch.val).capture = none →
       ∃ t, exec (.frequencyChange who ch idx) s = .next t ∧ t.drcState ch.val = drcFreqChange ∧ t.get F.DRC_STAT_DFC_RESULT ch.val = 0 ∧
         t.get F.DRC_CTL_FREQ ch.val = idx.val ∧ (t.drc ch.val).freqTo = some (idx.val, drcRun) ∧
         SameRegs s t [R.DRC_CTL.at ch.val 0, R.DRC_STAT.at ch.val 0] ∧ SameMem s t) ∧
     (s.drcState ch.val = drcTraining → idx.val ≠ s.get F.DRC_STAT_FREQ_ACT ch.val → (s.drc ch.val).capture.isSome = true →
       ∃ t, exec (.frequencyChange who ch idx) s = .next t ∧ t.drcState ch.val = drcTraining ∧ t.get F.DRC_STAT_DFC_RESULT ch.val = 0 ∧
         t.get F.DRC_STAT_DFC_PENDING ch.val = 1 ∧ (t.drc ch.val).heldDfc = some idx.val ∧
         SameRegs s t [R.DRC_CTL.at ch.val 0, R.DRC_STAT.at ch.val 0] ∧ SameMem s t) ∧
     (s.drcState ch.val = drcRun → idx.val = s.get F.DRC_STAT_FREQ_ACT ch.val →
       ∃ t, exec (.frequencyChange who ch idx) s = .next t ∧ t.drcState ch.val = drcRun ∧ t.get F.DRC_STAT_DFC_RESULT ch.val = 2 ∧
         SameRegs s t [R.DRC_CTL.at ch.val 0, R.DRC_STAT.at ch.val 0] ∧ SameMem s t) ∧
     (s.drcState ch.val = drcOff ∨ s.drcState ch.val = drcMigrating →
       ∃ t, exec (.frequencyChange who ch idx) s = .next t ∧ t.drcState ch.val = s.drcState ch.val ∧ t.get F.DRC_STAT_DFC_RESULT ch.val = 1 ∧
         SameRegs s t [R.DRC_CTL.at ch.val 0, R.DRC_STAT.at ch.val 0] ∧ SameMem s t)) ∧
   (∀ (s : State) (ch : Fin 8) (i back : Nat), (s.drc ch.val).freqTo = some (i, back) → (s.drc ch.val).heldDfc = none → s.flag F.DRC_TRAIN_STAT_BUSY ch.val = false →
     ∃ t, exec (.frequencyChangeDone ch) s = .next t ∧ t.drcState ch.val = (if s.drcState ch.val = drcMigrating then drcMigrating else back % 8) ∧
       t.get F.DRC_STAT_FREQ_ACT ch.val = i % 4 ∧
       (t.drc ch.val).freqTo = none ∧ SameRegs s t [R.DRC_STAT.at ch.val 0] ∧ SameMem s t) ∧
   (∀ (s : State) (who : Requester) (ch : Fin 8) (v : RegWord), s.mayPut who (R.DRC_MR.at ch.val 0) v = true →
     bitAt v.toNat 11 = true →
     ∃ t, exec (.modeRegisterAccess who ch v) s = .next t ∧ t.get F.DRC_MR_BUSY ch.val = 1 ∧ t.get F.DRC_MR_MR ch.val = bitsOf v.toNat 0 8 ∧
       t.get F.DRC_MR_READ ch.val = bitsOf v.toNat 8 1 ∧ SameRegs s t [R.DRC_MR.at ch.val 0] ∧
       (if s.flag F.DRC_TRAIN_CTL_SESSION ch.val then SameMem s t else ∀ a, a < 0x100000000 → t.rdB a = s.rdB a)) ∧
   (∀ (s : State) (ch : Fin 8), s.flag F.DRC_MR_BUSY ch.val = true →
     let k := mrKey (s.rd R.DRC_MR ch.val)
     (s.flag F.DRC_MR_READ ch.val = true → ∃ t, exec (.modeRegisterAccessDone ch) s = .next t ∧ t.get F.DRC_MR_BUSY ch.val = 0 ∧
       t.get F.DRC_MR_DATA_DATA ch.val = s.modeReg ch.val k % 256 ∧ t.modeReg ch.val k = s.modeReg ch.val k ∧
       SameRegs s t [R.DRC_MR.at ch.val 0, R.DRC_MR_DATA.at ch.val 0] ∧ SameMem s t) ∧
     (s.flag F.DRC_MR_READ ch.val = false → ∃ t, exec (.modeRegisterAccessDone ch) s = .next t ∧ t.get F.DRC_MR_BUSY ch.val = 0 ∧
       t.modeReg ch.val k = s.get F.DRC_MR_DATA_DATA ch.val ∧ (∀ j, j ≠ k → t.modeReg ch.val j = s.modeReg ch.val j) ∧
       SameRegs s t [R.DRC_MR.at ch.val 0] ∧ SameMem s t))) ∧
  (∀ (s : State) (ch : Fin 8),
     (∀ rank : Fin 2, s.flag F.DRC_PD_EN ch.val = true → (s.drcState ch.val = drcRun ∨ s.drcState ch.val = drcMigrating) →
       ∃ t, exec (.rankPowerDown ch rank) s = .next t ∧ bitAt (t.drc ch.val).powerDown rank.val = true ∧
         (∀ k, k ≠ rank.val → bitAt (t.drc ch.val).powerDown k = bitAt (s.drc ch.val).powerDown k) ∧
         s.cmdAt ch.val rank.val + clampN 16 1000000 (s.get F.DRC_PD_TIMER ch.val) ≤ t.upNs ∧ SameRegs s t [] ∧ SameMem s t) ∧
     (s.drcState ch.val = drcRun → s.flag F.DRC_SR_EN ch.val = true → s.get F.DRC_SR_EXIT_NS ch.val < s.ltrMin.1 →
       ∃ t, exec (.selfRefreshEntry ch) s = .next t ∧ t.drcState ch.val = drcSelfRefresh ∧
         t.get F.DRC_SR_CNT_ENTRIES ch.val = (s.get F.DRC_SR_CNT_ENTRIES ch.val + 1) % 2 ^ 16 ∧
         Nat.max (s.cmdAt ch.val 0) (s.cmdAt ch.val 1) + 1000 * Nat.max 1 (s.get F.DRC_SR_IDLE_US ch.val) ≤ t.upNs ∧
         SameRegs s t [R.DRC_STAT.at ch.val 0, R.DRC_SR_CNT.at ch.val 0] ∧ SameMem s t) ∧
     (s.drcState ch.val = drcSelfRefresh → (s.drc ch.val).leaving = false →
       (∀ u : Fin 10, ∃ t, exec (.selfRefreshExit ch (some u)) s = .next t ∧ (t.drc ch.val).leaving = true ∧
         t.drcState ch.val = drcSelfRefresh ∧
         t.get F.DRC_SR_CNT_LATE ch.val = (if s.get F.DRC_SR_EXIT_NS ch.val < s.ltrOf u.val then Nat.min (s.get F.DRC_SR_CNT_LATE ch.val + 1) 65535
           else s.get F.DRC_SR_CNT_LATE ch.val) ∧ SameRegs s t [R.DRC_SR_CNT.at ch.val 0] ∧ SameMem s t) ∧
       (s.ltrMin.1 ≤ s.get F.DRC_SR_EXIT_NS ch.val → ∃ t, exec (.selfRefreshExit ch none) s = .next t ∧ (t.drc ch.val).leaving = true ∧
         SameRegs s t [] ∧ SameMem s t)) ∧
     ((s.drc ch.val).leaving = true → ∃ t, exec (.selfRefreshExitDone ch) s = .next t ∧ t.drcState ch.val = drcRun ∧
       (t.drc ch.val).leaving = false ∧ (t.drc ch.val).powerDown = 0 ∧ SameRegs s t [R.DRC_STAT.at ch.val 0] ∧ SameMem s t))

/-- SESSION opens only on a disabled channel and closes to OFF; GO in a session starts a capture at the index in force; the end of a capture clears
BUSY, sets DONE and records its index and window, or takes a running sweep to its next step or its end; it may write a pattern to its channel alone; a
sweep starts with its first capture (R414–R416). A scrub read of a live channel counts 64 bytes and records a corrected or an uncorrectable error,
poisoning the line of the latter; a parity error is counted; RETIRE of rank 0 with a ready spare starts migration and is refused with a reason
otherwise; migration ends on the spare, or failed (R412, R413, R425, R426). -/
def Obligations.DramTrainingAndErrors : Prop :=
  ((∀ (s : State) (who : Requester) (ch : Fin 8), s.mayWrite who (R.DRC_TRAIN_CTL.at ch.val 0) = true →
     bitAt (s.rd R.DRC_TRAIN_CTL ch.val) 1 = false → bitAt (s.rd R.DRC_TRAIN_CTL ch.val) 9 = false →
     s.drcState ch.val ≠ drcMigrating → s.drcState ch.val ≠ drcFreqChange →
     (s.flag F.DRC_CTL_ENABLE ch.val = false → s.flag F.DRC_TRAIN_CTL_SESSION ch.val = false →
       ∃ t, exec (.trainingSession who ch true) s = .next t ∧ t.get F.DRC_TRAIN_CTL_SESSION ch.val = 1 ∧ t.drcState ch.val = drcTraining ∧
         SameRegs s t [R.DRC_TRAIN_CTL.at ch.val 0, R.DRC_STAT.at ch.val 0] ∧ SameMem s t) ∧
     (s.flag F.DRC_CTL_ENABLE ch.val = true → s.flag F.DRC_TRAIN_CTL_SESSION ch.val = false →
       ∃ t, exec (.trainingSession who ch true) s = .next t ∧ t.get F.DRC_TRAIN_CTL_SESSION ch.val = 0 ∧ t.drcState ch.val = s.drcState ch.val ∧
         SameRegs s t [R.DRC_TRAIN_CTL.at ch.val 0] ∧ SameMem s t) ∧
     (s.flag F.DRC_CTL_ENABLE ch.val = false → s.flag F.DRC_TRAIN_CTL_SESSION ch.val = true →
       ∃ t, exec (.trainingSession who ch false) s = .next t ∧ t.get F.DRC_TRAIN_CTL_SESSION ch.val = 0 ∧ t.drcState ch.val = drcOff ∧
         SameRegs s t [R.DRC_TRAIN_CTL.at ch.val 0, R.DRC_STAT.at ch.val 0] ∧ SameMem s t)) ∧
   (∀ (s : State) (who : Requester) (ch : Fin 8) (v : RegWord), s.mayPut who (R.DRC_TRAIN_CTL.at ch.val 0) v = true →
     s.flag F.DRC_TRAIN_CTL_SESSION ch.val = true → s.flag F.DRC_TRAIN_STAT_BUSY ch.val = false →
     bitAt v.toNat 0 = true → bitAt v.toNat 1 = true → bitAt v.toNat 9 = false → s.drcState ch.val ≠ drcFreqChange →
     ∃ t, exec (.trainingCapture who ch v) s = .next t ∧ t.get F.DRC_TRAIN_STAT_BUSY ch.val = 1 ∧
       (t.drc ch.val).capture = some (s.get F.DRC_STAT_FREQ_ACT ch.val) ∧ t.get F.DRC_TRAIN_CTL_FIDX ch.val = bitsOf v.toNat 2 2 ∧
       SameRegs s t [R.DRC_TRAIN_CTL.at ch.val 0, R.DRC_TRAIN_STAT.at ch.val 0] ∧ SameMem s t) ∧
   (∀ (s : State) (who : Requester) (ch : Fin 8) (v : RegWord), s.mayPut who (R.DRC_SWEEP.at ch.val 0) v = true →
     s.flag F.DRC_TRAIN_CTL_SESSION ch.val = true → s.flag F.DRC_TRAIN_STAT_BUSY ch.val = false → bitAt v.toNat 26 = true → s.drcState ch.val ≠ drcFreqChange →
     ∃ t, exec (.trainingSweep who ch v) s = .next t ∧ t.get F.DRC_TRAIN_STAT_BUSY ch.val = 1 ∧ (t.drc ch.val).sweep = some (0, 0) ∧
       (t.drc ch.val).capture = some (s.get F.DRC_STAT_FREQ_ACT ch.val) ∧ t.get F.DRC_SWEEP_START ch.val = bitsOf v.toNat 0 10 ∧
       SameRegs s t [R.DRC_SWEEP.at ch.val 0, R.DRC_TRAIN_STAT.at ch.val 0] ∧ SameMem s t) ∧
   (∀ (s : State) (ch : Fin 8) (window : Bool) (idx : Nat), (s.drc ch.val).capture = some idx → (s.drc ch.val).heldDfc = none →
     let c := ch.val
     let m (t : State) : Prop := ∀ a, s.flag F.DRC_TRAIN_CTL_DIR c = true ∨ a < 0x100000000 ∨ dramChannel a ≠ c → t.rdB a = s.rdB a
     let l := [R.DRC_CMP_MASK.at c 0, R.DRC_CMP_MASK.at c 1, R.DRC_CMP_MASK.at c 2, R.DRC_CMP_CNT.at c 0, R.DRC_TRAIN_STAT.at c 0]
     ((s.drc c).sweep = none →
       ∃ t, exec (.captureEnd ch window) s = .next t ∧ (t.drc c).capture = none ∧ t.get F.DRC_TRAIN_STAT_BUSY c = 0 ∧
         t.get F.DRC_TRAIN_STAT_DONE c = 1 ∧ t.get F.DRC_TRAIN_STAT_FIDX c = idx % 4 ∧ t.get F.DRC_TRAIN_STAT_WINDOW c = window.toNat ∧
         SameRegs s t l ∧ m t) ∧
     (∀ i run, (s.drc c).sweep = some (i, run) →
       (i + 1 < Nat.max 1 (s.get F.DRC_SWEEP_COUNT c) →
         ∃ t n, exec (.captureEnd ch window) s = .next t ∧ (t.drc c).sweep = some (i + 1, n) ∧ n ≤ run + 1 ∧
           (t.drc c).capture = some (s.get F.DRC_STAT_FREQ_ACT c) ∧ t.get F.DRC_TRAIN_STAT_BUSY c = 1 ∧ SameRegs s t l ∧ m t) ∧
       (Nat.max 1 (s.get F.DRC_SWEEP_COUNT c) ≤ i + 1 →
         ∃ t, exec (.captureEnd ch window) s = .next t ∧ (t.drc c).sweep = none ∧ (t.drc c).capture = none ∧
           t.get F.DRC_TRAIN_STAT_BUSY c = 0 ∧ t.get F.DRC_TRAIN_STAT_DONE c = 1 ∧ SameRegs s t (R.DRC_SWEEP_RES.at c 0 :: l) ∧ m t)))) ∧
  ((∀ (s : State) (ch : Fin 8) (addr : Nat), s.flag F.DRC_SCRUB_EN ch.val = true →
     (s.drcState ch.val = drcRun ∨ s.drcState ch.val = drcMigrating) → s.region addr = .dram → dramChannel addr = ch.val →
     let c := ch.val
     let line := addr / 64 * 64
     let rank := s.dramRank c addr
     let l := [R.DRC_RD_BYTES_LO.at c 0, R.DRC_RD_BYTES_LO.at c 0 + 4]
     let le := l ++ [R.DRC_ECC_ADDR_LO.at c 0, R.DRC_ECC_ADDR_HI.at c 0, R.DRC_ECC_SYN.at c 0]
     (∃ t, exec (.scrubRead ch addr .clean) s = .next t ∧ t.rd64 R.DRC_RD_BYTES_LO c = (s.rd64 R.DRC_RD_BYTES_LO c + 64) % 2 ^ 64 ∧
       SameRegs s t l ∧ SameMem s t) ∧
     (∀ dev sym, s.correctable c dev sym = true → ∃ t, exec (.scrubRead ch addr (.corrected dev sym)) s = .next t ∧
       t.rd64 R.DRC_RD_BYTES_LO c = (s.rd64 R.DRC_RD_BYTES_LO c + 64) % 2 ^ 64 ∧
       t.get (if rank = 0 then F.DRC_ECC_CE_RANK0 else F.DRC_ECC_CE_RANK1) c =
         Nat.min (s.get (if rank = 0 then F.DRC_ECC_CE_RANK0 else F.DRC_ECC_CE_RANK1) c + 1) 65535 ∧
       t.rd R.DRC_ECC_ADDR_LO c = line % 2 ^ 32 ∧ t.get F.DRC_ECC_ADDR_HI_UE c = 0 ∧ t.get F.DRC_ECC_ADDR_HI_RANK c = rank ∧
       t.get F.DRC_ECC_ADDR_HI_VALID c = 1 ∧ SameRegs s t (R.DRC_ECC_CE.at c 0 :: le) ∧ SameMem s t) ∧
     (∀ dev sym, s.flag F.DRC_CTL_AUTO_RETIRE c = false → ∃ t, exec (.scrubRead ch addr (.uncorrectable dev sym)) s = .next t ∧
       t.get (if rank = 0 then F.DRC_ECC_UE_RANK0 else F.DRC_ECC_UE_RANK1) c =
         Nat.min (s.get (if rank = 0 then F.DRC_ECC_UE_RANK0 else F.DRC_ECC_UE_RANK1) c + 1) 65535 ∧
       t.rd R.DRC_ECC_ADDR_LO c = line % 2 ^ 32 ∧ t.get F.DRC_ECC_ADDR_HI_UE c = 1 ∧ t.get F.DRC_ECC_SYN_SYMBOLS c = 0 ∧ t.poisoned addr 1 = true ∧
       SameRegs s t (R.DRC_ECC_UE.at c 0 :: le) ∧ SameMem s t)) ∧
   (∀ (s : State) (ch : Fin 8) (rank : Fin 2), s.flag F.DRC_CTL_AUTO_RETIRE ch.val = false →
     ∃ t, exec (.caparError ch rank) s = .next t ∧
       t.get (if rank.val = 0 then F.DRC_CAPAR_RANK0 else F.DRC_CAPAR_RANK1) ch.val =
         Nat.min (s.get (if rank.val = 0 then F.DRC_CAPAR_RANK0 else F.DRC_CAPAR_RANK1) ch.val + 1) 65535 ∧
       SameRegs s t [R.DRC_CAPAR.at ch.val 0] ∧ SameMem s t) ∧
   (∀ (s : State) (who : Requester) (ch : Fin 8), s.mayWrite who (R.DRC_RETIRE.at ch.val 0) = true →
     let c := ch.val
     (s.drcState c ≠ drcMigrating → s.spareReady c = true →
       ∃ t, exec (.rankRetire who ch 0) s = .next t ∧ t.drcState c = drcMigrating ∧ t.get F.DRC_MIG_STAT_STATE c = 1 ∧ t.rd R.DRC_MIG_POS c = 0 ∧
         t.rd R.DRC_POISON_CNT c = 0 ∧ t.get F.DRC_RETIRE_RESULT c = 0 ∧
         SameRegs s t [R.DRC_RETIRE.at c 0, R.DRC_STAT.at c 0, R.DRC_MIG_STAT.at c 0, R.DRC_MIG_POS.at c 0, R.DRC_POISON_CNT.at c 0] ∧
         SameMem s t) ∧
     (s.drcState c ≠ drcMigrating → s.spareReady c = false →
       ∃ t, exec (.rankRetire who ch 0) s = .next t ∧ t.get F.DRC_RETIRE_RESULT c = 1 ∧ SameRegs s t [R.DRC_RETIRE.at c 0] ∧ SameMem s t) ∧
     (s.drcState c = drcMigrating →
       ∃ t, exec (.rankRetire who ch 0) s = .next t ∧ t.get F.DRC_RETIRE_RESULT c = 2 ∧ SameRegs s t [R.DRC_RETIRE.at c 0] ∧ SameMem s t) ∧
     (s.flag F.DRC_CTL_SPARE_EN c = true ∨ s.flag F.DRC_CFG_RANKS c = false →
       ∃ t, exec (.rankRetire who ch 1) s = .next t ∧ t.get F.DRC_RETIRE_RESULT c = 3 ∧ SameRegs s t [R.DRC_RETIRE.at c 0] ∧ SameMem s t)) ∧
   (∀ (s : State) (ch : Fin 8) (poisoned : List Nat), s.drcState ch.val = drcMigrating →
     let c := ch.val
     let l := [R.DRC_POISON_CNT.at c 0, R.DRC_MIG_STAT.at c 0, R.DRC_MIG_POS.at c 0, R.DRC_STAT.at c 0]
     (∃ t, exec (.migrationDone ch true poisoned) s = .next t ∧ t.drcState c = drcRun ∧ t.get F.DRC_MIG_STAT_STATE c = 3 ∧
       t.rd R.DRC_POISON_CNT c = Nat.min (s.migPoison c (s.migBytes c)) 0xFFFFFFFF ∧ SameRegs s t l ∧ SameMem s t) ∧
     ∃ t, exec (.migrationDone ch false poisoned) s = .next t ∧ t.drcState c = (s.drc c).under % 8 ∧ t.get F.DRC_MIG_STAT_STATE c = 2 ∧
       t.get F.DRC_STAT_SPARE_ACT c = 1 ∧ t.get F.DRC_STAT_RETIRED0 c = 1 ∧ (s.drc c).migAt + (s.rankGib c * 2 ^ 30 + 17) / 18 ≤ t.upNs ∧
       t.rd R.DRC_POISON_CNT c = Nat.min (t.migPoison c (s.rankGib c * 2 ^ 30)) 0xFFFFFFFF ∧
       (∀ a ∈ poisoned, s.region a = .dram → dramChannel a = c → dramOffset a < s.rankGib c * 2 ^ 30 → t.poisoned a 1 = true) ∧ SameRegs s t l ∧ SameMem s t))

/-- A command that fails a check of R440 ends its list with that code and writes nothing; one that passes writes its pixels into the rows of its
rectangle and no other byte, is counted, and moves the list on (for an RGBA destination: the constant, the source's pixels, the composite or the
resampled value); ABORT stops it at the end of a row, or before its first; a command that breaks an unchecked rule, but writes no plane that a bond
uses, still changes registers of TROWEL and HOST alone (R114, R438, R440–R449, R601, R604). EN of a trowel ring is set only on a ring of its kind; an
idle enabled trowel takes the next descriptor of its ring; a list that has ended writes its record and is counted, by status (R433, R434, R448, R466).
-/
def Obligations.TrowelCommandsAndLists : Prop :=
  (∀ (s : State) (l : TrwList) (a : Nat) (c : TrwCmd), s.clocksOff = false → s.trwNext = some (l, a) → c = trwCmdOf (s.rdBytes a 128) →
     s.poisoned a 128 = false →
     (∀ p ∈ [(Instr.trowelFill, 1), (.trowelCopy, 2), (.trowelOver, 3), (.trowelGlyph, 4), (.trowelConvert, 5), (.trowelScale, 6)], c.op = p.2 →
       (s.trwInUse c = false → ∃ t, exec p.1 s = .next t ∧ SameBlocks s t [.trowel, .host])) ∧
     (∀ code, c.check = some code →
       ∀ p ∈ [(Instr.trowelFill, 1), (.trowelCopy, 2), (.trowelOver, 3), (.trowelGlyph, 4), (.trowelConvert, 5), (.trowelScale, 6)], c.op = p.2 →
       ∃ t, exec p.1 s = .next t ∧ t.trowel.list = some { l with status := some code } ∧ SameRegs s t [] ∧ SameMem s t) ∧
     (∀ (who : Requester) (v : RegWord), s.mayPut who (R.TRW_CTL.at 0 0) v = true → bitAt v.toNat 1 = true →
       ∃ t, exec (.trowelAbort who v 0) s = .next t ∧ t.trowel.list = some { l with status := some 7 } ∧ SameRegs s t [R.TRW_CTL.at 0 0] ∧
         SameMem s t) ∧
     (s.poison = [] → (∀ x, s.hostOff x = false) → c.check = none → s.trwOdd c = false → s.trwInUse c = false →
       (∀ e ∈ c.dst.spans c.dx c.dy c.dw c.dh, plainRange e.1 e.2 = true) →
       (∀ p ∈ [(Instr.trowelFill, 1), (.trowelCopy, 2), (.trowelOver, 3), (.trowelGlyph, 4), (.trowelConvert, 5), (.trowelScale, 6)],
         c.op = p.2 →
         ∃ t, exec p.1 s = .next t ∧ t.trowel.list = some { l with index := l.index + 1, pixels := l.pixels + c.dw * c.dh } ∧
           t.rd64 R.TRW_PIX_LO = (s.rd64 R.TRW_PIX_LO + c.dw * c.dh) % 2 ^ 64 ∧ t.rd64 R.TRW_CMDS_LO = (s.rd64 R.TRW_CMDS_LO + 1) % 2 ^ 64 ∧
           (c.dst.fmt = 9 ∨ c.dst.fmt = 10 → ∀ i j, i < c.dw → j < c.dh →
             some (t.rdBytes (c.dst.plane0 + (c.dy + j) * c.dst.pitch0 + 4 * (c.dx + i)) 4) = match c.op with
               | 1 => some (putRgba c.dst.fmt (c.rgb ++ [c.a]))
               | 2 => some (s.rdBytes (c.src.plane0 + (c.sy + j) * c.src.pitch0 + 4 * (c.sx + i)) 4)
               | 3 | 4 => (s.blendPx c i j).map (putRgba c.dst.fmt)
               | _ => (s.scalePx c i j).map (putRgba c.dst.fmt)) ∧
           SameRegs s t [R.TRW_PIX_LO.at 0 0, R.TRW_PIX_LO.at 0 0 + 4, R.TRW_CMDS_LO.at 0 0, R.TRW_CMDS_LO.at 0 0 + 4, R.TRW_STAT.at 0 0] ∧
           SameMemBut s t (c.dst.spans c.dx c.dy c.dw c.dh)) ∧
       ∀ (who : Requester) (v : RegWord) (rows : Nat), s.mayPut who (R.TRW_CTL.at 0 0) v = true → bitAt v.toNat 1 = true →
         1 ≤ rows → rows < c.dh →
         ∃ t, exec (.trowelAbort who v rows) s = .next t ∧
           t.trowel.list = some { l with pixels := l.pixels + c.dw * rows, status := some 7 } ∧
           SameRegs s t [R.TRW_CTL.at 0 0, R.TRW_PIX_LO.at 0 0, R.TRW_PIX_LO.at 0 0 + 4] ∧ SameMemBut s t (c.dst.spans c.dx c.dy c.dw c.dh))) ∧
  ((∀ (s : State) (who : Requester) (done : Bool) (v : RegWord),
     let reg := if done then R.TRW_DONE else R.TRW_RING
     s.mayPut who (reg.at 0 0) v = true →
     (bitAt v.toNat 13 = false → ∃ t, exec (.trowelRingEnable who done v) s = .next t ∧ t.rd reg = bitsOf v.toNat 0 14 ∧
       SameRegs s t [reg.at 0 0] ∧ SameMem s t) ∧
     (bitAt v.toNat 13 = true → s.ringFits (bitsOf v.toNat 0 13) 32 (!done) = true →
       ∃ t, exec (.trowelRingEnable who done v) s = .next t ∧ t.rd reg = bitsOf v.toNat 0 14 ∧ t.get F.TRW_STAT_RESULT = 0 ∧
         SameRegs s t [reg.at 0 0, R.TRW_STAT.at 0 0] ∧ SameMem s t) ∧
     (bitAt v.toNat 13 = true → s.ringFits (bitsOf v.toNat 0 13) 32 (!done) = false →
       ∃ t, exec (.trowelRingEnable who done v) s = .next t ∧ t.get F.TRW_STAT_RESULT = 1 ∧ SameRegs s t [R.TRW_STAT.at 0 0] ∧ SameMem s t)) ∧
   (∀ (s : State) (r e : Nat), s.clocksOff = false → s.trowel.list = none → s.flag F.TRW_CTL_ENABLE = true → s.flag F.TRW_RING_EN = true →
     r = s.get F.TRW_RING_RING → s.unitCanTake r = true → e = s.ringElem r (s.ringCI r) → s.poisoned e 16 = false →
     s.rdN (e + 6) 2 = 0 → s.memFld (e + 8) 17 15 = 0 → s.rdN (e + 0x10) 16 = 0 →
     (s.memFld (e + 8) 0 16 = 0 ∨ s.unitRange (s.rdN e 6) (128 * s.memFld (e + 8) 0 16) = true) →
     ∃ t, exec .trowelListStart s = .next t ∧
       t.trowel.list = some {
         addr := s.rdN e 6, count := s.memFld (e + 8) 0 16, ev := s.memFld (e + 8) 16 1 != 0, tag := s.rd32 (e + 0xC), index := 0, pixels := 0, status := none } ∧
       t.get F.TRW_STAT_STATE = 1 ∧ t.get F.TRW_STAT_INDEX = 0 ∧ t.ringCI r = (s.ringCI r + 1) % 2 ^ 32 ∧ SameBlocks s t [.trowel, .host] ∧
       SameMemBut s t [(ringCtx r + 0x14, 4)]) ∧
   (∀ (s : State) (l : TrwList) (st : Nat), s.clocksOff = false → s.trowel.list = some l → s.trwStatus l = some st →
     let r := s.get F.TRW_DONE_RING
     let e := s.ringElem r (s.ringPI r)
     ∃ t, exec .trowelListDone s = .next t ∧ t.trowel.list = none ∧ t.get F.TRW_STAT_STATE = (if s.flag F.TRW_CTL_ENABLE then 0 else 2) ∧
       (st = 0 → t.rd R.TRW_LISTS = (s.rd R.TRW_LISTS + 1) % 2 ^ 32 ∧ t.rd R.TRW_ERRS = s.rd R.TRW_ERRS) ∧
       (st ≠ 0 → t.rd R.TRW_ERRS = Nat.min (s.rd R.TRW_ERRS + 1) 0xFFFFFFFF ∧ t.rd R.TRW_LAST_TAG = l.tag % 2 ^ 32 ∧
         t.rd R.TRW_LISTS = s.rd R.TRW_LISTS) ∧
       SameBlocks s t [.trowel, .ring, .host] ∧ (s.flag F.TRW_DONE_EN = false → SameMem s t) ∧
       (s.flag F.TRW_DONE_EN = true → s.ringLoss r 32 = none → s.ringClash r = none → (e + 32 ≤ ringCtx 0 ∨ ringCtx 8192 ≤ e) →
         plainRange e 32 = true →
         t.rdN e 4 = l.tag % 2 ^ 32 ∧ t.rdN (e + 4) 4 = (st + (if st = 0 then l.count else l.index) * 2 ^ 16) % 2 ^ 32 ∧
         t.rdN (e + 8) 4 = Nat.min l.pixels 0xFFFFFFFF ∧ t.rdN (e + 12) 4 = s.now % 2 ^ 32 ∧ t.ringPI r = (s.ringPI r + 1) % 2 ^ 32 ∧
         SameMemBut s t [(e, 32), (ringCtx r + 0x10, 4)])))

/-- EN of a zip ring is set only on a ring of its kind; an idle engine starts the job that R461 chooses, of its ring or of ingest, in its operation's
command; a running job ends and is counted, and, where it names no hole of the map and continues no changed stream, its result is counted and its
output and its descriptor's device fields are written, and its stream can be continued after codes 1, 2 and 13 alone (R451–R461, R469, R601). Where a
class-0 job finds no free eligible engine, the engine that runs the highest of classes 1–3 suspends its job and counts it; it resumes the job when no
class-0 job waits for it; ABORT marks the running ring job (R462, R463). -/
def Obligations.ZipJobsAndSuspension : Prop :=
  ((∀ (s : State) (who : Requester) (e : Fin 4) (done : Bool) (v : RegWord),
     let reg := if done then R.ZIP_DONE else R.ZIP_RING
     let fits := s.ringFits (bitsOf v.toNat 0 13) (if done then 32 else 16) (!done)
     s.mayPut who (reg.at e.val 0) v = true →
     (bitAt v.toNat 13 = false → ∃ t, exec (.zipRingEnable who e done v) s = .next t ∧ t.rd reg e.val = bitsOf v.toNat 0 14 ∧
       SameRegs s t [reg.at e.val 0] ∧ SameMem s t) ∧
     (bitAt v.toNat 13 = true → fits = true →
       ∃ t, exec (.zipRingEnable who e done v) s = .next t ∧ t.rd reg e.val = bitsOf v.toNat 0 14 ∧ t.get F.ZIP_STAT_RESULT e.val = 0 ∧
         SameRegs s t [reg.at e.val 0, R.ZIP_STAT.at e.val 0] ∧ SameMem s t) ∧
     (bitAt v.toNat 13 = true → fits = false →
       ∃ t, exec (.zipRingEnable who e done v) s = .next t ∧ t.get F.ZIP_STAT_RESULT e.val = 1 ∧ SameRegs s t [R.ZIP_STAT.at e.val 0] ∧
         SameMem s t)) ∧
   (∀ (s : State) (e : Fin 4) (cls : Nat), s.clocksOff = false → (s.zipEng e.val).job = none → s.zipPick e.val = some (false, cls) →
     let r := s.get F.ZIP_RING_RING e.val
     let el := s.ringElem r (s.ringCI r)
     let desc := s.rdN el 6
     let d := s.zipDesc desc
     ∃ t, exec (if s.zipEarly desc d != some 12 && d.deflate then .zipDeflate e else .zipInflate e) s = .next t ∧
       (t.zipEng e.val).job = some {
         desc := desc, entry := none, tag := s.rdN (el + 6) 2, cls := cls, deflate := d.deflate, code := s.zipEarly desc d, abort := none } ∧
       t.get F.ZIP_STAT_STATE e.val = 1 ∧ t.get F.ZIP_STAT_CLASS e.val = cls % 4 ∧ t.get F.ZIP_STAT_SRC e.val = 0 ∧
       t.ringCI r = (s.ringCI r + 1) % 2 ^ 32 ∧ SameBlocks s t [.zip, .host] ∧ SameMemBut s t [(ringCtx r + 0x14, 4)]) ∧
   (∀ (s : State) (e : Fin 4) (cls : Nat) (w : Nat × Nat), s.clocksOff = false → (s.zipEng e.val).job = none →
     s.zipPick e.val = some (true, cls) → s.ingest.zWait.find? (fun x => x.2 == cls) = some w →
     ∃ t, exec (.zipInflate e) s = .next t ∧
       (t.zipEng e.val).job = some { desc := 0, entry := some w.1, tag := 0, cls := w.2, deflate := false, code := none, abort := none } ∧
       t.ingest.zWait = s.ingest.zWait.erase w ∧ t.get F.ZIP_STAT_STATE e.val = 1 ∧ t.get F.ZIP_STAT_SRC e.val = 1 ∧
       SameRegs s t [R.ZIP_STAT.at e.val 0] ∧ SameMem s t) ∧
   (∀ (s : State) (e : Fin 4) (j : ZipJob), s.clocksOff = false → (s.zipEng e.val).job = some j →
     let d := s.zipJobDesc j
     let r := (s.zipResult j d).1
     ∃ t, exec (.zipJobEnd e) s = .next t ∧ (t.zipEng e.val).job = none ∧
       t.get F.ZIP_STAT_STATE e.val = (if s.flag F.ZIP_CTL_ENABLE e.val then 0 else 3) ∧
       t.rd R.ZIP_JOBS e.val = (s.rd R.ZIP_JOBS e.val + 1) % 2 ^ 32 ∧ SameBlocks s t [.zip, .ring, .host, .ingest] ∧
       (s.zipHole j = false →
       t.rd64 R.ZIP_IN_LO e.val = (s.rd64 R.ZIP_IN_LO e.val + r.used) % 2 ^ 64 ∧
       t.rd64 R.ZIP_OUT_LO e.val = (s.rd64 R.ZIP_OUT_LO e.val + r.made) % 2 ^ 64 ∧
       t.rd R.ZIP_ERRS e.val = (if 3 ≤ r.code ∧ r.code ≤ 12 then Nat.min (s.rd R.ZIP_ERRS e.val + 1) 0xFFFFFFFF else s.rd R.ZIP_ERRS e.val) ∧
       (j.entry = none → s.flag F.ZIP_DONE_EN e.val = false → plainRange j.desc 128 = true →
         plainRange d.dst r.bytes.length = true → plainRange d.state 65536 = true →
         t.rdN (j.desc + 0x28) 4 = r.used % 2 ^ 32 ∧ t.rdN (j.desc + 0x2C) 4 = r.made % 2 ^ 32 ∧
         t.rdN (j.desc + 0x30) 4 = (r.code + r.bits * 256) % 2 ^ 32 ∧ t.rdN (j.desc + 0x38) 4 = r.check % 2 ^ 32 ∧
         (t.zipStream d.state).isSome = decide (r.code = 1 ∨ r.code = 2 ∨ r.code = 13) ∧
         SameMemBut s t [(d.dst, r.bytes.length), (j.desc + 0x28, 24), (d.state, 65536)])))) ∧
  ((∀ (s : State) (e : Fin 4) (j : ZipJob), s.clocksOff = false → (s.zipEng e.val).job = some j → e.val ∈ s.zipFor0 →
     (∀ k ∈ s.zipFor0, ∃ x, (s.zipEng k).job = some x ∧ x.cls ≤ j.cls) → 1 ≤ j.cls → (s.zipEng e.val).susp = none →
     ∃ t, exec (.zipSuspend e) s = .next t ∧ (t.zipEng e.val).job = none ∧ (t.zipEng e.val).susp = some j ∧ t.get F.ZIP_STAT_STATE e.val = 2 ∧
       t.rd R.ZIP_SUSPEND e.val = Nat.min (s.rd R.ZIP_SUSPEND e.val + 1) 0xFFFFFFFF ∧
       SameRegs s t [R.ZIP_STAT.at e.val 0, R.ZIP_SUSPEND.at e.val 0] ∧ (j.entry.isSome = true → SameMem s t) ∧
       (j.entry = none → plainRange (s.zipDesc j.desc).state 65536 = true →
         SameMemBut s t [((s.zipDesc j.desc).state, 65536)])) ∧
   (∀ (s : State) (e : Fin 4) (j : ZipJob), s.clocksOff = false → (s.zipEng e.val).job = none → (s.zipEng e.val).susp = some j →
     s.zipPick e.val = none →
     ∃ t, exec (.zipResume e) s = .next t ∧ (t.zipEng e.val).job = some j ∧ (t.zipEng e.val).susp = none ∧ t.get F.ZIP_STAT_STATE e.val = 1 ∧
       t.get F.ZIP_STAT_CLASS e.val = j.cls % 4 ∧ SameRegs s t [R.ZIP_STAT.at e.val 0] ∧ SameMem s t) ∧
   (∀ (s : State) (who : Requester) (e : Fin 4) (v : RegWord) (made : Nat) (j : ZipJob), s.mayPut who (R.ZIP_CTL.at e.val 0) v = true →
     (s.zipEng e.val).job = some j → bitAt v.toNat 1 = true → j.entry = none → j.abort = none →
     ∃ t, exec (.zipAbort who e v made) s = .next t ∧ (t.zipEng e.val).job = some { j with abort := some made } ∧
       t.get F.ZIP_CTL_ENABLE e.val = bitsOf v.toNat 0 1 ∧ t.get F.ZIP_CTL_INGEST e.val = bitsOf v.toNat 2 1 ∧
       SameRegs s t [R.ZIP_CTL.at e.val 0] ∧ SameMem s t))

/-- EN starts a port with legal settings and is refused with BAD_SIZE; ROUTE 1 is refused while another port holds pipe A; an FS of the port's channel
starts the next frame, in a raw slot or dropped; a good line is stored, extra, foreign and uncorrectable packets are counted or flagged; an FE ends
the frame (R470–R473, R475, R487). SETSEQ records a sequence, or flags a full queue; APPLY latches the staging registers as a set that waits for its
frame; idle pipe B takes the waiting frame of the earliest start, in an output slot or dropped; a completed frame is counted, its record written and
its slot freed; ABORT marks the frame in progress (R476–R484, R487). -/
def Obligations.CameraCaptureAndPipes : Prop :=
  ((∀ (s : State) (who : Requester) (p : Fin 4) (v : RegWord), s.mayPut who (R.CAM_P_CTL.at p.val 0) v = true →
     let route := bitsOf v.toNat 9 2
     let l := [R.CAM_P_CTL.at p.val 0, R.CAM_P_STAT.at 0 0, R.CAM_P_STAT.at 1 0, R.CAM_P_STAT.at 2 0, R.CAM_P_STAT.at 3 0, R.CAM_K_APPLY.at 0 0]
     ((route = 1 → ∀ q : Fin 4, q ≠ p → s.holdsA q.val = false) → bitAt v.toNat 0 = true → s.flag F.CAM_P_CTL_EN p.val = false →
       (s.camSizeOk p.val route = true → ∃ t, exec (.camPortEnable who p v) s = .next t ∧ t.get F.CAM_P_CTL_EN p.val = 1 ∧
         t.get F.CAM_P_STAT_STATE p.val = 1 ∧ t.rd R.CAM_P_FRAME p.val = 0 ∧ t.get F.CAM_P_STAT_RESULT p.val = 0 ∧
         (t.camPort p.val).vc = bitsOf v.toNat 5 4 ∧ (t.camPort p.val).w = s.get F.CAM_P_SIZE_WIDTH p.val ∧ (t.camPort p.val).route = route ∧
         (s.get F.PLB_STAT_STATE ≠ plbRunning ∨ s.get F.PLB_STAT_DOMAIN ≠ 29 → SameRegs s t (R.CAM_P_FRAME.at p.val 0 :: l) ∧ SameMem s t)) ∧
       (s.camSizeOk p.val route = false → ∃ t, exec (.camPortEnable who p v) s = .next t ∧ t.get F.CAM_P_CTL_EN p.val = 0 ∧
         t.get F.CAM_P_STAT_RESULT p.val = 2 ∧ SameRegs s t l ∧ SameMem s t)) ∧
     (route = 1 → s.holdsA p.val = false → bitsOf v.toNat 0 1 = s.get F.CAM_P_CTL_EN p.val →
       ((∀ q : Fin 4, q ≠ p → s.holdsA q.val = false) → ∃ t, exec (.camRoute who p v) s = .next t ∧
         t.get F.CAM_P_CTL_ROUTE p.val = 1 ∧ t.get F.CAM_P_STAT_RESULT p.val = 0 ∧
         (∀ q : Fin 4, t.get F.CAM_P_STAT_PEER q.val = p.val) ∧ SameRegs s t l ∧ SameMem s t) ∧
       ∀ q : Fin 4, q ≠ p → s.holdsA q.val = true → (∀ k : Fin 4, k < q → k ≠ p → s.holdsA k.val = false) →
         ∃ t, exec (.camRoute who p v) s = .next t ∧ t.get F.CAM_P_CTL_ROUTE p.val = s.get F.CAM_P_CTL_ROUTE p.val ∧
           t.get F.CAM_P_STAT_RESULT p.val = 1 ∧ (∀ k : Fin 4, t.get F.CAM_P_STAT_PEER k.val = q.val) ∧ SameRegs s t l ∧ SameMem s t)) ∧
   (∀ (s : State) (p : Fin 4) (vc : Nat) (fn : BitVec 16), s.flag F.CAM_P_CTL_EN p.val = true →
     let c := s.camPort p.val
     let l := [R.CAM_P_FRAME.at p.val 0, R.CAM_P_SOF_LO.at p.val 0, R.CAM_P_SOF_LO.at p.val 0 + 4, R.CAM_P_STAT.at p.val 0, R.CAM_P_SETNOW.at p.val 0]
     (vc ≠ c.vc → ∃ t, exec (.camFrameStart p vc fn) s = .next t ∧
       t.get F.CAM_P_ERRCNT_DISC p.val = Nat.min (s.get F.CAM_P_ERRCNT_DISC p.val + 1) 65535 ∧
       t.get F.CAM_P_ERR_FLAGS p.val = s.get F.CAM_P_ERR_FLAGS p.val ||| 0x20 ∧
       SameRegs s t [R.CAM_P_ERRCNT.at p.val 0, R.CAM_P_ERR.at p.val 0] ∧ SameMem s t) ∧
     (vc = c.vc → c.cap = none →
       (c.route ≠ 2 →
         ∃ t f, exec (.camFrameStart p vc fn) s = .next t ∧ t.rd R.CAM_P_FRAME p.val = (s.rd R.CAM_P_FRAME p.val + 1) % 2 ^ 32 ∧
           t.rd64 R.CAM_P_SOF_LO p.val = s.now % 2 ^ 64 ∧ t.get F.CAM_P_STAT_STATE p.val = 3 ∧ (t.camPort p.val).cap = some f ∧
           f.num = (s.rd R.CAM_P_FRAME p.val + 1) % 2 ^ 32 ∧ f.sof = s.now ∧ f.lines = [] ∧ SameBlocks s t [.cam] ∧ SameMem s t ∧
           (c.route ≠ 1 ∨ s.flag F.CAM_K_CTL_EN 0 = false → SameRegs s t l)) ∧
       (c.route = 2 → ∀ i < s.get F.CAM_P_RAW_HI_SLOTS p.val, bitAt c.used i = false → (∀ j < i, bitAt c.used j = true) →
         ∃ t f, exec (.camFrameStart p vc fn) s = .next t ∧ t.rd R.CAM_P_FRAME p.val = (s.rd R.CAM_P_FRAME p.val + 1) % 2 ^ 32 ∧
           (t.camPort p.val).cap = some f ∧ f.slot = i ∧ f.dropped = false ∧ bitAt (t.camPort p.val).used i = true ∧ SameRegs s t l ∧ SameMem s t) ∧
       (c.route = 2 → (∀ i < s.get F.CAM_P_RAW_HI_SLOTS p.val, bitAt c.used i = true) →
         ∃ t f, exec (.camFrameStart p vc fn) s = .next t ∧ (t.camPort p.val).cap = some f ∧ f.dropped = true ∧
           t.rd R.CAM_P_DROP p.val = Nat.min (s.rd R.CAM_P_DROP p.val + 1) 0xFFFFFFFF ∧
           t.get F.CAM_P_ERR_FLAGS p.val = s.get F.CAM_P_ERR_FLAGS p.val ||| 0x40 ∧
           SameRegs s t (R.CAM_P_DROP.at p.val 0 :: R.CAM_P_ERR.at p.val 0 :: l) ∧ SameMem s t))) ∧
   (∀ (s : State) (p : Fin 4) (pkt : CamPacket), s.flag F.CAM_P_CTL_EN p.val = true →
     let c := s.camPort p.val
     let l := [R.CAM_P_ERRCNT.at p.val 0, R.CAM_P_ERR.at p.val 0]
     (pkt.ecc = 2 → ∃ t, exec (.camLineReceived p pkt) s = .next t ∧
       t.get F.CAM_P_ERRCNT_DISC p.val = Nat.min (s.get F.CAM_P_ERRCNT_DISC p.val + 1) 65535 ∧
       t.get F.CAM_P_ERR_FLAGS p.val = s.get F.CAM_P_ERR_FLAGS p.val ||| 1 ∧ SameRegs s t l ∧ SameMem s t) ∧
     (pkt.ecc = 0 → (pkt.vc ≠ c.vc ∨ (pkt.dt ≠ 0x2A + c.dt ∧ pkt.dt ≠ 0x12 ∧ (0x10 ≤ pkt.dt ∨ (4 ≤ pkt.dt ∧ pkt.dt < 8)))) →
       ∃ t, exec (.camLineReceived p pkt) s = .next t ∧ t.get F.CAM_P_ERRCNT_DISC p.val = Nat.min (s.get F.CAM_P_ERRCNT_DISC p.val + 1) 65535 ∧
         t.get F.CAM_P_ERR_FLAGS p.val = s.get F.CAM_P_ERR_FLAGS p.val ||| 0x20 ∧ SameRegs s t l ∧ SameMem s t) ∧
     (∀ f, pkt.ecc = 0 → pkt.vc = c.vc → pkt.dt = 0x2A + c.dt → c.cap = some f → f.lines.length < c.h →
       pkt.crcOk = true → (pkt.fast && c.route == 1 && c.dt == 0 && c.lanes == 2) = false → (camUnpack c.dt pkt.data).length = c.w →
       ∃ t g, exec (.camLineReceived p pkt) s = .next t ∧ (t.camPort p.val).cap = some g ∧ g.lines = f.lines ++ [camUnpack c.dt pkt.data] ∧
         g.faults = f.faults ∧ SameRegs s t l ∧ (c.route ≠ 2 ∨ f.dropped = true → SameMem s t) ∧
         (let a := s.rawSlot p.val f.slot + 2 * c.w * f.lines.length
          c.route = 2 → f.dropped = false → plainRange a (2 * c.w) = true →
            t.rdBytes a (2 * c.w) = (camUnpack c.dt pkt.data).flatMap (leBytes 2) ∧ SameMemBut s t [(a, 2 * c.w)])) ∧
     (∀ f, pkt.ecc = 0 → pkt.vc = c.vc → pkt.dt = 0x2A + c.dt → c.cap = some f → c.h ≤ f.lines.length →
       ∃ t, exec (.camLineReceived p pkt) s = .next t ∧ (t.camPort p.val).cap = some { f with faults := f.faults ||| 4 } ∧
         t.get F.CAM_P_ERR_FLAGS p.val = s.get F.CAM_P_ERR_FLAGS p.val ||| 4 ∧ SameRegs s t l ∧ SameMem s t)) ∧
   (∀ (s : State) (p : Fin 4) (f : CamFrame), s.flag F.CAM_P_CTL_EN p.val = true → (s.camPort p.val).cap = some f →
     let c := s.camPort p.val
     ∃ t, exec (.camFrameEnd p c.vc) s = .next t ∧ (t.camPort p.val).cap = none ∧ t.get F.CAM_P_STAT_STATE p.val = 2 ∧
       t.get F.CAM_P_ERR_FLAGS p.val = s.get F.CAM_P_ERR_FLAGS p.val ||| (if f.lines.length < c.h then 4 else 0) ∧
       (c.route = 2 → f.dropped = false → ∃ g, (t.camPort p.val).wait = c.wait ++ [g] ∧ g.num = f.num ∧ g.ended = true ∧ g.eof = s.now) ∧
       SameRegs s t [R.CAM_P_ERR.at p.val 0, R.CAM_P_STAT.at p.val 0, R.CAM_K_QUEUE.at 1 0] ∧
       (c.route ≠ 2 ∨ f.dropped = true ∨ c.h ≤ f.lines.length → SameMem s t) ∧
       (let a := s.rawSlot p.val f.slot + 2 * c.w * f.lines.length
        let n := 2 * c.w * (c.h - f.lines.length)
        plainRange a n = true → SameMemBut s t [(a, n)]))) ∧
  ((∀ (s : State) (who : Requester) (p : Fin 4) (v : RegWord), s.mayPut who (R.CAM_P_SETSEQ.at p.val 0) v = true →
     let c := s.camPort p.val
     let f := s.rd R.CAM_P_FRAME p.val
     let c' := ({ c with setq := c.setq ++ [((f + s.get F.CAM_P_DELAY_N p.val) % 2 ^ 32, bitsOf v.toNat 0 16)] } : CamPort).settle f
     (c.setq.length < 8 → ∃ t, exec (.camSetseq who p v) s = .next t ∧ (t.camPort p.val).setq = c'.setq ∧ (t.camPort p.val).setNow = c'.setNow ∧
       SameRegs s t [R.CAM_P_SETNOW.at p.val 0] ∧ SameMem s t) ∧
     (8 ≤ c.setq.length → ∃ t, exec (.camSetseq who p v) s = .next t ∧ (t.camPort p.val).setq = c.setq ∧
       t.get F.CAM_P_ERR_FLAGS p.val = s.get F.CAM_P_ERR_FLAGS p.val ||| 0x80 ∧ SameRegs s t [R.CAM_P_ERR.at p.val 0] ∧ SameMem s t)) ∧
   (∀ (s : State) (who : Requester) (k : Fin 2) (v : RegWord), s.mayPut who (R.CAM_K_APPLY.at k.val 0) v = true → bitAt v.toNat 2 = true →
     let key := if k.val = 0 then 0 else bitsOf v.toNat 0 2
     (s.flag F.CAM_K_APPLY_BUSY k.val = false →
       ∃ t, exec (.camApply who k v) s = .next t ∧ t.get F.CAM_K_APPLY_BUSY k.val = 1 ∧
         (t.camPipe k.val).reading = some {
           port := key, frame := s.rd R.CAM_K_APPLY_FRAME k.val, seq := s.get F.CAM_K_APPLY_SEQ_PSEQ k.val, set := s.camStage k.val,
           tabs := s.camTabs k.val } ∧
         KMap.get (fun _ => none) (t.camPipe k.val).wait key = none ∧
         ((KMap.get (fun _ => none) (s.camPipe k.val).wait key).isSome = true → t.get F.CAM_K_APPLY_REPLACED k.val = 1) ∧
         SameRegs s t [R.CAM_K_APPLY.at k.val 0] ∧ SameMem s t) ∧
     (s.flag F.CAM_K_APPLY_BUSY k.val = true → ∃ t, exec (.camApply who k v) s = .next t ∧ (t.camPipe k.val).reading = (s.camPipe k.val).reading ∧
       SameRegs s t [R.CAM_K_APPLY.at k.val 0] ∧ SameMem s t)) ∧
   (∀ (s : State) (k : Fin 2) (w : CamWait), (s.camPipe k.val).reading = some w →
     ∃ t, exec (.camApplyDone k) s = .next t ∧ (t.camPipe k.val).reading = none ∧ KMap.get (fun _ => none) (t.camPipe k.val).wait w.port = some { w with set := s.camRead w } ∧
       t.get F.CAM_K_APPLY_BUSY k.val = 0 ∧
       SameRegs s t [R.CAM_K_APPLY.at k.val 0] ∧ SameMem s t) ∧
   (∀ (s : State) (p : Fin 4) (f : CamFrame) (rest : List CamFrame), s.clocksOff = false → s.flag F.CAM_K_CTL_EN 1 = true →
     (s.camPipe 1).jobs = [] → (s.camPort p.val).wait = f :: rest →
     (∀ (q : Fin 4) (g : CamFrame) (l : List CamFrame), (s.camPort q.val).wait = g :: l → f.sof < g.sof ∨ (f.sof = g.sof ∧ p ≤ q)) →
     let r := s.get F.CAM_K_OUT_RING_RING 1
     let slots := s.get F.CAM_K_OUT_CFG_SLOTS_M1 1 + 1
     let l := [R.CAM_K_QUEUE.at 1 0, R.CAM_K_PSEQ.at 1 p.val, R.CAM_K_PFRAME.at 1 p.val, R.CAM_K_APPLY.at 1 0, R.CAM_K_LATE.at 1 0]
     (s.flag F.CAM_K_OUT_RING_EN 1 = true → s.ringFill r < slots →
       ∃ t j, exec .pipeBFrameTake s = .next t ∧ (t.camPort p.val).wait = rest ∧ (t.camPipe 1).jobs = [j] ∧ j.port = p.val ∧ j.frame = f ∧ j.ring = r ∧
         j.slot = s.ringPI r % slots ∧ t.get F.CAM_K_STAT_STATE 1 = 1 ∧ t.get F.CAM_K_STAT_PORT 1 = p.val ∧
         SameRegs s t (R.CAM_K_STAT.at 1 0 :: R.CAM_K_CUR.at 1 0 :: l) ∧ SameMem s t) ∧
     (s.flag F.CAM_K_OUT_RING_EN 1 = false ∨ slots ≤ s.ringFill r →
       ∃ t, exec .pipeBFrameTake s = .next t ∧ (t.camPort p.val).wait = rest ∧ (t.camPipe 1).jobs = [] ∧
         t.rd R.CAM_K_DROPS 1 = Nat.min (s.rd R.CAM_K_DROPS 1 + 1) 0xFFFFFFFF ∧ bitAt (t.camPort p.val).used f.slot = false ∧
         ((s.camPipe 1).ref = some p.val → (t.camPipe 1).ref = none ∧ t.get F.CAM_K_TNR_REF_VALID 1 = 0) ∧
         ((s.camPipe 1).ref ≠ some p.val → (t.camPipe 1).ref = (s.camPipe 1).ref) ∧
         SameRegs s t (R.CAM_K_DROPS.at 1 0 :: R.CAM_K_DROPS_P.at 1 p.val :: R.CAM_K_TNR.at 1 0 :: l) ∧ SameMem s t)) ∧
   (∀ (s : State) (k : Fin 2) (j0 : CamJob) (rest : List CamJob), s.clocksOff = false → (s.camPipe k.val).jobs = j0 :: rest →
     (j0.frame.ended = true ∨ j0.abort.isSome = true) →
     let j := { j0 with frame := s.jobFrame j0 }
     let r := j.ring
     let areas := (j.refAt, 2 * j.w * j.h) :: (j.stats, 86080) :: (if bitAt j.statsCfg 0 then (camSurface j).spans 0 0 j.w j.h else [])
     ∃ t, exec (.pipeFrameDone k) s = .next t ∧ (t.camPipe k.val).jobs = rest ∧
       t.rd R.CAM_K_FRAMES k.val = (s.rd R.CAM_K_FRAMES k.val + 1) % 2 ^ 32 ∧
       (t.camPipe k.val).ref = (s.camPipe k.val).ref ∧ t.get F.CAM_K_TNR_REF_VALID k.val = (s.camPipe k.val).ref.isSome.toNat ∧
       (s.camClean k.val j = j.h → j.abort = none → t.rd64 R.CAM_K_PIX_LO k.val = (s.rd64 R.CAM_K_PIX_LO k.val + j.w * j.h) % 2 ^ 64) ∧
       (s.camClean k.val j < j.h ∨ j.abort.isSome = true → t.get F.CAM_K_LAST_ERR_STATUS k.val = 5) ∧
       (k.val = 1 → bitAt (t.camPort j.port).used j.frame.slot = false) ∧ SameBlocks s t [.cam, .ring, .host] ∧
       (bitsOf j.cfg 0 4 ≤ 10 → j.w % 2 = 0 → s.camIn k.val j = true → s.ringClash r = none →
         (∀ e ∈ (s.ringElem r (s.ringPI r), 32) :: areas, plainRange e.1 e.2 = true ∧
           (e.1 + e.2 ≤ ringCtx 0 ∨ ringCtx 8192 ≤ e.1)) →
         SameMemBut s t ((s.ringElem r (s.ringPI r), 32) :: (ringCtx r, 64) :: areas))) ∧
   (∀ (s : State) (who : Requester) (k : Fin 2) (v : RegWord) (lines : Nat) (j : CamJob) (rest : List CamJob),
     s.mayPut who (R.CAM_K_CTL.at k.val 0) v = true → (s.camPipe k.val).jobs = j :: rest → bitAt v.toNat 1 = true → j.abort = none → lines < j.h →
     ∃ t, exec (.camPipeAbort who k v lines) s = .next t ∧ (t.camPipe k.val).jobs = { j with abort := some lines } :: rest ∧
       t.get F.CAM_K_CTL_EN k.val = bitsOf v.toNat 0 1 ∧ SameRegs s t [R.CAM_K_CTL.at k.val 0] ∧ SameMem s t))

/-- PLB_RUN requests domains; idle plumb starts the lowest requested one; a run ends OK with its set waiting, or as RANGE, TIMEOUT or ABORTED with the
active set kept, a domain marked bad by the first two and requested again by the last; a trim record is loaded, or refused as BUSY or BAD_RECORD; a
fiducial job is left waiting, ended as LATE or as bad, or loaded (R490–R492, R498–R501). -/
def Obligations.PlumbRuns : Prop :=
  (∀ (s : State) (who : Requester) (v : RegWord), s.mayPut who (R.PLB_RUN.at 0 0) v = true →
    ∃ t, exec (.plumbRunRequest who v) s = .next t ∧ t.rd R.PLB_PEND = s.rd R.PLB_PEND ||| v.toNat ∧ SameRegs s t [R.PLB_PEND.at 0 0] ∧ SameMem s t) ∧
  (∀ (s : State) (d : Fin 32), s.get F.PLB_STAT_STATE = plbIdle → bitAt (s.rd R.PLB_PEND) d.val = true →
    (∀ k, k < d.val → bitAt (s.rd R.PLB_PEND) k = false) →
    ∃ t, exec .plumbRunStart s = .next t ∧ t.get F.PLB_STAT_STATE = plbRunning ∧ t.get F.PLB_STAT_DOMAIN = d.val ∧
      bitAt (t.rd R.PLB_PEND) d.val = false ∧ bitAt (t.rd R.PLB_READY) d.val = false ∧ t.shadowSet d.val = s.activeSet d.val ∧
      t.plumb.runAt = s.upNs ∧ SameRegs s t [R.PLB_STAT.at 0 0, R.PLB_PEND.at 0 0, R.PLB_READY.at 0 0] ∧ SameMem s t) ∧
  (∀ (s : State) (d : Nat), s.get F.PLB_STAT_STATE = plbRunning → d = s.get F.PLB_STAT_DOMAIN →
    let bad := [R.PLB_RUNS.at 0 0, R.PLB_STAT.at 0 0, R.PLB_BAD.at 0 0, R.PLB_BAD_CNT.at 0 0, R.PLB_DOM_TEMP.at 0 d]
    (∃ t, exec (.plumbRunEnd true) s = .next t ∧ t.get F.PLB_STAT_STATE = plbIdle ∧ t.get F.PLB_STAT_LAST_DOMAIN = d ∧
      t.get F.PLB_STAT_LAST_RESULT = 0 ∧ t.rd R.PLB_RUNS = (s.rd R.PLB_RUNS + 1) % 2 ^ 32 ∧ bitAt (t.rd R.PLB_READY) d = true ∧
      bitAt (t.get F.PLB_BAD_BAD) d = false ∧
      (s.rd R.PLB_READY = 0 → t.activeSet d = s.activeSet d ∧
        SameRegs s t [R.PLB_RUNS.at 0 0, R.PLB_STAT.at 0 0, R.PLB_READY.at 0 0, R.PLB_BAD.at 0 0] ∧ SameMem s t)) ∧
    (∃ t, exec (.plumbRunEnd false) s = .next t ∧ t.get F.PLB_STAT_STATE = plbIdle ∧ t.get F.PLB_STAT_LAST_RESULT = 2 ∧
      t.shadowSet d = s.activeSet d ∧ bitAt (t.get F.PLB_BAD_BAD) d = true ∧
      t.rd R.PLB_BAD_CNT = Nat.min (s.rd R.PLB_BAD_CNT + 1) 0xFFFFFFFF ∧ SameRegs s t bad ∧ SameMem s t) ∧
    (∃ t, exec .plumbRunTimeout s = .next t ∧ t.get F.PLB_STAT_STATE = plbIdle ∧ t.get F.PLB_STAT_LAST_RESULT = 1 ∧
      t.shadowSet d = s.activeSet d ∧ bitAt (t.get F.PLB_BAD_BAD) d = true ∧
      s.plumb.runAt + Nat.max 100 (s.get F.PLB_TMO_TMO_US) * 1000 ≤ t.upNs ∧ SameRegs s t bad ∧ SameMem s t) ∧
    ∀ (who : Requester) (v : RegWord), s.mayPut who (R.PLB_CTL.at 0 0) v = true → bitAt v.toNat 6 = true →
      ∃ t, exec (.plumbAbort who v) s = .next t ∧ t.get F.PLB_STAT_STATE = plbIdle ∧ t.get F.PLB_STAT_LAST_RESULT = 3 ∧
        t.shadowSet d = s.activeSet d ∧ bitAt (t.rd R.PLB_PEND) d = true ∧ t.get F.PLB_CTL_AUTO_EN = bitsOf v.toNat 0 1 ∧
        SameRegs s t [R.PLB_CTL.at 0 0, R.PLB_RUNS.at 0 0, R.PLB_STAT.at 0 0, R.PLB_PEND.at 0 0] ∧ SameMem s t) ∧
  (∀ (s : State) (who : Requester) (hi : RegWord), s.mayPut who (R.PLB_LOAD_HI.at 0 0) hi = true → bitAt hi.toNat 16 = true →
    let a := s.held who (R.PLB_LOAD_LO.at 0 0) % 2 ^ 32 + 2 ^ 32 * bitsOf hi.toNat 0 16
    let b := s.rdBytes a 2064
    let l := [R.PLB_LOAD_LO.at 0 0, R.PLB_LOAD_HI.at 0 0, R.PLB_LOAD_STAT.at 0 0]
    (s.get F.PLB_STAT_STATE = plbRunning ∨ s.rd R.PLB_READY ≠ 0 →
      ∃ t, exec (.trimLoad who hi) s = .next t ∧ t.get F.PLB_LOAD_STAT_RESULT = 3 ∧ t.plumb = s.plumb ∧ SameRegs s t l ∧ SameMem s t) ∧
    (s.get F.PLB_STAT_STATE ≠ plbRunning → s.rd R.PLB_READY = 0 → s.unitRange a 2064 = false →
      ∃ t, exec (.trimLoad who hi) s = .next t ∧ SameRegs s t (R.PLB_SEQ.at 0 0 :: l) ∧ SameMem s t) ∧
    (s.get F.PLB_STAT_STATE ≠ plbRunning → s.rd R.PLB_READY = 0 → s.unitRange a 2064 = true →
      (s.poisoned a 2064 = true → ∃ t, exec (.trimLoad who hi) s = .next t ∧ t.get F.PLB_LOAD_STAT_RESULT = 2 ∧ t.plumb = s.plumb ∧
        SameBlocks s t [.plumb, .host] ∧ SameMem s t) ∧
      (leAt b 0 4 ≠ 0x7A1C0001 ∨ leAt b 12 4 ≠ crc32c (b.drop 16) → s.poisoned a 2064 = false →
        ∃ t, exec (.trimLoad who hi) s = .next t ∧ t.get F.PLB_LOAD_STAT_RESULT = 2 ∧ t.plumb = s.plumb ∧ SameRegs s t l ∧ SameMem s t) ∧
      (leAt b 0 4 = 0x7A1C0001 → leAt b 12 4 = crc32c (b.drop 16) → s.poisoned a 2064 = false →
        ∃ t, exec (.trimLoad who hi) s = .next t ∧ t.get F.PLB_LOAD_STAT_RESULT = 1 ∧ t.rd R.PLB_SEQ = leAt b 4 4 ∧
          (∀ d : Fin 32, bitAt (leAt b 8 4) d.val = true →
            (bitAt hi.toNat 17 = true → t.activeSet d.val = (b.drop (16 + 64 * d.val + 8)).take 56 ∧
              t.get F.PLB_DOM_TEMP_TEMP 0 d.val = leAt b (16 + 64 * d.val) 2) ∧
            (bitAt hi.toNat 17 = false → t.shadowSet d.val = (b.drop (16 + 64 * d.val + 8)).take 56 ∧ t.activeSet d.val = s.activeSet d.val ∧
              bitAt (t.rd R.PLB_READY) d.val = true)) ∧
          SameBlocks s t [.plumb] ∧ SameMem s t))) ∧
  (∀ (s : State) (r e showTime : Nat), r = s.get F.PLB_FID_RING_RING → s.stroke.recovery = true → s.plumb.fidDone = false →
    s.flag F.PLB_FID_RING_EN = true → s.unitCanTake r = true → s.plumb.fidPi ≠ s.ringCI r → e = s.ringElem r (s.ringCI r) →
    showTime = extendStroke s.strokeNum (s.rd32 (e + 8)) →
    let list := s.rdN e 6
    let count := bitsOf (s.rd32 (e + 0xC)) 0 15
    let rsvd := s.rdN (e + 6) 2 ≠ 0 ∨ bitAt (s.rd32 (e + 0xC)) 15 = true ∨ bitsOf (s.rd32 (e + 0xC)) 18 14 ≠ 0 ∨ s.rdN (e + 0x14) 12 ≠ 0
    (s.strokeNum + 2 < showTime → exec .fiducialJobLoad s = .next s) ∧
    (s.flag F.PLB_FID_DONE_EN = false → showTime < s.strokeNum + 2 →
      ∃ t, exec .fiducialJobLoad s = .next t ∧ t.ringCI r = (s.ringCI r + 1) % 2 ^ 32 ∧ t.plumb.fid = s.plumb.fid ∧ t.plumb.fidDone = false ∧
        t.get F.PLB_FID_STAT_RESULT = 1 ∧ SameBlocks s t [.plumb, .host] ∧ SameMemBut s t [(ringCtx r + 0x14, 4)]) ∧
    (s.flag F.PLB_FID_DONE_EN = false → showTime = s.strokeNum + 2 → (rsvd ∨ count = 0 ∨ 16384 < count ∨ list % 8 ≠ 0) →
      ∃ t, exec .fiducialJobLoad s = .next t ∧ t.ringCI r = (s.ringCI r + 1) % 2 ^ 32 ∧ t.plumb.fid = s.plumb.fid ∧ t.plumb.fidDone = true ∧
        t.get F.PLB_FID_STAT_RESULT = 2 ∧ SameBlocks s t [.plumb, .host] ∧ SameMemBut s t [(ringCtx r + 0x14, 4)]) ∧
    (showTime = s.strokeNum + 2 → ¬rsvd → 1 ≤ count → count ≤ 16384 → list % 8 = 0 → s.unitRange list (8 * count) = true →
      (∀ k < count, bitsOf (s.rdN (list + 8 * k) 8) 29 3 = 0 ∧ bitsOf (s.rdN (list + 8 * k) 8) 35 13 = 0) →
      badEntry s.bankNext.2 (s.tiles s.bankNext.1) (!bitAt (s.rd32 (e + 0xC)) 16) ((upTo count).map (s.fidEntry list)) 0 none = none →
      (∀ k < count, s.poisoned (list + 8 * k) 8 = false) →
      ∃ t j, exec .fiducialJobLoad s = .next t ∧ t.plumb.fid = some j ∧ j.showTime = showTime ∧ j.count = count ∧
        j.tag = s.rd32 (e + 0x10) ∧ j.entries = (upTo count).map (s.fidEntry list) ∧ t.ringCI r = (s.ringCI r + 1) % 2 ^ 32 ∧
        t.plumb.fidDone = true ∧ t.get F.PLB_FID_STAT_STATE = 1 ∧ t.rd R.PLB_FID_SHOW = showTime % 2 ^ 32 ∧
        SameBlocks s t [.plumb, .host] ∧ SameMemBut s t [(ringCtx r + 0x14, 4)]))

/-- A power loss leaves every register at its reset value but for the levels at inputs, and keeps OTP and the ledger; power-on ends at STANDBY, or at
stage 8 with core 0 halted where no image verifies; a warm reset from any of its causes sets its GLB_RST_CAUSE bit and returns registers to reset; a
power fail records its time, stops owner cores and shows POWER_FAIL (R510–R518, R540, R580). What holds where power-on ends is the model's choice:
stock firmware's start-up steps are taken as one. -/
def Obligations.PowerAndResets : Prop :=
  (∀ s : State, ∃ t, exec .powerLoss s = .next t ∧ t.board.pwrOk = false ∧ t.pending = s.pending ∧
    (∀ a, a ≠ R.GLB_CLK_STAT.at 0 0 → a ≠ R.GLB_GPIO_IN.at 0 0 → t.rdReg a = regReset a) ∧
    (∀ a, hostWin a = false → (outlives a = true → s.trust.otp = none ∧ ∀ o, s.ledger.op = some o →
        let f := flashAddr o.cs (o.faddr + o.done)
        f + (if o.op = 1 then 256 else o.len) ≤ 0x40000000 ∧ (a < f ∨ f + (if o.op = 1 then 256 else o.len) ≤ a)) →
      t.rdB a = if outlives a then s.rdB a else memDefault a)) ∧
  (∀ (s : State) (rows : BitVec 12) (unrepaired : Option (BitVec 8)) (retrained : Bool),
    ∃ t, exec (.powerOn rows unrepaired retrained) s = .next t ∧ t.board.pwrOk = true ∧ t.get F.PLB_SRAM_ROWS_USED = rows.toNat ∧
      t.get F.PLB_SRAM_UNREPAIRED = unrepaired.isSome.toNat ∧
      ((t.get F.GLB_BOOT_STAGE = 6 ∧ t.get F.GLB_BOOT_RETRAINED = retrained.toNat ∧ t.get F.GLB_SHOW_STATE = showStandby ∧
          (t.core 0).run = .running ∧ (t.core 0).priv = .w) ∨
        (t.get F.GLB_BOOT_STAGE = 8 ∧ t.get F.GLB_SHOW_STATE = showStarting ∧ (t.core 0).run ≠ .running)) ∧
      (∀ n : Fin 16, n ≠ 0 → t.core n.val = Core.reset n.val) ∧
      (∀ a, (∀ h, decodeReg a = some h → h.block ∉ [.global, .plumb, .host, .kiln, .trust, .cox, .ledger, .strand, .dramc]) → t.rdReg a = regReset a)) ∧
  (∀ s : State, ∃ t, exec .resetNAssert s = .next t ∧ t.board.resetLow = true ∧ t.stroke.strokeOut = false ∧
    (∀ c : Fin 8, s.drcState c.val = drcRun ∨ s.drcState c.val = drcMigrating → t.drcState c.val = drcSelfRefresh) ∧
    (∀ (c : Fin 8) (i : Nat), s.drcState c.val = drcFreqChange → (s.drc c.val).freqTo = some (i, drcRun) → t.drcState c.val = drcSelfRefresh ∧
      t.get F.DRC_STAT_FREQ_ACT c.val = i % 4 ∧ (t.drc c.val).freqTo = none) ∧
    SameBlocks s t [.dramc] ∧ SameMem s t) ∧
  (∀ s : State, (s.board.resetLow = false → exec .warmReset s = .next s) ∧
    (s.board.resetLow = true → s.flag F.GLB_PWR_PWR_FAIL = false →
      ∃ t, exec .warmReset s = .next t ∧ t.board.resetLow = false ∧ t.now = s.now ∧ bitAt (t.get F.GLB_RST_CAUSE_CAUSE) 1 = true ∧
        (t.get F.GLB_BOOT_STAGE = 6 ∨ t.get F.GLB_BOOT_STAGE = 8 ∨ t.get F.GLB_BOOT_STAGE = 3) ∧
        (∀ n : Fin 16, n ≠ 0 → t.core n.val = Core.reset n.val) ∧
        (∀ a, (∀ h, decodeReg a = some h → h.block ∉ [.global, .plumb, .host, .kiln, .trust, .cox, .ledger, .shell, .strand, .dramc]) → warmKeep a = 0 → t.rdReg a = regReset a))) ∧
  (∀ (s : State) (who : Requester) (v : RegWord), s.mayPut who (R.GLB_RST_CTL.at 0 0) v = true →
    (v.toNat % 2 ^ 16 = 0xA5A5 → who ≠ .host →
      ∃ t, exec (.softReset who v) s = .next t ∧ bitAt (t.get F.GLB_RST_CAUSE_CAUSE) (if who = .debug then 3 else 2) = true ∧
        (∀ n : Fin 16, n ≠ 0 → t.core n.val = Core.reset n.val) ∧
        (∀ a, (∀ h, decodeReg a = some h → h.block ∉ [.global, .plumb, .host, .kiln, .trust, .cox, .ledger, .shell, .strand, .dramc]) → warmKeep a = 0 → t.rdReg a = regReset a)) ∧
    (v.toNat % 2 ^ 16 ≠ 0xA5A5 ∨ who = .host →
      ∃ t, exec (.softReset who v) s = .next t ∧ SameRegs s t [R.GLB_RST_CTL.at 0 0] ∧ SameMem s t ∧ t.cores = s.cores)) ∧
  (∀ s : State, s.flag F.GLB_PWR_PWR_FAIL = false →
    ∃ t, exec .powerFail s = .next t ∧ t.get F.GLB_PWR_PWR_FAIL = 1 ∧ t.get F.GLB_PWR_PF_SEEN = 1 ∧ t.rd64 R.GLB_PFAIL_LO = s.now % 2 ^ 64 ∧
      t.get F.GLB_SHOW_STATE = showPowerFail ∧ (∀ n : Fin 16, 4 ≤ n.val → (t.core n.val).run ≠ .running) ∧
      SameBlocks s t [.global, .strand, .cox, .dramc] ∧ SameMem s t) ∧
  (∀ s : State, Registers.wf s.regs = true → s.flag F.GLB_PWR_PWR_FAIL = true →
    ∃ t, exec .powerFailRecovery s = .next t ∧ t.get F.GLB_PWR_PWR_FAIL = 0 ∧ bitAt (t.get F.GLB_RST_CAUSE_CAUSE) 4 = true ∧
      t.rd R.GLB_PFAIL_CNT = Nat.min (s.rd R.GLB_PFAIL_CNT + 1) 0xFFFFFFFF ∧
      (∀ a, (∀ h, decodeReg a = some h → h.block ∉ [.global, .plumb, .host, .kiln, .trust, .cox, .ledger, .shell, .strand, .dramc]) → warmKeep a = 0 → t.rdReg a = regReset a))

/-- ARM takes STANDBY to SHOWING, DISARM takes SHOWING to STANDBY at once in a recovery window and waits for one otherwise, and either is refused
elsewhere; a sensor round records its readings and marks odd sensors; an evaluation decides the stage, and a trip halts rendering, plumb and owner
cores; the flash temperature is read and expires (R516, R519–R527). -/
def Obligations.ShowAndKiln : Prop :=
  (∀ (s : State) (who : Requester), s.mayWrite who (R.GLB_SHOW.at 0 0) = true →
    (s.get F.GLB_SHOW_STATE = showStandby → ∃ t, exec (.showArm who) s = .next t ∧ t.get F.GLB_SHOW_STATE = showShowing ∧
      t.get F.GLB_SHOW_RESULT = 0 ∧ SameRegs s t [R.GLB_SHOW.at 0 0] ∧ SameMem s t) ∧
    (s.get F.GLB_SHOW_STATE ≠ showStandby → ∃ t, exec (.showArm who) s = .next t ∧ t.get F.GLB_SHOW_STATE = s.get F.GLB_SHOW_STATE ∧
      t.get F.GLB_SHOW_RESULT = 1 ∧ SameRegs s t [R.GLB_SHOW.at 0 0] ∧ SameMem s t) ∧
    (s.get F.GLB_SHOW_STATE = showShowing → s.stroke.recovery = true → ∃ t, exec (.showDisarm who) s = .next t ∧
      t.get F.GLB_SHOW_STATE = showStandby ∧ t.get F.GLB_SHOW_RESULT = 0 ∧ SameBlocks s t [.global, .strand] ∧ SameMem s t) ∧
    (s.get F.GLB_SHOW_STATE = showShowing → s.stroke.recovery = false → ∃ t, exec (.showDisarm who) s = .next t ∧ t.board.disarm = true ∧
      t.get F.GLB_SHOW_STATE = showShowing ∧ t.get F.GLB_SHOW_RESULT = 0 ∧ SameRegs s t [R.GLB_SHOW.at 0 0] ∧ SameMem s t) ∧
    (s.get F.GLB_SHOW_STATE ≠ showShowing → ∃ t, exec (.showDisarm who) s = .next t ∧ t.get F.GLB_SHOW_STATE = s.get F.GLB_SHOW_STATE ∧
      t.get F.GLB_SHOW_RESULT = 1 ∧ SameRegs s t [R.GLB_SHOW.at 0 0] ∧ SameMem s t)) ∧
  (∀ (s : State) (temps volts : List (BitVec 16)),
    let u := forN 16 (fun i s => s.set F.KLN_SENSOR_TEMP ((temps[i]?).getD 0).toNat 0 i) s
    ∃ t, exec (.sensorRound temps volts) s = .next t ∧
      (∀ i : Fin 16, t.get F.KLN_SENSOR_TEMP 0 i.val = ((temps[i.val]?).getD 0).toNat ∧
        bitAt (t.get F.KLN_SFAULT_FAULTY) i.val = (bitAt (s.get F.KLN_SFAULT_FAULTY) i.val || u.sensorOdd i.val)) ∧
      t.get F.KLN_STAT_HEALTHY = t.healthyCount ∧ t.get F.KLN_STAT_SENSOR_LOW = (decide (t.healthyCount < 4)).toNat ∧
      SameBlocks s t [.kiln] ∧ SameMem s t) ∧
  (∀ (s : State) (mw : List (BitVec 24)) (model : List (BitVec 16)),
    let v := s.advanceUp (s.board.kilnAt + 250000)
    let u := (({ v with board := { v.board with kilnAt := v.upNs } } : State).kilnModel mw model).stageTime.trackRelease
    let cur := u.get F.KLN_STAT_STAGE
    let k := u.stageWanted
    ∃ t, exec (.kilnEvaluation mw model) s = .next t ∧ s.board.kilnAt + 250000 ≤ t.upNs ∧ t.board.kilnAt = t.upNs ∧
      t.get F.KLN_STAT_STAGE = (if cur ≤ k then k else if u.stageLeaves cur then k else cur) ∧
      (cur ≠ 3 → k = 3 → (∀ n : Fin 16, 4 ≤ n.val → (t.core n.val).run ≠ .running) ∧ t.get F.PLB_STAT_STATE = plbHalted ∧
        t.board.thermTrip = s.board.pwrOk ∧ t.rd R.KLN_TRIP_CNT = Nat.min (s.rd R.KLN_TRIP_CNT + 1) 0xFFFFFFFF ∧
        (s.get F.GLB_SHOW_STATE ≠ showPowerFail → t.get F.GLB_SHOW_STATE = showHalted)) ∧
      SameBlocks s t [.global, .kiln, .plumb, .strand, .cox, .dramc] ∧ SameMem s t) ∧
  (∀ (s : State) (word : Option (BitVec 16)), s.flag F.KLN_FLASH_CFG_EN = true → s.i2c 0 = none →
    ∃ t, exec (.flashTempRead word) s = .next t ∧ SameRegs s t [R.KLN_FLASH.at 0 0] ∧ SameMem s t ∧
      match word with
      | none => t.get F.KLN_FLASH_ERR = 1
      | some w => t.get F.KLN_FLASH_VALID = 1 ∧ t.board.flashAt = s.upNs ∧
          t.get F.KLN_FLASH_TEMP = (if s.flag F.KLN_FLASH_CFG_FORMAT then w.toNat / 16 * 16 else w.toNat) ∧
          t.get F.KLN_FLASH_IN_RANGE = (decide (-6400 ≤ sgn 16 (t.get F.KLN_FLASH_TEMP)) && decide (sgn 16 (t.get F.KLN_FLASH_TEMP) ≤ 21760)).toNat) ∧
  (∀ s : State, s.flag F.KLN_FLASH_VALID = true →
    ∃ t, exec .flashReadingExpired s = .next t ∧ t.get F.KLN_FLASH_VALID = 0 ∧ t.get F.KLN_FLASH_IN_RANGE = 0 ∧
      s.board.flashAt + 2000000000 ≤ t.upNs ∧ SameRegs s t [R.KLN_FLASH.at 0 0] ∧ SameMem s t)

/-- GO on an idle enabled bus starts a transaction and reads BUSY; its end reads the result with the data, or counts an error; a change of a pin's
level follows in GLB_GPIO_IN and records the edge; a clock input's presence is shown; from debug level 1 on a boundary-scan instruction takes or
releases the pins (R529, R531, R592, R596). -/
def Obligations.BoardInputs : Prop :=
  (∀ (s : State) (who : Requester) (b : Fin 2) (v : RegWord), s.mayPut who (R.GLB_I2C_CMD.at 0 b.val) v = true → bitAt v.toNat 6 = true →
    (s.i2c b.val = none → s.flag F.GLB_I2C_CTL_EN 0 b.val = true → bitsOf v.toNat 0 3 ≤ 4 → bitsOf v.toNat 3 3 ≤ 4 →
      s.get F.GLB_I2C_CTL_SPEED 0 b.val ≠ 3 →
      ∃ t, exec (.i2cTransaction who b v) s = .next t ∧ t.get F.GLB_I2C_STAT_BUSY 0 b.val = 1 ∧
        t.i2c b.val = some { addr := s.get F.GLB_I2C_ADDR_ADDR 0 b.val, rlen := bitsOf v.toNat 3 3 } ∧
        SameRegs s t [R.GLB_I2C_CMD.at 0 b.val, R.GLB_I2C_STAT.at 0 b.val] ∧ SameMem s t) ∧
    ((s.i2c b.val).isSome = true ∨ s.flag F.GLB_I2C_CTL_EN 0 b.val = false →
      ∃ t, exec (.i2cTransaction who b v) s = .next t ∧ t.i2c b.val = s.i2c b.val ∧ t.out = s.out ∧
        SameRegs s t [R.GLB_I2C_CMD.at 0 b.val] ∧ SameMem s t)) ∧
  (∀ (s : State) (b : Fin 2) (result : Fin 5) (data : RegWord) (x : I2cXfer), s.i2c b.val = some x → x.rlen ≤ 4 →
    ∃ t, exec (.i2cDone b result data) s = .next t ∧ t.i2c b.val = none ∧ t.get F.GLB_I2C_STAT_BUSY 0 b.val = 0 ∧
      t.get F.GLB_I2C_STAT_RESULT 0 b.val = result.val ∧
      (result = 0 → bitsOf (t.rd R.GLB_I2C_RDATA 0 b.val) 0 (8 * x.rlen) = data.toNat % 2 ^ (8 * x.rlen)) ∧
      (result ≠ 0 → t.rd R.GLB_I2C_ERRCNT 0 b.val = Nat.min (s.rd R.GLB_I2C_ERRCNT 0 b.val + 1) 0xFFFFFFFF) ∧
      SameRegs s t [R.GLB_I2C_STAT.at 0 b.val, if result = 0 then R.GLB_I2C_RDATA.at 0 b.val else R.GLB_I2C_ERRCNT.at 0 b.val] ∧ SameMem s t) ∧
  (∀ (s : State) (n : Fin 32) (level : Bool),
    let l := level != s.flag F.GLB_GPIO_CFG_INV 0 n.val
    (bitAt (s.rd R.GLB_GPIO_IN) n.val = l → exec (.gpioInputEdge n level) s = .next s) ∧
    (bitAt (s.rd R.GLB_GPIO_IN) n.val ≠ l → ∃ t, exec (.gpioInputEdge n level) s = .next t ∧ bitAt (t.rd R.GLB_GPIO_IN) n.val = l ∧
      bitAt (t.rd R.GLB_GPIO_EDGE) n.val = true ∧ (∀ k, k ≠ n.val → bitAt (t.rd R.GLB_GPIO_IN) k = bitAt (s.rd R.GLB_GPIO_IN) k) ∧
      SameRegs s t [R.GLB_GPIO_IN.at 0 0, R.GLB_GPIO_EDGE.at 0 0] ∧ SameMem s t)) ∧
  (∀ (s : State) (c : Fin 7) (present : Bool), ∃ t, exec (.clockPresenceChange c present) s = .next t ∧ t.refPresent c.val = present ∧
    (∀ k : Fin 7, k ≠ c → t.refPresent k.val = s.refPresent k.val) ∧ SameRegs s t [R.GLB_CLK_STAT.at 0 0] ∧ SameMem s t) ∧
  (∀ (s : State) (holds : Bool), (s.get F.TRU_STAT_DBG_LEVEL = 0 → exec (.boundaryScanInstruction holds) s = .next s) ∧
    (s.get F.TRU_STAT_DBG_LEVEL ≠ 0 → ∃ t, exec (.boundaryScanInstruction holds) s = .next t ∧ t.board.bscan = holds ∧
      SameRegs s t [] ∧ SameMem s t))

/-- GO starts a verification, or is ignored while one runs; its end reports the result and extends the log; LOAD takes a right LMS record and SEAL
writes one within RESV; an attestation is asked for where the trust unit may sign, and its report is written with one index used (R541, R549, R550).
-/
def Obligations.TrustEngines : Prop :=
  (∀ (s : State) (who : Requester) (hi : RegWord), s.mayPut who (R.TRU_VFY_HI.at 0 0) hi = true → bitAt hi.toNat 21 = true →
    let l := [R.TRU_VFY_LO.at 0 0, R.TRU_VFY_HI.at 0 0, R.TRU_VFY_RES.at 0 0]
    (s.trust.vfy = none → ∃ t, exec (.imageVerify who hi) s = .next t ∧ t.get F.TRU_VFY_RES_RESULT = 4 ∧
      t.trust.vfy = some (s.held who (R.TRU_VFY_LO.at 0 0) % 2 ^ 32 + 2 ^ 32 * bitsOf hi.toNat 0 16, bitsOf hi.toNat 16 4, bitAt hi.toNat 20) ∧
      SameRegs s t l ∧ SameMem s t) ∧
    (s.trust.vfy.isSome = true → ∃ t, exec (.imageVerify who hi) s = .next t ∧ t.get F.TRU_VFY_RES_RESULT = 4 ∧ t.trust.vfy = s.trust.vfy ∧
      SameRegs s t l ∧ SameMem s t)) ∧
  (∀ (s : State) (a core : Nat) (record : Bool), s.trust.vfy = some (a, core, record) → s.region a ≠ .hole →
    ∃ t, exec .imageVerifyDone s = .next t ∧ t.trust.vfy = none ∧ t.get F.TRU_VFY_RES_RESULT = (s.verifyImage a).1 ∧
      t.get F.TRU_VFY_RES_ECDSA_FAIL = (s.verifyImage a).2.1.toNat ∧ t.get F.TRU_VFY_RES_LMS_FAIL = (s.verifyImage a).2.2.toNat ∧
      t.get F.TRU_VFY_RES_ROOT = imgRoot (s.rdBytes a 256) ∧
      ((s.verifyImage a).1 = 0 → record = true → s.trust.log.length < 64 →
        ∃ e, t.trust.log = s.trust.log ++ [e] ∧ e.hash = sha384 (s.rdBytes a 256) ∧ e.image = hdr (s.rdBytes a 256) 0x30 4 ∧
          t.get F.TRU_MEAS_CNT_CNT = s.trust.log.length + 1) ∧
      ((s.verifyImage a).1 ≠ 0 ∨ record = false → t.trust.log = s.trust.log) ∧
      ((s.verifyImage a).1 = 2 → bitAt (t.get F.TRU_ALERT_BITS) 3 = true) ∧
      SameRegs s t (R.TRU_VFY_RES.at 0 0 :: R.TRU_ALERT.at 0 0 :: R.TRU_MEAS_CNT.at 0 0 :: (upTo 12).map (R.TRU_ACC.at 0 ·)) ∧ SameMem s t) ∧
  (∀ (s : State) (a core : Nat) (record : Bool), s.trust.vfy = some (a, core, record) → s.region a = .hole →
    ∃ t, exec .imageVerifyDone s = .next t ∧ t.trust.vfy = none ∧ t.get F.TRU_VFY_RES_RESULT ∈ [1, 2, 3] ∧ t.trust.log = s.trust.log ∧
      SameRegs s t [R.TRU_VFY_RES.at 0 0, R.TRU_ALERT.at 0 0] ∧ SameMem s t) ∧
  (∀ (s : State) (who : Requester) (addrHi : BitVec 16), s.mayWrite who (R.TRU_LMS_HI.at 0 0) = true →
    let a := s.held who (R.TRU_LMS_LO.at 0 0) % 2 ^ 32 + 2 ^ 32 * addrHi.toNat
    let r := s.rdBytes a 56
    let ok := !s.poisoned a 56 && hmac384 lmsKey (r.take 8) == r.drop 8 && leAt r 4 4 == s.otpResv &&
      decide ((s.otpResv - 1) * 4096 ≤ leAt r 0 4) && decide (leAt r 0 4 ≤ s.otpResv * 4096)
    let q := s.get F.TRU_LMS_Q_Q + 64
    (s.region a = .hole → (∃ t, exec (.lmsLoad who addrHi) s = .next t ∧ t.get F.TRU_LMS_STAT_STATUS = 1 ∧ t.trust = s.trust ∧
        t.get F.TRU_LMS_Q_Q = s.get F.TRU_LMS_Q_Q ∧ SameBlocks s t [.trust] ∧ SameMem s t) ∧
      ∃ t, exec (.lmsSeal who addrHi) s = .next t ∧ t.trust = s.trust ∧ SameBlocks s t [.trust] ∧ SameMem s t) ∧
    (s.region a ≠ .hole →
    (ok = true → ∃ t, exec (.lmsLoad who addrHi) s = .next t ∧ t.get F.TRU_LMS_Q_Q = leAt r 0 4 ∧ t.get F.TRU_LMS_LIMIT_LIMIT = leAt r 0 4 ∧
      t.get F.TRU_LMS_STAT_STATUS = 0 ∧ t.trust.lmsSet = true ∧ SameBlocks s t [.trust] ∧ SameMem s t) ∧
    (ok = false → ∃ t, exec (.lmsLoad who addrHi) s = .next t ∧ t.get F.TRU_LMS_STAT_STATUS = 1 ∧ t.get F.TRU_LMS_Q_Q = s.get F.TRU_LMS_Q_Q ∧
      t.trust = s.trust ∧ SameBlocks s t [.trust] ∧ SameMem s t) ∧
    (q ≤ s.otpResv * 4096 → plainRange a 56 = true → ∃ t, exec (.lmsSeal who addrHi) s = .next t ∧ t.get F.TRU_LMS_STAT_STATUS = 0 ∧
      t.rdN a 4 = q ∧ t.rdN (a + 4) 4 = s.otpResv ∧ t.rdBytes (a + 8) 48 = hmac384 lmsKey (leBytes 4 q ++ leBytes 4 s.otpResv) ∧
      SameBlocks s t [.trust] ∧ SameMemBut s t [(a, 56)]) ∧
    (s.otpResv * 4096 < q → ∃ t, exec (.lmsSeal who addrHi) s = .next t ∧ t.get F.TRU_LMS_STAT_STATUS = 1 ∧ SameBlocks s t [.trust] ∧ SameMem s t))) ∧
  (∀ (s : State) (who : Requester) (hi : RegWord), s.mayPut who (R.TRU_ATT_HI.at 0 0) hi = true → bitAt hi.toNat 16 = true →
    let a := s.held who (R.TRU_ATT_LO.at 0 0) % 2 ^ 32 + 2 ^ 32 * bitsOf hi.toNat 0 16
    let l := [R.TRU_ATT_LO.at 0 0, R.TRU_ATT_HI.at 0 0, R.TRU_ATT_STAT.at 0 0]
    (s.trust.att.isSome = true → ∃ t, exec (.attestation who hi) s = .next t ∧ t.get F.TRU_ATT_STAT_STATUS = 1 ∧ t.trust = s.trust ∧
      SameRegs s t l ∧ SameMem s t) ∧
    (s.trust.att = none → a % 64 ≠ 0 → ∃ t, exec (.attestation who hi) s = .next t ∧ SameRegs s t l ∧ SameMem s t ∧
      (t.trust.att = none ∨ ∃ b, t.trust.att = some b ∧ a / 64 * 64 ≤ b ∧ b ≤ a)) ∧
    (s.trust.att = none → a % 64 = 0 → s.poisoned (a + 0x10) 32 = false →
      (s.signWhy = 0 → ∃ t, exec (.attestation who hi) s = .next t ∧ t.trust.att = some a ∧ t.get F.TRU_ATT_STAT_STATUS = 1 ∧
        SameRegs s t l ∧ SameMem s t) ∧
      (s.signWhy ≠ 0 → ∃ t, exec (.attestation who hi) s = .next t ∧ t.trust = s.trust ∧ t.get F.TRU_ATT_STAT_STATUS = s.signWhy ∧
        SameRegs s t l ∧ SameMem s t))) ∧
  (∀ (s : State) (a : Nat), s.trust.att = some a → plainRange a ((s.reportBody a).length + 5172) = true →
    ∃ t, exec .attestationDone s = .next t ∧ t.trust.att = none ∧ t.get F.TRU_ATT_STAT_STATUS = 0 ∧
      t.get F.TRU_LMS_Q_Q = (s.get F.TRU_LMS_Q_Q + 1) % 2 ^ 21 ∧ t.rdBytes a (s.reportBody a).length = s.reportBody a ∧
      SameRegs s t [R.TRU_LMS_Q.at 0 0, R.TRU_ATT_STAT.at 0 0] ∧ SameMemBut s t [(a, (s.reportBody a).length + 5172)])

/-- An OTP command is refused with the reason, or becomes the operation in progress; its end programs OTP, bits only going to 1, and raises the alert;
CHAL draws a challenge, UNLOCK grants the token's level or counts a failure, the eighth locking out, and RELOCK returns to level 0 (R537, R538, R551,
R552). -/
def Obligations.OtpAndDebug : Prop :=
  (∀ (s : State) (who : Requester), s.mayWrite who (R.TRU_OTP_CMD.at 0 0) = true →
    let a := s.rd64 R.TRU_OTP_ADDR_LO % 2 ^ 48
    let l := [R.TRU_OTP_CMD.at 0 0, R.TRU_OTP_STAT.at 0 0]
    (s.trust.otp.isSome = true → ∀ (slot : Fin 8) (i : Fin 64) (v : Fin 512),
      ∀ c ∈ [Instr.otpEnrol who slot, .otpRevoke who slot, .otpRbAdvance who i v, .otpLmsReserve who],
      ∃ t, exec c s = .next t ∧ t.get F.TRU_OTP_STAT_RESULT = 7 ∧ t.trust = s.trust ∧ SameRegs s t l ∧ SameMem s t) ∧
    (s.trust.otp = none →
      (∀ slot : Fin 8, s.region a ≠ .hole → slot.val = 0 →
        ∃ t, exec (.otpRevoke who slot) s = .next t ∧ t.get F.TRU_OTP_STAT_RESULT = 3 ∧ t.trust = s.trust ∧ SameRegs s t l ∧ SameMem s t) ∧
      (∀ slot : Fin 8, s.region a = .hole → ∀ c ∈ [Instr.otpEnrol who slot, .otpRevoke who slot],
        ∃ t, exec c s = .next t ∧ 1 ≤ t.get F.TRU_OTP_STAT_RESULT ∧ t.get F.TRU_OTP_STAT_RESULT ≤ 6 ∧ t.trust = s.trust ∧ SameRegs s t l ∧ SameMem s t) ∧
      (s.otpWhy ≠ 0 → ∀ (i : Fin 64) (v : Fin 512) (j k : Fin 8), (s.region a ≠ .hole ∧ k.val ≠ 0 →
          ∀ c ∈ [Instr.otpEnrol who j, .otpRevoke who k], ∃ t, exec c s = .next t ∧ t.get F.TRU_OTP_STAT_RESULT = s.otpWhy ∧ t.trust = s.trust ∧
            t.get F.GLB_WR_GATE_REFUSALS = Nat.min (s.get F.GLB_WR_GATE_REFUSALS + 1) 65535 ∧ SameRegs s t (R.GLB_WR_GATE.at 0 0 :: l) ∧ SameMem s t) ∧
        ∀ c ∈ [Instr.otpRbAdvance who i v, .otpLmsReserve who],
        ∃ t, exec c s = .next t ∧ t.get F.TRU_OTP_STAT_RESULT = s.otpWhy ∧
          t.trust = { s.trust with resvRefused := s.trust.resvRefused || c == .otpLmsReserve who } ∧
          t.get F.GLB_WR_GATE_REFUSALS = Nat.min (s.get F.GLB_WR_GATE_REFUSALS + 1) 65535 ∧ SameRegs s t (R.GLB_WR_GATE.at 0 0 :: l) ∧ SameMem s t) ∧
      (s.otpWhy = 0 →
        (∀ slot : Fin 8, s.region a ≠ .hole →
          (s.otpProg slot.val = true → ∃ t, exec (.otpEnrol who slot) s = .next t ∧ t.get F.TRU_OTP_STAT_RESULT = 5 ∧ t.trust = s.trust ∧
            SameRegs s t l ∧ SameMem s t) ∧
          (s.otpProg slot.val = false → s.otpRecordOk a 1 slot.val = true → ∃ t, exec (.otpEnrol who slot) s = .next t ∧
            t.trust.otp = some (.enrol slot.val (s.rdBytes (a + 0x20) 48)) ∧ t.get F.TRU_OTP_STAT_RESULT = 7 ∧ SameRegs s t l ∧ SameMem s t) ∧
          (s.otpProg slot.val = false → s.otpRecordOk a 1 slot.val = false → ∃ t, exec (.otpEnrol who slot) s = .next t ∧ t.trust = s.trust ∧
            t.get F.TRU_OTP_STAT_RESULT = 4 ∧ SameRegs s t l ∧ SameMem s t) ∧
          (slot.val ≠ 0 → s.otpRecordOk a 2 slot.val = true → ∃ t, exec (.otpRevoke who slot) s = .next t ∧ t.trust.otp = some (.revoke slot.val) ∧
            t.get F.TRU_OTP_STAT_RESULT = 7 ∧ SameRegs s t l ∧ SameMem s t) ∧
          (slot.val ≠ 0 → s.otpRecordOk a 2 slot.val = false → ∃ t, exec (.otpRevoke who slot) s = .next t ∧ t.trust = s.trust ∧
            t.get F.TRU_OTP_STAT_RESULT = 4 ∧ SameRegs s t l ∧ SameMem s t)) ∧
        (∀ (i : Fin 64) (v : Fin 512),
          (s.rbCounter i.val ≤ v.val → v.val ≤ 256 → ∃ t, exec (.otpRbAdvance who i v) s = .next t ∧ t.trust.otp = some (.advance i.val v.val) ∧
            t.get F.TRU_OTP_STAT_RESULT = 7 ∧ SameRegs s t l ∧ SameMem s t) ∧
          (v.val < s.rbCounter i.val ∨ 256 < v.val → ∃ t, exec (.otpRbAdvance who i v) s = .next t ∧ t.trust = s.trust ∧
            t.get F.TRU_OTP_STAT_RESULT = 6 ∧ SameRegs s t l ∧ SameMem s t)) ∧
        (s.otpResv < 256 → ∃ t, exec (.otpLmsReserve who) s = .next t ∧ t.trust.otp = some .reserve ∧ t.get F.TRU_OTP_STAT_RESULT = 7 ∧
          SameRegs s t l ∧ SameMem s t)))) ∧
  (∀ (s : State) (w : OtpWork), s.trust.otp = some w →
    (match w with
      | .enrol k h => k ≤ 4 ∧ h.length ≤ 48
      | .revoke k => k ≤ 4
      | .advance i _ => i < 64
      | .reserve => True) →
    ∃ t, exec .otpOpDone s = .next t ∧ t.trust.otp = none ∧ t.get F.TRU_OTP_STAT_RESULT = 0 ∧ bitAt (t.get F.TRU_ALERT_BITS) 4 = true ∧
      SameBlocks s t [.trust] ∧ SameMemBut s t [(otpAt 0, 0x10000)] ∧ (∀ o < 0x10000, s.rdB (otpAt o) &&& t.rdB (otpAt o) = s.rdB (otpAt o)) ∧
      match w with
      | .enrol k _ => t.otpProg k = true
      | .revoke k => t.otpRevoked k = true
      | .advance i v => ∀ j < 32, t.rdB (otpAt (0x200 + 32 * i + j)) =
          s.rdB (otpAt (0x200 + 32 * i + j)) ||| BitVec.ofNat 8 (2 ^ Nat.min 8 (v - 8 * j) - 1)
      | .reserve => t.trust.lmsSet = true ∧ (s.trust.lmsSet = false → t.get F.TRU_LMS_Q_Q = 4096 * s.otpResv)) ∧
  (∀ (s : State) (who : Requester), s.mayWrite who (R.TRU_DBG_HI.at 0 0) = true →
    let l := [R.TRU_DBG_LO.at 0 0, R.TRU_DBG_HI.at 0 0, R.TRU_DBG_STAT.at 0 0]
    (∃ t, exec (.debugChal who) s = .next t ∧ t.trust.chal = true ∧ t.get F.TRU_DBG_STAT_STATUS = 0 ∧
      SameRegs s t (l ++ (upTo 8).map (R.TRU_DBG_CHAL.at 0 ·)) ∧ SameMem s t) ∧
    (∃ t, exec (.debugRelock who) s = .next t ∧ t.get F.TRU_STAT_DBG_LEVEL = 0 ∧ t.get F.TRU_DBG_STAT_STATUS = 0 ∧ t.board.bscan = false ∧
      SameRegs s t (R.TRU_STAT.at 0 0 :: l) ∧ SameMem s t) ∧
    ∀ addrHi : BitVec 16,
      let a := s.held who (R.TRU_DBG_LO.at 0 0) % 2 ^ 32 + 2 ^ 32 * addrHi.toNat
      (s.flag F.TRU_STAT_LOCKOUT = true → ∃ t, exec (.debugUnlock who addrHi) s = .next t ∧ t.get F.TRU_DBG_STAT_STATUS = 4 ∧
        t.get F.TRU_STAT_DBG_LEVEL = s.get F.TRU_STAT_DBG_LEVEL ∧ t.trust = s.trust ∧ SameRegs s t l ∧ SameMem s t) ∧
      (s.flag F.TRU_STAT_LOCKOUT = false →
        (∀ lv, s.region a ≠ .hole → s.tokenCheck a = .inr lv → ∃ t, exec (.debugUnlock who addrHi) s = .next t ∧ t.get F.TRU_STAT_DBG_LEVEL = lv ∧
          t.get F.TRU_DBG_STAT_STATUS = 0 ∧ bitAt (t.get F.TRU_ALERT_BITS) 0 = true ∧ t.trust.chal = false ∧
          SameRegs s t (R.TRU_STAT.at 0 0 :: R.TRU_ALERT.at 0 0 :: l) ∧ SameMem s t) ∧
        (∀ why, (if s.region a = .hole then .inl 1 else s.tokenCheck a) = .inl why → ∃ t, exec (.debugUnlock who addrHi) s = .next t ∧ t.get F.TRU_DBG_STAT_STATUS = why ∧
          t.get F.TRU_STAT_DBG_LEVEL = s.get F.TRU_STAT_DBG_LEVEL ∧ t.get F.TRU_STAT_FAILS = Nat.min (s.get F.TRU_STAT_FAILS + 1) 15 ∧
          bitAt (t.get F.TRU_ALERT_BITS) 1 = true ∧ (7 ≤ s.get F.TRU_STAT_FAILS → t.get F.TRU_STAT_LOCKOUT = 1) ∧ t.trust.chal = false ∧
          SameRegs s t (R.TRU_STAT.at 0 0 :: R.TRU_ALERT.at 0 0 :: l) ∧ SameMem s t)))

/-- A command with GO is answered BUSY while one runs, refused with its reason and counted, or carried out: READ copies flash to memory with its
length and CRC, PROGRAM and ERASE start the operation; its end writes the flash and reports OK, FLASH_ERR or VERIFY_FAIL; the window reads the flash,
and suspends an operation of its chip select (R528, R542, R547, R556, R557). -/
def Obligations.LedgerUnit : Prop :=
  (∀ (s : State) (who : Requester) (cs : Fin 2), s.mayWrite who (R.LDG_CMD.at 0 0) = true → s.flag F.LDG_CTL_EN = true →
    let a := s.get F.LDG_FADDR_ADDR
    let m := s.rd64 R.LDG_MADDR_LO % 2 ^ 48
    ∀ p ∈ [(Instr.ledgerRead who cs, 0, s.rd R.LDG_LEN, 1), (.ledgerProgram who cs, 1, s.rd R.LDG_LEN, 256), (.ledgerErase4k who cs, 2, 4096, 4096),
      (.ledgerErase64k who cs, 3, 65536, 65536)],
    let op := p.2.1
    let n := p.2.2.1
    let unit := p.2.2.2
    (s.get F.LDG_STAT_STATE ≠ ldgIdle → ∃ t, exec p.1 s = .next t ∧ t.get F.LDG_STAT_RESULT = 8 ∧ t.ledger = s.ledger ∧
      SameRegs s t [R.LDG_CMD.at 0 0, R.LDG_STAT.at 0 0] ∧ SameMem s t) ∧
    (s.get F.LDG_STAT_STATE = ldgIdle →
      ((a % unit ≠ 0 ∨ n % unit ≠ 0 ∨ (op ≤ 1 ∧ m % 64 ≠ 0) ∨ s.ledger.flashBytes < a + n) →
        ∃ t, exec p.1 s = .next t ∧ t.get F.LDG_STAT_RESULT = 5 ∧ t.ledger.op = none ∧
          t.rd R.LDG_REFUSED = Nat.min (s.rd R.LDG_REFUSED + 1) 0xFFFFFFFF ∧ SameBlocks s t [.ledger] ∧ SameMem s t) ∧
      (a % unit = 0 → n % unit = 0 → (op ≤ 1 → m % 64 = 0) → a + n ≤ s.ledger.flashBytes →
        (0 < op → s.ldgProtected cs.val a n = true →
          ∃ t, exec p.1 s = .next t ∧ t.get F.LDG_STAT_RESULT = 4 ∧ t.ledger.op = none ∧
            t.rd R.LDG_REFUSED = Nat.min (s.rd R.LDG_REFUSED + 1) 0xFFFFFFFF ∧ SameBlocks s t [.ledger] ∧ SameMem s t) ∧
        (op = 0 → plainRange m n = true → (n ≠ 0 → s.unitRange m n = false) →
          ∃ t, exec p.1 s = .next t ∧ t.get F.LDG_STAT_STATE = ldgIdle ∧ SameBlocks s t [.ledger] ∧ SameMemBut s t [(m, n)]) ∧
        (op = 0 → (n ≠ 0 → s.unitRange m n = true) → plainRange m n = true →
          ∃ t, exec p.1 s = .next t ∧ t.get F.LDG_STAT_RESULT = 0 ∧ t.get F.LDG_STAT_STATE = ldgIdle ∧ t.rd R.LDG_DONE = n ∧
            t.rd R.LDG_CRC = crc32c (s.rdBytes (flashAddr cs.val a) n) % 2 ^ 32 ∧ t.rdBytes m n = s.rdBytes (flashAddr cs.val a) n ∧
            SameBlocks s t [.ledger] ∧ SameMemBut s t [(m, n)]) ∧
        (0 < op → n ≠ 0 → s.ldgProtected cs.val a n = false →
          (s.ledgerWhy (inTrip a (if op = 1 then 256 else n)) = 0 →
            ∃ t o, exec p.1 s = .next t ∧ t.get F.LDG_STAT_STATE = ldgBusy ∧ t.ledger.op = some o ∧ o.op = op ∧ o.cs = cs.val ∧ o.faddr = a ∧
              o.len = n ∧ o.done = 0 ∧ (op = 1 → s.unitRange m 256 = true → o.page = s.rdBytes m 256) ∧ SameBlocks s t [.ledger, .host] ∧ SameMem s t) ∧
          (s.ledgerWhy (inTrip a (if op = 1 then 256 else n)) ≠ 0 →
            ∃ t, exec p.1 s = .next t ∧ t.get F.LDG_STAT_RESULT = s.ledgerWhy (inTrip a (if op = 1 then 256 else n)) ∧ t.ledger.op = none ∧
              t.rd R.LDG_REFUSED = Nat.min (s.rd R.LDG_REFUSED + 1) 0xFFFFFFFF ∧
              t.get F.GLB_WR_GATE_REFUSALS = Nat.min (s.get F.GLB_WR_GATE_REFUSALS + 1) 65535 ∧
              SameBlocks s t [.ledger, .global, .kiln] ∧ SameMem s t))))) ∧
  (∀ (s : State) (o : LdgOp), s.ledger.op = some o →
    let a := o.faddr + o.done
    let f := flashAddr o.cs a
    let n := if o.op = 1 then 256 else o.len
    f + n ≤ 0x40000000 →
    (∃ t, exec (.ledgerOpDone true) s = .next t ∧ t.ledger.op = none ∧ t.get F.LDG_STAT_RESULT = 6 ∧ t.get F.LDG_STAT_STATE = ldgIdle ∧
      SameBlocks s t [.ledger] ∧ SameMemBut s t [(f, n)]) ∧
    (o.op ≠ 1 → ∃ t, exec (.ledgerOpDone false) s = .next t ∧ t.ledger.op = none ∧ t.get F.LDG_STAT_RESULT = 0 ∧
      t.rd R.LDG_ERASES = Nat.min (s.rd R.LDG_ERASES + 1) 0xFFFFFFFF ∧ (∀ i < o.len, t.rdB (f + i) = 0xFF) ∧
      SameBlocks s t [.ledger] ∧ SameMemBut s t [(f, n)]) ∧
    (o.op = 1 → o.page.length = 256 →
      ((∀ i < 256, s.rdB (f + i) &&& o.page.getD i 0 = o.page.getD i 0) → o.len ≤ o.done + 256 →
        ∃ t, exec (.ledgerOpDone false) s = .next t ∧ t.ledger.op = none ∧ t.get F.LDG_STAT_RESULT = 0 ∧ t.rdBytes f 256 = o.page ∧
          t.rd R.LDG_PROGS = Nat.min (s.rd R.LDG_PROGS + 1) 0xFFFFFFFF ∧ SameBlocks s t [.ledger, .kiln] ∧ SameMemBut s t [(f, 256)]) ∧
      ((∃ i < 256, s.rdB (f + i) &&& o.page.getD i 0 ≠ o.page.getD i 0) →
        ∃ t, exec (.ledgerOpDone false) s = .next t ∧ t.ledger.op = none ∧ t.get F.LDG_STAT_RESULT = 7 ∧
          SameBlocks s t [.ledger] ∧ SameMemBut s t [(f, 256)]) ∧
      ((∀ i < 256, s.rdB (f + i) &&& o.page.getD i 0 = o.page.getD i 0) → o.done + 256 < o.len → s.ledgerWhy (inTrip (a + 256) 256) = 0 →
        ∃ t p, exec (.ledgerOpDone false) s = .next t ∧ t.ledger.op = some p ∧ p.done = o.done + 256 ∧ p.faddr = o.faddr ∧
          t.get F.LDG_STAT_STATE = ldgBusy ∧ t.rdBytes f 256 = o.page ∧ SameBlocks s t [.ledger, .host] ∧ SameMemBut s t [(f, 256)]))) ∧
  (∀ (s : State) (addr : Nat), s.region addr = .ledger →
    ∃ t, exec (.ledgerWindowRead addr) s = .next t ∧ t.readData = s.rd32 (addr / 4 * 4) ∧ SameMem s t ∧
      (s.ledger.op = none → SameRegs s t []) ∧
      (∀ o, s.ledger.op = some o → if o.cs = windowCs addr then
          t.get F.LDG_STAT_STATE = ldgSuspended ∧ t.ledger.suspended = some s.upNs ∧ SameRegs s t [R.LDG_STAT.at 0 0]
        else SameRegs s t []))

/-- A configuration is read back at once and counts from the next epoch; a wrap leaves 0 and sets the PERF_OVF bit; SNAP starts a snapshot, joins the
one whose epoch is to come, or is missed while a dump runs, an epoch that is due coming first; the epoch takes every shadow and applies the waiting
configurations; the dump is written whole; a shadow read returns the counter's low word (R564, R566–R570). -/
def Obligations.Counters : Prop :=
  (∀ (s : State) (who : Requester) (index : Fin 176) (v : RegWord), s.mayPut who (pmcCfgAddr index.val) v = true →
    ∃ t, exec (.pmcConfigWrite who index v) s = .next t ∧ (∀ f ∈ fieldsAt (pmcCfgAddr index.val), f.ty = .rw →
        bitsOf (t.rdReg (pmcCfgAddr index.val)).toNat f.lsb f.width = bitsOf v.toNat f.lsb f.width) ∧
      t.get F.PERF_STAT_CFG_PENDING = 1 ∧ index.val ∈ t.perf.waiting ∧ t.perf.cfg = s.perf.cfg ∧
      SameRegs s t [pmcCfgAddr index.val, R.PERF_STAT.at 0 0] ∧ SameMem s t) ∧
  (∀ (s : State) (index : Fin 176), let ev := bitsOf (s.pmcCfg index.val) 0 8
    pmcCounts (s.pmcCfg index.val) ev = true → pmcEvent index.val ev = true →
    ∃ t, exec (.counterWrap index) s = .next t ∧ (index.val ≠ 5 ∨ ev ≠ 0x13 → t.ctr index.val = 0) ∧
      bitAt (t.rd R.PERF_OVF 0 (index.val / 32)) (index.val % 32) = true ∧ SameRegs s t [] ∧ SameMem s t) ∧
  (∀ (s : State) (who : Requester), s.mayWrite who (R.PERF_CTL.at 0 0) = true →
    let busy := s.flag F.PERF_STAT_DUMP_BUSY && s.perf.epochAt != s.upNs
    ((∀ at' c r, s.perf.trigger = some (at', c, r) → s.upNs < at' + 32) →
      (busy = true → ∃ t, exec (.snapTrigger who) s = .next t ∧ t.rd R.PERF_SNAP_MISS = Nat.min (s.rd R.PERF_SNAP_MISS + 1) 0xFFFFFFFF ∧
        t.perf = s.perf ∧ SameRegs s t [R.PERF_SNAP_MISS.at 0 0] ∧ SameMem s t) ∧
      (busy = false → s.perf.trigger = none → ∃ t, exec (.snapTrigger who) s = .next t ∧
        t.perf.trigger = some (s.upNs, 0, who.code) ∧ t.get F.PERF_STAT_SNAP_BUSY = 1 ∧ SameRegs s t [R.PERF_STAT.at 0 0] ∧ SameMem s t) ∧
      (busy = false → s.perf.trigger.isSome = true → exec (.snapTrigger who) s = .next s)) ∧
    (∀ at' c r, s.perf.trigger = some (at', c, r) → at' + 32 ≤ s.upNs → ∃ t, exec (.snapTrigger who) s = .next t ∧
      t.perf.trigger = some (s.upNs, 0, who.code) ∧ t.rd R.PERF_EPOCH = (s.rd R.PERF_EPOCH + 1) % 2 ^ 32 ∧ t.perf.waiting = [] ∧
      t.get F.PERF_STAT_SNAP_BUSY = 1 ∧ SameBlocks s t [.perf] ∧ SameMem s t)) ∧
  (∀ (s : State) (at' cause req : Nat), s.perf.trigger = some (at', cause, req) →
    ∃ t, exec .snapEpoch s = .next t ∧ t.perf.trigger = none ∧ at' + 32 ≤ t.upNs ∧ t.rd R.PERF_EPOCH = (s.rd R.PERF_EPOCH + 1) % 2 ^ 32 ∧
      t.rd64 R.PERF_SNAP_TIME_LO = t.now % 2 ^ 64 ∧ t.rd64 R.PERF_SNAP_STROKE_LO = s.rd64 R.TIME_STK_NUM_LO ∧
      t.get F.PERF_STAT_SNAP_BUSY = 0 ∧ t.get F.PERF_STAT_CFG_PENDING = 0 ∧ t.perf.waiting = [] ∧
      (∀ i < 240, KMap.get (fun _ => 0) t.perf.shadow i = (s.advanceUp (at' + 32)).cyclesPass.shadowOf i) ∧
      (∀ i ∈ s.perf.waiting, t.pmcCfg i = (s.rdReg (pmcCfgAddr i)).toNat) ∧
      (s.flag F.PERF_CTL_DUMP_EN = true → t.get F.PERF_STAT_DUMP_BUSY = 1 ∧ (s.flag F.PERF_STAT_ZERO_PENDING = true → ∀ i < 240, t.ctr i = 0)) ∧
      SameBlocks s t [.perf] ∧ SameMem s t) ∧
  (∀ s : State, s.flag F.PERF_STAT_DUMP_BUSY = true →
    let a := s.perf.dumpBase + 2048 * (s.rd R.PERF_EPOCH % s.perf.dumpSlots)
    s.region a ≠ .hole → plainRange a 2048 = true →
    ∃ t, exec .snapDumpDone s = .next t ∧ t.get F.PERF_STAT_DUMP_BUSY = 0 ∧ t.rdN a 4 = 0xC0A70001 ∧ t.rdN (a + 4) 4 = s.rd R.PERF_EPOCH ∧
      t.rdBytes (a + 8) 1976 = s.dumpBytes ∧ SameBlocks s t [.perf] ∧ SameMemBut s t [(a, 1984)]) ∧
  (∀ s : State, s.flag F.PERF_STAT_DUMP_BUSY = true → s.region (s.perf.dumpBase + 2048 * (s.rd R.PERF_EPOCH % s.perf.dumpSlots)) = .hole →
    ∃ t, exec .snapDumpDone s = .next t ∧ t.get F.PERF_STAT_DUMP_BUSY = 0 ∧ SameBlocks s t [.perf] ∧ SameMem s t) ∧
  (∀ (s : State) (who : Requester), s.mayRead who (R.PERF_SH_LO.at 0 0) = true →
    ∃ t, exec (.shadowRead who) s = .next t ∧
      t.readData = (if s.get F.PERF_SH_SEL_SEL < 240 then KMap.get (fun _ => 0) s.perf.shadow (s.get F.PERF_SH_SEL_SEL) % 2 ^ 32 else 0) ∧
      t.rd R.PERF_SH_EPOCH = s.rd R.PERF_EPOCH ∧ SameRegs s t [R.PERF_SH_EPOCH.at 0 0] ∧ SameMem s t)

/-- Each instruction of the integer group, its immediate forms and the multiply group writes gd with the value of R350, R351, R355 or R356, g0 staying
0; the core goes on at the next instruction and nothing else of it changes. -/
def Obligations.IntegerResults : Prop :=
  ∀ (s : State) (c : Fin 16) (gu : Guard) (d a b : Fin 32) (imm : BitVec 12),
    let x := s.g c.val a.val
    let y := s.g c.val b.val
    let z := s.g c.val d.val
    let m := imm.signExtend 64
    let sh := y.toNat % 64
    let q := ((x.setWidth 32).toInt * (y.setWidth 32).toInt + 32768) / 65536
    ∀ i v, (i, v) ∈ ([
      (.add c gu d a b, x + y), (.sub c gu d a b, x - y), (.and c gu d a b, x &&& y), (.or c gu d a b, x ||| y), (.xor c gu d a b, x ^^^ y),
      (.sll c gu d a b, x <<< sh), (.srl c gu d a b, BitVec.ofNat 64 (x.toNat / 2 ^ sh)), (.sra c gu d a b, BitVec.ofInt 64 (x.toInt / 2 ^ sh)),
      (.min c gu d a b, if x.toInt ≤ y.toInt then x else y), (.max c gu d a b, if x.toInt ≤ y.toInt then y else x),
      (.clz c gu d a b, BitVec.ofNat 64 (if x = 0 then 64 else 63 - x.toNat.log2)),
      (.popc c gu d a b, BitVec.ofNat 64 ((List.range 64).filter (fun k => x.getLsbD k)).length),
      (.addi c gu d a imm, x + m), (.andi c gu d a imm, x &&& m), (.ori c gu d a imm, x ||| m), (.xori c gu d a imm, x ^^^ m),
      (.slli c gu d a imm, x <<< imm.toNat), (.srli c gu d a imm, BitVec.ofNat 64 (x.toNat / 2 ^ imm.toNat)),
      (.srai c gu d a imm, BitVec.ofInt 64 (x.toInt / 2 ^ imm.toNat)),
      (.mul c gu d a b, BitVec.ofInt 64 (x.toInt * y.toInt)), (.mulh c gu d a b, BitVec.ofInt 64 (x.toInt * y.toInt / 2 ^ 64)),
      (.mulq c gu d a b, BitVec.ofInt 64 (max (-2147483648) (min 2147483647 q))), (.mac c gu d a b, z + x * y),
      (.sat c gu d a b, BitVec.ofInt 64 (max (-(2 ^ b.val)) (min (2 ^ b.val - 1) x.toInt)))] : List (Instr × Word)) →
    s.runs i = true →
    ∃ t, exec i s = .next t ∧ t.g c.val d.val = (if d.val = 0 then 0 else v) ∧ Ran s t c.val ((s.core c.val).pc + 4) [d.val] [] ∧
      SameRegs s t [R.COX_STAT.at c.val 0] ∧ SameMem s t

/-- LI, LSH and ADDPC write gd as R352 says, and build any signed 34-bit value, any 48-bit address and any 64-bit value in the number of instructions
it names; EXT, EXTU and INS write gd as R357 says, and POS + LEN above 64 raises ILLEGAL. -/
def Obligations.ConstantsAndBitFields : Prop :=
  (∀ (s : State) (c : Fin 16) (gu : Guard) (d a : Fin 32) (imm : BitVec 17) (pos len : Fin 64),
    let x := s.g c.val a.val
    let z := s.g c.val d.val
    let mask := BitVec.ofNat 64 (2 ^ (len.val + 1) - 1)
    (∀ i v, (i, v) ∈ ([
      (.li c gu d imm, BitVec.ofInt 64 imm.toInt), (.lsh c gu d imm, (z <<< 17) ||| imm.zeroExtend 64),
      (.addpc c gu d imm, BitVec.ofInt 64 ((s.core c.val).pc.toNat + 4 * imm.toInt)),
      (.ext c gu d a pos len, (x.extractLsb' pos.val (len.val + 1)).signExtend 64),
      (.extu c gu d a pos len, (x.extractLsb' pos.val (len.val + 1)).zeroExtend 64),
      (.ins c gu d a pos len, (z &&& ~~~(mask <<< pos.val)) ||| ((x &&& mask) <<< pos.val))] : List (Instr × Word)) →
      s.runs i = true →
      ∃ t, exec i s = .next t ∧ t.g c.val d.val = (if d.val = 0 then 0 else v) ∧ Ran s t c.val ((s.core c.val).pc + 4) [d.val] [] ∧
        SameRegs s t [R.COX_STAT.at c.val 0] ∧ SameMem s t) ∧
    (∀ i ∈ ([.ext c gu d a pos len, .extu c gu d a pos len, .ins c gu d a pos len] : List Instr), ∀ n w, encodeGrasin i = some (n, w) →
      64 < pos.val + len.val + 1 → s.fetches c.val = true →
      Raises (exec i s) s c.val causeIllegal (s.core c.val).pc (BitVec.ofNat 64 w))) ∧
  (∀ x : Int, -(2 ^ 33) ≤ x → x < 2 ^ 33 → ∃ a b : BitVec 17, BitVec.ofInt 64 x = (a.signExtend 64 <<< 17) ||| b.zeroExtend 64) ∧
  (∀ x : Word, x.toNat < 2 ^ 48 → ∃ a b e : BitVec 17, x = (((a.signExtend 64 <<< 17) ||| b.zeroExtend 64) <<< 17) ||| e.zeroExtend 64) ∧
  (∀ x : Word, ∃ a b e f : BitVec 17,
    x = (((((a.signExtend 64 <<< 17) ||| b.zeroExtend 64) <<< 17) ||| e.zeroExtend 64) <<< 17) ||| f.zeroExtend 64)

/-- A compare or a predicate operation writes pd, p0 staying 1, with the value of R353 or R354; PGET writes gd with the predicates, and PSET the
predicates from ga; nothing else of the core changes. -/
def Obligations.ComparesAndPredicates : Prop :=
  ∀ (s : State) (c : Fin 16) (gu : Guard) (d a b : Fin 32) (imm : BitVec 12),
    let x := s.g c.val a.val
    let y := s.g c.val b.val
    let m := imm.signExtend 64
    let pa := s.p c.val a.val
    let pb := s.p c.val b.val
    (∀ i v, (i, v) ∈ ([
      (.cmpEq c gu d a b, decide (x = y)), (.cmpLt c gu d a b, decide (x.toInt < y.toInt)), (.cmpLtu c gu d a b, decide (x.toNat < y.toNat)),
      (.tst c gu d a b, decide (x &&& y ≠ 0)), (.pand c gu d a b, pa && pb), (.por c gu d a b, pa || pb), (.pxor c gu d a b, xor pa pb),
      (.cmpiEq c gu d a imm, decide (x = m)), (.cmpiLt c gu d a imm, decide (x.toInt < m.toInt)),
      (.cmpiLtu c gu d a imm, decide (x.toNat < m.toNat))] : List (Instr × Bool)) →
      s.runs i = true →
      ∃ t, exec i s = .next t ∧ t.p c.val d.val = (if d.val = 0 then true else v) ∧ Ran s t c.val ((s.core c.val).pc + 4) [] [d.val] ∧
        SameRegs s t [R.COX_STAT.at c.val 0] ∧ SameMem s t) ∧
    (s.runs (.pget c gu d a b) = true →
      ∃ t, exec (.pget c gu d a b) s = .next t ∧
        (∀ k < 64, (t.g c.val d.val).getLsbD k = (decide (d.val ≠ 0) && decide (k < 8) && s.p c.val k)) ∧
        Ran s t c.val ((s.core c.val).pc + 4) [d.val] [] ∧ SameRegs s t [R.COX_STAT.at c.val 0] ∧ SameMem s t) ∧
    (s.runs (.pset c gu d a b) = true →
      ∃ t, exec (.pset c gu d a b) s = .next t ∧ (∀ k, 1 ≤ k → k < 8 → t.p c.val k = x.getLsbD k) ∧
        Ran s t c.val ((s.core c.val).pc + 4) [] [1, 2, 3, 4, 5, 6, 7] ∧ SameRegs s t [R.COX_STAT.at c.val 0] ∧ SameMem s t)

/-- A load that its core runs raises ALIGN, ACCESS or WATCH in that order where R327, R358, R359 and R409 say so; otherwise gd takes the bytes at the
effective address, from the line in the data cache, from one that the core has written back, or from memory, sign-extended or zero-extended, and
memory keeps its bytes unless a line must be filled; a poisoned read is counted at the channel, and at least once for the yard; an LW or LWU reads a
register; another size of access to the register window returns a free value; LOAD_RETURN drops the oldest outstanding load. -/
def Obligations.Loads : Prop :=
  (∀ (s : State) (c : Fin 16) (gu : Guard) (d a : Fin 32) (imm : BitVec 12),
    let ea := s.g c.val a.val + imm.signExtend 64
    let p := coreAddr c.val ea.toNat
    let pc := (s.core c.val).pc
    ∀ i k sg, (i, k, sg) ∈ ([(.lb c gu d a imm, 1, true), (.lbu c gu d a imm, 1, false), (.lh c gu d a imm, 2, true),
        (.lhu c gu d a imm, 2, false), (.lw c gu d a imm, 4, true), (.lwu c gu d a imm, 4, false), (.ld c gu d a imm, 8, false)] :
        List (Instr × Nat × Bool)) → s.runs i = true →
      let inLine := s.cacheable c.val p && s.lineIn c.val (p / 64)
      let v := if inLine then leAt (s.lineBytes c.val (p / 64)) (p % 64) k
        else if s.lineHeld c.val (p / 64) then leAt (s.ownLine c.val (p / 64)) (p % 64) k else s.rdN p k
      let allowed := s.mayAccess c.val F.COX_WIN_CFG_R ea.toNat p
      (ea.toNat % k ≠ 0 → Raises (exec i s) s c.val causeAlign pc ea) ∧
      (ea.toNat % k = 0 → s.region p ≠ .regs → allowed = false → Raises (exec i s) s c.val causeAccess pc ea) ∧
      (ea.toNat % k = 0 → s.region p ≠ .regs → allowed = true → s.loadPoison c.val p k = true → PoisonRaises (exec i s) s c.val p pc ea) ∧
      (ea.toNat % k = 0 → s.region p ≠ .regs → allowed = true → s.loadPoison c.val p k = false →
        (s.core c.val).watched 60 ea.toNat = true → Raises (exec i s) s c.val causeWatch pc ea) ∧
      (ea.toNat % k = 0 → s.region p ≠ .regs → allowed = true → s.loadPoison c.val p k = false →
        (s.core c.val).watched 60 ea.toNat = false →
        ∃ t, exec i s = .next t ∧
          t.g c.val d.val = (if d.val = 0 then 0 else if sg then BitVec.ofInt 64 (sgn (8 * k) v) else BitVec.ofNat 64 v) ∧
          Ran s t c.val (pc + 4) [d.val] [] ∧
          (inLine = true ∨ s.cacheable c.val p = false → SameBlocks s t [.cox, .dramc] ∧ SameMem s t ∧ (t.core c.val).dcache = (s.core c.val).dcache)) ∧
      (ea.toNat % k = 0 → s.region p = .regs → s.mayReg c (p / 4 * 4) false = false → Raises (exec i s) s c.val causeAccess pc ea) ∧
      (ea.toNat % k = 0 → s.region p = .regs → s.mayReg c (p / 4 * 4) false = true → k ≠ 4 → (s.core c.val).watched 60 p = false →
        ∃ t, exec i s = .next t ∧ Ran s t c.val (pc + 4) [d.val] [] ∧ SameRegs s t [R.COX_STAT.at c.val 0] ∧ SameMem s t) ∧
      (ea.toNat % k = 0 → s.region p = .regs → s.mayReg c (p / 4 * 4) false = true → (s.core c.val).watched 60 p = true →
        Raises (exec i s) s c.val causeWatch pc ea) ∧
      (ea.toNat % k = 0 → s.region p = .regs → s.mayReg c (p / 4 * 4) false = true → k = 4 → (s.core c.val).watched 60 p = false →
        ∃ t, exec i s = .next t ∧ Ran s t c.val (pc + 4) [d.val] [] ∧ SameMem s t ∧
          t.g c.val d.val = (if d.val = 0 then 0 else if sg then BitVec.ofInt 64 (sgn 32 t.readData) else BitVec.ofNat 64 (t.readData % 2 ^ 32)))) ∧
  (∀ (s : State) (c : Fin 16),
    ((s.core c.val).loads = [] → exec (.loadReturn c) s = .next s) ∧
    (∀ d r l, (s.core c.val).loads = (d, r) :: l →
      ∃ t, exec (.loadReturn c) s = .next t ∧ (t.core c.val).loads = l ∧
        ((s.core c.val).readyAt d = r → (t.core c.val).readyAt d ≤ (t.core c.val).cyc) ∧
        Ran s t c.val (s.core c.val).pc [] [] ∧ SameRegs s t [] ∧ SameMem s t))

/-- A store that its core runs raises ALIGN, ACCESS or WATCH where R327, R358 and R359 say so; otherwise the low bytes of gs go to memory, or to the
line of a cacheable address in the data cache, which memory does not see; a store to a register writes its RW fields, and one that is not of a word
disturbs no more than the block; a store of a ring's CI moves it, one past PI disturbing no more than the ring; one that changes a structure in use
completes, memory and more then unpredictable (R601). -/
def Obligations.Stores : Prop :=
  ∀ (s : State) (c : Fin 16) (gu : Guard) (d a : Fin 32) (imm : BitVec 12),
    let ea := s.g c.val a.val + imm.signExtend 64
    let p := coreAddr c.val ea.toNat
    let pc := (s.core c.val).pc
    let v := (s.g c.val d.val).toNat
    ∀ i k, (i, k) ∈ ([(.sb c gu d a imm, 1), (.sh c gu d a imm, 2), (.sw c gu d a imm, 4), (.sd c gu d a imm, 8)] : List (Instr × Nat)) →
      s.runs i = true →
      let allowed := s.mayAccess c.val F.COX_WIN_CFG_W ea.toNat p
      let here := s.lineHeld c.val (p / 64) = false
      let still := (s.core c.val).flushed = []
      (ea.toNat % k ≠ 0 → Raises (exec i s) s c.val causeAlign pc ea) ∧
      (ea.toNat % k = 0 → s.region p ≠ .regs → allowed = false → Raises (exec i s) s c.val causeAccess pc ea) ∧
      (ea.toNat % k = 0 → s.region p ≠ .regs → allowed = true → (s.core c.val).watched 61 ea.toNat = true →
        Raises (exec i s) s c.val causeWatch pc ea) ∧
      (ea.toNat % k = 0 → s.region p ≠ .regs → allowed = true → (s.core c.val).watched 61 ea.toNat = false →
        (∃ t, exec i s = .next t ∧ Ran s t c.val (pc + 4) [] []) ∧
        (s.cacheable c.val p = false → here → s.storeUse p (leBytes k v) = none → s.swPlain p = true → s.swPlain (p + k - 1) = true →
          ∃ t, exec i s = .next t ∧ Ran s t c.val (pc + 4) [] [] ∧ SameBlocks s t [.cox, .dramc] ∧
            (t.core c.val).dcache = (s.core c.val).dcache ∧ t.rdN p k = v % 2 ^ (8 * k) ∧
            (plainRange p k = true → SameMemBut s t [(p, k)])) ∧
        (s.cacheable c.val p = false → here → s.storeUse p (leBytes k v) = none → (∀ j < k, s.swPlain (p + j) = false) → touchesCi p k = false →
          ∃ t, exec i s = .next t ∧ Ran s t c.val (pc + 4) [] [] ∧ SameBlocks s t [.cox, .dramc] ∧ SameMem s t) ∧
        (s.cacheable c.val p = false → here → k = 4 → ∀ r : Fin 8192, p = ringCtx r.val + 0x14 →
          ((v % 2 ^ 32 + 2 ^ 32 - s.ringCI r.val) % 2 ^ 32 ≤ s.ringFill r.val →
            ∃ t, exec i s = .next t ∧ Ran s t c.val (pc + 4) [] [] ∧ t.ringCI r.val = v % 2 ^ 32 ∧ t.ringPI r.val = s.ringPI r.val ∧
              SameRegs s t [R.COX_STAT.at c.val 0] ∧ SameMemBut s t [(p, 4)]) ∧
          (s.ringFill r.val < (v % 2 ^ 32 + 2 ^ 32 - s.ringCI r.val) % 2 ^ 32 →
            ∃ t, exec i s = .next t ∧ Ran s t c.val (pc + 4) [] [] ∧ SameRegs s t [R.COX_STAT.at c.val 0] ∧
              ∀ x, x < 2 ^ 64 → hostWin x = false → (s.ringReach r.val false).mem x = false → t.rdB x = s.rdB x)) ∧
        (s.cacheable c.val p = true → s.lineIn c.val (p / 64) = true → (s.lineBytes c.val (p / 64)).length = 64 →
          ∃ t, exec i s = .next t ∧ Ran s t c.val (pc + 4) [] [] ∧ t.lineIn c.val (p / 64) = true ∧ (p / 64) ∈ t.dirtyLines c.val ∧
            leAt (t.lineBytes c.val (p / 64)) (p % 64) k = v % 2 ^ (8 * k) ∧
            (∀ j < 64, (j < p % 64 ∨ p % 64 + k ≤ j) → (t.lineBytes c.val (p / 64))[j]? = (s.lineBytes c.val (p / 64))[j]?) ∧
            (∀ l, l ≠ p / 64 → t.lineBytes c.val l = s.lineBytes c.val l) ∧
            SameRegs s t [R.COX_STAT.at c.val 0] ∧ SameMem s t)) ∧
      (ea.toNat % k = 0 → s.region p = .regs → s.mayReg c (p / 4 * 4) true = false → Raises (exec i s) s c.val causeAccess pc ea) ∧
      (ea.toNat % k = 0 → s.region p = .regs → s.mayReg c (p / 4 * 4) true = true → k ≠ 4 → (s.core c.val).watched 61 p = false →
        ∃ t, exec i s = .next t ∧ Ran s t c.val (pc + 4) [] [] ∧ (still → SameMem s t ∧
          ∀ h, decodeReg (p / 4 * 4) = some h → SameBlocks s t [h.block.whole, .oar, .cox])) ∧
      (ea.toNat % k = 0 → s.region p = .regs → s.mayReg c (p / 4 * 4) true = true → (s.core c.val).watched 61 p = true →
        Raises (exec i s) s c.val causeWatch pc ea) ∧
      (ea.toNat % k = 0 → s.region p = .regs → k = 4 → (s.core c.val).watched 61 p = false → ∀ h r, decodeReg p = some h → h.row = some r →
        plainWrite h p = true → s.mayPut (.core c) p (BitVec.ofNat 32 v) = true →
        still → ∃ t, exec i s = .next t ∧ Ran s t c.val (pc + 4) [] [] ∧
          (∀ f ∈ r.fields, f.ty = .rw → bitsOf (t.rdReg p).toNat f.lsb f.width = bitsOf v f.lsb f.width) ∧
          SameRegs s t [p, R.COX_STAT.at c.val 0] ∧ SameMem s t)

/-- An atomic that its core runs raises ALIGN, ACCESS or WATCH where R319, R327 and R361 say so; otherwise the bytes at ga take their new value in one
step, a compare-and-swap that fails leaving them, and the core waits; ATOMIC_COMPLETE writes the old value into gd and p7 of a compare-and-swap, and
the core goes on. -/
def Obligations.Atomics : Prop :=
  (∀ (s : State) (c : Fin 16) (gu : Guard) (d a b : Fin 32),
    let ea := s.g c.val a.val
    let p := ea.toNat
    let pc := (s.core c.val).pc
    let y := (s.g c.val b.val).toNat
    let z := (s.g c.val d.val).toNat
    ∀ i k new p7, (i, k, new, p7) ∈ ([
      (.aaddW c gu d a b, 4, some ((s.rdN p 4 + y) % 2 ^ 32), none), (.aaddD c gu d a b, 8, some ((s.rdN p 8 + y) % 2 ^ 64), none),
      (.aswapW c gu d a b, 4, some (y % 2 ^ 32), none), (.aswapD c gu d a b, 8, some y, none),
      (.acasW c gu d a b, 4, if s.rdN p 4 = z % 2 ^ 32 then some (y % 2 ^ 32) else none, some (decide (s.rdN p 4 = z % 2 ^ 32))),
      (.acasD c gu d a b, 8, if s.rdN p 8 = z then some y else none, some (decide (s.rdN p 8 = z)))] :
        List (Instr × Nat × Option Nat × Option Bool)) →
      s.runs i = true → (p / 64) ∉ s.dirtyLines c.val → s.lineHeld c.val (p / 64) = false →
      let ok := s.region p = .yard ∧ s.mayAccess c.val F.COX_WIN_CFG_R p p = true ∧ s.mayAccess c.val F.COX_WIN_CFG_W p p = true
      let watched := (s.core c.val).watched 60 p || (s.core c.val).watched 61 p
      (p % k ≠ 0 → Raises (exec i s) s c.val causeAlign pc ea) ∧
      (p % k = 0 → ¬ ok → Raises (exec i s) s c.val causeAccess pc ea) ∧
      (p % k = 0 → ok → s.poisoned p k = true → PoisonRaises (exec i s) s c.val p pc ea) ∧
      (p % k = 0 → ok → s.poisoned p k = false → watched = true → Raises (exec i s) s c.val causeWatch pc ea) ∧
      (p % k = 0 → ok → s.poisoned p k = false → watched = false →
        ∃ t w, exec i s = .next t ∧ (t.core c.val).atomic = some w ∧ w.d = d.val ∧ w.old = BitVec.ofNat 64 (s.rdN p k) ∧ w.p7 = p7 ∧
          (t.core c.val).pc = pc ∧ (∀ r, t.g c.val r = s.g c.val r) ∧ (∀ r, t.p c.val r = s.p c.val r) ∧ SameOthers s t c.val ∧
          (new = none → SameMem s t)) ∧
      (p % k = 0 → ok → s.poisoned p k = false → watched = false → (∀ v ∈ new, s.storeUse p (leBytes k v) = none) → s.swPlain p = true → s.swPlain (p + k - 1) = true →
        ∃ t w, exec i s = .next t ∧ (t.core c.val).atomic = some w ∧ w.d = d.val ∧ w.old = BitVec.ofNat 64 (s.rdN p k) ∧ w.p7 = p7 ∧
          t.rdN p k = new.getD (s.rdN p k) ∧ t.lineIn c.val (p / 64) = false ∧
          (t.core c.val).pc = pc ∧ (∀ r, t.g c.val r = s.g c.val r) ∧ (∀ r, t.p c.val r = s.p c.val r) ∧ SameOthers s t c.val ∧
          SameRegs s t [R.COX_STAT.at c.val 0] ∧ SameMemBut s t [(p, k)] ∧ (new = none → SameMem s t))) ∧
  (∀ (s : State) (c : Fin 16),
    ((s.core c.val).atomic = none → exec (.atomicComplete c) s = .next s) ∧
    (∀ w, (s.core c.val).atomic = some w → (s.core c.val).wait = .none →
      ∃ t, exec (.atomicComplete c) s = .next t ∧ (t.core c.val).atomic = none ∧ t.g c.val w.d = (if w.d = 0 then 0 else w.old) ∧
        (∀ b, w.p7 = some b → t.p c.val 7 = b) ∧ (t.core c.val).pc = (s.core c.val).pc + 4 ∧
        (∀ r, r ≠ w.d → t.g c.val r = s.g c.val r) ∧ (∀ r, r < 8 → (w.p7 = none ∨ r ≠ 7) → t.p c.val r = s.p c.val r) ∧
        SameCtl { s.core c.val with atomic := none } (t.core c.val) ∧ SameOthers s t c.val ∧ SameRegs s t [] ∧ SameMem s t))

/-- B and CALL go to the address of the instruction plus 4 × OFFSET22, JR and JALR to ga and RET.E to cc.EPC; CALL writes g31 and JALR gd with the
address of the next instruction; a target of JR, JALR or RET.E that is not a multiple of 4 raises ALIGN (of RET.E a reading of this model, log entry
67); RET.E restores PRIV from PPRIV and clears INEXC. -/
def Obligations.ControlTransfer : Prop :=
  ∀ (s : State) (c : Fin 16) (gu : Guard) (d a : Fin 32) (off : BitVec 22),
    let n := c.val
    let k := s.core n
    let x := s.g n a.val
    let far := BitVec.ofInt 64 (k.pc.toNat + 4 * off.toInt)
    let frame (t : State) : Prop := SameRegs s t [R.COX_STAT.at n 0] ∧ SameMem s t
    (s.runs (.b c gu off) = true → ∃ t, exec (.b c gu off) s = .next t ∧ Ran s t n far [] [] ∧ frame t) ∧
    (s.runs (.call c gu off) = true →
      ∃ t, exec (.call c gu off) s = .next t ∧ t.g n 31 = k.pc + 4 ∧ Ran s t n far [31] [] ∧ frame t) ∧
    (s.runs (.jr c gu a) = true →
      (x.toNat % 4 = 0 → ∃ t, exec (.jr c gu a) s = .next t ∧ Ran s t n x [] [] ∧ frame t) ∧
      (x.toNat % 4 ≠ 0 → Raises (exec (.jr c gu a) s) s n causeAlign k.pc x)) ∧
    (s.runs (.jalr c gu d a) = true →
      (x.toNat % 4 = 0 →
        ∃ t, exec (.jalr c gu d a) s = .next t ∧ t.g n d.val = (if d.val = 0 then 0 else k.pc + 4) ∧ Ran s t n x [d.val] [] ∧ frame t) ∧
      (x.toNat % 4 ≠ 0 → Raises (exec (.jalr c gu d a) s) s n causeAlign k.pc x)) ∧
    (s.runs (.retE c gu) = true →
      (k.epc.toNat % 4 = 0 → k.ppriv ≤ 2 →
        ∃ t, exec (.retE c gu) s = .next t ∧ (t.core n).pc = k.epc ∧ (t.core n).priv.code = k.ppriv ∧ (t.core n).inexc = false ∧
          (∀ r, t.g n r = s.g n r) ∧ (∀ r, t.p n r = s.p n r) ∧
          SameCtl { k with priv := (t.core n).priv, inexc := false } (t.core n) ∧ SameOthers s t n ∧ frame t) ∧
      (k.epc.toNat % 4 ≠ 0 → Raises (exec (.retE c gu) s) s n causeAlign k.pc k.epc))

/-- WAIT returns the event of the lowest latched slot of its mask and clears the latch, returns 0x400 at once where it polls, and waits otherwise; its
timeout returns 0x400; TICK waits for a catch; SYS waits for the warden, at W sets g1 to 1; an answer within 10 ms sets g1 and g2, the timeout g1 to
3. -/
def Obligations.WaitsAndServices : Prop :=
  (∀ (s : State) (c : Fin 16) (gu : Guard) (d a b : Fin 32) (svc : BitVec 12),
    let n := c.val
    let k := s.core n
    let mask := (s.g n a.val).toNat
    let lim := s.g n b.val
    let event (j : Nat) : Word := BitVec.ofNat 64 (bitsOf (KMap.get (fun _ => 0) k.evslot j) 0 10)
    let calm := s.budgetNew n = false ∧ ∀ i < 176, bitAt (s.pmcCfg i) 8 = false
    let stays (t : State) : Prop := (t.core n).pc = k.pc ∧ (∀ r, t.g n r = s.g n r) ∧ (∀ r, t.p n r = s.p n r) ∧ SameOthers s t n ∧
      SameRegs s t [R.COX_STAT.at n 0] ∧ SameMem s t
    (s.runs (.wait c gu d a b) = true → (∃ j < 64, bitAt k.evpend j = true ∧ bitAt mask j = true) →
      ∃ t j, exec (.wait c gu d a b) s = .next t ∧ j < 64 ∧ bitAt mask j = true ∧
        (∀ i < j, bitAt mask i = true → bitAt k.evpend i = false) ∧ t.g n d.val = (if d.val = 0 then 0 else event j) ∧
        bitAt (t.core n).evpend j = false ∧ (calm → bitAt k.evpend j = true) ∧
        Ran s t n (k.pc + 4) [d.val] [] ∧ SameRegs s t [R.COX_STAT.at n 0] ∧ SameMem s t) ∧
    (s.runs (.wait c gu d a b) = true → calm → (∀ j < 64, bitAt mask j = true → bitAt k.evpend j = false) →
      (lim = 0 → ∃ t, exec (.wait c gu d a b) s = .next t ∧ t.g n d.val = (if d.val = 0 then 0 else 0x400) ∧
        Ran s t n (k.pc + 4) [d.val] [] ∧ SameRegs s t [R.COX_STAT.at n 0] ∧ SameMem s t) ∧
      (lim ≠ 0 → ∃ t, exec (.wait c gu d a b) s = .next t ∧
        (t.core n).wait = .wait d.val mask (if lim = BitVec.allOnes 64 then none else some (s.now + lim.toNat)) ∧ stays t)) ∧
    (s.runs (.tick c gu d) = true → ∃ t, exec (.tick c gu d) s = .next t ∧ (t.core n).wait = .tick d.val ∧ stays t) ∧
    (s.runs (.sys c gu svc) = true → k.priv = .m →
      ∃ t, exec (.sys c gu svc) s = .next t ∧ (t.core n).wait = .sys svc.toNat (s.upNs + 10000000) ∧ stays t) ∧
    (s.runs (.sys c gu svc) = true → k.priv = .w →
      ∃ t, exec (.sys c gu svc) s = .next t ∧ t.g n 1 = 1 ∧ Ran s t n (k.pc + 4) [1] [] ∧ SameRegs s t [R.COX_STAT.at n 0] ∧ SameMem s t)) ∧
  (∀ (s : State) (c : Fin 16) (status result : Word),
    let n := c.val
    let k := s.core n
    let goes (t : State) (gs : List Nat) : Prop := (t.core n).wait = .none ∧ (t.core n).pc = k.pc + 4 ∧
      (∀ r, r ∉ gs → t.g n r = s.g n r) ∧ (∀ r, t.p n r = s.p n r) ∧ SameOthers s t n ∧ SameRegs s t [] ∧ SameMem s t
    (∀ d m e, k.wait = .wait d m (some e) →
      ∃ t, exec (.waitTimeout c) s = .next t ∧ e ≤ t.now ∧ t.g n d = (if d = 0 then 0 else 0x400) ∧ goes t [d]) ∧
    (∀ v e, k.wait = .sys v e →
      (s.upNs ≤ e → ∃ t, exec (.sysAnswer c status result) s = .next t ∧ t.g n 1 = status ∧ t.g n 2 = result ∧ goes t [1, 2]) ∧
      (e < s.upNs → exec (.sysAnswer c status result) s = .next s) ∧
      (∃ t, exec (.sysTimeout c) s = .next t ∧ e ≤ t.upNs ∧ t.g n 1 = 3 ∧ goes t [1])))

/-- TIME reads the time counter; SNAP starts a snapshot, or is missed while a dump runs; FENCE writes to memory what the core has flushed and changes
nothing else; HALT halts the core and clears RUN; CSRR reads a core control register; CSRW writes one, read-only ones and fields keeping their value,
and returns the old value; a reserved bit or code written leaves the control registers that it could write unpredictable (R601). -/
def Obligations.SystemInstructions : Prop :=
  ∀ (s : State) (c : Fin 16) (gu : Guard) (d a : Fin 32) (cc : BitVec 12),
    let n := c.val
    let k := s.core n
    let v := s.g n a.val
    let q := cc.toNat
    let frame (t : State) (l : List Nat) : Prop := SameRegs s t (R.COX_STAT.at n 0 :: l) ∧ SameMem s t
    let busy := s.flag F.PERF_STAT_DUMP_BUSY && s.perf.epochAt != s.upNs
    (s.runs (.time c gu d) = true →
      ∃ t, exec (.time c gu d) s = .next t ∧ t.g n d.val = (if d.val = 0 then 0 else BitVec.ofNat 64 s.now) ∧
        Ran s t n (k.pc + 4) [d.val] [] ∧ frame t []) ∧
    (s.runs (.snap c gu) = true →
      ((∀ at' c r, s.perf.trigger = some (at', c, r) → s.upNs < at' + 32) →
      (busy = true →
        ∃ t, exec (.snap c gu) s = .next t ∧ t.rd R.PERF_SNAP_MISS = Nat.min (s.rd R.PERF_SNAP_MISS + 1) 0xFFFFFFFF ∧
          t.perf.trigger = s.perf.trigger ∧ Ran s t n (k.pc + 4) [] [] ∧ frame t [R.PERF_SNAP_MISS.at 0 0]) ∧
      (busy = false → s.perf.trigger = none →
        ∃ t, exec (.snap c gu) s = .next t ∧ t.perf.trigger = some (s.upNs, 1, n) ∧ t.get F.PERF_STAT_SNAP_BUSY = 1 ∧
          Ran s t n (k.pc + 4) [] [] ∧ frame t [R.PERF_STAT.at 0 0]) ∧
      (busy = false → s.perf.trigger.isSome = true →
        ∃ t, exec (.snap c gu) s = .next t ∧ t.perf.trigger = s.perf.trigger ∧ Ran s t n (k.pc + 4) [] [] ∧ frame t [])) ∧
      (∀ at' x r, s.perf.trigger = some (at', x, r) → at' + 32 ≤ s.upNs →
        ∃ t, exec (.snap c gu) s = .next t ∧ t.perf.trigger = some (s.upNs, 1, n) ∧ t.rd R.PERF_EPOCH = (s.rd R.PERF_EPOCH + 1) % 2 ^ 32 ∧
          Ran s t n (k.pc + 4) [] [] ∧ SameBlocks s t [.perf, .cox] ∧ SameMem s t)) ∧
    (s.runs (.fence c gu) = true →
      ∃ t, exec (.fence c gu) s = .next t ∧ Ran s t n (k.pc + 4) [] [] ∧ (t.core n).flushed = [] ∧ (t.core n).stores = [] ∧
        (k.flushed = [] → frame t []) ∧
        (∀ l b, k.flushed = [(l, b)] → b.length = 64 → s.storeUse (64 * l) b = none → touchesCi (64 * l) 64 = false → s.swPlain (64 * l) = true →
          s.swPlain (64 * l + 63) = true → plainRange (64 * l) 64 = true →
          t.rdBytes (64 * l) 64 = b ∧ SameRegs s t [R.COX_STAT.at n 0] ∧ SameMemBut s t [(64 * l, 64)])) ∧
    (s.runs (.halt c gu) = true →
      ∃ t, exec (.halt c gu) s = .next t ∧ (t.core n).run = .halted ∧ t.get F.COX_CTL_RUN n = 0 ∧ (t.core n).pc = k.pc + 4 ∧
        (∀ r, t.g n r = s.g n r) ∧ (∀ r, t.p n r = s.p n r) ∧ SameCtl { k with run := .halted } (t.core n) ∧ SameOthers s t n ∧
        frame t [R.COX_CTL.at n 0]) ∧
    (s.runs (.csrr c gu d a cc) = true →
      ∃ t, exec (.csrr c gu d a cc) s = .next t ∧ t.g n d.val = (if d.val = 0 then 0 else s.ccRead n q) ∧
        Ran s t n (k.pc + 4) [d.val] [] ∧ frame t []) ∧
    (s.runs (.csrw c gu d a cc) = true →
      (ccReserved q v = true →
        ∃ t, exec (.csrw c gu d a cc) s = .next t ∧ t.g n d.val = (if d.val = 0 then 0 else s.ccRead n q) ∧ (t.core n).pc = k.pc + 4 ∧
          (∀ r, r ≠ d.val → t.g n r = s.g n r) ∧ (∀ r, t.p n r = s.p n r) ∧ (t.core n).priv = k.priv ∧ SameOthers s t n ∧ frame t []) ∧
      (ccReserved q v = false →
        ∃ t, exec (.csrw c gu d a cc) s = .next t ∧ t.g n d.val = (if d.val = 0 then 0 else s.ccRead n q) ∧ (t.core n).pc = k.pc + 4 ∧
          (∀ r, r ≠ d.val → t.g n r = s.g n r) ∧ (∀ r, t.p n r = s.p n r) ∧ SameOthers s t n ∧ frame t [] ∧
          (q ∈ [1, 3, 4, 5, 0x10, 0x11] → t.ccRead n q = v) ∧ (q = 2 → (t.core n).cause = v.toNat) ∧
          (q = 0 → (t.core n).priv = k.priv ∧ (t.core n).inexc = bitAt v.toNat 4 ∧
            (t.core n).ppriv = (if bitsOf v.toNat 2 2 = 2 ∧ k.priv = .m then 1 else bitsOf v.toNat 2 2)) ∧
          (q = 6 → (t.core n).umask = v.toNat % 256) ∧ (0x40 ≤ q → KMap.get (fun _ => 0) (t.core n).evslot (q - 0x40) = v.toNat) ∧
          (q = 0x20 → ∀ j < 64, bitAt v.toNat j = true → bitAt (t.core n).evpend j = false) ∧
          (∀ j ∈ [0, 1, 2, 3, 4, 5, 6, 8, 0xB, 0xC, 0x10, 0x11], j ≠ q → t.ccRead n j = s.ccRead n j) ∧
          (8 ≤ q → q ≤ 0xC → SameCtl k (t.core n)) ∧ (∀ j < 64, 0x40 + j ≠ q → t.ccRead n (0x40 + j) = s.ccRead n (0x40 + j))))

/-- WB writes the dirty line that holds ga back, for memory to take at a FENCE, and keeps it clean, INV discards it, WBINV does both; the whole-cache
modes discard every line or leave none dirty; modes 6 and 7 invalidate the instruction cache; an address that is not cacheable changes nothing (R316,
R369). -/
def Obligations.Flush : Prop :=
  ∀ (s : State) (c : Fin 16) (gu : Guard) (a mode : Fin 32), s.runs (.flush c gu a mode) = true →
    let n := c.val
    let k := s.core n
    let ea := (s.g n a.val).toNat
    let line := coreAddr n ea / 64
    let ok := ea < 2 ^ 48 ∧ s.cacheable n (coreAddr n ea) = true
    let m := mode.val
    let old := s.lineBytes n line
    let outcome (t : State) : Prop := exec (.flush c gu a mode) s = .next t ∧ Ran s t n (k.pc + 4) [] []
    let quiet (t : State) : Prop := SameRegs s t [R.COX_STAT.at n 0] ∧ SameMem s t
    ((m = 0 ∨ m = 1 ∨ m = 2 ∨ m = 6) → ¬ ok →
      ∃ t, outcome t ∧ quiet t ∧ (t.core n).dcache = k.dcache) ∧
    ((m = 0 ∨ m = 2) → ok → line ∉ s.dirtyLines n →
      ∃ t, outcome t ∧ quiet t ∧ (m = 0 → (t.core n).dcache = k.dcache) ∧ (m = 2 → t.lineIn n line = false)) ∧
    ((m = 0 ∨ m = 2) → ok → k.dcache.find? (fun e => e.1 == line) = some (line, { bytes := old, dirty := true }) →
      KMap.wf (fun _ => { bytes := [], dirty := false }) k.dcache = true → old.length = 64 →
      ∃ t, outcome t ∧ (line, old) ∈ (t.core n).flushed ∧ SameBlocks s t [.cox, .dramc] ∧ SameMem s t ∧
        line ∉ t.dirtyLines n ∧ (m = 0 → t.lineBytes n line = old) ∧ (m = 2 → t.lineIn n line = false)) ∧
    (m = 1 → ok → ∃ t, outcome t ∧ quiet t ∧ t.lineIn n line = false ∧ ∀ l, l ≠ line → t.lineBytes n l = s.lineBytes n l) ∧
    (m = 4 → ∃ t, outcome t ∧ quiet t ∧ (t.core n).dcache = []) ∧
    ((m = 3 ∨ m = 5) → s.dirtyLines n = [] → ∃ t, outcome t ∧ quiet t ∧ (t.core n).dcache = (if m = 3 then k.dcache else [])) ∧
    ((m = 3 ∨ m = 5) → ∃ t, outcome t ∧ SameBlocks s t [.cox, .dramc] ∧ SameMem s t ∧ (m = 5 → (t.core n).dcache = []) ∧
        (m = 3 → KMap.wf (fun _ => { bytes := [], dirty := false }) k.dcache = true → t.dirtyLines n = [])) ∧
    (m = 6 → ok → ∃ t, outcome t ∧ quiet t ∧ (t.core n).dcache = k.dcache ∧ line ∉ (t.core n).icache) ∧
    (m = 7 → ∃ t, outcome t ∧ quiet t ∧ (t.core n).dcache = k.dcache ∧ (t.core n).icache = [])

/-- ISSUE copies its elements into the ring and advances PI by their number, or waits for room; ISSUE.NB says in p7 whether it did; a waiting ISSUE
copies when there is room; RING advances PI and returns it; each has every earlier write-back of its core reach memory first; a misaligned source
raises ALIGN and an unreadable one ACCESS; on a ring of another producer anything in that ring may change (R601). Overlapping rings are apart. -/
def Obligations.RingInstructions : Prop :=
  (∀ (s : State) (c : Fin 16) (gu : Guard) (a : Fin 32) (ring : Fin 8192) (count : Fin 16),
    let n := c.val
    let r := ring.val
    let k := count.val + 1
    let e := s.ringEsize r
    let ea := s.g n a.val
    let pc := (s.core n).pc
    let src (j : Nat) : Nat := coreAddr n (ea.toNat + j * e)
    let dst (j : Nat) : Nat := s.ringElem r (s.ringPI r + j)
    let readable := s.mayReadAll c ea.toNat (k * e)
    let room := s.ringEn r && decide (k ≤ 2 ^ s.ringLogCap r - s.ringFill r)
    let still := (s.core n).flushed = []
    let apart := still ∧ s.ringProd r = n ∧ s.ringClash r = none ∧ (∀ j < k, ∀ b < e, s.region (src j + b) ≠ .regs) ∧ k ≤ 2 ^ s.ringLogCap r ∧ s.ringLogCap r ≤ 16 ∧ ∀ i < k, plainRange (dst i) e = true ∧
      (dst i + e ≤ ringCtx 0 ∨ ringCtx 8192 ≤ dst i) ∧ ∀ j < k, dst i + e ≤ src j ∨ src j + e ≤ dst i
    let alone (t : State) : Prop := (s.ringProd r = n → SameMem s t) ∧
      ∀ x, x < 2 ^ 64 → hostWin x = false → (s.ringReach r true).mem x = false → t.rdB x = s.rdB x
    let copied (t : State) : Prop := apart → t.ringPI r = (s.ringPI r + k) % 2 ^ 32 ∧ t.ringCI r = s.ringCI r ∧
      (∀ j < k, t.rdBytes (dst j) e = s.rdBytes (src j) e) ∧ SameMemBut s t ((ringCtx r + 0x10, 4) :: (upTo k).map (fun j => (dst j, e)))
    ∀ i ∈ ([.issue c gu a ring count, .issueNb c gu a ring count] : List Instr), s.runs i = true →
      (ea.toNat % 8 ≠ 0 → Raises (exec i s) s n causeAlign pc ea) ∧
      (ea.toNat % 8 = 0 → readable = false → Raises (exec i s) s n causeAccess pc ea) ∧
      (ea.toNat % 8 = 0 → readable = true →
        (room = true → ∃ t, exec i s = .next t ∧ copied t ∧ (still → SameBlocks s t [.cox, .dramc]) ∧ (t.core n).flushed = [] ∧
          (i = .issue c gu a ring count → Ran s t n (pc + 4) [] []) ∧
          (i = .issueNb c gu a ring count → t.p n 7 = true ∧ Ran s t n (pc + 4) [] [7])) ∧
        (room = false → i = .issue c gu a ring count →
          ∃ t, exec i s = .next t ∧ (t.core n).wait = .issue a.val r k ∧ (t.core n).pc = pc ∧ (∀ x, t.g n x = s.g n x) ∧
            (∀ x, t.p n x = s.p n x) ∧ SameOthers s t n ∧ (still → SameRegs s t [R.COX_STAT.at n 0] ∧ alone t)) ∧
        (room = false → i = .issueNb c gu a ring count →
          ∃ t, exec i s = .next t ∧ t.p n 7 = false ∧ Ran s t n (pc + 4) [] [7] ∧ (still → SameRegs s t [R.COX_STAT.at n 0] ∧ alone t)))) ∧
  (∀ (s : State) (c : Fin 16) (a r k : Nat), (s.core c.val).wait = .issue a r k →
    let n := c.val
    let e := s.ringEsize r
    let src (j : Nat) : Nat := coreAddr n ((s.g n a).toNat + j * e)
    let dst (j : Nat) : Nat := s.ringElem r (s.ringPI r + j)
    (s.ringTakes r k = false → exec (.issueRoom c) s = .next s) ∧
    (s.ringTakes r k = true → ∃ t, exec (.issueRoom c) s = .next t ∧ (t.core n).wait = .none ∧ (t.core n).pc = (s.core n).pc + 4 ∧
      (∀ x, t.g n x = s.g n x) ∧ (∀ x, t.p n x = s.p n x) ∧ SameOthers s t n ∧ SameBlocks s t [.cox, .dramc]) ∧
    (s.ringTakes r k = true → 1 ≤ k → r < 8192 → s.ringProd r = n → s.ringClash r = none → (∀ j < k, ∀ b < e, s.region (src j + b) ≠ .regs) →
      (∀ i < k, plainRange (dst i) e = true ∧ (dst i + e ≤ ringCtx 0 ∨ ringCtx 8192 ≤ dst i) ∧
        ∀ j < k, dst i + e ≤ src j ∨ src j + e ≤ dst i) →
      ∃ t, exec (.issueRoom c) s = .next t ∧ t.ringPI r = (s.ringPI r + k) % 2 ^ 32 ∧ (t.core n).wait = .none ∧
        (t.core n).pc = (s.core n).pc + 4 ∧ (∀ j < k, t.rdBytes (dst j) e = s.rdBytes (src j) e) ∧ (∀ x, t.g n x = s.g n x) ∧
        (∀ x, t.p n x = s.p n x) ∧ SameBlocks s t [.cox, .dramc] ∧
        SameMemBut s t ((ringCtx r + 0x10, 4) :: (upTo k).map (fun j => (dst j, e))))) ∧
  (∀ (s : State) (c : Fin 16) (gu : Guard) (d : Fin 32) (ring : Fin 8192) (count : Fin 16), s.runs (.ring c gu d ring count) = true →
    let n := c.val
    let r := ring.val
    let new := (s.ringPI r + (count.val + 1)) % 2 ^ 32
    ∃ t, exec (.ring c gu d ring count) s = .next t ∧ t.g n d.val = (if d.val = 0 then 0 else BitVec.ofNat 64 new) ∧
      Ran s t n ((s.core n).pc + 4) [d.val] [] ∧ (t.core n).flushed = [] ∧ ((s.core n).flushed = [] → SameRegs s t [R.COX_STAT.at n 0]) ∧
      ((s.core n).flushed = [] → s.ringClash r = none →
        (s.ringProd r = n → t.ringPI r = new ∧ t.ringCI r = s.ringCI r ∧ SameMemBut s t [(ringCtx r + 0x10, 4)]) ∧
        ∀ x, x < 2 ^ 64 → hostWin x = false → (s.ringReach r true).mem x = false → t.rdB x = s.rdB x))

/-- RUN at 0 halts a running core and ends its wait; RUN at 1 resumes a halted one; RESET clears g, p and the control registers, keeps the pc and
leaves it halted; a GO latches the image and reads PENDING, unless a swap is; a budget that is reached sets BUDGET_HIT and, at a boundary, halts the
core or takes BUDGET. -/
def Obligations.CoreControl : Prop :=
  (∀ (s : State) (who : Requester) (c : Fin 16), s.mayWrite who (R.COX_CTL.at c.val 0) = true →
    let n := c.val
    let k := s.core n
    let kept (t : State) : Prop := (((∀ d m l, k.wait ≠ .wait d m l) ∨ (k.pair = none ∧ k.owed = 0)) → (t.core n).pc = k.pc ∧ ∀ r, t.g n r = s.g n r) ∧
      (∀ r, t.p n r = s.p n r) ∧ SameOthers s t n ∧ SameRegs s t [R.COX_CTL.at n 0] ∧ SameMem s t
    (∃ t, exec (.coxHaltRequest who c) s = .next t ∧ t.get F.COX_CTL_RUN n = 0 ∧ kept t ∧
      t.get F.COX_CTL_BUDGET_HALT n = s.get F.COX_CTL_BUDGET_HALT n ∧
      (k.run = .running → (t.core n).run = .halted ∧ (t.core n).wait = .none) ∧ (k.run ≠ .running → (t.core n).run = k.run)) ∧
    (∃ t, exec (.coxResume who c) s = .next t ∧ t.get F.COX_CTL_RUN n = 1 ∧ kept t ∧
      t.get F.COX_CTL_BUDGET_HALT n = s.get F.COX_CTL_BUDGET_HALT n ∧
      (k.run = .halted → (t.core n).run = .running) ∧ (k.run ≠ .halted → (t.core n).run = k.run)) ∧
    (∃ t, exec (.coxReset who c) s = .next t ∧ (t.core n).run = .halted ∧ (t.core n).wait = .none ∧ (t.core n).atomic = none ∧
      (∀ r, t.g n r = 0) ∧ (∀ r, 1 ≤ r → r < 8 → t.p n r = false) ∧ (t.core n).dcache = [] ∧ (t.core n).icache = [] ∧
      (∀ q ∈ [1, 2, 3, 4, 5, 6, 0xA, 0x10, 0x11, 0x20], t.ccRead n q = 0) ∧ (∀ j < 64, t.ccRead n (0x40 + j) = 0) ∧
      t.get F.COX_CTL_RUN n = 0 ∧ t.get F.COX_EXC_COUNT n = 0 ∧ SameOthers s t n ∧
      ((∀ d m l, k.wait ≠ .wait d m l) → (t.core n).pc = k.pc) ∧
      (s.dirtyLines n = [] → k.flushed = [] → SameRegs s t [R.COX_CTL.at n 0, R.COX_EXC.at n 0, R.COX_STAT.at n 0] ∧ SameMem s t) ∧
      (s.dirtyLines n = [] → k.flushed = [] → k.swapStart.isSome = true →
        (s.nextCatch ≤ s.now → t.get F.COX_STAT_SWAP n = 3 ∧ t.get F.COX_STAT_SWAP_WHY n = 5 ∧ (t.core n).swapStart = none) ∧
        (s.now < s.nextCatch → t.get F.COX_STAT_SWAP n = s.get F.COX_STAT_SWAP n ∧ (t.core n).swapStart = k.swapStart)))) ∧
  (∀ (s : State) (who : Requester) (c : Fin 16) (hi : RegWord), s.mayPut who (R.COX_SWAP_HI.at c.val 0) hi = true →
    let n := c.val
    let tries := bitsOf hi.toNat 24 8
    let regs := [R.COX_SWAP_LO.at n 0, R.COX_SWAP_HI.at n 0, R.COX_STAT.at n 0]
    ∃ t, exec (.coxSwapSubmit who c hi) s = .next t ∧ SameRegs s t regs ∧ SameMem s t ∧ (∀ m, m ≠ n → t.core m = s.core m) ∧
      (bitAt hi.toNat 16 = true → s.get F.COX_STAT_SWAP n ≠ 1 → t.get F.COX_STAT_SWAP n = 1 ∧ t.get F.COX_STAT_SWAP_WHY n = 0 ∧
        (t.core n).swapAddr = (s.held who (R.COX_SWAP_LO.at n 0) % 2 ^ 32 + 2 ^ 32 * bitsOf hi.toNat 0 16) / 256 * 256 ∧
        (t.core n).swapMax = (if tries = 0 then 64 else tries) ∧ (t.core n).swapTries = 0) ∧
      (bitAt hi.toNat 16 = false ∨ s.get F.COX_STAT_SWAP n = 1 → t.core n = s.core n ∧ t.get F.COX_STAT_SWAP n = s.get F.COX_STAT_SWAP n)) ∧
  (∀ (s : State) (c : Fin 16),
    let n := c.val
    let k := s.core n
    let counts := k.run = .running ∧ (k.wait = .none ∨ ∃ a r m, k.wait = .issue a r m)
    ((¬ counts ∨ k.budget = 0 ∨ k.budgetHit = true) → exec (.budgetExhausted c) s = .next s) ∧
    (counts → k.budget ≠ 0 → k.budgetHit = false →
      ∃ t, exec (.budgetExhausted c) s = .next t ∧ t.get F.COX_STAT_BUDGET_HIT n = 1 ∧ (t.core n).budgetHit = true ∧
        k.budget ≤ (t.core n).bcount ∧ (∀ r, t.g n r = s.g n r) ∧ (∀ r, t.p n r = s.p n r) ∧ SameMem s t ∧ SameOthers s t n ∧
        SameRegs s t (R.COX_CTL.at n 0 :: excRegs n) ∧
        (k.wait = .none → k.atomic = none → s.flag F.COX_CTL_BUDGET_HALT n = true →
          (t.core n).run = .halted ∧ t.get F.COX_CTL_RUN n = 0 ∧ (t.core n).pc = k.pc ∧ (t.core n).epc = k.epc) ∧
        (k.wait = .none → k.atomic = none → s.flag F.COX_CTL_BUDGET_HALT n = false → k.inexc = false →
          (t.core n).cause = causeBudget ∧ (t.core n).epc = k.pc ∧ (t.core n).inexc = true ∧ (t.core n).pc = k.tvec &&& ~~~3 ∧
            (t.core n).tval = BitVec.ofNat 64 (Nat.max k.bcount k.budget)) ∧
        ((∃ a r m, k.wait = .issue a r m) ∨ k.atomic.isSome = true ∨ (s.flag F.COX_CTL_BUDGET_HALT n = false ∧ k.inexc = true) →
          (t.core n).budgetDue = true ∧ (t.core n).pc = k.pc ∧ (t.core n).run = k.run ∧ (t.core n).cause = k.cause)))

/-- On a core that is halted or waits an instruction has no effect; a BUDGET that is due is taken first; then an address that may not be fetched
raises ACCESS, then ILLEGAL and PRIV, then a false guard skips the instruction with no effect, then WATCH on execute; each exception is taken as R328
says, or is a double fault where INEXC is 1. -/
def Obligations.ExceptionsAndGuards : Prop :=
  ∀ (s : State) (i : Instr) (c : Fin 16) (w : Nat), encodeGrasin i = some (c, w) →
    let n := c.val
    let k := s.core n
    let pc := k.pc
    let uBad := uForbidden i = true ∧ k.priv = .u
    (k.idle = false → exec i s = .next s) ∧
    (k.idle = true → s.budgetActs n = true →
      (s.flag F.COX_CTL_BUDGET_HALT n = true →
        ∃ t, exec i s = .next t ∧ (t.core n).run = .halted ∧ t.get F.COX_CTL_RUN n = 0 ∧ (t.core n).pc = pc ∧ (∀ r, t.g n r = s.g n r) ∧
          (∀ r, t.p n r = s.p n r) ∧ SameOthers s t n ∧ SameRegs s t [R.COX_CTL.at n 0, R.COX_STAT.at n 0] ∧ SameMem s t) ∧
      (s.flag F.COX_CTL_BUDGET_HALT n = false → Raises (exec i s) s n causeBudget pc (BitVec.ofNat 64 k.bcount))) ∧
    (k.idle = true → s.budgetActs n = false → s.mayFetch n pc.toNat = false → Raises (exec i s) s n causeAccess pc pc) ∧
    (s.fetches n = true → illegalCode i = true → Raises (exec i s) s n causeIllegal pc (BitVec.ofNat 64 w)) ∧
    (s.fetches n = true → illegalCode i = false → uBad → Raises (exec i s) s n causePriv pc (BitVec.ofNat 64 w)) ∧
    (s.fetches n = true → illegalCode i = false → ¬ uBad → s.guardOf n w = false →
      ∃ t, exec i s = .next t ∧ Ran s t n (pc + 4) [] [] ∧ (t.core n).dcache = k.dcache ∧ SameRegs s t [R.COX_STAT.at n 0] ∧ SameMem s t) ∧
    (s.fetches n = true → illegalCode i = false → ¬ uBad → s.guardOf n w = true → k.watched 62 pc.toNat = true →
      Raises (exec i s) s n causeWatch pc pc)

/-- For every instruction of the Grasin set, with every operand at every value its type admits, the word that the encoder writes is below 2^32 and
decodes, on the same core, to that instruction (R345, R347, R349). -/
def Obligations.DecodeOfEncode : Prop :=
  ∀ (i : Instr) (c : Fin 16) (w : Nat), encodeGrasin i = some (c, w) → w < 2 ^ 32 ∧ decodeGrasin c w = some i

/-- From every state whose memory lists addresses strictly rising and no byte that an unlisted address reads as, and whose registers likewise, a step
that answers a next state gives such a state: equal memories and registers stay equal data, and no register is listed twice. -/
def Obligations.StepKeepsCanonicalStores : Prop :=
  ∀ s t : State, Memory.wf s.mem = true → Registers.wf s.regs = true → step s = .next t →
    Memory.wf t.mem = true ∧ Registers.wf t.regs = true
end

