-- ==== Sys2Proof/Laws/KMap.lean ====
section
/-!
SUPPORT. The laws of the canonical association list: a read after a write, other keys, and the canonical form kept.
-/
namespace Sys2Proof

variable {α : Type}

theorem KMap.get_del_ne (d : Nat → α) (l : KMap α) {j k : Nat} (h : j ≠ k) : KMap.get d (KMap.del l k) j = KMap.get d l j := by
  induction l with
  | nil => rfl
  | cons e l ih =>
    obtain ⟨k', v⟩ := e
    by_cases hk : k' = k
    · subst hk
      have : KMap.del ((k', v) :: l) k' = KMap.del l k' := by simp [KMap.del]
      rw [this, ih, KMap.get, if_neg (Ne.symm h)]
    · have : KMap.del ((k', v) :: l) k = (k', v) :: KMap.del l k := by simp [KMap.del, hk]
      rw [this, KMap.get, KMap.get, ih]

theorem KMap.get_del_same (d : Nat → α) (l : KMap α) (k : Nat) : KMap.get d (KMap.del l k) k = d k := by
  induction l with
  | nil => rfl
  | cons e l ih =>
    obtain ⟨k', v⟩ := e
    by_cases hk : k' = k
    · have : KMap.del ((k', v) :: l) k = KMap.del l k := by simp [KMap.del, hk]
      rw [this, ih]
    · have : KMap.del ((k', v) :: l) k = (k', v) :: KMap.del l k := by simp [KMap.del, hk]
      rw [this, KMap.get, if_neg hk, ih]

theorem KMap.get_ins_ne (d : Nat → α) (l : KMap α) {j k : Nat} (v : α) (h : j ≠ k) : KMap.get d (KMap.ins l k v) j = KMap.get d l j := by
  induction l with
  | nil => simp [KMap.ins, KMap.get, Ne.symm h]
  | cons e l ih =>
    obtain ⟨k', v'⟩ := e
    simp only [KMap.ins]
    split
    · rw [KMap.get, if_neg (Ne.symm h)]
    · rw [KMap.get, KMap.get, ih]

theorem KMap.get_ins_same (d : Nat → α) (l : KMap α) (k : Nat) (v : α) (h : ∀ e ∈ l, e.1 ≠ k) : KMap.get d (KMap.ins l k v) k = v := by
  induction l with
  | nil => simp [KMap.ins, KMap.get]
  | cons e l ih =>
    obtain ⟨k', v'⟩ := e
    simp only [KMap.ins]
    split
    · simp [KMap.get]
    · have hk : k' ≠ k := h (k', v') (by simp)
      rw [KMap.get, if_neg hk]
      exact ih (fun e he => h e (by simp [he]))

theorem KMap.del_ne (l : KMap α) (k : Nat) : ∀ e ∈ KMap.del l k, e.1 ≠ k := by
  intro e he
  have := (List.mem_filter.mp he).2
  simpa using this

/-- A read after a write to the same key gives the value written. -/
@[simp] theorem KMap.get_put_same [DecidableEq α] (d : Nat → α) (l : KMap α) (k : Nat) (v : α) : KMap.get d (KMap.put d l k v) k = v := by
  unfold KMap.put
  split
  · rename_i h
    rw [KMap.get_del_same, h]
  · exact KMap.get_ins_same d _ k v (KMap.del_ne l k)

/-- A write leaves every other key alone. -/
theorem KMap.get_put_ne [DecidableEq α] (d : Nat → α) (l : KMap α) {j k : Nat} (v : α) (h : j ≠ k) :
    KMap.get d (KMap.put d l k v) j = KMap.get d l j := by
  unfold KMap.put
  split
  · exact KMap.get_del_ne d l h
  · rw [KMap.get_ins_ne d _ v h, KMap.get_del_ne d l h]

theorem KMap.get_put [DecidableEq α] (d : Nat → α) (l : KMap α) (j k : Nat) (v : α) :
    KMap.get d (KMap.put d l k v) j = if j = k then v else KMap.get d l j := by
  split
  · rename_i h; subst h; simp
  · rename_i h; exact KMap.get_put_ne d l v h

theorem KMap.wf_filter [DecidableEq α] (d : Nat → α) (l : KMap α) (p : Nat × α → Bool) (h : KMap.wf d l = true) :
    KMap.wf d (l.filter p) = true := by
  induction l with
  | nil => rfl
  | cons e l ih =>
    obtain ⟨k, v⟩ := e
    simp only [KMap.wf, Bool.and_eq_true, decide_eq_true_eq, List.all_eq_true] at h
    by_cases hp : p (k, v)
    · simp only [List.filter, hp, KMap.wf, Bool.and_eq_true, decide_eq_true_eq, List.all_eq_true]
      exact ⟨⟨h.1.1, fun e he => h.1.2 e (List.mem_filter.mp he).1⟩, ih h.2⟩
    · simp only [List.filter, hp]
      exact ih h.2

theorem KMap.mem_ins (l : KMap α) (k : Nat) (v : α) : ∀ e ∈ KMap.ins l k v, e = (k, v) ∨ e ∈ l := by
  induction l with
  | nil => intro e he; left; simpa [KMap.ins] using he
  | cons e' l ih =>
    obtain ⟨k', v'⟩ := e'
    intro e he
    simp only [KMap.ins] at he
    split at he
    · rcases List.mem_cons.mp he with rfl | h
      · exact .inl rfl
      · exact .inr h
    · rcases List.mem_cons.mp he with rfl | h
      · exact .inr (by simp)
      · rcases ih e h with h | h
        · exact .inl h
        · exact .inr (List.mem_cons_of_mem _ h)

theorem KMap.wf_ins [DecidableEq α] (d : Nat → α) (l : KMap α) (k : Nat) (v : α) (hl : KMap.wf d l = true)
    (hk : ∀ e ∈ l, e.1 ≠ k) (hv : v ≠ d k) : KMap.wf d (KMap.ins l k v) = true := by
  induction l with
  | nil => simp [KMap.ins, KMap.wf, hv]
  | cons e l ih =>
    obtain ⟨k', v'⟩ := e
    have h0 := hl
    simp only [KMap.wf, Bool.and_eq_true, decide_eq_true_eq, List.all_eq_true] at hl
    simp only [KMap.ins]
    have hne : k' ≠ k := hk (k', v') (by simp)
    split
    · rename_i hlt
      rw [KMap.wf]
      simp only [Bool.and_eq_true, decide_eq_true_eq, List.all_eq_true]
      refine ⟨⟨hv, fun e he => ?_⟩, h0⟩
      rcases List.mem_cons.mp he with rfl | h
      · exact hlt
      · exact Nat.lt_trans hlt (hl.1.2 e h)
    · rename_i hlt
      rw [KMap.wf]
      simp only [Bool.and_eq_true, decide_eq_true_eq, List.all_eq_true]
      refine ⟨⟨hl.1.1, fun e he => ?_⟩, ih hl.2 (fun e he => hk e (by simp [he]))⟩
      rcases KMap.mem_ins l k v e he with rfl | h
      · show k' < k; omega
      · exact hl.1.2 e h

/-- A write keeps the canonical form. -/
theorem KMap.wf_put [DecidableEq α] (d : Nat → α) (l : KMap α) (k : Nat) (v : α) (hl : KMap.wf d l = true) :
    KMap.wf d (KMap.put d l k v) = true := by
  have hd : KMap.wf d (KMap.del l k) = true := KMap.wf_filter d l _ hl
  unfold KMap.put
  split
  · exact hd
  · rename_i h
    exact KMap.wf_ins d _ k v hd (KMap.del_ne l k) h

end Sys2Proof
end

