-- ==== Sys2Proof/Laws/State.lean ====
section
/-!
SUPPORT. What each basic update of the state leaves alone, field by field: every lemma is true by computation, so that no later proof
unfolds a record update.
-/
namespace Sys2Proof.Machine

open Sys2Proof

variable (s : State)


/-! ### setCore -/

@[simp] theorem State.setCore_regs (n : Nat) (c : Core) : (s.setCore n c).regs = s.regs := rfl
@[simp] theorem State.setCore_latches (n : Nat) (c : Core) : (s.setCore n c).latches = s.latches := rfl
@[simp] theorem State.setCore_holds (n : Nat) (c : Core) : (s.setCore n c).holds = s.holds := rfl
@[simp] theorem State.setCore_mem (n : Nat) (c : Core) : (s.setCore n c).mem = s.mem := rfl
@[simp] theorem State.setCore_poison (n : Nat) (c : Core) : (s.setCore n c).poison = s.poison := rfl
@[simp] theorem State.setCore_now (n : Nat) (c : Core) : (s.setCore n c).now = s.now := rfl
@[simp] theorem State.setCore_nowFrac (n : Nat) (c : Core) : (s.setCore n c).nowFrac = s.nowFrac := rfl
@[simp] theorem State.setCore_upNs (n : Nat) (c : Core) : (s.setCore n c).upNs = s.upNs := rfl
@[simp] theorem State.setCore_upFrac (n : Nat) (c : Core) : (s.setCore n c).upFrac = s.upFrac := rfl
@[simp] theorem State.setCore_freeCtr (n : Nat) (c : Core) : (s.setCore n c).freeCtr = s.freeCtr := rfl
@[simp] theorem State.setCore_readData (n : Nat) (c : Core) : (s.setCore n c).readData = s.readData := rfl
@[simp] theorem State.setCore_out (n : Nat) (c : Core) : (s.setCore n c).out = s.out := rfl
@[simp] theorem State.setCore_perf (n : Nat) (c : Core) : (s.setCore n c).perf = s.perf := rfl
@[simp] theorem State.setCore_dram (n : Nat) (c : Core) : (s.setCore n c).dram = s.dram := rfl
@[simp] theorem State.setCore_host (n : Nat) (c : Core) : (s.setCore n c).host = s.host := rfl
@[simp] theorem State.setCore_stroke (n : Nat) (c : Core) : (s.setCore n c).stroke = s.stroke := rfl
@[simp] theorem State.setCore_time (n : Nat) (c : Core) : (s.setCore n c).time = s.time := rfl
@[simp] theorem State.setCore_mortar (n : Nat) (c : Core) : (s.setCore n c).mortar = s.mortar := rfl
@[simp] theorem State.setCore_ingest (n : Nat) (c : Core) : (s.setCore n c).ingest = s.ingest := rfl
@[simp] theorem State.setCore_plumb (n : Nat) (c : Core) : (s.setCore n c).plumb = s.plumb := rfl
@[simp] theorem State.setCore_render (n : Nat) (c : Core) : (s.setCore n c).render = s.render := rfl
@[simp] theorem State.setCore_cond (n : Nat) (c : Core) : (s.setCore n c).cond = s.cond := rfl
@[simp] theorem State.setCore_strands (n : Nat) (c : Core) : (s.setCore n c).strands = s.strands := rfl
@[simp] theorem State.setCore_trowel (n : Nat) (c : Core) : (s.setCore n c).trowel = s.trowel := rfl
@[simp] theorem State.setCore_zip (n : Nat) (c : Core) : (s.setCore n c).zip = s.zip := rfl
@[simp] theorem State.setCore_cam (n : Nat) (c : Core) : (s.setCore n c).cam = s.cam := rfl
@[simp] theorem State.setCore_mbox (n : Nat) (c : Core) : (s.setCore n c).mbox = s.mbox := rfl
@[simp] theorem State.setCore_board (n : Nat) (c : Core) : (s.setCore n c).board = s.board := rfl
@[simp] theorem State.setCore_ledger (n : Nat) (c : Core) : (s.setCore n c).ledger = s.ledger := rfl
@[simp] theorem State.setCore_trust (n : Nat) (c : Core) : (s.setCore n c).trust = s.trust := rfl
@[simp] theorem State.setCore_pending (n : Nat) (c : Core) : (s.setCore n c).pending = s.pending := rfl

/-! ### wrReg -/

@[simp] theorem State.wrReg_latches (a : Nat) (v : RegWord) : (s.wrReg a v).latches = s.latches := rfl
@[simp] theorem State.wrReg_holds (a : Nat) (v : RegWord) : (s.wrReg a v).holds = s.holds := rfl
@[simp] theorem State.wrReg_mem (a : Nat) (v : RegWord) : (s.wrReg a v).mem = s.mem := rfl
@[simp] theorem State.wrReg_poison (a : Nat) (v : RegWord) : (s.wrReg a v).poison = s.poison := rfl
@[simp] theorem State.wrReg_now (a : Nat) (v : RegWord) : (s.wrReg a v).now = s.now := rfl
@[simp] theorem State.wrReg_nowFrac (a : Nat) (v : RegWord) : (s.wrReg a v).nowFrac = s.nowFrac := rfl
@[simp] theorem State.wrReg_upNs (a : Nat) (v : RegWord) : (s.wrReg a v).upNs = s.upNs := rfl
@[simp] theorem State.wrReg_upFrac (a : Nat) (v : RegWord) : (s.wrReg a v).upFrac = s.upFrac := rfl
@[simp] theorem State.wrReg_freeCtr (a : Nat) (v : RegWord) : (s.wrReg a v).freeCtr = s.freeCtr := rfl
@[simp] theorem State.wrReg_readData (a : Nat) (v : RegWord) : (s.wrReg a v).readData = s.readData := rfl
@[simp] theorem State.wrReg_out (a : Nat) (v : RegWord) : (s.wrReg a v).out = s.out := rfl
@[simp] theorem State.wrReg_cores (a : Nat) (v : RegWord) : (s.wrReg a v).cores = s.cores := rfl
@[simp] theorem State.wrReg_perf (a : Nat) (v : RegWord) : (s.wrReg a v).perf = s.perf := rfl
@[simp] theorem State.wrReg_dram (a : Nat) (v : RegWord) : (s.wrReg a v).dram = s.dram := rfl
@[simp] theorem State.wrReg_host (a : Nat) (v : RegWord) : (s.wrReg a v).host = s.host := rfl
@[simp] theorem State.wrReg_stroke (a : Nat) (v : RegWord) : (s.wrReg a v).stroke = s.stroke := rfl
@[simp] theorem State.wrReg_time (a : Nat) (v : RegWord) : (s.wrReg a v).time = s.time := rfl
@[simp] theorem State.wrReg_mortar (a : Nat) (v : RegWord) : (s.wrReg a v).mortar = s.mortar := rfl
@[simp] theorem State.wrReg_ingest (a : Nat) (v : RegWord) : (s.wrReg a v).ingest = s.ingest := rfl
@[simp] theorem State.wrReg_plumb (a : Nat) (v : RegWord) : (s.wrReg a v).plumb = s.plumb := rfl
@[simp] theorem State.wrReg_render (a : Nat) (v : RegWord) : (s.wrReg a v).render = s.render := rfl
@[simp] theorem State.wrReg_cond (a : Nat) (v : RegWord) : (s.wrReg a v).cond = s.cond := rfl
@[simp] theorem State.wrReg_strands (a : Nat) (v : RegWord) : (s.wrReg a v).strands = s.strands := rfl
@[simp] theorem State.wrReg_trowel (a : Nat) (v : RegWord) : (s.wrReg a v).trowel = s.trowel := rfl
@[simp] theorem State.wrReg_zip (a : Nat) (v : RegWord) : (s.wrReg a v).zip = s.zip := rfl
@[simp] theorem State.wrReg_cam (a : Nat) (v : RegWord) : (s.wrReg a v).cam = s.cam := rfl
@[simp] theorem State.wrReg_mbox (a : Nat) (v : RegWord) : (s.wrReg a v).mbox = s.mbox := rfl
@[simp] theorem State.wrReg_board (a : Nat) (v : RegWord) : (s.wrReg a v).board = s.board := rfl
@[simp] theorem State.wrReg_ledger (a : Nat) (v : RegWord) : (s.wrReg a v).ledger = s.ledger := rfl
@[simp] theorem State.wrReg_trust (a : Nat) (v : RegWord) : (s.wrReg a v).trust = s.trust := rfl
@[simp] theorem State.wrReg_pending (a : Nat) (v : RegWord) : (s.wrReg a v).pending = s.pending := rfl

/-! ### set -/

@[simp] theorem State.set_latches (f : Fld) (v i j : Nat) : (s.set f v i j).latches = s.latches := rfl
@[simp] theorem State.set_holds (f : Fld) (v i j : Nat) : (s.set f v i j).holds = s.holds := rfl
@[simp] theorem State.set_mem (f : Fld) (v i j : Nat) : (s.set f v i j).mem = s.mem := rfl
@[simp] theorem State.set_poison (f : Fld) (v i j : Nat) : (s.set f v i j).poison = s.poison := rfl
@[simp] theorem State.set_now (f : Fld) (v i j : Nat) : (s.set f v i j).now = s.now := rfl
@[simp] theorem State.set_nowFrac (f : Fld) (v i j : Nat) : (s.set f v i j).nowFrac = s.nowFrac := rfl
@[simp] theorem State.set_upNs (f : Fld) (v i j : Nat) : (s.set f v i j).upNs = s.upNs := rfl
@[simp] theorem State.set_upFrac (f : Fld) (v i j : Nat) : (s.set f v i j).upFrac = s.upFrac := rfl
@[simp] theorem State.set_freeCtr (f : Fld) (v i j : Nat) : (s.set f v i j).freeCtr = s.freeCtr := rfl
@[simp] theorem State.set_readData (f : Fld) (v i j : Nat) : (s.set f v i j).readData = s.readData := rfl
@[simp] theorem State.set_out (f : Fld) (v i j : Nat) : (s.set f v i j).out = s.out := rfl
@[simp] theorem State.set_cores (f : Fld) (v i j : Nat) : (s.set f v i j).cores = s.cores := rfl
@[simp] theorem State.set_perf (f : Fld) (v i j : Nat) : (s.set f v i j).perf = s.perf := rfl
@[simp] theorem State.set_dram (f : Fld) (v i j : Nat) : (s.set f v i j).dram = s.dram := rfl
@[simp] theorem State.set_host (f : Fld) (v i j : Nat) : (s.set f v i j).host = s.host := rfl
@[simp] theorem State.set_stroke (f : Fld) (v i j : Nat) : (s.set f v i j).stroke = s.stroke := rfl
@[simp] theorem State.set_time (f : Fld) (v i j : Nat) : (s.set f v i j).time = s.time := rfl
@[simp] theorem State.set_mortar (f : Fld) (v i j : Nat) : (s.set f v i j).mortar = s.mortar := rfl
@[simp] theorem State.set_ingest (f : Fld) (v i j : Nat) : (s.set f v i j).ingest = s.ingest := rfl
@[simp] theorem State.set_plumb (f : Fld) (v i j : Nat) : (s.set f v i j).plumb = s.plumb := rfl
@[simp] theorem State.set_render (f : Fld) (v i j : Nat) : (s.set f v i j).render = s.render := rfl
@[simp] theorem State.set_cond (f : Fld) (v i j : Nat) : (s.set f v i j).cond = s.cond := rfl
@[simp] theorem State.set_strands (f : Fld) (v i j : Nat) : (s.set f v i j).strands = s.strands := rfl
@[simp] theorem State.set_trowel (f : Fld) (v i j : Nat) : (s.set f v i j).trowel = s.trowel := rfl
@[simp] theorem State.set_zip (f : Fld) (v i j : Nat) : (s.set f v i j).zip = s.zip := rfl
@[simp] theorem State.set_cam (f : Fld) (v i j : Nat) : (s.set f v i j).cam = s.cam := rfl
@[simp] theorem State.set_mbox (f : Fld) (v i j : Nat) : (s.set f v i j).mbox = s.mbox := rfl
@[simp] theorem State.set_board (f : Fld) (v i j : Nat) : (s.set f v i j).board = s.board := rfl
@[simp] theorem State.set_ledger (f : Fld) (v i j : Nat) : (s.set f v i j).ledger = s.ledger := rfl
@[simp] theorem State.set_trust (f : Fld) (v i j : Nat) : (s.set f v i j).trust = s.trust := rfl
@[simp] theorem State.set_pending (f : Fld) (v i j : Nat) : (s.set f v i j).pending = s.pending := rfl

/-! ### wr -/

@[simp] theorem State.wr_latches (r : Rg) (v i j : Nat) : (s.wr r v i j).latches = s.latches := rfl
@[simp] theorem State.wr_holds (r : Rg) (v i j : Nat) : (s.wr r v i j).holds = s.holds := rfl
@[simp] theorem State.wr_mem (r : Rg) (v i j : Nat) : (s.wr r v i j).mem = s.mem := rfl
@[simp] theorem State.wr_poison (r : Rg) (v i j : Nat) : (s.wr r v i j).poison = s.poison := rfl
@[simp] theorem State.wr_now (r : Rg) (v i j : Nat) : (s.wr r v i j).now = s.now := rfl
@[simp] theorem State.wr_nowFrac (r : Rg) (v i j : Nat) : (s.wr r v i j).nowFrac = s.nowFrac := rfl
@[simp] theorem State.wr_upNs (r : Rg) (v i j : Nat) : (s.wr r v i j).upNs = s.upNs := rfl
@[simp] theorem State.wr_upFrac (r : Rg) (v i j : Nat) : (s.wr r v i j).upFrac = s.upFrac := rfl
@[simp] theorem State.wr_freeCtr (r : Rg) (v i j : Nat) : (s.wr r v i j).freeCtr = s.freeCtr := rfl
@[simp] theorem State.wr_readData (r : Rg) (v i j : Nat) : (s.wr r v i j).readData = s.readData := rfl
@[simp] theorem State.wr_out (r : Rg) (v i j : Nat) : (s.wr r v i j).out = s.out := rfl
@[simp] theorem State.wr_cores (r : Rg) (v i j : Nat) : (s.wr r v i j).cores = s.cores := rfl
@[simp] theorem State.wr_perf (r : Rg) (v i j : Nat) : (s.wr r v i j).perf = s.perf := rfl
@[simp] theorem State.wr_dram (r : Rg) (v i j : Nat) : (s.wr r v i j).dram = s.dram := rfl
@[simp] theorem State.wr_host (r : Rg) (v i j : Nat) : (s.wr r v i j).host = s.host := rfl
@[simp] theorem State.wr_stroke (r : Rg) (v i j : Nat) : (s.wr r v i j).stroke = s.stroke := rfl
@[simp] theorem State.wr_time (r : Rg) (v i j : Nat) : (s.wr r v i j).time = s.time := rfl
@[simp] theorem State.wr_mortar (r : Rg) (v i j : Nat) : (s.wr r v i j).mortar = s.mortar := rfl
@[simp] theorem State.wr_ingest (r : Rg) (v i j : Nat) : (s.wr r v i j).ingest = s.ingest := rfl
@[simp] theorem State.wr_plumb (r : Rg) (v i j : Nat) : (s.wr r v i j).plumb = s.plumb := rfl
@[simp] theorem State.wr_render (r : Rg) (v i j : Nat) : (s.wr r v i j).render = s.render := rfl
@[simp] theorem State.wr_cond (r : Rg) (v i j : Nat) : (s.wr r v i j).cond = s.cond := rfl
@[simp] theorem State.wr_strands (r : Rg) (v i j : Nat) : (s.wr r v i j).strands = s.strands := rfl
@[simp] theorem State.wr_trowel (r : Rg) (v i j : Nat) : (s.wr r v i j).trowel = s.trowel := rfl
@[simp] theorem State.wr_zip (r : Rg) (v i j : Nat) : (s.wr r v i j).zip = s.zip := rfl
@[simp] theorem State.wr_cam (r : Rg) (v i j : Nat) : (s.wr r v i j).cam = s.cam := rfl
@[simp] theorem State.wr_mbox (r : Rg) (v i j : Nat) : (s.wr r v i j).mbox = s.mbox := rfl
@[simp] theorem State.wr_board (r : Rg) (v i j : Nat) : (s.wr r v i j).board = s.board := rfl
@[simp] theorem State.wr_ledger (r : Rg) (v i j : Nat) : (s.wr r v i j).ledger = s.ledger := rfl
@[simp] theorem State.wr_trust (r : Rg) (v i j : Nat) : (s.wr r v i j).trust = s.trust := rfl
@[simp] theorem State.wr_pending (r : Rg) (v i j : Nat) : (s.wr r v i j).pending = s.pending := rfl

/-! ### wr64 -/

@[simp] theorem State.wr64_latches (r : Rg) (v i j : Nat) : (s.wr64 r v i j).latches = s.latches := rfl
@[simp] theorem State.wr64_holds (r : Rg) (v i j : Nat) : (s.wr64 r v i j).holds = s.holds := rfl
@[simp] theorem State.wr64_mem (r : Rg) (v i j : Nat) : (s.wr64 r v i j).mem = s.mem := rfl
@[simp] theorem State.wr64_poison (r : Rg) (v i j : Nat) : (s.wr64 r v i j).poison = s.poison := rfl
@[simp] theorem State.wr64_now (r : Rg) (v i j : Nat) : (s.wr64 r v i j).now = s.now := rfl
@[simp] theorem State.wr64_nowFrac (r : Rg) (v i j : Nat) : (s.wr64 r v i j).nowFrac = s.nowFrac := rfl
@[simp] theorem State.wr64_upNs (r : Rg) (v i j : Nat) : (s.wr64 r v i j).upNs = s.upNs := rfl
@[simp] theorem State.wr64_upFrac (r : Rg) (v i j : Nat) : (s.wr64 r v i j).upFrac = s.upFrac := rfl
@[simp] theorem State.wr64_freeCtr (r : Rg) (v i j : Nat) : (s.wr64 r v i j).freeCtr = s.freeCtr := rfl
@[simp] theorem State.wr64_readData (r : Rg) (v i j : Nat) : (s.wr64 r v i j).readData = s.readData := rfl
@[simp] theorem State.wr64_out (r : Rg) (v i j : Nat) : (s.wr64 r v i j).out = s.out := rfl
@[simp] theorem State.wr64_cores (r : Rg) (v i j : Nat) : (s.wr64 r v i j).cores = s.cores := rfl
@[simp] theorem State.wr64_perf (r : Rg) (v i j : Nat) : (s.wr64 r v i j).perf = s.perf := rfl
@[simp] theorem State.wr64_dram (r : Rg) (v i j : Nat) : (s.wr64 r v i j).dram = s.dram := rfl
@[simp] theorem State.wr64_host (r : Rg) (v i j : Nat) : (s.wr64 r v i j).host = s.host := rfl
@[simp] theorem State.wr64_stroke (r : Rg) (v i j : Nat) : (s.wr64 r v i j).stroke = s.stroke := rfl
@[simp] theorem State.wr64_time (r : Rg) (v i j : Nat) : (s.wr64 r v i j).time = s.time := rfl
@[simp] theorem State.wr64_mortar (r : Rg) (v i j : Nat) : (s.wr64 r v i j).mortar = s.mortar := rfl
@[simp] theorem State.wr64_ingest (r : Rg) (v i j : Nat) : (s.wr64 r v i j).ingest = s.ingest := rfl
@[simp] theorem State.wr64_plumb (r : Rg) (v i j : Nat) : (s.wr64 r v i j).plumb = s.plumb := rfl
@[simp] theorem State.wr64_render (r : Rg) (v i j : Nat) : (s.wr64 r v i j).render = s.render := rfl
@[simp] theorem State.wr64_cond (r : Rg) (v i j : Nat) : (s.wr64 r v i j).cond = s.cond := rfl
@[simp] theorem State.wr64_strands (r : Rg) (v i j : Nat) : (s.wr64 r v i j).strands = s.strands := rfl
@[simp] theorem State.wr64_trowel (r : Rg) (v i j : Nat) : (s.wr64 r v i j).trowel = s.trowel := rfl
@[simp] theorem State.wr64_zip (r : Rg) (v i j : Nat) : (s.wr64 r v i j).zip = s.zip := rfl
@[simp] theorem State.wr64_cam (r : Rg) (v i j : Nat) : (s.wr64 r v i j).cam = s.cam := rfl
@[simp] theorem State.wr64_mbox (r : Rg) (v i j : Nat) : (s.wr64 r v i j).mbox = s.mbox := rfl
@[simp] theorem State.wr64_board (r : Rg) (v i j : Nat) : (s.wr64 r v i j).board = s.board := rfl
@[simp] theorem State.wr64_ledger (r : Rg) (v i j : Nat) : (s.wr64 r v i j).ledger = s.ledger := rfl
@[simp] theorem State.wr64_trust (r : Rg) (v i j : Nat) : (s.wr64 r v i j).trust = s.trust := rfl
@[simp] theorem State.wr64_pending (r : Rg) (v i j : Nat) : (s.wr64 r v i j).pending = s.pending := rfl

/-! ### incWrap -/

@[simp] theorem State.incWrap_latches (r : Rg) (n i j : Nat) : (s.incWrap r n i j).latches = s.latches := rfl
@[simp] theorem State.incWrap_holds (r : Rg) (n i j : Nat) : (s.incWrap r n i j).holds = s.holds := rfl
@[simp] theorem State.incWrap_mem (r : Rg) (n i j : Nat) : (s.incWrap r n i j).mem = s.mem := rfl
@[simp] theorem State.incWrap_poison (r : Rg) (n i j : Nat) : (s.incWrap r n i j).poison = s.poison := rfl
@[simp] theorem State.incWrap_now (r : Rg) (n i j : Nat) : (s.incWrap r n i j).now = s.now := rfl
@[simp] theorem State.incWrap_nowFrac (r : Rg) (n i j : Nat) : (s.incWrap r n i j).nowFrac = s.nowFrac := rfl
@[simp] theorem State.incWrap_upNs (r : Rg) (n i j : Nat) : (s.incWrap r n i j).upNs = s.upNs := rfl
@[simp] theorem State.incWrap_upFrac (r : Rg) (n i j : Nat) : (s.incWrap r n i j).upFrac = s.upFrac := rfl
@[simp] theorem State.incWrap_freeCtr (r : Rg) (n i j : Nat) : (s.incWrap r n i j).freeCtr = s.freeCtr := rfl
@[simp] theorem State.incWrap_readData (r : Rg) (n i j : Nat) : (s.incWrap r n i j).readData = s.readData := rfl
@[simp] theorem State.incWrap_out (r : Rg) (n i j : Nat) : (s.incWrap r n i j).out = s.out := rfl
@[simp] theorem State.incWrap_cores (r : Rg) (n i j : Nat) : (s.incWrap r n i j).cores = s.cores := rfl
@[simp] theorem State.incWrap_perf (r : Rg) (n i j : Nat) : (s.incWrap r n i j).perf = s.perf := rfl
@[simp] theorem State.incWrap_dram (r : Rg) (n i j : Nat) : (s.incWrap r n i j).dram = s.dram := rfl
@[simp] theorem State.incWrap_host (r : Rg) (n i j : Nat) : (s.incWrap r n i j).host = s.host := rfl
@[simp] theorem State.incWrap_stroke (r : Rg) (n i j : Nat) : (s.incWrap r n i j).stroke = s.stroke := rfl
@[simp] theorem State.incWrap_time (r : Rg) (n i j : Nat) : (s.incWrap r n i j).time = s.time := rfl
@[simp] theorem State.incWrap_mortar (r : Rg) (n i j : Nat) : (s.incWrap r n i j).mortar = s.mortar := rfl
@[simp] theorem State.incWrap_ingest (r : Rg) (n i j : Nat) : (s.incWrap r n i j).ingest = s.ingest := rfl
@[simp] theorem State.incWrap_plumb (r : Rg) (n i j : Nat) : (s.incWrap r n i j).plumb = s.plumb := rfl
@[simp] theorem State.incWrap_render (r : Rg) (n i j : Nat) : (s.incWrap r n i j).render = s.render := rfl
@[simp] theorem State.incWrap_cond (r : Rg) (n i j : Nat) : (s.incWrap r n i j).cond = s.cond := rfl
@[simp] theorem State.incWrap_strands (r : Rg) (n i j : Nat) : (s.incWrap r n i j).strands = s.strands := rfl
@[simp] theorem State.incWrap_trowel (r : Rg) (n i j : Nat) : (s.incWrap r n i j).trowel = s.trowel := rfl
@[simp] theorem State.incWrap_zip (r : Rg) (n i j : Nat) : (s.incWrap r n i j).zip = s.zip := rfl
@[simp] theorem State.incWrap_cam (r : Rg) (n i j : Nat) : (s.incWrap r n i j).cam = s.cam := rfl
@[simp] theorem State.incWrap_mbox (r : Rg) (n i j : Nat) : (s.incWrap r n i j).mbox = s.mbox := rfl
@[simp] theorem State.incWrap_board (r : Rg) (n i j : Nat) : (s.incWrap r n i j).board = s.board := rfl
@[simp] theorem State.incWrap_ledger (r : Rg) (n i j : Nat) : (s.incWrap r n i j).ledger = s.ledger := rfl
@[simp] theorem State.incWrap_trust (r : Rg) (n i j : Nat) : (s.incWrap r n i j).trust = s.trust := rfl
@[simp] theorem State.incWrap_pending (r : Rg) (n i j : Nat) : (s.incWrap r n i j).pending = s.pending := rfl

/-! ### incSat -/

@[simp] theorem State.incSat_latches (r : Rg) (n i j : Nat) : (s.incSat r n i j).latches = s.latches := rfl
@[simp] theorem State.incSat_holds (r : Rg) (n i j : Nat) : (s.incSat r n i j).holds = s.holds := rfl
@[simp] theorem State.incSat_mem (r : Rg) (n i j : Nat) : (s.incSat r n i j).mem = s.mem := rfl
@[simp] theorem State.incSat_poison (r : Rg) (n i j : Nat) : (s.incSat r n i j).poison = s.poison := rfl
@[simp] theorem State.incSat_now (r : Rg) (n i j : Nat) : (s.incSat r n i j).now = s.now := rfl
@[simp] theorem State.incSat_nowFrac (r : Rg) (n i j : Nat) : (s.incSat r n i j).nowFrac = s.nowFrac := rfl
@[simp] theorem State.incSat_upNs (r : Rg) (n i j : Nat) : (s.incSat r n i j).upNs = s.upNs := rfl
@[simp] theorem State.incSat_upFrac (r : Rg) (n i j : Nat) : (s.incSat r n i j).upFrac = s.upFrac := rfl
@[simp] theorem State.incSat_freeCtr (r : Rg) (n i j : Nat) : (s.incSat r n i j).freeCtr = s.freeCtr := rfl
@[simp] theorem State.incSat_readData (r : Rg) (n i j : Nat) : (s.incSat r n i j).readData = s.readData := rfl
@[simp] theorem State.incSat_out (r : Rg) (n i j : Nat) : (s.incSat r n i j).out = s.out := rfl
@[simp] theorem State.incSat_cores (r : Rg) (n i j : Nat) : (s.incSat r n i j).cores = s.cores := rfl
@[simp] theorem State.incSat_perf (r : Rg) (n i j : Nat) : (s.incSat r n i j).perf = s.perf := rfl
@[simp] theorem State.incSat_dram (r : Rg) (n i j : Nat) : (s.incSat r n i j).dram = s.dram := rfl
@[simp] theorem State.incSat_host (r : Rg) (n i j : Nat) : (s.incSat r n i j).host = s.host := rfl
@[simp] theorem State.incSat_stroke (r : Rg) (n i j : Nat) : (s.incSat r n i j).stroke = s.stroke := rfl
@[simp] theorem State.incSat_time (r : Rg) (n i j : Nat) : (s.incSat r n i j).time = s.time := rfl
@[simp] theorem State.incSat_mortar (r : Rg) (n i j : Nat) : (s.incSat r n i j).mortar = s.mortar := rfl
@[simp] theorem State.incSat_ingest (r : Rg) (n i j : Nat) : (s.incSat r n i j).ingest = s.ingest := rfl
@[simp] theorem State.incSat_plumb (r : Rg) (n i j : Nat) : (s.incSat r n i j).plumb = s.plumb := rfl
@[simp] theorem State.incSat_render (r : Rg) (n i j : Nat) : (s.incSat r n i j).render = s.render := rfl
@[simp] theorem State.incSat_cond (r : Rg) (n i j : Nat) : (s.incSat r n i j).cond = s.cond := rfl
@[simp] theorem State.incSat_strands (r : Rg) (n i j : Nat) : (s.incSat r n i j).strands = s.strands := rfl
@[simp] theorem State.incSat_trowel (r : Rg) (n i j : Nat) : (s.incSat r n i j).trowel = s.trowel := rfl
@[simp] theorem State.incSat_zip (r : Rg) (n i j : Nat) : (s.incSat r n i j).zip = s.zip := rfl
@[simp] theorem State.incSat_cam (r : Rg) (n i j : Nat) : (s.incSat r n i j).cam = s.cam := rfl
@[simp] theorem State.incSat_mbox (r : Rg) (n i j : Nat) : (s.incSat r n i j).mbox = s.mbox := rfl
@[simp] theorem State.incSat_board (r : Rg) (n i j : Nat) : (s.incSat r n i j).board = s.board := rfl
@[simp] theorem State.incSat_ledger (r : Rg) (n i j : Nat) : (s.incSat r n i j).ledger = s.ledger := rfl
@[simp] theorem State.incSat_trust (r : Rg) (n i j : Nat) : (s.incSat r n i j).trust = s.trust := rfl
@[simp] theorem State.incSat_pending (r : Rg) (n i j : Nat) : (s.incSat r n i j).pending = s.pending := rfl

/-! ### inc64 -/

@[simp] theorem State.inc64_latches (r : Rg) (n i j : Nat) : (s.inc64 r n i j).latches = s.latches := rfl
@[simp] theorem State.inc64_holds (r : Rg) (n i j : Nat) : (s.inc64 r n i j).holds = s.holds := rfl
@[simp] theorem State.inc64_mem (r : Rg) (n i j : Nat) : (s.inc64 r n i j).mem = s.mem := rfl
@[simp] theorem State.inc64_poison (r : Rg) (n i j : Nat) : (s.inc64 r n i j).poison = s.poison := rfl
@[simp] theorem State.inc64_now (r : Rg) (n i j : Nat) : (s.inc64 r n i j).now = s.now := rfl
@[simp] theorem State.inc64_nowFrac (r : Rg) (n i j : Nat) : (s.inc64 r n i j).nowFrac = s.nowFrac := rfl
@[simp] theorem State.inc64_upNs (r : Rg) (n i j : Nat) : (s.inc64 r n i j).upNs = s.upNs := rfl
@[simp] theorem State.inc64_upFrac (r : Rg) (n i j : Nat) : (s.inc64 r n i j).upFrac = s.upFrac := rfl
@[simp] theorem State.inc64_freeCtr (r : Rg) (n i j : Nat) : (s.inc64 r n i j).freeCtr = s.freeCtr := rfl
@[simp] theorem State.inc64_readData (r : Rg) (n i j : Nat) : (s.inc64 r n i j).readData = s.readData := rfl
@[simp] theorem State.inc64_out (r : Rg) (n i j : Nat) : (s.inc64 r n i j).out = s.out := rfl
@[simp] theorem State.inc64_cores (r : Rg) (n i j : Nat) : (s.inc64 r n i j).cores = s.cores := rfl
@[simp] theorem State.inc64_perf (r : Rg) (n i j : Nat) : (s.inc64 r n i j).perf = s.perf := rfl
@[simp] theorem State.inc64_dram (r : Rg) (n i j : Nat) : (s.inc64 r n i j).dram = s.dram := rfl
@[simp] theorem State.inc64_host (r : Rg) (n i j : Nat) : (s.inc64 r n i j).host = s.host := rfl
@[simp] theorem State.inc64_stroke (r : Rg) (n i j : Nat) : (s.inc64 r n i j).stroke = s.stroke := rfl
@[simp] theorem State.inc64_time (r : Rg) (n i j : Nat) : (s.inc64 r n i j).time = s.time := rfl
@[simp] theorem State.inc64_mortar (r : Rg) (n i j : Nat) : (s.inc64 r n i j).mortar = s.mortar := rfl
@[simp] theorem State.inc64_ingest (r : Rg) (n i j : Nat) : (s.inc64 r n i j).ingest = s.ingest := rfl
@[simp] theorem State.inc64_plumb (r : Rg) (n i j : Nat) : (s.inc64 r n i j).plumb = s.plumb := rfl
@[simp] theorem State.inc64_render (r : Rg) (n i j : Nat) : (s.inc64 r n i j).render = s.render := rfl
@[simp] theorem State.inc64_cond (r : Rg) (n i j : Nat) : (s.inc64 r n i j).cond = s.cond := rfl
@[simp] theorem State.inc64_strands (r : Rg) (n i j : Nat) : (s.inc64 r n i j).strands = s.strands := rfl
@[simp] theorem State.inc64_trowel (r : Rg) (n i j : Nat) : (s.inc64 r n i j).trowel = s.trowel := rfl
@[simp] theorem State.inc64_zip (r : Rg) (n i j : Nat) : (s.inc64 r n i j).zip = s.zip := rfl
@[simp] theorem State.inc64_cam (r : Rg) (n i j : Nat) : (s.inc64 r n i j).cam = s.cam := rfl
@[simp] theorem State.inc64_mbox (r : Rg) (n i j : Nat) : (s.inc64 r n i j).mbox = s.mbox := rfl
@[simp] theorem State.inc64_board (r : Rg) (n i j : Nat) : (s.inc64 r n i j).board = s.board := rfl
@[simp] theorem State.inc64_ledger (r : Rg) (n i j : Nat) : (s.inc64 r n i j).ledger = s.ledger := rfl
@[simp] theorem State.inc64_trust (r : Rg) (n i j : Nat) : (s.inc64 r n i j).trust = s.trust := rfl
@[simp] theorem State.inc64_pending (r : Rg) (n i j : Nat) : (s.inc64 r n i j).pending = s.pending := rfl

/-! ### incFld -/

@[simp] theorem State.incFld_latches (f : Fld) (n i j : Nat) : (s.incFld f n i j).latches = s.latches := rfl
@[simp] theorem State.incFld_holds (f : Fld) (n i j : Nat) : (s.incFld f n i j).holds = s.holds := rfl
@[simp] theorem State.incFld_mem (f : Fld) (n i j : Nat) : (s.incFld f n i j).mem = s.mem := rfl
@[simp] theorem State.incFld_poison (f : Fld) (n i j : Nat) : (s.incFld f n i j).poison = s.poison := rfl
@[simp] theorem State.incFld_now (f : Fld) (n i j : Nat) : (s.incFld f n i j).now = s.now := rfl
@[simp] theorem State.incFld_nowFrac (f : Fld) (n i j : Nat) : (s.incFld f n i j).nowFrac = s.nowFrac := rfl
@[simp] theorem State.incFld_upNs (f : Fld) (n i j : Nat) : (s.incFld f n i j).upNs = s.upNs := rfl
@[simp] theorem State.incFld_upFrac (f : Fld) (n i j : Nat) : (s.incFld f n i j).upFrac = s.upFrac := rfl
@[simp] theorem State.incFld_freeCtr (f : Fld) (n i j : Nat) : (s.incFld f n i j).freeCtr = s.freeCtr := rfl
@[simp] theorem State.incFld_readData (f : Fld) (n i j : Nat) : (s.incFld f n i j).readData = s.readData := rfl
@[simp] theorem State.incFld_out (f : Fld) (n i j : Nat) : (s.incFld f n i j).out = s.out := rfl
@[simp] theorem State.incFld_cores (f : Fld) (n i j : Nat) : (s.incFld f n i j).cores = s.cores := rfl
@[simp] theorem State.incFld_perf (f : Fld) (n i j : Nat) : (s.incFld f n i j).perf = s.perf := rfl
@[simp] theorem State.incFld_dram (f : Fld) (n i j : Nat) : (s.incFld f n i j).dram = s.dram := rfl
@[simp] theorem State.incFld_host (f : Fld) (n i j : Nat) : (s.incFld f n i j).host = s.host := rfl
@[simp] theorem State.incFld_stroke (f : Fld) (n i j : Nat) : (s.incFld f n i j).stroke = s.stroke := rfl
@[simp] theorem State.incFld_time (f : Fld) (n i j : Nat) : (s.incFld f n i j).time = s.time := rfl
@[simp] theorem State.incFld_mortar (f : Fld) (n i j : Nat) : (s.incFld f n i j).mortar = s.mortar := rfl
@[simp] theorem State.incFld_ingest (f : Fld) (n i j : Nat) : (s.incFld f n i j).ingest = s.ingest := rfl
@[simp] theorem State.incFld_plumb (f : Fld) (n i j : Nat) : (s.incFld f n i j).plumb = s.plumb := rfl
@[simp] theorem State.incFld_render (f : Fld) (n i j : Nat) : (s.incFld f n i j).render = s.render := rfl
@[simp] theorem State.incFld_cond (f : Fld) (n i j : Nat) : (s.incFld f n i j).cond = s.cond := rfl
@[simp] theorem State.incFld_strands (f : Fld) (n i j : Nat) : (s.incFld f n i j).strands = s.strands := rfl
@[simp] theorem State.incFld_trowel (f : Fld) (n i j : Nat) : (s.incFld f n i j).trowel = s.trowel := rfl
@[simp] theorem State.incFld_zip (f : Fld) (n i j : Nat) : (s.incFld f n i j).zip = s.zip := rfl
@[simp] theorem State.incFld_cam (f : Fld) (n i j : Nat) : (s.incFld f n i j).cam = s.cam := rfl
@[simp] theorem State.incFld_mbox (f : Fld) (n i j : Nat) : (s.incFld f n i j).mbox = s.mbox := rfl
@[simp] theorem State.incFld_board (f : Fld) (n i j : Nat) : (s.incFld f n i j).board = s.board := rfl
@[simp] theorem State.incFld_ledger (f : Fld) (n i j : Nat) : (s.incFld f n i j).ledger = s.ledger := rfl
@[simp] theorem State.incFld_trust (f : Fld) (n i j : Nat) : (s.incFld f n i j).trust = s.trust := rfl
@[simp] theorem State.incFld_pending (f : Fld) (n i j : Nat) : (s.incFld f n i j).pending = s.pending := rfl

/-! ### incFldWrap -/

@[simp] theorem State.incFldWrap_latches (f : Fld) (n i j : Nat) : (s.incFldWrap f n i j).latches = s.latches := rfl
@[simp] theorem State.incFldWrap_holds (f : Fld) (n i j : Nat) : (s.incFldWrap f n i j).holds = s.holds := rfl
@[simp] theorem State.incFldWrap_mem (f : Fld) (n i j : Nat) : (s.incFldWrap f n i j).mem = s.mem := rfl
@[simp] theorem State.incFldWrap_poison (f : Fld) (n i j : Nat) : (s.incFldWrap f n i j).poison = s.poison := rfl
@[simp] theorem State.incFldWrap_now (f : Fld) (n i j : Nat) : (s.incFldWrap f n i j).now = s.now := rfl
@[simp] theorem State.incFldWrap_nowFrac (f : Fld) (n i j : Nat) : (s.incFldWrap f n i j).nowFrac = s.nowFrac := rfl
@[simp] theorem State.incFldWrap_upNs (f : Fld) (n i j : Nat) : (s.incFldWrap f n i j).upNs = s.upNs := rfl
@[simp] theorem State.incFldWrap_upFrac (f : Fld) (n i j : Nat) : (s.incFldWrap f n i j).upFrac = s.upFrac := rfl
@[simp] theorem State.incFldWrap_freeCtr (f : Fld) (n i j : Nat) : (s.incFldWrap f n i j).freeCtr = s.freeCtr := rfl
@[simp] theorem State.incFldWrap_readData (f : Fld) (n i j : Nat) : (s.incFldWrap f n i j).readData = s.readData := rfl
@[simp] theorem State.incFldWrap_out (f : Fld) (n i j : Nat) : (s.incFldWrap f n i j).out = s.out := rfl
@[simp] theorem State.incFldWrap_cores (f : Fld) (n i j : Nat) : (s.incFldWrap f n i j).cores = s.cores := rfl
@[simp] theorem State.incFldWrap_perf (f : Fld) (n i j : Nat) : (s.incFldWrap f n i j).perf = s.perf := rfl
@[simp] theorem State.incFldWrap_dram (f : Fld) (n i j : Nat) : (s.incFldWrap f n i j).dram = s.dram := rfl
@[simp] theorem State.incFldWrap_host (f : Fld) (n i j : Nat) : (s.incFldWrap f n i j).host = s.host := rfl
@[simp] theorem State.incFldWrap_stroke (f : Fld) (n i j : Nat) : (s.incFldWrap f n i j).stroke = s.stroke := rfl
@[simp] theorem State.incFldWrap_time (f : Fld) (n i j : Nat) : (s.incFldWrap f n i j).time = s.time := rfl
@[simp] theorem State.incFldWrap_mortar (f : Fld) (n i j : Nat) : (s.incFldWrap f n i j).mortar = s.mortar := rfl
@[simp] theorem State.incFldWrap_ingest (f : Fld) (n i j : Nat) : (s.incFldWrap f n i j).ingest = s.ingest := rfl
@[simp] theorem State.incFldWrap_plumb (f : Fld) (n i j : Nat) : (s.incFldWrap f n i j).plumb = s.plumb := rfl
@[simp] theorem State.incFldWrap_render (f : Fld) (n i j : Nat) : (s.incFldWrap f n i j).render = s.render := rfl
@[simp] theorem State.incFldWrap_cond (f : Fld) (n i j : Nat) : (s.incFldWrap f n i j).cond = s.cond := rfl
@[simp] theorem State.incFldWrap_strands (f : Fld) (n i j : Nat) : (s.incFldWrap f n i j).strands = s.strands := rfl
@[simp] theorem State.incFldWrap_trowel (f : Fld) (n i j : Nat) : (s.incFldWrap f n i j).trowel = s.trowel := rfl
@[simp] theorem State.incFldWrap_zip (f : Fld) (n i j : Nat) : (s.incFldWrap f n i j).zip = s.zip := rfl
@[simp] theorem State.incFldWrap_cam (f : Fld) (n i j : Nat) : (s.incFldWrap f n i j).cam = s.cam := rfl
@[simp] theorem State.incFldWrap_mbox (f : Fld) (n i j : Nat) : (s.incFldWrap f n i j).mbox = s.mbox := rfl
@[simp] theorem State.incFldWrap_board (f : Fld) (n i j : Nat) : (s.incFldWrap f n i j).board = s.board := rfl
@[simp] theorem State.incFldWrap_ledger (f : Fld) (n i j : Nat) : (s.incFldWrap f n i j).ledger = s.ledger := rfl
@[simp] theorem State.incFldWrap_trust (f : Fld) (n i j : Nat) : (s.incFldWrap f n i j).trust = s.trust := rfl
@[simp] theorem State.incFldWrap_pending (f : Fld) (n i j : Nat) : (s.incFldWrap f n i j).pending = s.pending := rfl

/-! ### setPoison -/

@[simp] theorem State.setPoison_regs (a : Nat) (p : Bool) : (s.setPoison a p).regs = s.regs := rfl
@[simp] theorem State.setPoison_latches (a : Nat) (p : Bool) : (s.setPoison a p).latches = s.latches := rfl
@[simp] theorem State.setPoison_holds (a : Nat) (p : Bool) : (s.setPoison a p).holds = s.holds := rfl
@[simp] theorem State.setPoison_mem (a : Nat) (p : Bool) : (s.setPoison a p).mem = s.mem := rfl
@[simp] theorem State.setPoison_now (a : Nat) (p : Bool) : (s.setPoison a p).now = s.now := rfl
@[simp] theorem State.setPoison_nowFrac (a : Nat) (p : Bool) : (s.setPoison a p).nowFrac = s.nowFrac := rfl
@[simp] theorem State.setPoison_upNs (a : Nat) (p : Bool) : (s.setPoison a p).upNs = s.upNs := rfl
@[simp] theorem State.setPoison_upFrac (a : Nat) (p : Bool) : (s.setPoison a p).upFrac = s.upFrac := rfl
@[simp] theorem State.setPoison_freeCtr (a : Nat) (p : Bool) : (s.setPoison a p).freeCtr = s.freeCtr := rfl
@[simp] theorem State.setPoison_readData (a : Nat) (p : Bool) : (s.setPoison a p).readData = s.readData := rfl
@[simp] theorem State.setPoison_out (a : Nat) (p : Bool) : (s.setPoison a p).out = s.out := rfl
@[simp] theorem State.setPoison_cores (a : Nat) (p : Bool) : (s.setPoison a p).cores = s.cores := rfl
@[simp] theorem State.setPoison_perf (a : Nat) (p : Bool) : (s.setPoison a p).perf = s.perf := rfl
@[simp] theorem State.setPoison_dram (a : Nat) (p : Bool) : (s.setPoison a p).dram = s.dram := rfl
@[simp] theorem State.setPoison_host (a : Nat) (p : Bool) : (s.setPoison a p).host = s.host := rfl
@[simp] theorem State.setPoison_stroke (a : Nat) (p : Bool) : (s.setPoison a p).stroke = s.stroke := rfl
@[simp] theorem State.setPoison_time (a : Nat) (p : Bool) : (s.setPoison a p).time = s.time := rfl
@[simp] theorem State.setPoison_mortar (a : Nat) (p : Bool) : (s.setPoison a p).mortar = s.mortar := rfl
@[simp] theorem State.setPoison_ingest (a : Nat) (p : Bool) : (s.setPoison a p).ingest = s.ingest := rfl
@[simp] theorem State.setPoison_plumb (a : Nat) (p : Bool) : (s.setPoison a p).plumb = s.plumb := rfl
@[simp] theorem State.setPoison_render (a : Nat) (p : Bool) : (s.setPoison a p).render = s.render := rfl
@[simp] theorem State.setPoison_cond (a : Nat) (p : Bool) : (s.setPoison a p).cond = s.cond := rfl
@[simp] theorem State.setPoison_strands (a : Nat) (p : Bool) : (s.setPoison a p).strands = s.strands := rfl
@[simp] theorem State.setPoison_trowel (a : Nat) (p : Bool) : (s.setPoison a p).trowel = s.trowel := rfl
@[simp] theorem State.setPoison_zip (a : Nat) (p : Bool) : (s.setPoison a p).zip = s.zip := rfl
@[simp] theorem State.setPoison_cam (a : Nat) (p : Bool) : (s.setPoison a p).cam = s.cam := rfl
@[simp] theorem State.setPoison_mbox (a : Nat) (p : Bool) : (s.setPoison a p).mbox = s.mbox := rfl
@[simp] theorem State.setPoison_board (a : Nat) (p : Bool) : (s.setPoison a p).board = s.board := rfl
@[simp] theorem State.setPoison_ledger (a : Nat) (p : Bool) : (s.setPoison a p).ledger = s.ledger := rfl
@[simp] theorem State.setPoison_trust (a : Nat) (p : Bool) : (s.setPoison a p).trust = s.trust := rfl
@[simp] theorem State.setPoison_pending (a : Nat) (p : Bool) : (s.setPoison a p).pending = s.pending := rfl

/-! ### clearPoison -/

@[simp] theorem State.clearPoison_regs (a n : Nat) : (s.clearPoison a n).regs = s.regs := rfl
@[simp] theorem State.clearPoison_latches (a n : Nat) : (s.clearPoison a n).latches = s.latches := rfl
@[simp] theorem State.clearPoison_holds (a n : Nat) : (s.clearPoison a n).holds = s.holds := rfl
@[simp] theorem State.clearPoison_mem (a n : Nat) : (s.clearPoison a n).mem = s.mem := rfl
@[simp] theorem State.clearPoison_now (a n : Nat) : (s.clearPoison a n).now = s.now := rfl
@[simp] theorem State.clearPoison_nowFrac (a n : Nat) : (s.clearPoison a n).nowFrac = s.nowFrac := rfl
@[simp] theorem State.clearPoison_upNs (a n : Nat) : (s.clearPoison a n).upNs = s.upNs := rfl
@[simp] theorem State.clearPoison_upFrac (a n : Nat) : (s.clearPoison a n).upFrac = s.upFrac := rfl
@[simp] theorem State.clearPoison_freeCtr (a n : Nat) : (s.clearPoison a n).freeCtr = s.freeCtr := rfl
@[simp] theorem State.clearPoison_readData (a n : Nat) : (s.clearPoison a n).readData = s.readData := rfl
@[simp] theorem State.clearPoison_out (a n : Nat) : (s.clearPoison a n).out = s.out := rfl
@[simp] theorem State.clearPoison_cores (a n : Nat) : (s.clearPoison a n).cores = s.cores := rfl
@[simp] theorem State.clearPoison_perf (a n : Nat) : (s.clearPoison a n).perf = s.perf := rfl
@[simp] theorem State.clearPoison_dram (a n : Nat) : (s.clearPoison a n).dram = s.dram := rfl
@[simp] theorem State.clearPoison_host (a n : Nat) : (s.clearPoison a n).host = s.host := rfl
@[simp] theorem State.clearPoison_stroke (a n : Nat) : (s.clearPoison a n).stroke = s.stroke := rfl
@[simp] theorem State.clearPoison_time (a n : Nat) : (s.clearPoison a n).time = s.time := rfl
@[simp] theorem State.clearPoison_mortar (a n : Nat) : (s.clearPoison a n).mortar = s.mortar := rfl
@[simp] theorem State.clearPoison_ingest (a n : Nat) : (s.clearPoison a n).ingest = s.ingest := rfl
@[simp] theorem State.clearPoison_plumb (a n : Nat) : (s.clearPoison a n).plumb = s.plumb := rfl
@[simp] theorem State.clearPoison_render (a n : Nat) : (s.clearPoison a n).render = s.render := rfl
@[simp] theorem State.clearPoison_cond (a n : Nat) : (s.clearPoison a n).cond = s.cond := rfl
@[simp] theorem State.clearPoison_strands (a n : Nat) : (s.clearPoison a n).strands = s.strands := rfl
@[simp] theorem State.clearPoison_trowel (a n : Nat) : (s.clearPoison a n).trowel = s.trowel := rfl
@[simp] theorem State.clearPoison_zip (a n : Nat) : (s.clearPoison a n).zip = s.zip := rfl
@[simp] theorem State.clearPoison_cam (a n : Nat) : (s.clearPoison a n).cam = s.cam := rfl
@[simp] theorem State.clearPoison_mbox (a n : Nat) : (s.clearPoison a n).mbox = s.mbox := rfl
@[simp] theorem State.clearPoison_board (a n : Nat) : (s.clearPoison a n).board = s.board := rfl
@[simp] theorem State.clearPoison_ledger (a n : Nat) : (s.clearPoison a n).ledger = s.ledger := rfl
@[simp] theorem State.clearPoison_trust (a n : Nat) : (s.clearPoison a n).trust = s.trust := rfl
@[simp] theorem State.clearPoison_pending (a n : Nat) : (s.clearPoison a n).pending = s.pending := rfl

/-! ### hold -/

@[simp] theorem State.hold_regs (who : Requester) (a v : Nat) : (s.hold who a v).regs = s.regs := rfl
@[simp] theorem State.hold_latches (who : Requester) (a v : Nat) : (s.hold who a v).latches = s.latches := rfl
@[simp] theorem State.hold_mem (who : Requester) (a v : Nat) : (s.hold who a v).mem = s.mem := rfl
@[simp] theorem State.hold_poison (who : Requester) (a v : Nat) : (s.hold who a v).poison = s.poison := rfl
@[simp] theorem State.hold_now (who : Requester) (a v : Nat) : (s.hold who a v).now = s.now := rfl
@[simp] theorem State.hold_nowFrac (who : Requester) (a v : Nat) : (s.hold who a v).nowFrac = s.nowFrac := rfl
@[simp] theorem State.hold_upNs (who : Requester) (a v : Nat) : (s.hold who a v).upNs = s.upNs := rfl
@[simp] theorem State.hold_upFrac (who : Requester) (a v : Nat) : (s.hold who a v).upFrac = s.upFrac := rfl
@[simp] theorem State.hold_freeCtr (who : Requester) (a v : Nat) : (s.hold who a v).freeCtr = s.freeCtr := rfl
@[simp] theorem State.hold_readData (who : Requester) (a v : Nat) : (s.hold who a v).readData = s.readData := rfl
@[simp] theorem State.hold_out (who : Requester) (a v : Nat) : (s.hold who a v).out = s.out := rfl
@[simp] theorem State.hold_cores (who : Requester) (a v : Nat) : (s.hold who a v).cores = s.cores := rfl
@[simp] theorem State.hold_perf (who : Requester) (a v : Nat) : (s.hold who a v).perf = s.perf := rfl
@[simp] theorem State.hold_dram (who : Requester) (a v : Nat) : (s.hold who a v).dram = s.dram := rfl
@[simp] theorem State.hold_host (who : Requester) (a v : Nat) : (s.hold who a v).host = s.host := rfl
@[simp] theorem State.hold_stroke (who : Requester) (a v : Nat) : (s.hold who a v).stroke = s.stroke := rfl
@[simp] theorem State.hold_time (who : Requester) (a v : Nat) : (s.hold who a v).time = s.time := rfl
@[simp] theorem State.hold_mortar (who : Requester) (a v : Nat) : (s.hold who a v).mortar = s.mortar := rfl
@[simp] theorem State.hold_ingest (who : Requester) (a v : Nat) : (s.hold who a v).ingest = s.ingest := rfl
@[simp] theorem State.hold_plumb (who : Requester) (a v : Nat) : (s.hold who a v).plumb = s.plumb := rfl
@[simp] theorem State.hold_render (who : Requester) (a v : Nat) : (s.hold who a v).render = s.render := rfl
@[simp] theorem State.hold_cond (who : Requester) (a v : Nat) : (s.hold who a v).cond = s.cond := rfl
@[simp] theorem State.hold_strands (who : Requester) (a v : Nat) : (s.hold who a v).strands = s.strands := rfl
@[simp] theorem State.hold_trowel (who : Requester) (a v : Nat) : (s.hold who a v).trowel = s.trowel := rfl
@[simp] theorem State.hold_zip (who : Requester) (a v : Nat) : (s.hold who a v).zip = s.zip := rfl
@[simp] theorem State.hold_cam (who : Requester) (a v : Nat) : (s.hold who a v).cam = s.cam := rfl
@[simp] theorem State.hold_mbox (who : Requester) (a v : Nat) : (s.hold who a v).mbox = s.mbox := rfl
@[simp] theorem State.hold_board (who : Requester) (a v : Nat) : (s.hold who a v).board = s.board := rfl
@[simp] theorem State.hold_ledger (who : Requester) (a v : Nat) : (s.hold who a v).ledger = s.ledger := rfl
@[simp] theorem State.hold_trust (who : Requester) (a v : Nat) : (s.hold who a v).trust = s.trust := rfl
@[simp] theorem State.hold_pending (who : Requester) (a v : Nat) : (s.hold who a v).pending = s.pending := rfl

/-! ### setDom -/

@[simp] theorem State.setDom_regs (d : Nat) (x : PtpDomain) : (s.setDom d x).regs = s.regs := rfl
@[simp] theorem State.setDom_latches (d : Nat) (x : PtpDomain) : (s.setDom d x).latches = s.latches := rfl
@[simp] theorem State.setDom_holds (d : Nat) (x : PtpDomain) : (s.setDom d x).holds = s.holds := rfl
@[simp] theorem State.setDom_mem (d : Nat) (x : PtpDomain) : (s.setDom d x).mem = s.mem := rfl
@[simp] theorem State.setDom_poison (d : Nat) (x : PtpDomain) : (s.setDom d x).poison = s.poison := rfl
@[simp] theorem State.setDom_now (d : Nat) (x : PtpDomain) : (s.setDom d x).now = s.now := rfl
@[simp] theorem State.setDom_nowFrac (d : Nat) (x : PtpDomain) : (s.setDom d x).nowFrac = s.nowFrac := rfl
@[simp] theorem State.setDom_upNs (d : Nat) (x : PtpDomain) : (s.setDom d x).upNs = s.upNs := rfl
@[simp] theorem State.setDom_upFrac (d : Nat) (x : PtpDomain) : (s.setDom d x).upFrac = s.upFrac := rfl
@[simp] theorem State.setDom_freeCtr (d : Nat) (x : PtpDomain) : (s.setDom d x).freeCtr = s.freeCtr := rfl
@[simp] theorem State.setDom_readData (d : Nat) (x : PtpDomain) : (s.setDom d x).readData = s.readData := rfl
@[simp] theorem State.setDom_out (d : Nat) (x : PtpDomain) : (s.setDom d x).out = s.out := rfl
@[simp] theorem State.setDom_cores (d : Nat) (x : PtpDomain) : (s.setDom d x).cores = s.cores := rfl
@[simp] theorem State.setDom_perf (d : Nat) (x : PtpDomain) : (s.setDom d x).perf = s.perf := rfl
@[simp] theorem State.setDom_dram (d : Nat) (x : PtpDomain) : (s.setDom d x).dram = s.dram := rfl
@[simp] theorem State.setDom_host (d : Nat) (x : PtpDomain) : (s.setDom d x).host = s.host := rfl
@[simp] theorem State.setDom_stroke (d : Nat) (x : PtpDomain) : (s.setDom d x).stroke = s.stroke := rfl
@[simp] theorem State.setDom_mortar (d : Nat) (x : PtpDomain) : (s.setDom d x).mortar = s.mortar := rfl
@[simp] theorem State.setDom_ingest (d : Nat) (x : PtpDomain) : (s.setDom d x).ingest = s.ingest := rfl
@[simp] theorem State.setDom_plumb (d : Nat) (x : PtpDomain) : (s.setDom d x).plumb = s.plumb := rfl
@[simp] theorem State.setDom_render (d : Nat) (x : PtpDomain) : (s.setDom d x).render = s.render := rfl
@[simp] theorem State.setDom_cond (d : Nat) (x : PtpDomain) : (s.setDom d x).cond = s.cond := rfl
@[simp] theorem State.setDom_strands (d : Nat) (x : PtpDomain) : (s.setDom d x).strands = s.strands := rfl
@[simp] theorem State.setDom_trowel (d : Nat) (x : PtpDomain) : (s.setDom d x).trowel = s.trowel := rfl
@[simp] theorem State.setDom_zip (d : Nat) (x : PtpDomain) : (s.setDom d x).zip = s.zip := rfl
@[simp] theorem State.setDom_cam (d : Nat) (x : PtpDomain) : (s.setDom d x).cam = s.cam := rfl
@[simp] theorem State.setDom_mbox (d : Nat) (x : PtpDomain) : (s.setDom d x).mbox = s.mbox := rfl
@[simp] theorem State.setDom_board (d : Nat) (x : PtpDomain) : (s.setDom d x).board = s.board := rfl
@[simp] theorem State.setDom_ledger (d : Nat) (x : PtpDomain) : (s.setDom d x).ledger = s.ledger := rfl
@[simp] theorem State.setDom_trust (d : Nat) (x : PtpDomain) : (s.setDom d x).trust = s.trust := rfl
@[simp] theorem State.setDom_pending (d : Nat) (x : PtpDomain) : (s.setDom d x).pending = s.pending := rfl

/-! ### upd -/

@[simp] theorem State.upd_regs (n : Nat) (f : Core → Core) : (s.upd n f).regs = s.regs := rfl
@[simp] theorem State.upd_latches (n : Nat) (f : Core → Core) : (s.upd n f).latches = s.latches := rfl
@[simp] theorem State.upd_holds (n : Nat) (f : Core → Core) : (s.upd n f).holds = s.holds := rfl
@[simp] theorem State.upd_mem (n : Nat) (f : Core → Core) : (s.upd n f).mem = s.mem := rfl
@[simp] theorem State.upd_poison (n : Nat) (f : Core → Core) : (s.upd n f).poison = s.poison := rfl
@[simp] theorem State.upd_now (n : Nat) (f : Core → Core) : (s.upd n f).now = s.now := rfl
@[simp] theorem State.upd_nowFrac (n : Nat) (f : Core → Core) : (s.upd n f).nowFrac = s.nowFrac := rfl
@[simp] theorem State.upd_upNs (n : Nat) (f : Core → Core) : (s.upd n f).upNs = s.upNs := rfl
@[simp] theorem State.upd_upFrac (n : Nat) (f : Core → Core) : (s.upd n f).upFrac = s.upFrac := rfl
@[simp] theorem State.upd_freeCtr (n : Nat) (f : Core → Core) : (s.upd n f).freeCtr = s.freeCtr := rfl
@[simp] theorem State.upd_readData (n : Nat) (f : Core → Core) : (s.upd n f).readData = s.readData := rfl
@[simp] theorem State.upd_out (n : Nat) (f : Core → Core) : (s.upd n f).out = s.out := rfl
@[simp] theorem State.upd_perf (n : Nat) (f : Core → Core) : (s.upd n f).perf = s.perf := rfl
@[simp] theorem State.upd_dram (n : Nat) (f : Core → Core) : (s.upd n f).dram = s.dram := rfl
@[simp] theorem State.upd_host (n : Nat) (f : Core → Core) : (s.upd n f).host = s.host := rfl
@[simp] theorem State.upd_stroke (n : Nat) (f : Core → Core) : (s.upd n f).stroke = s.stroke := rfl
@[simp] theorem State.upd_time (n : Nat) (f : Core → Core) : (s.upd n f).time = s.time := rfl
@[simp] theorem State.upd_mortar (n : Nat) (f : Core → Core) : (s.upd n f).mortar = s.mortar := rfl
@[simp] theorem State.upd_ingest (n : Nat) (f : Core → Core) : (s.upd n f).ingest = s.ingest := rfl
@[simp] theorem State.upd_plumb (n : Nat) (f : Core → Core) : (s.upd n f).plumb = s.plumb := rfl
@[simp] theorem State.upd_render (n : Nat) (f : Core → Core) : (s.upd n f).render = s.render := rfl
@[simp] theorem State.upd_cond (n : Nat) (f : Core → Core) : (s.upd n f).cond = s.cond := rfl
@[simp] theorem State.upd_strands (n : Nat) (f : Core → Core) : (s.upd n f).strands = s.strands := rfl
@[simp] theorem State.upd_trowel (n : Nat) (f : Core → Core) : (s.upd n f).trowel = s.trowel := rfl
@[simp] theorem State.upd_zip (n : Nat) (f : Core → Core) : (s.upd n f).zip = s.zip := rfl
@[simp] theorem State.upd_cam (n : Nat) (f : Core → Core) : (s.upd n f).cam = s.cam := rfl
@[simp] theorem State.upd_mbox (n : Nat) (f : Core → Core) : (s.upd n f).mbox = s.mbox := rfl
@[simp] theorem State.upd_board (n : Nat) (f : Core → Core) : (s.upd n f).board = s.board := rfl
@[simp] theorem State.upd_ledger (n : Nat) (f : Core → Core) : (s.upd n f).ledger = s.ledger := rfl
@[simp] theorem State.upd_trust (n : Nat) (f : Core → Core) : (s.upd n f).trust = s.trust := rfl
@[simp] theorem State.upd_pending (n : Nat) (f : Core → Core) : (s.upd n f).pending = s.pending := rfl

/-! ### typedWr -/

@[simp] theorem State.typedWr_latches (a : Nat) (v : RegWord) : (s.typedWr a v).latches = s.latches := rfl
@[simp] theorem State.typedWr_holds (a : Nat) (v : RegWord) : (s.typedWr a v).holds = s.holds := rfl
@[simp] theorem State.typedWr_mem (a : Nat) (v : RegWord) : (s.typedWr a v).mem = s.mem := rfl
@[simp] theorem State.typedWr_poison (a : Nat) (v : RegWord) : (s.typedWr a v).poison = s.poison := rfl
@[simp] theorem State.typedWr_now (a : Nat) (v : RegWord) : (s.typedWr a v).now = s.now := rfl
@[simp] theorem State.typedWr_nowFrac (a : Nat) (v : RegWord) : (s.typedWr a v).nowFrac = s.nowFrac := rfl
@[simp] theorem State.typedWr_upNs (a : Nat) (v : RegWord) : (s.typedWr a v).upNs = s.upNs := rfl
@[simp] theorem State.typedWr_upFrac (a : Nat) (v : RegWord) : (s.typedWr a v).upFrac = s.upFrac := rfl
@[simp] theorem State.typedWr_freeCtr (a : Nat) (v : RegWord) : (s.typedWr a v).freeCtr = s.freeCtr := rfl
@[simp] theorem State.typedWr_readData (a : Nat) (v : RegWord) : (s.typedWr a v).readData = s.readData := rfl
@[simp] theorem State.typedWr_out (a : Nat) (v : RegWord) : (s.typedWr a v).out = s.out := rfl
@[simp] theorem State.typedWr_cores (a : Nat) (v : RegWord) : (s.typedWr a v).cores = s.cores := rfl
@[simp] theorem State.typedWr_perf (a : Nat) (v : RegWord) : (s.typedWr a v).perf = s.perf := rfl
@[simp] theorem State.typedWr_dram (a : Nat) (v : RegWord) : (s.typedWr a v).dram = s.dram := rfl
@[simp] theorem State.typedWr_host (a : Nat) (v : RegWord) : (s.typedWr a v).host = s.host := rfl
@[simp] theorem State.typedWr_stroke (a : Nat) (v : RegWord) : (s.typedWr a v).stroke = s.stroke := rfl
@[simp] theorem State.typedWr_time (a : Nat) (v : RegWord) : (s.typedWr a v).time = s.time := rfl
@[simp] theorem State.typedWr_mortar (a : Nat) (v : RegWord) : (s.typedWr a v).mortar = s.mortar := rfl
@[simp] theorem State.typedWr_ingest (a : Nat) (v : RegWord) : (s.typedWr a v).ingest = s.ingest := rfl
@[simp] theorem State.typedWr_plumb (a : Nat) (v : RegWord) : (s.typedWr a v).plumb = s.plumb := rfl
@[simp] theorem State.typedWr_render (a : Nat) (v : RegWord) : (s.typedWr a v).render = s.render := rfl
@[simp] theorem State.typedWr_cond (a : Nat) (v : RegWord) : (s.typedWr a v).cond = s.cond := rfl
@[simp] theorem State.typedWr_strands (a : Nat) (v : RegWord) : (s.typedWr a v).strands = s.strands := rfl
@[simp] theorem State.typedWr_trowel (a : Nat) (v : RegWord) : (s.typedWr a v).trowel = s.trowel := rfl
@[simp] theorem State.typedWr_zip (a : Nat) (v : RegWord) : (s.typedWr a v).zip = s.zip := rfl
@[simp] theorem State.typedWr_cam (a : Nat) (v : RegWord) : (s.typedWr a v).cam = s.cam := rfl
@[simp] theorem State.typedWr_mbox (a : Nat) (v : RegWord) : (s.typedWr a v).mbox = s.mbox := rfl
@[simp] theorem State.typedWr_board (a : Nat) (v : RegWord) : (s.typedWr a v).board = s.board := rfl
@[simp] theorem State.typedWr_ledger (a : Nat) (v : RegWord) : (s.typedWr a v).ledger = s.ledger := rfl
@[simp] theorem State.typedWr_trust (a : Nat) (v : RegWord) : (s.typedWr a v).trust = s.trust := rfl
@[simp] theorem State.typedWr_pending (a : Nat) (v : RegWord) : (s.typedWr a v).pending = s.pending := rfl

/-! ### commitPair -/

@[simp] theorem State.commitPair_latches (who : Requester) (a : Nat) (v : RegWord) : (s.commitPair who a v).latches = s.latches := rfl
@[simp] theorem State.commitPair_holds (who : Requester) (a : Nat) (v : RegWord) : (s.commitPair who a v).holds = s.holds := rfl
@[simp] theorem State.commitPair_mem (who : Requester) (a : Nat) (v : RegWord) : (s.commitPair who a v).mem = s.mem := rfl
@[simp] theorem State.commitPair_poison (who : Requester) (a : Nat) (v : RegWord) : (s.commitPair who a v).poison = s.poison := rfl
@[simp] theorem State.commitPair_now (who : Requester) (a : Nat) (v : RegWord) : (s.commitPair who a v).now = s.now := rfl
@[simp] theorem State.commitPair_nowFrac (who : Requester) (a : Nat) (v : RegWord) : (s.commitPair who a v).nowFrac = s.nowFrac := rfl
@[simp] theorem State.commitPair_upNs (who : Requester) (a : Nat) (v : RegWord) : (s.commitPair who a v).upNs = s.upNs := rfl
@[simp] theorem State.commitPair_upFrac (who : Requester) (a : Nat) (v : RegWord) : (s.commitPair who a v).upFrac = s.upFrac := rfl
@[simp] theorem State.commitPair_freeCtr (who : Requester) (a : Nat) (v : RegWord) : (s.commitPair who a v).freeCtr = s.freeCtr := rfl
@[simp] theorem State.commitPair_readData (who : Requester) (a : Nat) (v : RegWord) : (s.commitPair who a v).readData = s.readData := rfl
@[simp] theorem State.commitPair_out (who : Requester) (a : Nat) (v : RegWord) : (s.commitPair who a v).out = s.out := rfl
@[simp] theorem State.commitPair_cores (who : Requester) (a : Nat) (v : RegWord) : (s.commitPair who a v).cores = s.cores := rfl
@[simp] theorem State.commitPair_perf (who : Requester) (a : Nat) (v : RegWord) : (s.commitPair who a v).perf = s.perf := rfl
@[simp] theorem State.commitPair_dram (who : Requester) (a : Nat) (v : RegWord) : (s.commitPair who a v).dram = s.dram := rfl
@[simp] theorem State.commitPair_host (who : Requester) (a : Nat) (v : RegWord) : (s.commitPair who a v).host = s.host := rfl
@[simp] theorem State.commitPair_stroke (who : Requester) (a : Nat) (v : RegWord) : (s.commitPair who a v).stroke = s.stroke := rfl
@[simp] theorem State.commitPair_time (who : Requester) (a : Nat) (v : RegWord) : (s.commitPair who a v).time = s.time := rfl
@[simp] theorem State.commitPair_mortar (who : Requester) (a : Nat) (v : RegWord) : (s.commitPair who a v).mortar = s.mortar := rfl
@[simp] theorem State.commitPair_ingest (who : Requester) (a : Nat) (v : RegWord) : (s.commitPair who a v).ingest = s.ingest := rfl
@[simp] theorem State.commitPair_plumb (who : Requester) (a : Nat) (v : RegWord) : (s.commitPair who a v).plumb = s.plumb := rfl
@[simp] theorem State.commitPair_render (who : Requester) (a : Nat) (v : RegWord) : (s.commitPair who a v).render = s.render := rfl
@[simp] theorem State.commitPair_cond (who : Requester) (a : Nat) (v : RegWord) : (s.commitPair who a v).cond = s.cond := rfl
@[simp] theorem State.commitPair_strands (who : Requester) (a : Nat) (v : RegWord) : (s.commitPair who a v).strands = s.strands := rfl
@[simp] theorem State.commitPair_trowel (who : Requester) (a : Nat) (v : RegWord) : (s.commitPair who a v).trowel = s.trowel := rfl
@[simp] theorem State.commitPair_zip (who : Requester) (a : Nat) (v : RegWord) : (s.commitPair who a v).zip = s.zip := rfl
@[simp] theorem State.commitPair_cam (who : Requester) (a : Nat) (v : RegWord) : (s.commitPair who a v).cam = s.cam := rfl
@[simp] theorem State.commitPair_mbox (who : Requester) (a : Nat) (v : RegWord) : (s.commitPair who a v).mbox = s.mbox := rfl
@[simp] theorem State.commitPair_board (who : Requester) (a : Nat) (v : RegWord) : (s.commitPair who a v).board = s.board := rfl
@[simp] theorem State.commitPair_ledger (who : Requester) (a : Nat) (v : RegWord) : (s.commitPair who a v).ledger = s.ledger := rfl
@[simp] theorem State.commitPair_trust (who : Requester) (a : Nat) (v : RegWord) : (s.commitPair who a v).trust = s.trust := rfl
@[simp] theorem State.commitPair_pending (who : Requester) (a : Nat) (v : RegWord) : (s.commitPair who a v).pending = s.pending := rfl

/-! ### setCtr -/

@[simp] theorem State.setCtr_latches (i v : Nat) : (s.setCtr i v).latches = s.latches := by unfold State.setCtr; split <;> rfl
@[simp] theorem State.setCtr_holds (i v : Nat) : (s.setCtr i v).holds = s.holds := by unfold State.setCtr; split <;> rfl
@[simp] theorem State.setCtr_mem (i v : Nat) : (s.setCtr i v).mem = s.mem := by unfold State.setCtr; split <;> rfl
@[simp] theorem State.setCtr_poison (i v : Nat) : (s.setCtr i v).poison = s.poison := by unfold State.setCtr; split <;> rfl
@[simp] theorem State.setCtr_now (i v : Nat) : (s.setCtr i v).now = s.now := by unfold State.setCtr; split <;> rfl
@[simp] theorem State.setCtr_nowFrac (i v : Nat) : (s.setCtr i v).nowFrac = s.nowFrac := by unfold State.setCtr; split <;> rfl
@[simp] theorem State.setCtr_upNs (i v : Nat) : (s.setCtr i v).upNs = s.upNs := by unfold State.setCtr; split <;> rfl
@[simp] theorem State.setCtr_upFrac (i v : Nat) : (s.setCtr i v).upFrac = s.upFrac := by unfold State.setCtr; split <;> rfl
@[simp] theorem State.setCtr_freeCtr (i v : Nat) : (s.setCtr i v).freeCtr = s.freeCtr := by unfold State.setCtr; split <;> rfl
@[simp] theorem State.setCtr_readData (i v : Nat) : (s.setCtr i v).readData = s.readData := by unfold State.setCtr; split <;> rfl
@[simp] theorem State.setCtr_out (i v : Nat) : (s.setCtr i v).out = s.out := by unfold State.setCtr; split <;> rfl
@[simp] theorem State.setCtr_cores (i v : Nat) : (s.setCtr i v).cores = s.cores := by unfold State.setCtr; split <;> rfl
@[simp] theorem State.setCtr_dram (i v : Nat) : (s.setCtr i v).dram = s.dram := by unfold State.setCtr; split <;> rfl
@[simp] theorem State.setCtr_host (i v : Nat) : (s.setCtr i v).host = s.host := by unfold State.setCtr; split <;> rfl
@[simp] theorem State.setCtr_stroke (i v : Nat) : (s.setCtr i v).stroke = s.stroke := by unfold State.setCtr; split <;> rfl
@[simp] theorem State.setCtr_time (i v : Nat) : (s.setCtr i v).time = s.time := by unfold State.setCtr; split <;> rfl
@[simp] theorem State.setCtr_mortar (i v : Nat) : (s.setCtr i v).mortar = s.mortar := by unfold State.setCtr; split <;> rfl
@[simp] theorem State.setCtr_ingest (i v : Nat) : (s.setCtr i v).ingest = s.ingest := by unfold State.setCtr; split <;> rfl
@[simp] theorem State.setCtr_plumb (i v : Nat) : (s.setCtr i v).plumb = s.plumb := by unfold State.setCtr; split <;> rfl
@[simp] theorem State.setCtr_render (i v : Nat) : (s.setCtr i v).render = s.render := by unfold State.setCtr; split <;> rfl
@[simp] theorem State.setCtr_cond (i v : Nat) : (s.setCtr i v).cond = s.cond := by unfold State.setCtr; split <;> rfl
@[simp] theorem State.setCtr_strands (i v : Nat) : (s.setCtr i v).strands = s.strands := by unfold State.setCtr; split <;> rfl
@[simp] theorem State.setCtr_trowel (i v : Nat) : (s.setCtr i v).trowel = s.trowel := by unfold State.setCtr; split <;> rfl
@[simp] theorem State.setCtr_zip (i v : Nat) : (s.setCtr i v).zip = s.zip := by unfold State.setCtr; split <;> rfl
@[simp] theorem State.setCtr_cam (i v : Nat) : (s.setCtr i v).cam = s.cam := by unfold State.setCtr; split <;> rfl
@[simp] theorem State.setCtr_mbox (i v : Nat) : (s.setCtr i v).mbox = s.mbox := by unfold State.setCtr; split <;> rfl
@[simp] theorem State.setCtr_board (i v : Nat) : (s.setCtr i v).board = s.board := by unfold State.setCtr; split <;> rfl
@[simp] theorem State.setCtr_ledger (i v : Nat) : (s.setCtr i v).ledger = s.ledger := by unfold State.setCtr; split <;> rfl
@[simp] theorem State.setCtr_trust (i v : Nat) : (s.setCtr i v).trust = s.trust := by unfold State.setCtr; split <;> rfl
@[simp] theorem State.setCtr_pending (i v : Nat) : (s.setCtr i v).pending = s.pending := by unfold State.setCtr; split <;> rfl

/-! ### withClocks -/

@[simp] theorem State.withClocks_regs (a b c d : Nat) (x : TimeUnit) : (s.withClocks a b c d x).regs = s.regs := rfl
@[simp] theorem State.withClocks_latches (a b c d : Nat) (x : TimeUnit) : (s.withClocks a b c d x).latches = s.latches := rfl
@[simp] theorem State.withClocks_holds (a b c d : Nat) (x : TimeUnit) : (s.withClocks a b c d x).holds = s.holds := rfl
@[simp] theorem State.withClocks_mem (a b c d : Nat) (x : TimeUnit) : (s.withClocks a b c d x).mem = s.mem := rfl
@[simp] theorem State.withClocks_poison (a b c d : Nat) (x : TimeUnit) : (s.withClocks a b c d x).poison = s.poison := rfl
@[simp] theorem State.withClocks_freeCtr (a b c d : Nat) (x : TimeUnit) : (s.withClocks a b c d x).freeCtr = s.freeCtr := rfl
@[simp] theorem State.withClocks_readData (a b c d : Nat) (x : TimeUnit) : (s.withClocks a b c d x).readData = s.readData := rfl
@[simp] theorem State.withClocks_out (a b c d : Nat) (x : TimeUnit) : (s.withClocks a b c d x).out = s.out := rfl
@[simp] theorem State.withClocks_cores (a b c d : Nat) (x : TimeUnit) : (s.withClocks a b c d x).cores = s.cores := rfl
@[simp] theorem State.withClocks_perf (a b c d : Nat) (x : TimeUnit) : (s.withClocks a b c d x).perf = s.perf := rfl
@[simp] theorem State.withClocks_dram (a b c d : Nat) (x : TimeUnit) : (s.withClocks a b c d x).dram = s.dram := rfl
@[simp] theorem State.withClocks_host (a b c d : Nat) (x : TimeUnit) : (s.withClocks a b c d x).host = s.host := rfl
@[simp] theorem State.withClocks_stroke (a b c d : Nat) (x : TimeUnit) : (s.withClocks a b c d x).stroke = s.stroke := rfl
@[simp] theorem State.withClocks_mortar (a b c d : Nat) (x : TimeUnit) : (s.withClocks a b c d x).mortar = s.mortar := rfl
@[simp] theorem State.withClocks_ingest (a b c d : Nat) (x : TimeUnit) : (s.withClocks a b c d x).ingest = s.ingest := rfl
@[simp] theorem State.withClocks_plumb (a b c d : Nat) (x : TimeUnit) : (s.withClocks a b c d x).plumb = s.plumb := rfl
@[simp] theorem State.withClocks_render (a b c d : Nat) (x : TimeUnit) : (s.withClocks a b c d x).render = s.render := rfl
@[simp] theorem State.withClocks_cond (a b c d : Nat) (x : TimeUnit) : (s.withClocks a b c d x).cond = s.cond := rfl
@[simp] theorem State.withClocks_strands (a b c d : Nat) (x : TimeUnit) : (s.withClocks a b c d x).strands = s.strands := rfl
@[simp] theorem State.withClocks_trowel (a b c d : Nat) (x : TimeUnit) : (s.withClocks a b c d x).trowel = s.trowel := rfl
@[simp] theorem State.withClocks_zip (a b c d : Nat) (x : TimeUnit) : (s.withClocks a b c d x).zip = s.zip := rfl
@[simp] theorem State.withClocks_cam (a b c d : Nat) (x : TimeUnit) : (s.withClocks a b c d x).cam = s.cam := rfl
@[simp] theorem State.withClocks_mbox (a b c d : Nat) (x : TimeUnit) : (s.withClocks a b c d x).mbox = s.mbox := rfl
@[simp] theorem State.withClocks_board (a b c d : Nat) (x : TimeUnit) : (s.withClocks a b c d x).board = s.board := rfl
@[simp] theorem State.withClocks_ledger (a b c d : Nat) (x : TimeUnit) : (s.withClocks a b c d x).ledger = s.ledger := rfl
@[simp] theorem State.withClocks_trust (a b c d : Nat) (x : TimeUnit) : (s.withClocks a b c d x).trust = s.trust := rfl
@[simp] theorem State.withClocks_pending (a b c d : Nat) (x : TimeUnit) : (s.withClocks a b c d x).pending = s.pending := rfl

/-! ### advanceQ -/

@[simp] theorem State.advanceQ_regs (dt : Nat) : (s.advanceQ dt).regs = s.regs := State.withClocks_regs s _ _ _ _ _
@[simp] theorem State.advanceQ_latches (dt : Nat) : (s.advanceQ dt).latches = s.latches := State.withClocks_latches s _ _ _ _ _
@[simp] theorem State.advanceQ_holds (dt : Nat) : (s.advanceQ dt).holds = s.holds := State.withClocks_holds s _ _ _ _ _
@[simp] theorem State.advanceQ_mem (dt : Nat) : (s.advanceQ dt).mem = s.mem := State.withClocks_mem s _ _ _ _ _
@[simp] theorem State.advanceQ_poison (dt : Nat) : (s.advanceQ dt).poison = s.poison := State.withClocks_poison s _ _ _ _ _
@[simp] theorem State.advanceQ_freeCtr (dt : Nat) : (s.advanceQ dt).freeCtr = s.freeCtr := State.withClocks_freeCtr s _ _ _ _ _
@[simp] theorem State.advanceQ_readData (dt : Nat) : (s.advanceQ dt).readData = s.readData := State.withClocks_readData s _ _ _ _ _
@[simp] theorem State.advanceQ_out (dt : Nat) : (s.advanceQ dt).out = s.out := State.withClocks_out s _ _ _ _ _
@[simp] theorem State.advanceQ_cores (dt : Nat) : (s.advanceQ dt).cores = s.cores := State.withClocks_cores s _ _ _ _ _
@[simp] theorem State.advanceQ_perf (dt : Nat) : (s.advanceQ dt).perf = s.perf := State.withClocks_perf s _ _ _ _ _
@[simp] theorem State.advanceQ_dram (dt : Nat) : (s.advanceQ dt).dram = s.dram := State.withClocks_dram s _ _ _ _ _
@[simp] theorem State.advanceQ_host (dt : Nat) : (s.advanceQ dt).host = s.host := State.withClocks_host s _ _ _ _ _
@[simp] theorem State.advanceQ_stroke (dt : Nat) : (s.advanceQ dt).stroke = s.stroke := State.withClocks_stroke s _ _ _ _ _
@[simp] theorem State.advanceQ_mortar (dt : Nat) : (s.advanceQ dt).mortar = s.mortar := State.withClocks_mortar s _ _ _ _ _
@[simp] theorem State.advanceQ_ingest (dt : Nat) : (s.advanceQ dt).ingest = s.ingest := State.withClocks_ingest s _ _ _ _ _
@[simp] theorem State.advanceQ_plumb (dt : Nat) : (s.advanceQ dt).plumb = s.plumb := State.withClocks_plumb s _ _ _ _ _
@[simp] theorem State.advanceQ_render (dt : Nat) : (s.advanceQ dt).render = s.render := State.withClocks_render s _ _ _ _ _
@[simp] theorem State.advanceQ_cond (dt : Nat) : (s.advanceQ dt).cond = s.cond := State.withClocks_cond s _ _ _ _ _
@[simp] theorem State.advanceQ_strands (dt : Nat) : (s.advanceQ dt).strands = s.strands := State.withClocks_strands s _ _ _ _ _
@[simp] theorem State.advanceQ_trowel (dt : Nat) : (s.advanceQ dt).trowel = s.trowel := State.withClocks_trowel s _ _ _ _ _
@[simp] theorem State.advanceQ_zip (dt : Nat) : (s.advanceQ dt).zip = s.zip := State.withClocks_zip s _ _ _ _ _
@[simp] theorem State.advanceQ_cam (dt : Nat) : (s.advanceQ dt).cam = s.cam := State.withClocks_cam s _ _ _ _ _
@[simp] theorem State.advanceQ_mbox (dt : Nat) : (s.advanceQ dt).mbox = s.mbox := State.withClocks_mbox s _ _ _ _ _
@[simp] theorem State.advanceQ_board (dt : Nat) : (s.advanceQ dt).board = s.board := State.withClocks_board s _ _ _ _ _
@[simp] theorem State.advanceQ_ledger (dt : Nat) : (s.advanceQ dt).ledger = s.ledger := State.withClocks_ledger s _ _ _ _ _
@[simp] theorem State.advanceQ_trust (dt : Nat) : (s.advanceQ dt).trust = s.trust := State.withClocks_trust s _ _ _ _ _
@[simp] theorem State.advanceQ_pending (dt : Nat) : (s.advanceQ dt).pending = s.pending := State.withClocks_pending s _ _ _ _ _

/-! ### advance -/

@[simp] theorem State.advance_regs (dt : Nat) : (s.advance dt).regs = s.regs := State.advanceQ_regs s _
@[simp] theorem State.advance_latches (dt : Nat) : (s.advance dt).latches = s.latches := State.advanceQ_latches s _
@[simp] theorem State.advance_holds (dt : Nat) : (s.advance dt).holds = s.holds := State.advanceQ_holds s _
@[simp] theorem State.advance_mem (dt : Nat) : (s.advance dt).mem = s.mem := State.advanceQ_mem s _
@[simp] theorem State.advance_poison (dt : Nat) : (s.advance dt).poison = s.poison := State.advanceQ_poison s _
@[simp] theorem State.advance_freeCtr (dt : Nat) : (s.advance dt).freeCtr = s.freeCtr := State.advanceQ_freeCtr s _
@[simp] theorem State.advance_readData (dt : Nat) : (s.advance dt).readData = s.readData := State.advanceQ_readData s _
@[simp] theorem State.advance_out (dt : Nat) : (s.advance dt).out = s.out := State.advanceQ_out s _
@[simp] theorem State.advance_cores (dt : Nat) : (s.advance dt).cores = s.cores := State.advanceQ_cores s _
@[simp] theorem State.advance_perf (dt : Nat) : (s.advance dt).perf = s.perf := State.advanceQ_perf s _
@[simp] theorem State.advance_dram (dt : Nat) : (s.advance dt).dram = s.dram := State.advanceQ_dram s _
@[simp] theorem State.advance_host (dt : Nat) : (s.advance dt).host = s.host := State.advanceQ_host s _
@[simp] theorem State.advance_stroke (dt : Nat) : (s.advance dt).stroke = s.stroke := State.advanceQ_stroke s _
@[simp] theorem State.advance_mortar (dt : Nat) : (s.advance dt).mortar = s.mortar := State.advanceQ_mortar s _
@[simp] theorem State.advance_ingest (dt : Nat) : (s.advance dt).ingest = s.ingest := State.advanceQ_ingest s _
@[simp] theorem State.advance_plumb (dt : Nat) : (s.advance dt).plumb = s.plumb := State.advanceQ_plumb s _
@[simp] theorem State.advance_render (dt : Nat) : (s.advance dt).render = s.render := State.advanceQ_render s _
@[simp] theorem State.advance_cond (dt : Nat) : (s.advance dt).cond = s.cond := State.advanceQ_cond s _
@[simp] theorem State.advance_strands (dt : Nat) : (s.advance dt).strands = s.strands := State.advanceQ_strands s _
@[simp] theorem State.advance_trowel (dt : Nat) : (s.advance dt).trowel = s.trowel := State.advanceQ_trowel s _
@[simp] theorem State.advance_zip (dt : Nat) : (s.advance dt).zip = s.zip := State.advanceQ_zip s _
@[simp] theorem State.advance_cam (dt : Nat) : (s.advance dt).cam = s.cam := State.advanceQ_cam s _
@[simp] theorem State.advance_mbox (dt : Nat) : (s.advance dt).mbox = s.mbox := State.advanceQ_mbox s _
@[simp] theorem State.advance_board (dt : Nat) : (s.advance dt).board = s.board := State.advanceQ_board s _
@[simp] theorem State.advance_ledger (dt : Nat) : (s.advance dt).ledger = s.ledger := State.advanceQ_ledger s _
@[simp] theorem State.advance_trust (dt : Nat) : (s.advance dt).trust = s.trust := State.advanceQ_trust s _
@[simp] theorem State.advance_pending (dt : Nat) : (s.advance dt).pending = s.pending := State.advanceQ_pending s _

/-! ### free -/

@[simp] theorem State.free_regs (k : Config.Open) : (s.free k).2.regs = s.regs := rfl
@[simp] theorem State.free_latches (k : Config.Open) : (s.free k).2.latches = s.latches := rfl
@[simp] theorem State.free_holds (k : Config.Open) : (s.free k).2.holds = s.holds := rfl
@[simp] theorem State.free_mem (k : Config.Open) : (s.free k).2.mem = s.mem := rfl
@[simp] theorem State.free_poison (k : Config.Open) : (s.free k).2.poison = s.poison := rfl
@[simp] theorem State.free_now (k : Config.Open) : (s.free k).2.now = s.now := rfl
@[simp] theorem State.free_nowFrac (k : Config.Open) : (s.free k).2.nowFrac = s.nowFrac := rfl
@[simp] theorem State.free_upNs (k : Config.Open) : (s.free k).2.upNs = s.upNs := rfl
@[simp] theorem State.free_upFrac (k : Config.Open) : (s.free k).2.upFrac = s.upFrac := rfl
@[simp] theorem State.free_readData (k : Config.Open) : (s.free k).2.readData = s.readData := rfl
@[simp] theorem State.free_out (k : Config.Open) : (s.free k).2.out = s.out := rfl
@[simp] theorem State.free_cores (k : Config.Open) : (s.free k).2.cores = s.cores := rfl
@[simp] theorem State.free_perf (k : Config.Open) : (s.free k).2.perf = s.perf := rfl
@[simp] theorem State.free_dram (k : Config.Open) : (s.free k).2.dram = s.dram := rfl
@[simp] theorem State.free_host (k : Config.Open) : (s.free k).2.host = s.host := rfl
@[simp] theorem State.free_stroke (k : Config.Open) : (s.free k).2.stroke = s.stroke := rfl
@[simp] theorem State.free_time (k : Config.Open) : (s.free k).2.time = s.time := rfl
@[simp] theorem State.free_mortar (k : Config.Open) : (s.free k).2.mortar = s.mortar := rfl
@[simp] theorem State.free_ingest (k : Config.Open) : (s.free k).2.ingest = s.ingest := rfl
@[simp] theorem State.free_plumb (k : Config.Open) : (s.free k).2.plumb = s.plumb := rfl
@[simp] theorem State.free_render (k : Config.Open) : (s.free k).2.render = s.render := rfl
@[simp] theorem State.free_cond (k : Config.Open) : (s.free k).2.cond = s.cond := rfl
@[simp] theorem State.free_strands (k : Config.Open) : (s.free k).2.strands = s.strands := rfl
@[simp] theorem State.free_trowel (k : Config.Open) : (s.free k).2.trowel = s.trowel := rfl
@[simp] theorem State.free_zip (k : Config.Open) : (s.free k).2.zip = s.zip := rfl
@[simp] theorem State.free_cam (k : Config.Open) : (s.free k).2.cam = s.cam := rfl
@[simp] theorem State.free_mbox (k : Config.Open) : (s.free k).2.mbox = s.mbox := rfl
@[simp] theorem State.free_board (k : Config.Open) : (s.free k).2.board = s.board := rfl
@[simp] theorem State.free_ledger (k : Config.Open) : (s.free k).2.ledger = s.ledger := rfl
@[simp] theorem State.free_trust (k : Config.Open) : (s.free k).2.trust = s.trust := rfl
@[simp] theorem State.free_pending (k : Config.Open) : (s.free k).2.pending = s.pending := rfl

/-! ### emit -/

@[simp] theorem State.emit_regs (x : Out) : (s.emit x).regs = s.regs := by unfold State.emit; split <;> rfl
@[simp] theorem State.emit_latches (x : Out) : (s.emit x).latches = s.latches := by unfold State.emit; split <;> rfl
@[simp] theorem State.emit_holds (x : Out) : (s.emit x).holds = s.holds := by unfold State.emit; split <;> rfl
@[simp] theorem State.emit_mem (x : Out) : (s.emit x).mem = s.mem := by unfold State.emit; split <;> rfl
@[simp] theorem State.emit_poison (x : Out) : (s.emit x).poison = s.poison := by unfold State.emit; split <;> rfl
@[simp] theorem State.emit_now (x : Out) : (s.emit x).now = s.now := by unfold State.emit; split <;> rfl
@[simp] theorem State.emit_nowFrac (x : Out) : (s.emit x).nowFrac = s.nowFrac := by unfold State.emit; split <;> rfl
@[simp] theorem State.emit_upNs (x : Out) : (s.emit x).upNs = s.upNs := by unfold State.emit; split <;> rfl
@[simp] theorem State.emit_upFrac (x : Out) : (s.emit x).upFrac = s.upFrac := by unfold State.emit; split <;> rfl
@[simp] theorem State.emit_freeCtr (x : Out) : (s.emit x).freeCtr = s.freeCtr := by unfold State.emit; split <;> rfl
@[simp] theorem State.emit_readData (x : Out) : (s.emit x).readData = s.readData := by unfold State.emit; split <;> rfl
@[simp] theorem State.emit_cores (x : Out) : (s.emit x).cores = s.cores := by unfold State.emit; split <;> rfl
@[simp] theorem State.emit_perf (x : Out) : (s.emit x).perf = s.perf := by unfold State.emit; split <;> rfl
@[simp] theorem State.emit_dram (x : Out) : (s.emit x).dram = s.dram := by unfold State.emit; split <;> rfl
@[simp] theorem State.emit_host (x : Out) : (s.emit x).host = s.host := by unfold State.emit; split <;> rfl
@[simp] theorem State.emit_stroke (x : Out) : (s.emit x).stroke = s.stroke := by unfold State.emit; split <;> rfl
@[simp] theorem State.emit_time (x : Out) : (s.emit x).time = s.time := by unfold State.emit; split <;> rfl
@[simp] theorem State.emit_mortar (x : Out) : (s.emit x).mortar = s.mortar := by unfold State.emit; split <;> rfl
@[simp] theorem State.emit_ingest (x : Out) : (s.emit x).ingest = s.ingest := by unfold State.emit; split <;> rfl
@[simp] theorem State.emit_plumb (x : Out) : (s.emit x).plumb = s.plumb := by unfold State.emit; split <;> rfl
@[simp] theorem State.emit_render (x : Out) : (s.emit x).render = s.render := by unfold State.emit; split <;> rfl
@[simp] theorem State.emit_cond (x : Out) : (s.emit x).cond = s.cond := by unfold State.emit; split <;> rfl
@[simp] theorem State.emit_strands (x : Out) : (s.emit x).strands = s.strands := by unfold State.emit; split <;> rfl
@[simp] theorem State.emit_trowel (x : Out) : (s.emit x).trowel = s.trowel := by unfold State.emit; split <;> rfl
@[simp] theorem State.emit_zip (x : Out) : (s.emit x).zip = s.zip := by unfold State.emit; split <;> rfl
@[simp] theorem State.emit_cam (x : Out) : (s.emit x).cam = s.cam := by unfold State.emit; split <;> rfl
@[simp] theorem State.emit_mbox (x : Out) : (s.emit x).mbox = s.mbox := by unfold State.emit; split <;> rfl
@[simp] theorem State.emit_board (x : Out) : (s.emit x).board = s.board := by unfold State.emit; split <;> rfl
@[simp] theorem State.emit_ledger (x : Out) : (s.emit x).ledger = s.ledger := by unfold State.emit; split <;> rfl
@[simp] theorem State.emit_trust (x : Out) : (s.emit x).trust = s.trust := by unfold State.emit; split <;> rfl
@[simp] theorem State.emit_pending (x : Out) : (s.emit x).pending = s.pending := by unfold State.emit; split <;> rfl

/-! ### wrB -/

@[simp] theorem State.wrB_regs (a : Nat) (b : Byte) : (s.wrB a b).regs = s.regs := by unfold State.wrB; split <;> rfl
@[simp] theorem State.wrB_latches (a : Nat) (b : Byte) : (s.wrB a b).latches = s.latches := by unfold State.wrB; split <;> rfl
@[simp] theorem State.wrB_holds (a : Nat) (b : Byte) : (s.wrB a b).holds = s.holds := by unfold State.wrB; split <;> rfl
@[simp] theorem State.wrB_poison (a : Nat) (b : Byte) : (s.wrB a b).poison = s.poison := by unfold State.wrB; split <;> rfl
@[simp] theorem State.wrB_now (a : Nat) (b : Byte) : (s.wrB a b).now = s.now := by unfold State.wrB; split <;> rfl
@[simp] theorem State.wrB_nowFrac (a : Nat) (b : Byte) : (s.wrB a b).nowFrac = s.nowFrac := by unfold State.wrB; split <;> rfl
@[simp] theorem State.wrB_upNs (a : Nat) (b : Byte) : (s.wrB a b).upNs = s.upNs := by unfold State.wrB; split <;> rfl
@[simp] theorem State.wrB_upFrac (a : Nat) (b : Byte) : (s.wrB a b).upFrac = s.upFrac := by unfold State.wrB; split <;> rfl
@[simp] theorem State.wrB_freeCtr (a : Nat) (b : Byte) : (s.wrB a b).freeCtr = s.freeCtr := by unfold State.wrB; split <;> rfl
@[simp] theorem State.wrB_readData (a : Nat) (b : Byte) : (s.wrB a b).readData = s.readData := by unfold State.wrB; split <;> rfl
@[simp] theorem State.wrB_out (a : Nat) (b : Byte) : (s.wrB a b).out = s.out := by unfold State.wrB; split <;> rfl
@[simp] theorem State.wrB_cores (a : Nat) (b : Byte) : (s.wrB a b).cores = s.cores := by unfold State.wrB; split <;> rfl
@[simp] theorem State.wrB_perf (a : Nat) (b : Byte) : (s.wrB a b).perf = s.perf := by unfold State.wrB; split <;> rfl
@[simp] theorem State.wrB_dram (a : Nat) (b : Byte) : (s.wrB a b).dram = s.dram := by unfold State.wrB; split <;> rfl
@[simp] theorem State.wrB_host (a : Nat) (b : Byte) : (s.wrB a b).host = s.host := by unfold State.wrB; split <;> rfl
@[simp] theorem State.wrB_stroke (a : Nat) (b : Byte) : (s.wrB a b).stroke = s.stroke := by unfold State.wrB; split <;> rfl
@[simp] theorem State.wrB_time (a : Nat) (b : Byte) : (s.wrB a b).time = s.time := by unfold State.wrB; split <;> rfl
@[simp] theorem State.wrB_mortar (a : Nat) (b : Byte) : (s.wrB a b).mortar = s.mortar := by unfold State.wrB; split <;> rfl
@[simp] theorem State.wrB_ingest (a : Nat) (b : Byte) : (s.wrB a b).ingest = s.ingest := by unfold State.wrB; split <;> rfl
@[simp] theorem State.wrB_plumb (a : Nat) (b : Byte) : (s.wrB a b).plumb = s.plumb := by unfold State.wrB; split <;> rfl
@[simp] theorem State.wrB_render (a : Nat) (b : Byte) : (s.wrB a b).render = s.render := by unfold State.wrB; split <;> rfl
@[simp] theorem State.wrB_cond (a : Nat) (b : Byte) : (s.wrB a b).cond = s.cond := by unfold State.wrB; split <;> rfl
@[simp] theorem State.wrB_strands (a : Nat) (b : Byte) : (s.wrB a b).strands = s.strands := by unfold State.wrB; split <;> rfl
@[simp] theorem State.wrB_trowel (a : Nat) (b : Byte) : (s.wrB a b).trowel = s.trowel := by unfold State.wrB; split <;> rfl
@[simp] theorem State.wrB_zip (a : Nat) (b : Byte) : (s.wrB a b).zip = s.zip := by unfold State.wrB; split <;> rfl
@[simp] theorem State.wrB_cam (a : Nat) (b : Byte) : (s.wrB a b).cam = s.cam := by unfold State.wrB; split <;> rfl
@[simp] theorem State.wrB_mbox (a : Nat) (b : Byte) : (s.wrB a b).mbox = s.mbox := by unfold State.wrB; split <;> rfl
@[simp] theorem State.wrB_board (a : Nat) (b : Byte) : (s.wrB a b).board = s.board := by unfold State.wrB; split <;> rfl
@[simp] theorem State.wrB_ledger (a : Nat) (b : Byte) : (s.wrB a b).ledger = s.ledger := by unfold State.wrB; split <;> rfl
@[simp] theorem State.wrB_trust (a : Nat) (b : Byte) : (s.wrB a b).trust = s.trust := by unfold State.wrB; split <;> rfl
@[simp] theorem State.wrB_pending (a : Nat) (b : Byte) : (s.wrB a b).pending = s.pending := by unfold State.wrB; split <;> rfl

/-! ### advanceTo and advanceUp -/

@[simp] theorem State.advanceToQ_regs (q : Nat) : (s.advanceToQ q).regs = s.regs := by unfold State.advanceToQ; split; exact State.withClocks_regs s _ _ _ _ _; rfl
@[simp] theorem State.advanceTo_regs (t : Nat) : (s.advanceTo t).regs = s.regs := State.advanceToQ_regs s _
@[simp] theorem State.advanceUp_regs (t : Nat) : (s.advanceUp t).regs = s.regs := State.advanceQ_regs s _
@[simp] theorem State.advanceToQ_latches (q : Nat) : (s.advanceToQ q).latches = s.latches := by unfold State.advanceToQ; split; exact State.withClocks_latches s _ _ _ _ _; rfl
@[simp] theorem State.advanceTo_latches (t : Nat) : (s.advanceTo t).latches = s.latches := State.advanceToQ_latches s _
@[simp] theorem State.advanceUp_latches (t : Nat) : (s.advanceUp t).latches = s.latches := State.advanceQ_latches s _
@[simp] theorem State.advanceToQ_holds (q : Nat) : (s.advanceToQ q).holds = s.holds := by unfold State.advanceToQ; split; exact State.withClocks_holds s _ _ _ _ _; rfl
@[simp] theorem State.advanceTo_holds (t : Nat) : (s.advanceTo t).holds = s.holds := State.advanceToQ_holds s _
@[simp] theorem State.advanceUp_holds (t : Nat) : (s.advanceUp t).holds = s.holds := State.advanceQ_holds s _
@[simp] theorem State.advanceToQ_mem (q : Nat) : (s.advanceToQ q).mem = s.mem := by unfold State.advanceToQ; split; exact State.withClocks_mem s _ _ _ _ _; rfl
@[simp] theorem State.advanceTo_mem (t : Nat) : (s.advanceTo t).mem = s.mem := State.advanceToQ_mem s _
@[simp] theorem State.advanceUp_mem (t : Nat) : (s.advanceUp t).mem = s.mem := State.advanceQ_mem s _
@[simp] theorem State.advanceToQ_poison (q : Nat) : (s.advanceToQ q).poison = s.poison := by unfold State.advanceToQ; split; exact State.withClocks_poison s _ _ _ _ _; rfl
@[simp] theorem State.advanceTo_poison (t : Nat) : (s.advanceTo t).poison = s.poison := State.advanceToQ_poison s _
@[simp] theorem State.advanceUp_poison (t : Nat) : (s.advanceUp t).poison = s.poison := State.advanceQ_poison s _
@[simp] theorem State.advanceToQ_freeCtr (q : Nat) : (s.advanceToQ q).freeCtr = s.freeCtr := by unfold State.advanceToQ; split; exact State.withClocks_freeCtr s _ _ _ _ _; rfl
@[simp] theorem State.advanceTo_freeCtr (t : Nat) : (s.advanceTo t).freeCtr = s.freeCtr := State.advanceToQ_freeCtr s _
@[simp] theorem State.advanceUp_freeCtr (t : Nat) : (s.advanceUp t).freeCtr = s.freeCtr := State.advanceQ_freeCtr s _
@[simp] theorem State.advanceToQ_readData (q : Nat) : (s.advanceToQ q).readData = s.readData := by unfold State.advanceToQ; split; exact State.withClocks_readData s _ _ _ _ _; rfl
@[simp] theorem State.advanceTo_readData (t : Nat) : (s.advanceTo t).readData = s.readData := State.advanceToQ_readData s _
@[simp] theorem State.advanceUp_readData (t : Nat) : (s.advanceUp t).readData = s.readData := State.advanceQ_readData s _
@[simp] theorem State.advanceToQ_out (q : Nat) : (s.advanceToQ q).out = s.out := by unfold State.advanceToQ; split; exact State.withClocks_out s _ _ _ _ _; rfl
@[simp] theorem State.advanceTo_out (t : Nat) : (s.advanceTo t).out = s.out := State.advanceToQ_out s _
@[simp] theorem State.advanceUp_out (t : Nat) : (s.advanceUp t).out = s.out := State.advanceQ_out s _
@[simp] theorem State.advanceToQ_cores (q : Nat) : (s.advanceToQ q).cores = s.cores := by unfold State.advanceToQ; split; exact State.withClocks_cores s _ _ _ _ _; rfl
@[simp] theorem State.advanceTo_cores (t : Nat) : (s.advanceTo t).cores = s.cores := State.advanceToQ_cores s _
@[simp] theorem State.advanceUp_cores (t : Nat) : (s.advanceUp t).cores = s.cores := State.advanceQ_cores s _
@[simp] theorem State.advanceToQ_perf (q : Nat) : (s.advanceToQ q).perf = s.perf := by unfold State.advanceToQ; split; exact State.withClocks_perf s _ _ _ _ _; rfl
@[simp] theorem State.advanceTo_perf (t : Nat) : (s.advanceTo t).perf = s.perf := State.advanceToQ_perf s _
@[simp] theorem State.advanceUp_perf (t : Nat) : (s.advanceUp t).perf = s.perf := State.advanceQ_perf s _
@[simp] theorem State.advanceToQ_dram (q : Nat) : (s.advanceToQ q).dram = s.dram := by unfold State.advanceToQ; split; exact State.withClocks_dram s _ _ _ _ _; rfl
@[simp] theorem State.advanceTo_dram (t : Nat) : (s.advanceTo t).dram = s.dram := State.advanceToQ_dram s _
@[simp] theorem State.advanceUp_dram (t : Nat) : (s.advanceUp t).dram = s.dram := State.advanceQ_dram s _
@[simp] theorem State.advanceToQ_host (q : Nat) : (s.advanceToQ q).host = s.host := by unfold State.advanceToQ; split; exact State.withClocks_host s _ _ _ _ _; rfl
@[simp] theorem State.advanceTo_host (t : Nat) : (s.advanceTo t).host = s.host := State.advanceToQ_host s _
@[simp] theorem State.advanceUp_host (t : Nat) : (s.advanceUp t).host = s.host := State.advanceQ_host s _
@[simp] theorem State.advanceToQ_stroke (q : Nat) : (s.advanceToQ q).stroke = s.stroke := by unfold State.advanceToQ; split; exact State.withClocks_stroke s _ _ _ _ _; rfl
@[simp] theorem State.advanceTo_stroke (t : Nat) : (s.advanceTo t).stroke = s.stroke := State.advanceToQ_stroke s _
@[simp] theorem State.advanceUp_stroke (t : Nat) : (s.advanceUp t).stroke = s.stroke := State.advanceQ_stroke s _
@[simp] theorem State.advanceToQ_mortar (q : Nat) : (s.advanceToQ q).mortar = s.mortar := by unfold State.advanceToQ; split; exact State.withClocks_mortar s _ _ _ _ _; rfl
@[simp] theorem State.advanceTo_mortar (t : Nat) : (s.advanceTo t).mortar = s.mortar := State.advanceToQ_mortar s _
@[simp] theorem State.advanceUp_mortar (t : Nat) : (s.advanceUp t).mortar = s.mortar := State.advanceQ_mortar s _
@[simp] theorem State.advanceToQ_ingest (q : Nat) : (s.advanceToQ q).ingest = s.ingest := by unfold State.advanceToQ; split; exact State.withClocks_ingest s _ _ _ _ _; rfl
@[simp] theorem State.advanceTo_ingest (t : Nat) : (s.advanceTo t).ingest = s.ingest := State.advanceToQ_ingest s _
@[simp] theorem State.advanceUp_ingest (t : Nat) : (s.advanceUp t).ingest = s.ingest := State.advanceQ_ingest s _
@[simp] theorem State.advanceToQ_plumb (q : Nat) : (s.advanceToQ q).plumb = s.plumb := by unfold State.advanceToQ; split; exact State.withClocks_plumb s _ _ _ _ _; rfl
@[simp] theorem State.advanceTo_plumb (t : Nat) : (s.advanceTo t).plumb = s.plumb := State.advanceToQ_plumb s _
@[simp] theorem State.advanceUp_plumb (t : Nat) : (s.advanceUp t).plumb = s.plumb := State.advanceQ_plumb s _
@[simp] theorem State.advanceToQ_render (q : Nat) : (s.advanceToQ q).render = s.render := by unfold State.advanceToQ; split; exact State.withClocks_render s _ _ _ _ _; rfl
@[simp] theorem State.advanceTo_render (t : Nat) : (s.advanceTo t).render = s.render := State.advanceToQ_render s _
@[simp] theorem State.advanceUp_render (t : Nat) : (s.advanceUp t).render = s.render := State.advanceQ_render s _
@[simp] theorem State.advanceToQ_cond (q : Nat) : (s.advanceToQ q).cond = s.cond := by unfold State.advanceToQ; split; exact State.withClocks_cond s _ _ _ _ _; rfl
@[simp] theorem State.advanceTo_cond (t : Nat) : (s.advanceTo t).cond = s.cond := State.advanceToQ_cond s _
@[simp] theorem State.advanceUp_cond (t : Nat) : (s.advanceUp t).cond = s.cond := State.advanceQ_cond s _
@[simp] theorem State.advanceToQ_strands (q : Nat) : (s.advanceToQ q).strands = s.strands := by unfold State.advanceToQ; split; exact State.withClocks_strands s _ _ _ _ _; rfl
@[simp] theorem State.advanceTo_strands (t : Nat) : (s.advanceTo t).strands = s.strands := State.advanceToQ_strands s _
@[simp] theorem State.advanceUp_strands (t : Nat) : (s.advanceUp t).strands = s.strands := State.advanceQ_strands s _
@[simp] theorem State.advanceToQ_trowel (q : Nat) : (s.advanceToQ q).trowel = s.trowel := by unfold State.advanceToQ; split; exact State.withClocks_trowel s _ _ _ _ _; rfl
@[simp] theorem State.advanceTo_trowel (t : Nat) : (s.advanceTo t).trowel = s.trowel := State.advanceToQ_trowel s _
@[simp] theorem State.advanceUp_trowel (t : Nat) : (s.advanceUp t).trowel = s.trowel := State.advanceQ_trowel s _
@[simp] theorem State.advanceToQ_zip (q : Nat) : (s.advanceToQ q).zip = s.zip := by unfold State.advanceToQ; split; exact State.withClocks_zip s _ _ _ _ _; rfl
@[simp] theorem State.advanceTo_zip (t : Nat) : (s.advanceTo t).zip = s.zip := State.advanceToQ_zip s _
@[simp] theorem State.advanceUp_zip (t : Nat) : (s.advanceUp t).zip = s.zip := State.advanceQ_zip s _
@[simp] theorem State.advanceToQ_cam (q : Nat) : (s.advanceToQ q).cam = s.cam := by unfold State.advanceToQ; split; exact State.withClocks_cam s _ _ _ _ _; rfl
@[simp] theorem State.advanceTo_cam (t : Nat) : (s.advanceTo t).cam = s.cam := State.advanceToQ_cam s _
@[simp] theorem State.advanceUp_cam (t : Nat) : (s.advanceUp t).cam = s.cam := State.advanceQ_cam s _
@[simp] theorem State.advanceToQ_mbox (q : Nat) : (s.advanceToQ q).mbox = s.mbox := by unfold State.advanceToQ; split; exact State.withClocks_mbox s _ _ _ _ _; rfl
@[simp] theorem State.advanceTo_mbox (t : Nat) : (s.advanceTo t).mbox = s.mbox := State.advanceToQ_mbox s _
@[simp] theorem State.advanceUp_mbox (t : Nat) : (s.advanceUp t).mbox = s.mbox := State.advanceQ_mbox s _
@[simp] theorem State.advanceToQ_board (q : Nat) : (s.advanceToQ q).board = s.board := by unfold State.advanceToQ; split; exact State.withClocks_board s _ _ _ _ _; rfl
@[simp] theorem State.advanceTo_board (t : Nat) : (s.advanceTo t).board = s.board := State.advanceToQ_board s _
@[simp] theorem State.advanceUp_board (t : Nat) : (s.advanceUp t).board = s.board := State.advanceQ_board s _
@[simp] theorem State.advanceToQ_ledger (q : Nat) : (s.advanceToQ q).ledger = s.ledger := by unfold State.advanceToQ; split; exact State.withClocks_ledger s _ _ _ _ _; rfl
@[simp] theorem State.advanceTo_ledger (t : Nat) : (s.advanceTo t).ledger = s.ledger := State.advanceToQ_ledger s _
@[simp] theorem State.advanceUp_ledger (t : Nat) : (s.advanceUp t).ledger = s.ledger := State.advanceQ_ledger s _
@[simp] theorem State.advanceToQ_trust (q : Nat) : (s.advanceToQ q).trust = s.trust := by unfold State.advanceToQ; split; exact State.withClocks_trust s _ _ _ _ _; rfl
@[simp] theorem State.advanceTo_trust (t : Nat) : (s.advanceTo t).trust = s.trust := State.advanceToQ_trust s _
@[simp] theorem State.advanceUp_trust (t : Nat) : (s.advanceUp t).trust = s.trust := State.advanceQ_trust s _
@[simp] theorem State.advanceToQ_pending (q : Nat) : (s.advanceToQ q).pending = s.pending := by unfold State.advanceToQ; split; exact State.withClocks_pending s _ _ _ _ _; rfl
@[simp] theorem State.advanceTo_pending (t : Nat) : (s.advanceTo t).pending = s.pending := State.advanceToQ_pending s _
@[simp] theorem State.advanceUp_pending (t : Nat) : (s.advanceUp t).pending = s.pending := State.advanceQ_pending s _

/-! ### Registers of a core -/

variable (c : Core)

@[simp] theorem Core.setG_p (k : Nat) (v : Word) : (c.setG k v).p = c.p := by unfold Core.setG; split <;> rfl
@[simp] theorem Core.setG_pc (k : Nat) (v : Word) : (c.setG k v).pc = c.pc := by unfold Core.setG; split <;> rfl
@[simp] theorem Core.setG_priv (k : Nat) (v : Word) : (c.setG k v).priv = c.priv := by unfold Core.setG; split <;> rfl
@[simp] theorem Core.setG_ppriv (k : Nat) (v : Word) : (c.setG k v).ppriv = c.ppriv := by unfold Core.setG; split <;> rfl
@[simp] theorem Core.setG_inexc (k : Nat) (v : Word) : (c.setG k v).inexc = c.inexc := by unfold Core.setG; split <;> rfl
@[simp] theorem Core.setG_epc (k : Nat) (v : Word) : (c.setG k v).epc = c.epc := by unfold Core.setG; split <;> rfl
@[simp] theorem Core.setG_cause (k : Nat) (v : Word) : (c.setG k v).cause = c.cause := by unfold Core.setG; split <;> rfl
@[simp] theorem Core.setG_tval (k : Nat) (v : Word) : (c.setG k v).tval = c.tval := by unfold Core.setG; split <;> rfl
@[simp] theorem Core.setG_tvec (k : Nat) (v : Word) : (c.setG k v).tvec = c.tvec := by unfold Core.setG; split <;> rfl
@[simp] theorem Core.setG_scratch (k : Nat) (v : Word) : (c.setG k v).scratch = c.scratch := by unfold Core.setG; split <;> rfl
@[simp] theorem Core.setG_umask (k : Nat) (v : Word) : (c.setG k v).umask = c.umask := by unfold Core.setG; split <;> rfl
@[simp] theorem Core.setG_watch0 (k : Nat) (v : Word) : (c.setG k v).watch0 = c.watch0 := by unfold Core.setG; split <;> rfl
@[simp] theorem Core.setG_watch1 (k : Nat) (v : Word) : (c.setG k v).watch1 = c.watch1 := by unfold Core.setG; split <;> rfl
@[simp] theorem Core.setG_evpend (k : Nat) (v : Word) : (c.setG k v).evpend = c.evpend := by unfold Core.setG; split <;> rfl
@[simp] theorem Core.setG_evslot (k : Nat) (v : Word) : (c.setG k v).evslot = c.evslot := by unfold Core.setG; split <;> rfl
@[simp] theorem Core.setG_run (k : Nat) (v : Word) : (c.setG k v).run = c.run := by unfold Core.setG; split <;> rfl
@[simp] theorem Core.setG_wait (k : Nat) (v : Word) : (c.setG k v).wait = c.wait := by unfold Core.setG; split <;> rfl
@[simp] theorem Core.setG_loads (k : Nat) (v : Word) : (c.setG k v).loads = c.loads := by unfold Core.setG; split <;> rfl
@[simp] theorem Core.setG_stores (k : Nat) (v : Word) : (c.setG k v).stores = c.stores := by unfold Core.setG; split <;> rfl
@[simp] theorem Core.setG_flushed (k : Nat) (v : Word) : (c.setG k v).flushed = c.flushed := by unfold Core.setG; split <;> rfl
@[simp] theorem Core.setG_atomic (k : Nat) (v : Word) : (c.setG k v).atomic = c.atomic := by unfold Core.setG; split <;> rfl
@[simp] theorem Core.setG_dcache (k : Nat) (v : Word) : (c.setG k v).dcache = c.dcache := by unfold Core.setG; split <;> rfl
@[simp] theorem Core.setG_icache (k : Nat) (v : Word) : (c.setG k v).icache = c.icache := by unfold Core.setG; split <;> rfl
@[simp] theorem Core.setG_bcount (k : Nat) (v : Word) : (c.setG k v).bcount = c.bcount := by unfold Core.setG; split <;> rfl
@[simp] theorem Core.setG_budget (k : Nat) (v : Word) : (c.setG k v).budget = c.budget := by unfold Core.setG; split <;> rfl
@[simp] theorem Core.setG_budgetHit (k : Nat) (v : Word) : (c.setG k v).budgetHit = c.budgetHit := by unfold Core.setG; split <;> rfl
@[simp] theorem Core.setG_budgetDue (k : Nat) (v : Word) : (c.setG k v).budgetDue = c.budgetDue := by unfold Core.setG; split <;> rfl
@[simp] theorem Core.setG_ready (k : Nat) (v : Word) : (c.setG k v).ready = c.ready := by unfold Core.setG; split <;> rfl
@[simp] theorem Core.setG_cyc (k : Nat) (v : Word) : (c.setG k v).cyc = c.cyc := by unfold Core.setG; split <;> rfl
@[simp] theorem Core.setG_pair (k : Nat) (v : Word) : (c.setG k v).pair = c.pair := by unfold Core.setG; split <;> rfl
@[simp] theorem Core.setG_owed (k : Nat) (v : Word) : (c.setG k v).owed = c.owed := by unfold Core.setG; split <;> rfl
@[simp] theorem Core.setG_image (k : Nat) (v : Word) : (c.setG k v).image = c.image := by unfold Core.setG; split <;> rfl
@[simp] theorem Core.setG_swapTries (k : Nat) (v : Word) : (c.setG k v).swapTries = c.swapTries := by unfold Core.setG; split <;> rfl
@[simp] theorem Core.setG_swapAddr (k : Nat) (v : Word) : (c.setG k v).swapAddr = c.swapAddr := by unfold Core.setG; split <;> rfl
@[simp] theorem Core.setG_swapMax (k : Nat) (v : Word) : (c.setG k v).swapMax = c.swapMax := by unfold Core.setG; split <;> rfl
@[simp] theorem Core.setG_swapStart (k : Nat) (v : Word) : (c.setG k v).swapStart = c.swapStart := by unfold Core.setG; split <;> rfl
@[simp] theorem Core.setP_g (k : Nat) (v : Bool) : (c.setP k v).g = c.g := by unfold Core.setP; split <;> rfl
@[simp] theorem Core.setP_pc (k : Nat) (v : Bool) : (c.setP k v).pc = c.pc := by unfold Core.setP; split <;> rfl
@[simp] theorem Core.setP_priv (k : Nat) (v : Bool) : (c.setP k v).priv = c.priv := by unfold Core.setP; split <;> rfl
@[simp] theorem Core.setP_ppriv (k : Nat) (v : Bool) : (c.setP k v).ppriv = c.ppriv := by unfold Core.setP; split <;> rfl
@[simp] theorem Core.setP_inexc (k : Nat) (v : Bool) : (c.setP k v).inexc = c.inexc := by unfold Core.setP; split <;> rfl
@[simp] theorem Core.setP_epc (k : Nat) (v : Bool) : (c.setP k v).epc = c.epc := by unfold Core.setP; split <;> rfl
@[simp] theorem Core.setP_cause (k : Nat) (v : Bool) : (c.setP k v).cause = c.cause := by unfold Core.setP; split <;> rfl
@[simp] theorem Core.setP_tval (k : Nat) (v : Bool) : (c.setP k v).tval = c.tval := by unfold Core.setP; split <;> rfl
@[simp] theorem Core.setP_tvec (k : Nat) (v : Bool) : (c.setP k v).tvec = c.tvec := by unfold Core.setP; split <;> rfl
@[simp] theorem Core.setP_scratch (k : Nat) (v : Bool) : (c.setP k v).scratch = c.scratch := by unfold Core.setP; split <;> rfl
@[simp] theorem Core.setP_umask (k : Nat) (v : Bool) : (c.setP k v).umask = c.umask := by unfold Core.setP; split <;> rfl
@[simp] theorem Core.setP_watch0 (k : Nat) (v : Bool) : (c.setP k v).watch0 = c.watch0 := by unfold Core.setP; split <;> rfl
@[simp] theorem Core.setP_watch1 (k : Nat) (v : Bool) : (c.setP k v).watch1 = c.watch1 := by unfold Core.setP; split <;> rfl
@[simp] theorem Core.setP_evpend (k : Nat) (v : Bool) : (c.setP k v).evpend = c.evpend := by unfold Core.setP; split <;> rfl
@[simp] theorem Core.setP_evslot (k : Nat) (v : Bool) : (c.setP k v).evslot = c.evslot := by unfold Core.setP; split <;> rfl
@[simp] theorem Core.setP_run (k : Nat) (v : Bool) : (c.setP k v).run = c.run := by unfold Core.setP; split <;> rfl
@[simp] theorem Core.setP_wait (k : Nat) (v : Bool) : (c.setP k v).wait = c.wait := by unfold Core.setP; split <;> rfl
@[simp] theorem Core.setP_loads (k : Nat) (v : Bool) : (c.setP k v).loads = c.loads := by unfold Core.setP; split <;> rfl
@[simp] theorem Core.setP_stores (k : Nat) (v : Bool) : (c.setP k v).stores = c.stores := by unfold Core.setP; split <;> rfl
@[simp] theorem Core.setP_flushed (k : Nat) (v : Bool) : (c.setP k v).flushed = c.flushed := by unfold Core.setP; split <;> rfl
@[simp] theorem Core.setP_atomic (k : Nat) (v : Bool) : (c.setP k v).atomic = c.atomic := by unfold Core.setP; split <;> rfl
@[simp] theorem Core.setP_dcache (k : Nat) (v : Bool) : (c.setP k v).dcache = c.dcache := by unfold Core.setP; split <;> rfl
@[simp] theorem Core.setP_icache (k : Nat) (v : Bool) : (c.setP k v).icache = c.icache := by unfold Core.setP; split <;> rfl
@[simp] theorem Core.setP_bcount (k : Nat) (v : Bool) : (c.setP k v).bcount = c.bcount := by unfold Core.setP; split <;> rfl
@[simp] theorem Core.setP_budget (k : Nat) (v : Bool) : (c.setP k v).budget = c.budget := by unfold Core.setP; split <;> rfl
@[simp] theorem Core.setP_budgetHit (k : Nat) (v : Bool) : (c.setP k v).budgetHit = c.budgetHit := by unfold Core.setP; split <;> rfl
@[simp] theorem Core.setP_budgetDue (k : Nat) (v : Bool) : (c.setP k v).budgetDue = c.budgetDue := by unfold Core.setP; split <;> rfl
@[simp] theorem Core.setP_ready (k : Nat) (v : Bool) : (c.setP k v).ready = c.ready := by unfold Core.setP; split <;> rfl
@[simp] theorem Core.setP_cyc (k : Nat) (v : Bool) : (c.setP k v).cyc = c.cyc := by unfold Core.setP; split <;> rfl
@[simp] theorem Core.setP_pair (k : Nat) (v : Bool) : (c.setP k v).pair = c.pair := by unfold Core.setP; split <;> rfl
@[simp] theorem Core.setP_owed (k : Nat) (v : Bool) : (c.setP k v).owed = c.owed := by unfold Core.setP; split <;> rfl
@[simp] theorem Core.setP_image (k : Nat) (v : Bool) : (c.setP k v).image = c.image := by unfold Core.setP; split <;> rfl
@[simp] theorem Core.setP_swapTries (k : Nat) (v : Bool) : (c.setP k v).swapTries = c.swapTries := by unfold Core.setP; split <;> rfl
@[simp] theorem Core.setP_swapAddr (k : Nat) (v : Bool) : (c.setP k v).swapAddr = c.swapAddr := by unfold Core.setP; split <;> rfl
@[simp] theorem Core.setP_swapMax (k : Nat) (v : Bool) : (c.setP k v).swapMax = c.swapMax := by unfold Core.setP; split <;> rfl
@[simp] theorem Core.setP_swapStart (k : Nat) (v : Bool) : (c.setP k v).swapStart = c.swapStart := by unfold Core.setP; split <;> rfl
@[simp] theorem Core.setReady_g (ws : List Nat) (x y : Nat) : (c.setReady ws x y).g = c.g := rfl
@[simp] theorem Core.setReady_p (ws : List Nat) (x y : Nat) : (c.setReady ws x y).p = c.p := rfl
@[simp] theorem Core.setReady_pc (ws : List Nat) (x y : Nat) : (c.setReady ws x y).pc = c.pc := rfl
@[simp] theorem Core.setReady_priv (ws : List Nat) (x y : Nat) : (c.setReady ws x y).priv = c.priv := rfl
@[simp] theorem Core.setReady_ppriv (ws : List Nat) (x y : Nat) : (c.setReady ws x y).ppriv = c.ppriv := rfl
@[simp] theorem Core.setReady_inexc (ws : List Nat) (x y : Nat) : (c.setReady ws x y).inexc = c.inexc := rfl
@[simp] theorem Core.setReady_epc (ws : List Nat) (x y : Nat) : (c.setReady ws x y).epc = c.epc := rfl
@[simp] theorem Core.setReady_cause (ws : List Nat) (x y : Nat) : (c.setReady ws x y).cause = c.cause := rfl
@[simp] theorem Core.setReady_tval (ws : List Nat) (x y : Nat) : (c.setReady ws x y).tval = c.tval := rfl
@[simp] theorem Core.setReady_tvec (ws : List Nat) (x y : Nat) : (c.setReady ws x y).tvec = c.tvec := rfl
@[simp] theorem Core.setReady_scratch (ws : List Nat) (x y : Nat) : (c.setReady ws x y).scratch = c.scratch := rfl
@[simp] theorem Core.setReady_umask (ws : List Nat) (x y : Nat) : (c.setReady ws x y).umask = c.umask := rfl
@[simp] theorem Core.setReady_watch0 (ws : List Nat) (x y : Nat) : (c.setReady ws x y).watch0 = c.watch0 := rfl
@[simp] theorem Core.setReady_watch1 (ws : List Nat) (x y : Nat) : (c.setReady ws x y).watch1 = c.watch1 := rfl
@[simp] theorem Core.setReady_evpend (ws : List Nat) (x y : Nat) : (c.setReady ws x y).evpend = c.evpend := rfl
@[simp] theorem Core.setReady_evslot (ws : List Nat) (x y : Nat) : (c.setReady ws x y).evslot = c.evslot := rfl
@[simp] theorem Core.setReady_run (ws : List Nat) (x y : Nat) : (c.setReady ws x y).run = c.run := rfl
@[simp] theorem Core.setReady_wait (ws : List Nat) (x y : Nat) : (c.setReady ws x y).wait = c.wait := rfl
@[simp] theorem Core.setReady_loads (ws : List Nat) (x y : Nat) : (c.setReady ws x y).loads = c.loads := rfl
@[simp] theorem Core.setReady_stores (ws : List Nat) (x y : Nat) : (c.setReady ws x y).stores = c.stores := rfl
@[simp] theorem Core.setReady_flushed (ws : List Nat) (x y : Nat) : (c.setReady ws x y).flushed = c.flushed := rfl
@[simp] theorem Core.setReady_atomic (ws : List Nat) (x y : Nat) : (c.setReady ws x y).atomic = c.atomic := rfl
@[simp] theorem Core.setReady_dcache (ws : List Nat) (x y : Nat) : (c.setReady ws x y).dcache = c.dcache := rfl
@[simp] theorem Core.setReady_icache (ws : List Nat) (x y : Nat) : (c.setReady ws x y).icache = c.icache := rfl
@[simp] theorem Core.setReady_bcount (ws : List Nat) (x y : Nat) : (c.setReady ws x y).bcount = c.bcount := rfl
@[simp] theorem Core.setReady_budget (ws : List Nat) (x y : Nat) : (c.setReady ws x y).budget = c.budget := rfl
@[simp] theorem Core.setReady_budgetHit (ws : List Nat) (x y : Nat) : (c.setReady ws x y).budgetHit = c.budgetHit := rfl
@[simp] theorem Core.setReady_budgetDue (ws : List Nat) (x y : Nat) : (c.setReady ws x y).budgetDue = c.budgetDue := rfl
@[simp] theorem Core.setReady_cyc (ws : List Nat) (x y : Nat) : (c.setReady ws x y).cyc = c.cyc := rfl
@[simp] theorem Core.setReady_pair (ws : List Nat) (x y : Nat) : (c.setReady ws x y).pair = c.pair := rfl
@[simp] theorem Core.setReady_owed (ws : List Nat) (x y : Nat) : (c.setReady ws x y).owed = c.owed := rfl
@[simp] theorem Core.setReady_image (ws : List Nat) (x y : Nat) : (c.setReady ws x y).image = c.image := rfl
@[simp] theorem Core.setReady_swapTries (ws : List Nat) (x y : Nat) : (c.setReady ws x y).swapTries = c.swapTries := rfl
@[simp] theorem Core.setReady_swapAddr (ws : List Nat) (x y : Nat) : (c.setReady ws x y).swapAddr = c.swapAddr := rfl
@[simp] theorem Core.setReady_swapMax (ws : List Nat) (x y : Nat) : (c.setReady ws x y).swapMax = c.swapMax := rfl
@[simp] theorem Core.setReady_swapStart (ws : List Nat) (x y : Nat) : (c.setReady ws x y).swapStart = c.swapStart := rfl
@[simp] theorem Core.latch_g (l : Nat) : (c.latch l).g = c.g := rfl
@[simp] theorem Core.latch_p (l : Nat) : (c.latch l).p = c.p := rfl
@[simp] theorem Core.latch_pc (l : Nat) : (c.latch l).pc = c.pc := rfl
@[simp] theorem Core.latch_priv (l : Nat) : (c.latch l).priv = c.priv := rfl
@[simp] theorem Core.latch_ppriv (l : Nat) : (c.latch l).ppriv = c.ppriv := rfl
@[simp] theorem Core.latch_inexc (l : Nat) : (c.latch l).inexc = c.inexc := rfl
@[simp] theorem Core.latch_epc (l : Nat) : (c.latch l).epc = c.epc := rfl
@[simp] theorem Core.latch_cause (l : Nat) : (c.latch l).cause = c.cause := rfl
@[simp] theorem Core.latch_tval (l : Nat) : (c.latch l).tval = c.tval := rfl
@[simp] theorem Core.latch_tvec (l : Nat) : (c.latch l).tvec = c.tvec := rfl
@[simp] theorem Core.latch_scratch (l : Nat) : (c.latch l).scratch = c.scratch := rfl
@[simp] theorem Core.latch_umask (l : Nat) : (c.latch l).umask = c.umask := rfl
@[simp] theorem Core.latch_watch0 (l : Nat) : (c.latch l).watch0 = c.watch0 := rfl
@[simp] theorem Core.latch_watch1 (l : Nat) : (c.latch l).watch1 = c.watch1 := rfl
@[simp] theorem Core.latch_evslot (l : Nat) : (c.latch l).evslot = c.evslot := rfl
@[simp] theorem Core.latch_run (l : Nat) : (c.latch l).run = c.run := rfl
@[simp] theorem Core.latch_wait (l : Nat) : (c.latch l).wait = c.wait := rfl
@[simp] theorem Core.latch_loads (l : Nat) : (c.latch l).loads = c.loads := rfl
@[simp] theorem Core.latch_stores (l : Nat) : (c.latch l).stores = c.stores := rfl
@[simp] theorem Core.latch_flushed (l : Nat) : (c.latch l).flushed = c.flushed := rfl
@[simp] theorem Core.latch_atomic (l : Nat) : (c.latch l).atomic = c.atomic := rfl
@[simp] theorem Core.latch_dcache (l : Nat) : (c.latch l).dcache = c.dcache := rfl
@[simp] theorem Core.latch_icache (l : Nat) : (c.latch l).icache = c.icache := rfl
@[simp] theorem Core.latch_bcount (l : Nat) : (c.latch l).bcount = c.bcount := rfl
@[simp] theorem Core.latch_budget (l : Nat) : (c.latch l).budget = c.budget := rfl
@[simp] theorem Core.latch_budgetHit (l : Nat) : (c.latch l).budgetHit = c.budgetHit := rfl
@[simp] theorem Core.latch_budgetDue (l : Nat) : (c.latch l).budgetDue = c.budgetDue := rfl
@[simp] theorem Core.latch_ready (l : Nat) : (c.latch l).ready = c.ready := rfl
@[simp] theorem Core.latch_cyc (l : Nat) : (c.latch l).cyc = c.cyc := rfl
@[simp] theorem Core.latch_pair (l : Nat) : (c.latch l).pair = c.pair := rfl
@[simp] theorem Core.latch_owed (l : Nat) : (c.latch l).owed = c.owed := rfl
@[simp] theorem Core.latch_image (l : Nat) : (c.latch l).image = c.image := rfl
@[simp] theorem Core.latch_swapTries (l : Nat) : (c.latch l).swapTries = c.swapTries := rfl
@[simp] theorem Core.latch_swapAddr (l : Nat) : (c.latch l).swapAddr = c.swapAddr := rfl
@[simp] theorem Core.latch_swapMax (l : Nat) : (c.latch l).swapMax = c.swapMax := rfl
@[simp] theorem Core.latch_swapStart (l : Nat) : (c.latch l).swapStart = c.swapStart := rfl

end Sys2Proof.Machine
end

