-- ==== Sys2Proof/Laws/Ops.lean ====
section
/-!
SUPPORT. What each shared operation can do: bit fields, registers, memory and its canonical form, cores, counters, events and time.
-/
namespace Sys2Proof.Machine

open Sys2Proof

/-! ## Bit fields -/

theorem setBits_div (v lo w x : Nat) : setBits v lo w x / 2 ^ (lo + w) = v / 2 ^ (lo + w) := by
  have h1 : x % 2 ^ w < 2 ^ w := Nat.mod_lt _ (Nat.two_pow_pos w)
  have h2 : v % 2 ^ lo < 2 ^ lo := Nat.mod_lt _ (Nat.two_pow_pos lo)
  have h3 : (x % 2 ^ w) * 2 ^ lo + v % 2 ^ lo < 2 ^ (lo + w) := by
    have : (x % 2 ^ w + 1) * 2 ^ lo ≤ 2 ^ w * 2 ^ lo := Nat.mul_le_mul_right _ h1
    rw [Nat.add_mul, Nat.one_mul] at this
    have e : 2 ^ (lo + w) = 2 ^ w * 2 ^ lo := by rw [Nat.pow_add, Nat.mul_comm]
    omega
  unfold setBits
  rw [Nat.add_assoc, Nat.mul_comm, Nat.mul_add_div (Nat.two_pow_pos _), Nat.div_eq_of_lt h3, Nat.add_zero]

theorem setBits_mod (v lo w x : Nat) : setBits v lo w x % 2 ^ lo = v % 2 ^ lo := by
  unfold setBits
  have e : 2 ^ (lo + w) = 2 ^ lo * 2 ^ w := Nat.pow_add 2 lo w
  rw [e, ← Nat.mul_assoc, Nat.mul_right_comm, ← Nat.add_mul, Nat.mul_comm _ (2 ^ lo), Nat.mul_add_mod]
  exact Nat.mod_eq_of_lt (Nat.mod_lt _ (Nat.two_pow_pos lo))

/-- A field reads what was put into it. -/
theorem bitsOf_setBits_same (v lo w x : Nat) : bitsOf (setBits v lo w x) lo w = x % 2 ^ w := by
  unfold bitsOf setBits
  have h2 : v % 2 ^ lo < 2 ^ lo := Nat.mod_lt _ (Nat.two_pow_pos lo)
  have e : 2 ^ (lo + w) = 2 ^ lo * 2 ^ w := Nat.pow_add 2 lo w
  rw [e, ← Nat.mul_assoc, Nat.mul_right_comm, ← Nat.add_mul, Nat.mul_comm _ (2 ^ lo), Nat.mul_add_div (Nat.two_pow_pos lo),
    Nat.div_eq_of_lt h2, Nat.add_zero, Nat.mul_comm, Nat.mul_add_mod]
  exact Nat.mod_mod _ _

/-- A field above another is left alone. -/
theorem bitsOf_setBits_above (v lo w x lo' w' : Nat) (h : lo + w ≤ lo') : bitsOf (setBits v lo w x) lo' w' = bitsOf v lo' w' := by
  unfold bitsOf
  obtain ⟨k, rfl⟩ := Nat.exists_eq_add_of_le h
  rw [Nat.pow_add, ← Nat.div_div_eq_div_mul, ← Nat.div_div_eq_div_mul, setBits_div]

theorem bitsOf_eq_mod (v lo w : Nat) : bitsOf v lo w = v % 2 ^ (lo + w) / 2 ^ lo := by
  unfold bitsOf
  rw [Nat.pow_add, Nat.mod_mul_right_div_self]

theorem mod_mod_of_le (v a b : Nat) (h : a ≤ b) : v % 2 ^ b % 2 ^ a = v % 2 ^ a := Nat.mod_mod_of_dvd v (Nat.pow_dvd_pow 2 h)

/-- A field below another is left alone. -/
theorem bitsOf_setBits_below (v lo w x lo' w' : Nat) (h : lo' + w' ≤ lo) : bitsOf (setBits v lo w x) lo' w' = bitsOf v lo' w' := by
  rw [bitsOf_eq_mod, bitsOf_eq_mod, ← mod_mod_of_le _ _ _ h, setBits_mod, mod_mod_of_le _ _ _ h]

theorem setBits_lt (v lo w x n : Nat) (hv : v < 2 ^ n) (h : lo + w ≤ n) : setBits v lo w x < 2 ^ n := by
  obtain ⟨k, rfl⟩ := Nat.exists_eq_add_of_le h
  have hd : setBits v lo w x / 2 ^ (lo + w) < 2 ^ k := by
    rw [setBits_div]
    exact Nat.div_lt_of_lt_mul (by rw [← Nat.pow_add]; exact hv)
  rw [Nat.pow_add 2 (lo + w) k, Nat.mul_comm]
  exact (Nat.div_lt_iff_lt_mul (Nat.two_pow_pos _)).mp hd

/-! ## Registers -/

@[simp] theorem State.rdReg_wrReg_same (s : State) (a : Nat) (v : RegWord) : (s.wrReg a v).rdReg a = v := KMap.get_put_same _ _ _ _

theorem State.rdReg_wrReg_ne (s : State) {a b : Nat} (v : RegWord) (h : b ≠ a) : (s.wrReg a v).rdReg b = s.rdReg b :=
  KMap.get_put_ne _ _ v h

theorem State.rdReg_wrReg (s : State) (a b : Nat) (v : RegWord) : (s.wrReg a v).rdReg b = if b = a then v else s.rdReg b :=
  KMap.get_put _ _ _ _ _

theorem State.rdReg_set_ne (s : State) (f : Fld) (v i j : Nat) {a : Nat} (h : a ≠ f.at i j) : (s.set f v i j).rdReg a = s.rdReg a :=
  s.rdReg_wrReg_ne _ h

theorem State.rdReg_wr_ne (s : State) (r : Rg) (v i j : Nat) {a : Nat} (h : a ≠ r.at i j) : (s.wr r v i j).rdReg a = s.rdReg a :=
  s.rdReg_wrReg_ne _ h

/-- Two states whose registers read alike have equal fields. -/
theorem State.get_congr {s t : State} (f : Fld) (i j : Nat) (h : t.rdReg (f.at i j) = s.rdReg (f.at i j)) : t.get f i j = s.get f i j := by
  unfold State.get; rw [h]

/-- A field reads what was written to it, cut to its width. -/
theorem State.get_set_same (s : State) (f : Fld) (v i j : Nat) (h : f.lsb + f.width ≤ 32) : (s.set f v i j).get f i j = v % 2 ^ f.width := by
  unfold State.get State.set
  rw [State.rdReg_wrReg_same, BitVec.toNat_ofNat, Nat.mod_eq_of_lt (setBits_lt _ _ _ _ _ (s.rdReg (f.at i j)).isLt h), bitsOf_setBits_same]

/-- A field of another register is left alone. -/
theorem State.get_set_ne (s : State) (f g : Fld) (v i j i' j' : Nat) (h : g.at i' j' ≠ f.at i j) :
    (s.set f v i j).get g i' j' = s.get g i' j' := State.get_congr g i' j' (s.rdReg_set_ne f v i j h)

/-- Another field of the same register is left alone. -/
theorem State.get_set_apart (s : State) (f g : Fld) (v i j i' j' : Nat) (hw : f.lsb + f.width ≤ 32)
    (h : f.lsb + f.width ≤ g.lsb ∨ g.lsb + g.width ≤ f.lsb) : (s.set f v i j).get g i' j' = s.get g i' j' := by
  by_cases e : g.at i' j' = f.at i j
  · unfold State.get State.set
    rw [e, State.rdReg_wrReg_same, BitVec.toNat_ofNat, Nat.mod_eq_of_lt (setBits_lt _ _ _ _ _ (s.rdReg (f.at i j)).isLt hw)]
    rcases h with h | h
    · exact bitsOf_setBits_above _ _ _ _ _ _ h
    · exact bitsOf_setBits_below _ _ _ _ _ _ h
  · exact s.get_set_ne f g v i j i' j' e

theorem State.rd_wr_same (s : State) (r : Rg) (v i j : Nat) : (s.wr r v i j).rd r i j = v % 2 ^ 32 := by
  unfold State.rd State.wr; rw [State.rdReg_wrReg_same, BitVec.toNat_ofNat]

theorem State.rd_wr_ne (s : State) (r q : Rg) (v i j i' j' : Nat) (h : q.at i' j' ≠ r.at i j) : (s.wr r v i j).rd q i' j' = s.rd q i' j' := by
  unfold State.rd; rw [s.rdReg_wr_ne r v i j h]

/-- A field of another register than one written whole. -/
theorem State.get_wr_ne (s : State) (r : Rg) (g : Fld) (v i j i' j' : Nat) (h : g.at i' j' ≠ r.at i j) :
    (s.wr r v i j).get g i' j' = s.get g i' j' := State.get_congr g i' j' (s.rdReg_wr_ne r v i j h)

theorem State.rd_set_ne (s : State) (f : Fld) (q : Rg) (v i j i' j' : Nat) (h : q.at i' j' ≠ f.at i j) :
    (s.set f v i j).rd q i' j' = s.rd q i' j' := by
  unfold State.rd; rw [s.rdReg_set_ne f v i j h]

theorem SameRegs.refl (s : State) (l : List Nat) : SameRegs s s l := fun _ _ _ => rfl

theorem SameRegs.trans {s t u : State} {l l' : List Nat} (h : SameRegs s t l) (h' : SameRegs t u l') : SameRegs s u (l ++ l') := by
  intro a ha hc
  rw [List.mem_append, not_or] at ha
  rw [h' a ha.2 hc, h a ha.1 hc]

theorem SameRegs.mono {s t : State} {l l' : List Nat} (h : SameRegs s t l) (hl : ∀ a ∈ l, a ∈ l') : SameRegs s t l' :=
  fun a ha hc => h a (fun hm => ha (hl a hm)) hc

theorem SameRegs.of_wrReg (s : State) (a : Nat) (v : RegWord) : SameRegs s (s.wrReg a v) [a] :=
  fun b hb _ => s.rdReg_wrReg_ne v (by simpa using hb)

/-! ## Memory -/

theorem State.rdB_congr {s t : State} (a : Nat) (hm : t.mem = s.mem) (hr : ∀ j, t.rdReg (R.HOST_HWIN_LO.at 0 j) = s.rdReg (R.HOST_HWIN_LO.at 0 j) ∧
    t.rdReg (R.HOST_HWIN_LO.at 0 j + 4) = s.rdReg (R.HOST_HWIN_LO.at 0 j + 4)) : t.rdB a = s.rdB a := by
  have hp : t.physAddr a = s.physAddr a := by
    unfold State.physAddr State.rd64
    rw [(hr (hostSeg a)).1, (hr (hostSeg a)).2]
  unfold State.rdB
  rw [hp, hm]

/-- A byte read where it was written, outside OTP, flash and a host segment that fails, is the byte written. -/
theorem State.rdB_wrB_same (s : State) (a : Nat) (b : Byte) (h : s.hostOff a = false) (hx : fixedMem a = false) : (s.wrB a b).rdB a = b := by
  unfold State.rdB State.wrB
  rw [if_neg (by simp [h, hx])]
  show KMap.get memDefault (KMap.put memDefault s.mem (s.physAddr a) b) (s.physAddr a) = b
  exact KMap.get_put_same _ _ _ _

/-- Every other byte is left alone. -/
theorem State.rdB_wrB_ne (s : State) {a c : Nat} (b : Byte) (h : s.physAddr c ≠ s.physAddr a) : (s.wrB a b).rdB c = s.rdB c := by
  unfold State.rdB State.wrB
  split
  · rfl
  · show KMap.get memDefault (KMap.put memDefault s.mem (s.physAddr a) b) (s.physAddr c) = _
    exact KMap.get_put_ne _ _ _ h

theorem State.physAddr_low (s : State) {a : Nat} (h : a < 0x80000000) : s.physAddr a = a := by
  unfold State.physAddr hostWin
  rw [if_neg (by simp; omega)]

theorem State.hostOff_low (s : State) {a : Nat} (h : a < 0x80000000) : s.hostOff a = false := by
  unfold State.hostOff hostWin
  rw [decide_eq_false (by omega : ¬ 0x80000000 ≤ a)]
  rfl

theorem fixedMem_low {a : Nat} (h : a < 0x30000000) : fixedMem a = false := by
  unfold fixedMem
  rw [decide_eq_false (by omega : ¬ 0x30000000 ≤ a)]
  rfl

/-- A byte below the host window, after one byte of the yard or a local store is written. -/
theorem State.rdB_wrB_low (s : State) {a c : Nat} (b : Byte) (ha : a < 0x30000000) (hc : c < 0x80000000) :
    (s.wrB a b).rdB c = if c = a then b else s.rdB c := by
  split
  · next h => subst h; exact s.rdB_wrB_same _ b (s.hostOff_low hc) (fixedMem_low ha)
  · next h => exact s.rdB_wrB_ne b (by rw [s.physAddr_low (by omega : a < 0x80000000), s.physAddr_low hc]; exact h)

/-- A byte below the host window, after a list of bytes of the yard or a local store is written. -/
theorem State.rdB_putBytes_low (l : List Byte) : ∀ (s : State) (a c : Nat), a + l.length ≤ 0x30000000 → c < 0x80000000 →
    (s.putBytes a l).rdB c = if a ≤ c ∧ c < a + l.length then l.getD (c - a) 0 else s.rdB c := by
  induction l with
  | nil => intro s a c _ _; rw [if_neg (by rw [List.length_nil]; omega)]; rfl
  | cons b l ih =>
    intro s a c ha hc
    rw [List.length_cons] at ha
    show ((s.wrB a b).putBytes (a + 1) l).rdB c = _
    rw [ih _ _ _ (by omega) hc, s.rdB_wrB_low b (by omega) hc, List.length_cons]
    by_cases h1 : c = a
    · subst h1
      rw [if_neg (by omega), if_pos rfl, if_pos (by omega), Nat.sub_self]
      rfl
    · by_cases h2 : a + 1 ≤ c ∧ c < a + 1 + l.length
      · rw [if_pos h2, if_pos (by omega), show c - a = (c - (a + 1)) + 1 from by omega]
        rfl
      · rw [if_neg h2, if_neg h1, if_neg (by omega)]

theorem State.rdB_wrBytes_low (s : State) (l : List Byte) (a c : Nat) (ha : a + l.length ≤ 0x30000000) (hc : c < 0x80000000) :
    (s.wrBytes a l).rdB c = if a ≤ c ∧ c < a + l.length then l.getD (c - a) 0 else s.rdB c :=
  (s.putBytes a l).rdB_congr c rfl (fun _ => ⟨rfl, rfl⟩) ▸ State.rdB_putBytes_low l s a c ha hc

theorem State.rdBytes_congr {s t : State} : ∀ (n a : Nat), (∀ c, a ≤ c → c < a + n → t.rdB c = s.rdB c) → t.rdBytes a n = s.rdBytes a n
  | 0, _, _ => rfl
  | n + 1, a, h => by
    unfold State.rdBytes
    rw [h a (by omega) (by omega), State.rdBytes_congr n (a + 1) (fun c h1 h2 => h c (by omega) (by omega))]

/-- Bytes read below the host window, apart from a list of bytes written to the yard or a local store. -/
theorem State.rdBytes_wrBytes_apart (s : State) (l : List Byte) (a c n : Nat) (ha : a + l.length ≤ 0x30000000) (hc : c + n ≤ 0x80000000)
    (h : c + n ≤ a ∨ a + l.length ≤ c) : (s.wrBytes a l).rdBytes c n = s.rdBytes c n :=
  State.rdBytes_congr n c (fun x h1 h2 => by rw [s.rdB_wrBytes_low l a x ha (by omega), if_neg (by omega)])

theorem State.rdBytes_eq_of_getD (s : State) : ∀ (l : List Byte) (a : Nat), (∀ k < l.length, s.rdB (a + k) = l.getD k 0) →
    s.rdBytes a l.length = l
  | [], _, _ => rfl
  | b :: l, a, h => by
    show s.rdB a :: s.rdBytes (a + 1) l.length = _
    rw [State.rdBytes_eq_of_getD s l (a + 1) (fun k hk => by
      have := h (k + 1) (by rw [List.length_cons]; omega)
      rw [Nat.add_assoc, Nat.add_comm 1 k, this]
      rfl)]
    exact congrArg (· :: l) (h 0 (by rw [List.length_cons]; omega))

/-- Bytes read where they were written, in the yard or a local store. -/
theorem State.rdBytes_wrBytes_same (s : State) (l : List Byte) (a : Nat) (ha : a + l.length ≤ 0x30000000) :
    (s.wrBytes a l).rdBytes a l.length = l :=
  State.rdBytes_eq_of_getD _ l a (fun k hk => by
    rw [s.rdB_wrBytes_low l a (a + k) ha (by omega), if_pos (by omega), Nat.add_sub_cancel_left])

/-- A byte below the host window, after one byte of OTP or of flash is changed. -/
theorem State.rdB_burn_low (s : State) {a c : Nat} (b : Byte) (hc : c < 0x80000000) :
    (s.burn a b).rdB c = if c = a then b else s.rdB c := by
  unfold State.rdB State.burn
  rw [State.physAddr_low _ hc, State.physAddr_low _ hc]
  exact KMap.get_put _ _ _ _ _

/-- A byte below the host window, after a list of bytes of OTP or of flash is changed. -/
theorem State.rdB_burnBytes_low (l : List Byte) : ∀ (s : State) (a c : Nat), c < 0x80000000 →
    (s.burnBytes a l).rdB c = if a ≤ c ∧ c < a + l.length then l.getD (c - a) 0 else s.rdB c := by
  induction l with
  | nil => intro s a c _; rw [if_neg (by rw [List.length_nil]; omega)]; rfl
  | cons b l ih =>
    intro s a c hc
    show ((s.burn a b).burnBytes (a + 1) l).rdB c = _
    rw [ih _ _ _ hc, s.rdB_burn_low b hc, List.length_cons]
    by_cases h1 : c = a
    · subst h1
      rw [if_neg (by omega), if_pos rfl, if_pos (by omega), Nat.sub_self]
      rfl
    · by_cases h2 : a + 1 ≤ c ∧ c < a + 1 + l.length
      · rw [if_pos h2, if_pos (by omega), show c - a = (c - (a + 1)) + 1 from by omega]
        rfl
      · rw [if_neg h2, if_neg h1, if_neg (by omega)]

/-- Bytes read below the host window, apart from the bytes of OTP or of flash that change. -/
theorem State.rdBytes_burnBytes_apart (s : State) (l : List Byte) (a c n : Nat) (hc : c + n ≤ 0x80000000)
    (h : c + n ≤ a ∨ a + l.length ≤ c) : (s.burnBytes a l).rdBytes c n = s.rdBytes c n :=
  State.rdBytes_congr n c (fun x h1 h2 => by rw [State.rdB_burnBytes_low l s a x (by omega), if_neg (by omega)])

/-- Bytes read where OTP or flash was changed. -/
theorem State.rdBytes_burnBytes_same (s : State) (l : List Byte) (a : Nat) (ha : a + l.length ≤ 0x80000000) :
    (s.burnBytes a l).rdBytes a l.length = l :=
  State.rdBytes_eq_of_getD _ l a (fun k hk => by
    rw [State.rdB_burnBytes_low l s a (a + k) (by omega), if_pos (by omega), Nat.add_sub_cancel_left])

theorem Memory.wf_wrB (s : State) (a : Nat) (b : Byte) (h : Memory.wf s.mem = true) : Memory.wf (s.wrB a b).mem = true := by
  unfold State.wrB
  split
  · exact h
  · exact KMap.wf_put memDefault _ _ _ h

theorem Memory.wf_burn (s : State) (a : Nat) (b : Byte) (h : Memory.wf s.mem = true) : Memory.wf (s.burn a b).mem = true :=
  KMap.wf_put memDefault _ _ _ h

/-- A change of OTP or of flash keeps the canonical form. -/
theorem Memory.wf_burnBytes (l : List Byte) : ∀ (s : State) (a : Nat), Memory.wf s.mem = true → Memory.wf (s.burnBytes a l).mem = true := by
  induction l with
  | nil => intro s a h; exact h
  | cons b l ih => intro s a h; exact ih _ _ (Memory.wf_burn s a b h)

theorem Memory.wf_putBytes (l : List Byte) : ∀ (s : State) (a : Nat), Memory.wf s.mem = true → Memory.wf (s.putBytes a l).mem = true := by
  induction l with
  | nil => intro s a h; exact h
  | cons b l ih => intro s a h; exact ih _ _ (Memory.wf_wrB s a b h)

theorem Memory.wf_wrBytes (s : State) (a : Nat) (l : List Byte) (h : Memory.wf s.mem = true) : Memory.wf (s.wrBytes a l).mem = true :=
  Memory.wf_putBytes l s a h

theorem Memory.wf_wrN (s : State) (a n v : Nat) (h : Memory.wf s.mem = true) : Memory.wf (s.wrN a n v).mem = true :=
  Memory.wf_wrBytes s a _ h

theorem Memory.wf_wr32 (s : State) (a v : Nat) (h : Memory.wf s.mem = true) : Memory.wf (s.wr32 a v).mem = true := Memory.wf_wrN s a 4 v h

theorem Memory.wf_setMemFld (s : State) (a lo w v : Nat) (h : Memory.wf s.mem = true) : Memory.wf (s.setMemFld a lo w v).mem = true :=
  Memory.wf_wr32 s a _ h

theorem Memory.wf_putPlain (l : List Byte) : ∀ (s : State) (a : Nat), Memory.wf s.mem = true → Memory.wf (s.putPlain a l).mem = true := by
  induction l with
  | nil => intro s a h; exact h
  | cons b l ih =>
    intro s a h
    unfold State.putPlain
    split
    · exact ih _ _ (Memory.wf_wrB s a b h)
    · exact ih _ _ h

/-- Erasing or losing entries of memory keeps the canonical form. -/
theorem Memory.wf_filter (m : List Host.Cell) (p : Host.Cell → Bool) (h : Memory.wf m = true) : Memory.wf (m.filter p) = true :=
  KMap.wf_filter memDefault m p h

theorem Memory.wf_reset : Memory.wf State.reset.mem = true := rfl

/-! ## Cores -/

@[simp] theorem State.core_setCore_same (s : State) (n : Nat) (c : Core) : (s.setCore n c).core n = c := KMap.get_put_same _ _ _ _

theorem State.core_setCore_ne (s : State) {m n : Nat} (c : Core) (h : m ≠ n) : (s.setCore n c).core m = s.core m := KMap.get_put_ne _ _ c h

theorem State.core_upd_same (s : State) (n : Nat) (f : Core → Core) : (s.upd n f).core n = f (s.core n) := s.core_setCore_same n _

theorem State.core_upd_ne (s : State) {m n : Nat} (f : Core → Core) (h : m ≠ n) : (s.upd n f).core m = s.core m := s.core_setCore_ne _ h

@[simp] theorem Core.getG_zero (c : Core) : c.getG 0 = 0 := rfl

theorem Core.getG_setG_same (c : Core) (k : Nat) (v : Word) (h : k ≠ 0) : (c.setG k v).getG k = v := by
  unfold Core.getG Core.setG
  rw [if_neg h, if_neg h]
  exact KMap.get_put_same _ _ _ _

theorem Core.getG_setG_ne (c : Core) {j k : Nat} (v : Word) (h : j ≠ k) : (c.setG k v).getG j = c.getG j := by
  unfold Core.getG Core.setG
  split
  · rfl
  · split
    · rfl
    · exact KMap.get_put_ne _ _ v h

/-- A write of g0 is discarded (R348). -/
@[simp] theorem Core.setG_zero (c : Core) (v : Word) : c.setG 0 v = c := rfl

/-- A write of p0 is discarded (R348). -/
@[simp] theorem Core.setP_zero (c : Core) (v : Bool) : c.setP 0 v = c := rfl

theorem b2n_mod (v : Bool) : b2n v % 2 = b2n v := by cases v <;> rfl

theorem bitAt_eq (v k : Nat) : bitAt v k = (bitsOf v k 1 == 1) := by unfold bitAt bitsOf; rfl

theorem Core.getP_setP_same (c : Core) (k : Nat) (v : Bool) (h : k ≠ 0) : (c.setP k v).getP k = v := by
  unfold Core.getP Core.setP
  rw [if_neg h]
  have hk : (k == 0) = false := by simpa using h
  rw [hk, Bool.false_or, bitAt_eq]
  show (bitsOf (setBits c.p k 1 (b2n v)) k 1 == 1) = v
  rw [bitsOf_setBits_same]
  cases v <;> rfl

theorem Core.getP_setP_ne (c : Core) {j k : Nat} (v : Bool) (h : j ≠ k) : (c.setP k v).getP j = c.getP j := by
  unfold Core.getP Core.setP
  split
  · rfl
  · rw [bitAt_eq, bitAt_eq]
    show (j == 0 || (bitsOf (setBits c.p k 1 (b2n v)) j 1 == 1)) = _
    congr 2
    rcases Nat.lt_or_gt_of_ne h with h | h
    · exact bitsOf_setBits_below _ _ _ _ _ _ h
    · exact bitsOf_setBits_above _ _ _ _ _ _ h

end Sys2Proof.Machine
end

