-- ==== Sys2Proof/Laws/Events.lean ====
section
/-!
SUPPORT. What counting, raising a line and spending a core's cycles can do: counters' registers and state, MSI-X, what leaves the device, event
latches and WAITs that end, and the cycle accounts; nothing else changes.
-/
namespace Sys2Proof.Machine

open Sys2Proof

/-- Two cores that differ in event latches and cycle accounts alone. -/
structure Core.Like (c c' : Core) : Prop where
  g : c'.g = c.g
  p : c'.p = c.p
  pc : c'.pc = c.pc
  priv : c'.priv = c.priv
  ppriv : c'.ppriv = c.ppriv
  inexc : c'.inexc = c.inexc
  epc : c'.epc = c.epc
  cause : c'.cause = c.cause
  tval : c'.tval = c.tval
  tvec : c'.tvec = c.tvec
  scratch : c'.scratch = c.scratch
  umask : c'.umask = c.umask
  watch0 : c'.watch0 = c.watch0
  watch1 : c'.watch1 = c.watch1
  evslot : c'.evslot = c.evslot
  run : c'.run = c.run
  wait : c'.wait = c.wait
  atomic : c'.atomic = c.atomic
  dcache : c'.dcache = c.dcache
  budget : c'.budget = c.budget
  image : c'.image = c.image
  swapTries : c'.swapTries = c.swapTries
  swapAddr : c'.swapAddr = c.swapAddr
  swapMax : c'.swapMax = c.swapMax
  swapStart : c'.swapStart = c.swapStart

theorem Core.Like.refl (c : Core) : Core.Like c c := by constructor <;> rfl

theorem Core.Like.trans {a b c : Core} (h : Core.Like a b) (h' : Core.Like b c) : Core.Like a c where
  g := h'.g.trans h.g
  p := h'.p.trans h.p
  pc := h'.pc.trans h.pc
  priv := h'.priv.trans h.priv
  ppriv := h'.ppriv.trans h.ppriv
  inexc := h'.inexc.trans h.inexc
  epc := h'.epc.trans h.epc
  cause := h'.cause.trans h.cause
  tval := h'.tval.trans h.tval
  tvec := h'.tvec.trans h.tvec
  scratch := h'.scratch.trans h.scratch
  umask := h'.umask.trans h.umask
  watch0 := h'.watch0.trans h.watch0
  watch1 := h'.watch1.trans h.watch1
  evslot := h'.evslot.trans h.evslot
  run := h'.run.trans h.run
  wait := h'.wait.trans h.wait
  atomic := h'.atomic.trans h.atomic
  dcache := h'.dcache.trans h.dcache
  budget := h'.budget.trans h.budget
  image := h'.image.trans h.image
  swapTries := h'.swapTries.trans h.swapTries
  swapAddr := h'.swapAddr.trans h.swapAddr
  swapMax := h'.swapMax.trans h.swapMax
  swapStart := h'.swapStart.trans h.swapStart

/-- A core that does not wait in WAIT. -/
def Core.notWaiting (c : Core) : Prop := ∀ d m l, c.wait ≠ .wait d m l

theorem Core.Like.notWaiting {c c' : Core} (h : Core.Like c c') (hw : c.notWaiting) : c'.notWaiting := by
  intro d m l; rw [h.wait]; exact hw d m l

/-- What an event leaves alone, the registers of `xs` apart. -/
structure Quiet (xs : List Nat) (s t : State) : Prop where
  regs : SameRegs s t xs
  core : ∀ n, (s.core n).notWaiting → Core.Like (s.core n) (t.core n)
  latches : t.latches = s.latches
  holds : t.holds = s.holds
  mem : t.mem = s.mem
  poison : t.poison = s.poison
  now : t.now = s.now
  nowFrac : t.nowFrac = s.nowFrac
  upNs : t.upNs = s.upNs
  readData : t.readData = s.readData
  dram : t.dram = s.dram
  stroke : t.stroke = s.stroke
  time : t.time = s.time
  mortar : t.mortar = s.mortar
  ingest : t.ingest = s.ingest
  plumb : t.plumb = s.plumb
  render : t.render = s.render
  cond : t.cond = s.cond
  strands : t.strands = s.strands
  trowel : t.trowel = s.trowel
  zip : t.zip = s.zip
  cam : t.cam = s.cam
  mbox : t.mbox = s.mbox
  board : t.board = s.board
  ledger : t.ledger = s.ledger
  trust : t.trust = s.trust
  pending : t.pending = s.pending

variable {xs : List Nat}

theorem Quiet.refl (s : State) : Quiet xs s s := by
  constructor <;> first | rfl | (intro _ _; first | rfl | exact Core.Like.refl _) | (intro _ _ _; rfl)

theorem Quiet.trans {s t u : State} (h : Quiet xs s t) (h' : Quiet xs t u) : Quiet xs s u where
  regs := fun a ha hc => (h'.regs a ha hc).trans (h.regs a ha hc)
  core := fun n hn => (h.core n hn).trans (h'.core n ((h.core n hn).notWaiting hn))
  latches := h'.latches.trans h.latches
  holds := h'.holds.trans h.holds
  mem := h'.mem.trans h.mem
  poison := h'.poison.trans h.poison
  now := h'.now.trans h.now
  nowFrac := h'.nowFrac.trans h.nowFrac
  upNs := h'.upNs.trans h.upNs
  readData := h'.readData.trans h.readData
  dram := h'.dram.trans h.dram
  stroke := h'.stroke.trans h.stroke
  time := h'.time.trans h.time
  mortar := h'.mortar.trans h.mortar
  ingest := h'.ingest.trans h.ingest
  plumb := h'.plumb.trans h.plumb
  render := h'.render.trans h.render
  cond := h'.cond.trans h.cond
  strands := h'.strands.trans h.strands
  trowel := h'.trowel.trans h.trowel
  zip := h'.zip.trans h.zip
  cam := h'.cam.trans h.cam
  mbox := h'.mbox.trans h.mbox
  board := h'.board.trans h.board
  ledger := h'.ledger.trans h.ledger
  trust := h'.trust.trans h.trust
  pending := h'.pending.trans h.pending

theorem Quiet.ite {s t u : State} (b : Bool) (h : Quiet xs s t) (h' : Quiet xs s u) : Quiet xs s (if b then t else u) := by
  cases b
  · exact h'
  · exact h

theorem Quiet.foldl {β : Type} (f : State → β → State) (hf : ∀ s x, Quiet xs s (f s x)) (l : List β) : ∀ s, Quiet xs s (l.foldl f s) := by
  induction l with
  | nil => exact Quiet.refl
  | cons x l ih => intro s; exact (hf s x).trans (ih _)

theorem Quiet.forN (n : Nat) (f : Nat → State → State) (hf : ∀ i s, Quiet xs s (f i s)) (s : State) : Quiet xs s (forN n f s) :=
  Quiet.foldl (fun s i => f i s) (fun s i => hf i s) _ s

/-- The registers that counters write are apart from a register that is none of them. -/
theorem counterReg_pmc {a i : Nat} (hi : i < 176) (h : counterReg a = false) : a ≠ pmcLoAddr i ∧ a ≠ pmcLoAddr i + 4 := by
  unfold counterReg at h
  rw [Bool.or_eq_false_iff, List.any_eq_false, List.any_eq_false] at h
  have := h.1 i (by simp [upTo, hi])
  simpa using this

theorem counterReg_ovf {a j : Nat} (hj : j < 8) (h : counterReg a = false) : a ≠ R.PERF_OVF.at 0 j := by
  unfold counterReg at h
  rw [Bool.or_eq_false_iff, List.any_eq_false, List.any_eq_false] at h
  have := h.2 j (by simp [upTo, hj])
  simpa using this

/-- A write of a counter's register, or of PERF_OVF. -/
theorem Quiet.wrReg (s : State) (a : Nat) (v : RegWord) (h : ∀ b, b ∉ xs → counterReg b = false → b ≠ a) : Quiet xs s (s.wrReg a v) := by
  constructor <;> first | (intro b hx hb; exact s.rdReg_wrReg_ne v (h b hx hb)) | (intro n _; exact Core.Like.refl _) | rfl

/-- A change of the counters' own state, MSI-X, the output or the free values. -/
theorem Quiet.emit (s : State) (x : Out) : Quiet xs s (s.emit x) := by
  unfold State.emit
  split
  · exact Quiet.refl s
  · constructor <;> first | (intro _ _; first | rfl | exact Core.Like.refl _) | rfl | (intro _ _ _; rfl)

theorem Quiet.free (s : State) (k : Config.Open) : Quiet xs s (s.free k).2 := by
  constructor <;> first | (intro _ _; first | rfl | exact Core.Like.refl _) | rfl | (intro _ _ _; rfl)

theorem Quiet.withPerf (s : State) (p : Perf) : Quiet xs s { s with perf := p } := by
  constructor <;> first | (intro _ _; first | rfl | exact Core.Like.refl _) | rfl | (intro _ _ _; rfl)

theorem Quiet.withHost (s : State) (h : HostPort) : Quiet xs s { s with host := h } := by
  constructor <;> first | (intro _ _; first | rfl | exact Core.Like.refl _) | rfl | (intro _ _ _; rfl)

/-- A core set to one that is like it, or that was waiting. -/
theorem Quiet.setCore (s : State) (n : Nat) (c : Core) (h : (s.core n).notWaiting → Core.Like (s.core n) c) : Quiet xs s (s.setCore n c) := by
  constructor <;> first | (intro _ _ _; rfl) | rfl | skip
  intro m hm
  by_cases e : m = n
  · subst e; rw [State.core_setCore_same]; exact h hm
  · rw [s.core_setCore_ne c e]; exact Core.Like.refl _

theorem Quiet.setCtr (s : State) (i v : Nat) : Quiet xs s (s.setCtr i v) := by
  unfold State.setCtr
  split
  · rename_i h
    exact (Quiet.wrReg s _ _ (fun b _ hb => (counterReg_pmc h hb).1)).trans (Quiet.wrReg _ _ _ (fun b _ hb => (counterReg_pmc h hb).2))
  · exact Quiet.withPerf s _

theorem Quiet.ovf (s : State) (j v : Nat) (hj : j < 8) : Quiet xs s (s.wr R.PERF_OVF v 0 j) := Quiet.wrReg s _ _ (fun _ _ hb => counterReg_ovf hj hb)

theorem Quiet.tdAdd (s : State) (n t k : Nat) (h : n < 16 ∧ t < 4) : Quiet xs s (s.tdAdd n t k) := by
  unfold State.tdAdd
  have h8 : (176 + 4 * n + t) / 32 < 8 := by omega
  simp only
  split
  · exact Quiet.setCtr s _ _
  · exact (Quiet.setCtr s _ _).trans (Quiet.ovf _ _ _ h8)

/-- A core's wait ends: only the core that waited changes otherwise. -/
theorem Quiet.endWait (s : State) (n d : Nat) (v : Word) (hn : n < 16) (hw : ¬ (s.core n).notWaiting) : Quiet xs s (s.endWait n d v) := by
  have h1 : Quiet xs s ((s.tdAdd n 0 1).tdAdd n 3 1) := (Quiet.tdAdd s n 0 1 ⟨hn, by omega⟩).trans (Quiet.tdAdd _ n 3 1 ⟨hn, by omega⟩)
  unfold State.endWait
  constructor
  case regs => intro a ha hc; exact h1.regs a ha hc
  case core =>
    intro m hm
    have e : m ≠ n := fun e => hw (e ▸ hm)
    rw [State.core_setCore_ne _ _ e]
    exact h1.core m hm
  case latches => exact h1.latches
  case holds => exact h1.holds
  case mem => exact h1.mem
  case poison => exact h1.poison
  case now => exact h1.now
  case nowFrac => exact h1.nowFrac
  case upNs => exact h1.upNs
  case readData => exact h1.readData
  case dram => exact h1.dram
  case stroke => exact h1.stroke
  case time => exact h1.time
  case mortar => exact h1.mortar
  case ingest => exact h1.ingest
  case plumb => exact h1.plumb
  case render => exact h1.render
  case cond => exact h1.cond
  case strands => exact h1.strands
  case trowel => exact h1.trowel
  case zip => exact h1.zip
  case cam => exact h1.cam
  case mbox => exact h1.mbox
  case board => exact h1.board
  case ledger => exact h1.ledger
  case trust => exact h1.trust
  case pending => exact h1.pending

theorem Quiet.wake (s : State) (n : Nat) (hn : n < 16) : Quiet xs s (s.wake n) := by
  unfold State.wake
  simp only
  split
  · rename_i d mask l hr hw
    split
    · rename_i k hk
      have hnw : ¬ (s.core n).notWaiting := fun h => h _ _ _ hw
      refine (Quiet.setCore s n _ (fun h => absurd h hnw)).trans (Quiet.endWait _ n _ _ hn ?_)
      rw [State.core_setCore_same]
      exact fun h => h _ _ _ hw
    · exact Quiet.refl s
  · exact Quiet.refl s

theorem Quiet.latchAll (s : State) (line : Nat) : Quiet xs s (s.latchAll line) := by
  have key : ∀ (l : List Nat) (s : State), (∀ n ∈ l, n < 16) →
      Quiet xs s (l.foldl (fun s n => (s.setCore n ((s.core n).latch line)).wake n) s) := by
    intro l
    induction l with
    | nil => intro s _; exact Quiet.refl s
    | cons n l ih =>
      intro s hl
      refine Quiet.trans ?_ (ih _ (fun m hm => hl m (by simp [hm])))
      exact (Quiet.setCore s n _ (fun _ => by constructor <;> rfl)).trans (Quiet.wake _ n (hl n (by simp)))
  exact key (List.range 16) s (fun n hn => by simpa using hn)

theorem Quiet.msix (s : State) (vec : Nat) : Quiet xs s (s.msix vec) := by
  unfold State.msix
  split
  · exact Quiet.withHost s _
  · exact Quiet.emit s _

theorem Quiet.raise0 (s : State) (line : Nat) : Quiet xs s (s.raise0 line) :=
  (Quiet.latchAll s line).trans (Quiet.foldl _ Quiet.msix _ _)

theorem Quiet.addCtr : ∀ (fuel : Nat) (s : State) (i n : Nat), i < 240 → Quiet xs s (State.addCtr fuel s i n) := by
  intro fuel
  induction fuel with
  | zero => intro s i n _; exact Quiet.refl s
  | succ fuel ih =>
    intro s i n hi
    unfold State.addCtr
    have h8 : i / 32 < 8 := by omega
    simp only
    split
    · exact Quiet.setCtr s _ _
    · have h1 : Quiet xs s ((s.setCtr i ((s.ctr i + n) % 2 ^ 48)).wr R.PERF_OVF
          (setBits ((s.setCtr i ((s.ctr i + n) % 2 ^ 48)).rd R.PERF_OVF 0 (i / 32)) (i % 32) 1 1) 0 (i / 32)) :=
        (Quiet.setCtr s _ _).trans (Quiet.ovf _ _ _ h8)
      generalize (s.setCtr i ((s.ctr i + n) % 2 ^ 48)).wr R.PERF_OVF
          (setBits ((s.setCtr i ((s.ctr i + n) % 2 ^ 48)).rd R.PERF_OVF 0 (i / 32)) (i % 32) 1 1) 0 (i / 32) = u at h1 ⊢
      have tail : ∀ w, Quiet xs s w → Quiet xs s (if (sameBlockNext i && bitAt (w.pmcCfg (i + 1)) 8 && bitAt (w.pmcCfg (i + 1)) 9) = true then
          State.addCtr fuel w (i + 1) 1 else w) := by
        intro w hw
        split
        · rename_i hc
          have hs : sameBlockNext i = true := by
            rw [Bool.and_eq_true, Bool.and_eq_true] at hc; exact hc.1.1
          have hi' : i + 1 < 240 := by
            unfold sameBlockNext at hs
            simp only [Bool.or_eq_true, Bool.and_eq_true, decide_eq_true_eq] at hs
            omega
          exact hw.trans (ih _ _ _ hi')
        · exact hw
      refine tail _ (h1.trans (Quiet.ite _ ((Quiet.raise0 u _).trans (Quiet.ite _ (ih _ 5 _ (by omega)) (Quiet.refl _))) (Quiet.refl u)))

/-- An event that is counted. -/
theorem Quiet.count (s : State) (i ev n : Nat) (at' : Attr) (hi : i < 176) : Quiet xs s (s.count i ev n at') := by
  unfold State.count
  exact Quiet.ite _ (Quiet.addCtr _ _ _ _ (by omega)) (Quiet.refl s)

theorem Quiet.sendVec (s : State) (vec : Nat) : Quiet xs s (s.sendVec vec) := by
  unfold State.sendVec
  split
  · exact Quiet.msix s vec
  · exact (Quiet.msix s vec).trans (Quiet.count _ 5 _ _ _ (by omega))

/-- A line that is raised. -/
theorem Quiet.raise (s : State) (line : Nat) : Quiet xs s (s.raise line) := (Quiet.latchAll s line).trans (Quiet.foldl _ Quiet.sendVec _ _)

theorem Quiet.raiseIf (s : State) (c : Bool) (line : Nat) : Quiet xs s (s.raiseIf c line) := Quiet.ite c (Quiet.raise s line) (Quiet.refl s)

theorem Quiet.slots (s : State) (n t k : Nat) (hn : n < 16) (ht : t < 4) : Quiet xs s (s.slots n t k) := by
  unfold State.slots
  split
  · exact Quiet.refl s
  · exact (Quiet.tdAdd s n t k ⟨hn, ht⟩).trans (Quiet.count _ _ _ _ _ (by omega))

theorem Quiet.settle (s : State) (n : Nat) (hn : n < 16) : Quiet xs s (s.settle n) := by
  unfold State.settle
  simp only
  have h1 : Quiet xs s (if ((s.core n).pair.isSome || (s.core n).owed != 0) = true then
      s.setCore n { s.core n with pair := none, owed := 0 } else s) :=
    Quiet.ite _ (Quiet.setCore s n _ (fun _ => by constructor <;> rfl)) (Quiet.refl s)
  generalize (if ((s.core n).pair.isSome || (s.core n).owed != 0) = true then
      s.setCore n { s.core n with pair := none, owed := 0 } else s) = u at h1 ⊢
  have h2 : Quiet xs u (if (s.core n).pair.isSome = true then u.slots n 3 1 else u) :=
    Quiet.ite _ (Quiet.slots u n 3 1 hn (by omega)) (Quiet.refl u)
  exact h1.trans (h2.trans (((Quiet.count _ _ _ _ _ (by omega)).trans (Quiet.count _ _ _ _ _ (by omega))).trans (Quiet.count _ _ _ _ _ (by omega))))

/-- Cycles that a core spends. -/
theorem Quiet.spend (s : State) (n cyc r w f : Nat) (hn : n < 16) : Quiet xs s (s.spend n cyc r w f) := by
  unfold State.spend
  simp only
  have a : Quiet xs s _ := (Quiet.settle s n hn).trans (Quiet.setCore (s.settle n) n
    { (s.settle n).core n with bcount := ((s.settle n).core n).bcount + cyc, cyc := ((s.settle n).core n).cyc + cyc }
    (fun _ => by constructor <;> rfl))
  generalize (s.settle n).setCore n
    { (s.settle n).core n with bcount := ((s.settle n).core n).bcount + cyc, cyc := ((s.settle n).core n).cyc + cyc } = u at a ⊢
  have b : Quiet xs s _ := a.trans (Quiet.slots u n 0 r hn (by omega))
  generalize u.slots n 0 r = u1 at b ⊢
  have c : Quiet xs s _ := b.trans (Quiet.slots u1 n 1 w hn (by omega))
  generalize u1.slots n 1 w = u2 at c ⊢
  have d : Quiet xs s _ := c.trans (Quiet.slots u2 n 2 f hn (by omega))
  generalize u2.slots n 2 f = u3 at d ⊢
  exact d.trans (Quiet.slots u3 n 3 _ hn (by omega))

theorem Quiet.waitFor (s : State) (n : Nat) (rs : List Nat) (hn : n < 16) : Quiet xs s (s.waitFor n rs) := by
  unfold State.waitFor
  simp only
  split
  · exact Quiet.refl s
  · exact (Quiet.spend s n _ 0 0 0 hn).trans (Quiet.setCore _ n _ (fun _ => by constructor <;> rfl))

theorem Quiet.takeSlot (s : State) (n : Nat) (o : Op) (rs : List Nat) (occ : Nat) (good : Bool) (hn : n < 16) :
    Quiet xs s (s.takeSlot n o rs occ good) := by
  have ht : (if good = true then 0 else 1) < 4 := by split <;> omega
  unfold State.takeSlot
  simp only
  generalize (if good = true then 0 else 1) = t at ht
  generalize (if o.ctl = true then 2 * (occ - 1) else 0) = front
  split
  · have a : Quiet xs s _ := Quiet.setCore s n { s.core n with pair := none } (fun _ => by constructor <;> rfl)
    generalize s.setCore n { s.core n with pair := none } = u at a
    have b : Quiet xs s _ := a.trans (Quiet.slots u n t 1 hn ht)
    generalize u.slots n t 1 = v at b
    have c : Quiet xs s _ := b.trans (Quiet.count v (20 + n) 17 1 (s.coxAttr n) (by omega))
    generalize v.count (20 + n) 17 1 (s.coxAttr n) = w at c
    split
    · exact c
    · exact c.trans (Quiet.spend w n _ 0 0 _ hn)
  · split
    · exact Quiet.spend s n _ _ _ _ hn
    · have b : Quiet xs s _ := (Quiet.settle s n hn).trans (Quiet.slots (s.settle n) n t 1 hn ht)
      generalize (s.settle n).slots n t 1 = v at b
      exact b.trans (Quiet.setCore v n _ (fun _ => by constructor <;> rfl))

/-- The registers of `xs` may be more. -/
theorem Quiet.mono {s t : State} {ys : List Nat} (h : Quiet xs s t) (hx : ∀ a ∈ xs, a ∈ ys) : Quiet ys s t :=
  { h with regs := h.regs.mono hx }

/-- A field of a register that an event leaves alone. -/
theorem Quiet.get {s t : State} (h : Quiet xs s t) (f : Fld) (i j : Nat) (hx : f.at i j ∉ xs) (hc : counterReg (f.at i j) = false) :
    t.get f i j = s.get f i j := State.get_congr f i j (h.regs _ hx hc)

theorem Quiet.rd {s t : State} (h : Quiet xs s t) (r : Rg) (i j : Nat) (hx : r.at i j ∉ xs) (hc : counterReg (r.at i j) = false) :
    t.rd r i j = s.rd r i j := by
  unfold State.rd; rw [h.regs _ hx hc]

/-- Registers of `xs` may be written. -/
theorem Quiet.wrMem (s : State) (a : Nat) (v : RegWord) (h : a ∈ xs) : Quiet xs s (s.wrReg a v) :=
  Quiet.wrReg s a v (fun _ hx _ e => hx (e ▸ h))

theorem Quiet.set (s : State) (f : Fld) (v i j : Nat) (h : f.at i j ∈ xs) : Quiet xs s (s.set f v i j) := Quiet.wrMem s _ _ h

theorem Quiet.wr (s : State) (r : Rg) (v i j : Nat) (h : r.at i j ∈ xs) : Quiet xs s (s.wr r v i j) := Quiet.wrMem s _ _ h

/-- Every byte of memory reads the same after an event, the host segments' registers not being among `xs`. -/
theorem Quiet.sameMem {s t : State} (h : Quiet xs s t)
    (hw : ∀ j, j < 8 → R.HOST_HWIN_LO.at 0 j ∉ xs ∧ R.HOST_HWIN_LO.at 0 j + 4 ∉ xs) : SameMem s t := by
  have hc : ∀ j, j < 8 → counterReg (R.HOST_HWIN_LO.at 0 j) = false ∧ counterReg (R.HOST_HWIN_LO.at 0 j + 4) = false := by decide
  intro a
  by_cases hh : hostWin a = true
  · have hs : hostSeg a < 8 := by
      unfold hostWin at hh
      unfold hostSeg
      simp only [Bool.and_eq_true, decide_eq_true_eq] at hh
      omega
    have hp : t.physAddr a = s.physAddr a := by
      unfold State.physAddr State.rd64
      rw [h.regs _ (hw _ hs).1 (hc _ hs).1, h.regs _ (hw _ hs).2 (hc _ hs).2]
    unfold State.rdB
    rw [hp, h.mem]
  · have hp : ∀ u : State, u.physAddr a = a := fun u => by unfold State.physAddr; rw [if_neg hh]
    unfold State.rdB
    rw [hp, hp, h.mem]

/-- A core that does not wait keeps a general register. -/
theorem Quiet.g {s t : State} (h : Quiet xs s t) (n k : Nat) (hw : (s.core n).notWaiting) : t.g n k = s.g n k := by
  unfold State.g Core.getG; rw [(h.core n hw).g]

theorem Quiet.icacheFill (s : State) (n p : Nat) (hn : n < 16) : Quiet xs s (s.icacheFill n p) := by
  have h0 : Quiet xs s _ := Quiet.free s .victim
  unfold State.icacheFill
  simp only
  generalize (s.free .victim).2 = u at h0 ⊢
  have h1 : Quiet xs s _ := h0.trans (Quiet.setCore u n ((u.core n).icacheAdd (p / 64) (s.free .victim).1)
    (fun _ => by constructor <;> rfl))
  exact (h1.trans (Quiet.count _ (20 + n) 18 1 _ (by omega))).trans (Quiet.count _ (20 + n) 3 1 _ (by omega))

theorem Quiet.fetch (s : State) (n a : Nat) (hn : n < 16) : Quiet xs s (s.fetch n a) := by
  unfold State.fetch
  simp only
  generalize Config.freeFun .latency [n, coreAddr n a / 64, (s.core n).cyc] = lat
  split
  · exact Quiet.refl s
  · split
    · exact (Quiet.count s (20 + n) 3 1 _ (by omega)).trans (Quiet.spend _ n lat 0 0 _ hn)
    · split
      · exact Quiet.refl s
      · exact (Quiet.icacheFill s n _ hn).trans (Quiet.spend _ n lat 0 0 _ hn)

/-- What comes before the effect of an instruction writes no register but COX_STAT. -/
theorem Quiet.budgetNote (s : State) (n : Nat) (_hn : n < 16) (hx : R.COX_STAT.at n 0 ∈ xs) : Quiet xs s (s.budgetNote n) := by
  unfold State.budgetNote
  split
  · exact ((Quiet.setCore s n _ (fun _ => by constructor <;> rfl)).trans (Quiet.set _ F.COX_STAT_BUDGET_HIT 1 n 0 hx)).trans (Quiet.raise _ _)
  · exact Quiet.refl s

/-- An instruction that issues has its own effect, on the state that the budget, the fetch and the wait for its operands leave. -/
theorem State.instr_issues (s : State) (n : Nat) (gu : Guard) (o : Op) (k : State → Res) (h : s.issues n gu o = true) :
    s.instr n gu o k = k (((s.budgetNote n).fetch n (s.core n).pc.toNat).waitFor n (o.waits gu)) := by
  unfold State.issues at h
  simp only [Bool.and_eq_true, Bool.not_eq_true'] at h
  obtain ⟨⟨⟨⟨⟨⟨h1, h2⟩, h3⟩, h4⟩, h5⟩, h6⟩, h7⟩ := h
  unfold State.instr
  simp [h1, h2, h3, h4, h5, h6, h7]

theorem Quiet.pre (s : State) (n : Nat) (gu : Guard) (o : Op) (hn : n < 16) (hx : R.COX_STAT.at n 0 ∈ xs) :
    Quiet xs s (((s.budgetNote n).fetch n (s.core n).pc.toNat).waitFor n (o.waits gu)) :=
  ((Quiet.budgetNote s n hn hx).trans (Quiet.fetch _ n _ hn)).trans (Quiet.waitFor _ n _ hn)

/-- An instruction that completes: an event, and the core's pc and ready cycles. -/
theorem Quiet.retire (s : State) (n : Nat) (gu : Guard) (o : Op) (occ lat : Nat) (pc : Word) (hn : n < 16) (hx : R.COX_STAT.at n 0 ∈ xs) :
    ∃ u, Quiet xs s u ∧ s.retire n gu o occ lat pc = u.setCore n { (u.core n).setReady (live o.writes) occ lat with pc := pc } :=
  ⟨_, ((Quiet.takeSlot s n o (o.waits gu) occ true hn).trans (Quiet.count _ (20 + n) 16 1 (s.coxAttr n) (by omega))).trans
    (Quiet.budgetNote _ n hn hx), rfl⟩

end Sys2Proof.Machine
end

