-- ==== Sys2Proof/Laws/Access.lean ====
section
/-!
SUPPORT. What a command that stands for a register access does where its requester may make it, and where it may not.
-/
namespace Sys2Proof.Machine

open Sys2Proof

/-- A write that its requester may make is made. -/
theorem State.ifWrite_of_mayWrite {s : State} {who : Requester} {a : Nat} (h : s.mayWrite who a = true) (k : State → Res) :
    s.ifWrite who a k = k s := by
  unfold State.mayWrite at h
  unfold State.ifWrite
  split at h
  · rename_i e he; simp [he, h]
  · rename_i he; simp [he]

/-- A write of a value without reserved bits that its requester may make is made. -/
theorem State.ifWriteV_of_mayPut {s : State} {who : Requester} {a : Nat} {v : RegWord} (h : s.mayPut who a v = true) (k : State → Res) :
    s.ifWriteV who a v k = k s := by
  simp only [State.mayPut, Bool.and_eq_true, Bool.not_eq_true'] at h
  unfold State.ifWriteV
  rw [State.ifWrite_of_mayWrite h.1]
  simp [h.2]

/-- A read that its requester may make is made. -/
theorem State.ifRead_of_mayRead {s : State} {who : Requester} {a : Nat} (h : s.mayRead who a = true) (k : State → Res) :
    s.ifRead who a k = k s := by
  unfold State.mayRead at h
  unfold State.ifRead
  split at h
  · rename_i e he; simp [he, h]
  · rename_i he; simp [he]

/-- A write that its requester may not make is refused. -/
theorem State.ifWrite_of_not {s : State} {who : Requester} {a : Nat} (h : s.mayWrite who a = false) (k : State → Res) :
    s.ifWrite who a k = .next (s.refuseAccess who a) := by
  unfold State.mayWrite at h
  unfold State.ifWrite
  split at h
  · rename_i e he; simp [he, h]
  · exact absurd h (by decide)

end Sys2Proof.Machine
end

