-- ==== Sys2Proof/Laws/Crypto.lean ====
section
/-!
SUPPORT. The lengths of hashes, one-time chains and the signatures of a report.
-/
namespace Sys2Proof.Machine

open Sys2Proof

theorem leBytes_len (n v : Nat) : (leBytes n v).length = n := by
  induction n generalizing v with
  | zero => rfl
  | succ n ih => simp [leBytes, ih]

theorem beBytes_len (n v : Nat) : (beBytes n v).length = n := by simp [beBytes, leBytes_len]

theorem flatMap_length_const {α : Type} (f : α → List Byte) (n : Nat) (l : List α) (h : ∀ x ∈ l, (f x).length = n) :
    (l.flatMap f).length = l.length * n := by
  induction l with
  | nil => simp
  | cons a l ih =>
    simp only [List.flatMap_cons, List.length_append, List.length_cons, h a (List.mem_cons_self ..),
      ih (fun x hx => h x (List.mem_cons_of_mem _ hx)), Nat.succ_mul]
    omega

theorem shaRounds_length (f : ShaFns) (zs : List (Nat × Nat)) (g : List Nat) (hg : g.length = 8) :
    (zs.foldl (fun h p => shaRound f h (p.1 + p.2)) g).length = 8 := by
  induction zs generalizing g with
  | nil => simpa using hg
  | cons z l ih =>
    rw [List.foldl_cons]
    apply ih
    match g, hg with
    | [_, _, _, _, _, _, _, _], _ => rfl

theorem shaBlocks_length (f : ShaFns) (k : List Nat) (p : List Byte) (bl : Nat) (ns h : List Nat) (hh : h.length = 8) :
    (ns.foldl (fun h i => shaBlock f k h ((p.drop (bl * i)).take bl)) h).length = 8 := by
  induction ns generalizing h with
  | nil => simpa using hh
  | cons a l ih =>
    rw [List.foldl_cons]
    apply ih
    rw [shaBlock]
    simp only [List.length_zipWith, shaRounds_length f _ h hh, hh, Nat.min_self]

theorem shaPrimes_length : shaPrimes.length = 80 := by decide +kernel

theorem sha256_length (m : List Byte) : (sha256 m).length = 32 := by
  have h8 : sha256H.length = 8 := by simp [sha256H, shaPrimes_length]
  rw [sha256, sha2]
  simp only [List.length_take]
  rw [flatMap_length_const _ (sha32.w / 8) _ (fun _ _ => beBytes_len _ _), shaBlocks_length _ _ _ _ _ _ h8]
  decide

theorem lmotsChain_length (pre : List Byte) (i n j : Nat) (t : List Byte) (ht : t.length = 32) : (lmotsChain pre i n j t).length = 32 := by
  induction n generalizing j t with
  | zero => exact ht
  | succ n ih => exact ih _ _ (sha256_length _)

theorem lmotsDigits_length (idq c msg : List Byte) : (lmotsDigits idq c msg).length = 67 := by
  rw [lmotsDigits]
  simp only [List.length_take]
  have : ∀ l : List Byte, (l.flatMap (fun b => [b.toNat / 16, b.toNat % 16])).length = 2 * l.length := by
    intro l
    induction l with
    | nil => rfl
    | cons a l ih => simp only [List.flatMap_cons, List.length_append, List.length_cons, List.length_nil, ih]; omega
  rw [this, List.length_append, sha256_length, beBytes_len]
  decide

theorem LmsKey.node_length (k : LmsKey) (n r : Nat) : (k.node n r).length = 32 := by cases n <;> exact sha256_length _

theorem LmsKey.sign_length (k : LmsKey) (q : Nat) (msg : List Byte) (hc : (k.c q).length = 32) (hx : ∀ i, (k.x q i).length = 32)
    (hh : k.h = 10) : (k.sign q msg).length = 2508 := by
  rw [LmsKey.sign]
  simp only [List.length_append, beBytes_len, hc, hh]
  rw [flatMap_length_const _ 32 _ (fun _ _ => lmotsChain_length _ _ _ _ _ (hx _)),
    flatMap_length_const _ 32 _ (fun _ _ => k.node_length _ _), List.length_zipIdx, lmotsDigits_length]
  simp [upTo]

theorem freeBytes_length (k : Config.Open) (args : List Nat) (n : Nat) : (freeBytes k args n).length = n := by simp [freeBytes, upTo]

theorem hssSign_length (q : Nat) (msg : List Byte) : (hssSign q msg).length = 5076 := by
  rw [hssSign]
  simp only [List.length_append, beBytes_len, LmsKey.pub, LmsKey.node_length]
  rw [LmsKey.sign_length _ _ _ (freeBytes_length ..) (fun _ => freeBytes_length ..) rfl,
    LmsKey.sign_length _ _ _ (freeBytes_length ..) (fun _ => freeBytes_length ..) rfl]
  simp [hssTree, freeBytes_length]

theorem ecdsaSign_length (d : Nat) (msg b : List Byte) (h : ecdsaSign d msg = some b) : b.length = 96 := by
  rw [ecdsaSign] at h
  obtain ⟨p, _, rfl⟩ := Option.map_eq_some_iff.mp h
  simp [beBytes_len]

/-- The signatures of a report take 5,172 bytes (R550). -/
theorem signatures_length (q : Nat) (body : List Byte) : (signatures q body).length = 5172 := by
  rw [signatures, List.length_append, hssSign_length]
  cases h : ecdsaSign identityKey body with
  | none => simp [freeBytes_length]
  | some b => simp [ecdsaSign_length _ _ _ h]

/-- As many bytes are read as are asked for. -/
theorem State.rdBytes_length (s : State) (n : Nat) : ∀ a, (s.rdBytes a n).length = n := by
  induction n with
  | zero => exact fun _ => rfl
  | succ n ih => exact fun a => congrArg (· + 1) (ih (a + 1))

/-- The identity key is one point, 97 bytes. -/
theorem identityPub_le : identityPub.length ≤ 97 := by
  unfold identityPub ecdsaPub
  split
  · simp [beBytes_len]
  · simp

/-- The signed part of a report with no measurement: 512 bytes (R550). -/
theorem State.reportBody_length (s : State) (a : Nat) (h : s.trust.log = []) : (s.reportBody a).length = 512 := by
  have hi := identityPub_le
  unfold State.reportBody
  simp only [h, List.length_append, leBytes_len, State.rdBytes_length, List.flatMap_nil, List.length_nil, List.length_replicate, List.length_map, hssPub, beBytes_len,
    LmsKey.pub, LmsKey.node_length, List.length_cons]
  rw [flatMap_length_const (fun j => leBytes 4 (s.rd R.TRU_ACC 0 j)) 4 (upTo 12) (fun _ _ => leBytes_len 4 _)]
  have hd : (hssTree 0 0).id.length = 16 := freeBytes_length ..
  simp only [hd, upTo, List.length_range]
  omega

end Sys2Proof.Machine
end

