-- ==== Sys2Proof/Laws/Lane.lean ====
section
/-!
SUPPORT. Laws of the line codes: unstuffing undoes stuffing, descrambling undoes scrambling, and the bits that follow a marker come back
whole, so a receiver takes from a transmitted brick or MODE 1 block the bits that were put into it (R177–R180, R286).
-/
namespace Sys2Proof.Machine

open Sys2Proof

/-- Descrambling from the state the scrambler began with gives the bits back. -/
theorem scramble_scramble (x : List Bool) (s : Nat) : scramble (scramble x s) s = x := by
  induction x generalizing s with
  | nil => rfl
  | cons b r ih =>
    simp only [scramble, ih]
    cases b <;> cases (prbsStep s).1 <;> rfl

theorem scramble_length (x : List Bool) (s : Nat) : (scramble x s).length = x.length := by
  induction x generalizing s with
  | nil => rfl
  | cons b r ih => simp [scramble, ih]

/-- A receiver in step reads stuffed bits as the bits before stuffing: no marker, no error. -/
theorem lineSyms_stuff (x : List Bool) (l : Bool) (n : Nat) (h : n < 20) : lineSyms (stuff x l n) 0 l n = x.map .bit := by
  induction x generalizing l n with
  | nil => rfl
  | cons b r ih =>
    unfold stuff
    by_cases hb : b = l
    · subst hb
      by_cases hn : n + 1 = 20
      · have : n = 19 := by omega
        subst this
        have h1 : ((!b) != b) = true := by cases b <;> rfl
        simp [lineSyms, h1, ih]
      · simp [lineSyms, hn, h, ih b (n + 1) (by omega)]
    · have h1 : (b != l) = true := by simpa using hb
      have h2 : ¬n = 20 := by omega
      simp [lineSyms, hb, h1, h2, ih]

theorem symBits_map (x : List Bool) : symBits (x.map .bit) = x := by
  induction x with
  | nil => rfl
  | cons b r ih => simp [symBits, ih]

theorem symsBad_map (x : List Bool) : symsBad (x.map .bit) = false := by
  induction x with
  | nil => rfl
  | cons b r ih => simp [symsBad, ih]

theorem segments_map (x : List Bool) : segments (x.map .bit) = [] := by
  induction x with
  | nil => rfl
  | cons b r ih => simpa [segments] using ih

/-- After the 32 bits of a marker the receiver stands at a run of two zeros. -/
theorem lineSyms_marker (y : List Bool) :
    lineSyms (List.replicate 20 true ++ (markTail ++ y)) 0 true 1 = List.replicate 19 (.bit true) ++ .mark false :: lineSyms y 0 false 2 := rfl

theorem marker_append (y : List Bool) : marker ++ y = true :: (List.replicate 20 true ++ (markTail ++ y)) := rfl

/-- What a receiver makes of a marker and what follows it, scrambled and stuffed: exactly those bits. -/
theorem lineSegs_sent (x : List Bool) : lineSegs false (marker ++ stuff (scramble x prbsLoad) false 2) = [(false, x, false)] := by
  have h0 : (marker ++ stuff (scramble x prbsLoad) false 2).map (· != false) = marker ++ stuff (scramble x prbsLoad) false 2 := by
    simp
  unfold lineSegs
  rw [h0, marker_append]
  simp only [lineSyms_marker, lineSyms_stuff _ _ _ (by decide : 2 < 20)]
  simp [List.replicate, segments, symBits_map, symsBad_map, segments_map, scramble_scramble]

/-- The receiver takes from a brick's line the bits of the brick. -/
theorem lineSegs_brickLine (b : List Byte) : lineSegs false (brickLine b) = [(false, lineBits b, false)] := lineSegs_sent _

theorem packMsb_bits (b : Byte) (r : List Bool) : packMsb 8 (bitsMsb 8 b.toNat ++ r) 0 0 = b.toNat :: packMsb 8 r 0 0 := by
  have h : ∀ b : Byte, ∃ b0 b1 b2 b3 b4 b5 b6 b7 : Bool, bitsMsb 8 b.toNat = [b0, b1, b2, b3, b4, b5, b6, b7] ∧
      msbVal [b0, b1, b2, b3, b4, b5, b6, b7] = b.toNat := by decide +kernel
  obtain ⟨b0, b1, b2, b3, b4, b5, b6, b7, h1, h2⟩ := h b
  rw [h1, ← h2]
  simp [packMsb, msbVal]

/-- Bytes as bits and back. -/
theorem lineBytes_lineBits (l : List Byte) : lineBytes (lineBits l) = l := by
  unfold lineBytes lineBits
  induction l with
  | nil => rfl
  | cons b r ih =>
    rw [List.flatMap_cons, packMsb_bits, List.map_cons, ih, BitVec.ofNat_toNat, BitVec.setWidth_eq]

theorem lineBits_length (l : List Byte) : (lineBits l).length = 8 * l.length := by
  unfold lineBits
  induction l with
  | nil => rfl
  | cons b r ih =>
    rw [List.flatMap_cons, List.length_append, ih, List.length_cons]
    have : (bitsMsb 8 b.toNat).length = 8 := by simp [bitsMsb, upTo]
    omega

theorem msbVal_cons (b : Bool) (l : List Bool) : msbVal (b :: l) = b2n b * 2 ^ l.length + msbVal l := by
  have h : ∀ (l : List Bool) (n : Nat), l.foldl (fun n b => 2 * n + b2n b) n = n * 2 ^ l.length + msbVal l := by
    intro l
    induction l with
    | nil => intro n; simp [msbVal]
    | cons c r ih =>
      intro n
      simp only [msbVal, List.foldl_cons, List.length_cons] at *
      rw [ih (2 * n + b2n c), ih (2 * 0 + b2n c)]
      ring
  unfold msbVal
  rw [List.foldl_cons, h]
  simp [msbVal]

/-- The low `n` bits of a number, and back. -/
theorem lsbVal_bitsLsb (n v : Nat) : lsbVal (bitsLsb n v) = v % 2 ^ n := by
  unfold lsbVal bitsLsb upTo
  induction n with
  | zero => simp [msbVal, Nat.mod_one]
  | succ n ih =>
    rw [List.range_succ, List.map_append, List.reverse_append, List.map_singleton, List.reverse_singleton, List.singleton_append,
      msbVal_cons, ih, List.length_reverse, List.length_map, List.length_range, Nat.mod_pow_succ]
    have : b2n (bitAt v n) = v / 2 ^ n % 2 := by
      unfold b2n bitAt
      rcases Nat.mod_two_eq_zero_or_one (v / 2 ^ n) with h | h <;> simp [h]
    rw [this]
    ring

theorem crcStep_lt (p c : Nat) (hp : p < 2 ^ 32) (hc : c < 2 ^ 32) : crcStep p c < 2 ^ 32 := by
  unfold crcStep
  split
  · exact Nat.xor_lt_two_pow (by omega) hp
  · omega

theorem crcSteps_lt (p n c : Nat) (hp : p < 2 ^ 32) (hc : c < 2 ^ 32) : crcSteps p n c < 2 ^ 32 := by
  induction n generalizing c with
  | zero => exact hc
  | succ n ih => exact ih _ (crcStep_lt p c hp hc)

theorem crcBytes_lt (p c : Nat) (l : List Byte) (hp : p < 2 ^ 32) (hc : c < 2 ^ 32) : crcBytes p c l < 2 ^ 32 := by
  unfold crcBytes
  induction l generalizing c with
  | nil => exact hc
  | cons b r ih =>
    rw [List.foldl_cons]
    exact ih _ (crcSteps_lt p 8 _ hp (Nat.xor_lt_two_pow hc (by have := b.isLt; omega)))

/-- A block's CRC has 32 bits. -/
theorem blockCrc_lt (hdr : Nat) (data : List Byte) : blockCrc hdr data < 2 ^ 32 := by
  have h : ∀ (l : List Nat) (c : Nat), c < 2 ^ 32 →
      l.foldl (fun c k => crcStep 0x82F63B78 (c ^^^ b2n (bitAt hdr k))) c < 2 ^ 32 := by
    intro l
    induction l with
    | nil => intro c hc; exact hc
    | cons k r ih =>
      intro c hc
      rw [List.foldl_cons]
      refine ih _ (crcStep_lt _ _ (by omega) (Nat.xor_lt_two_pow hc ?_))
      unfold b2n
      split <;> omega
  unfold blockCrc
  exact Nat.xor_lt_two_pow (crcBytes_lt _ _ _ (by omega) (h _ _ (by omega))) (by omega)

/-- The low bytes of a number, and back. -/
theorem leVal_leBytes (n v : Nat) : leVal (leBytes n v) = v % 256 ^ n := by
  induction n generalizing v with
  | zero => simp [leBytes, leVal, Nat.mod_one]
  | succ n ih =>
    simp only [leBytes, leVal, ih, BitVec.toNat_ofNat]
    show v % 256 + _ = _
    rw [show 256 ^ (n + 1) = 256 * 256 ^ n by ring, Nat.mod_mul]

/-- What the block's receiver reads from the bits its sender put after the marker: the header and data, for a header of 20 bits and 640
bytes. -/
theorem nrzParse_sent (hdr : Nat) (data : List Byte) (hh : hdr < 2 ^ 20) (hd : data.length = 640) :
    nrzParse (bitsLsb 20 hdr ++ lineBits data ++ lineBits (leBytes 4 (blockCrc hdr data))) = some (hdr, data) := by
  have h20 : (bitsLsb 20 hdr).length = 20 := by simp [bitsLsb, upTo]
  have h5120 : (lineBits data).length = 5120 := by rw [lineBits_length, hd]
  have h32 : (lineBits (leBytes 4 (blockCrc hdr data))).length = 32 := by rw [lineBits_length]; rfl
  have t1 : (bitsLsb 20 hdr ++ lineBits data ++ lineBits (leBytes 4 (blockCrc hdr data))).take 20 = bitsLsb 20 hdr := by
    rw [List.append_assoc]
    exact List.take_left' h20
  have t2 : ((bitsLsb 20 hdr ++ lineBits data ++ lineBits (leBytes 4 (blockCrc hdr data))).drop 20).take 5120 = lineBits data := by
    rw [List.append_assoc, List.drop_left' h20, List.take_left' h5120]
  have t3 : ((bitsLsb 20 hdr ++ lineBits data ++ lineBits (leBytes 4 (blockCrc hdr data))).drop 5140).take 32 =
      lineBits (leBytes 4 (blockCrc hdr data)) := by
    rw [List.drop_left' (by rw [List.length_append, h20, h5120]), List.take_of_length_le (by omega)]
  unfold nrzParse
  simp only [t1, t2, t3, lsbVal_bitsLsb, Nat.mod_eq_of_lt hh, lineBytes_lineBits]
  rw [if_neg]
  rintro (h | h)
  · simp only [List.length_append] at h
    omega
  · apply h
    rw [leVal_leBytes, Nat.mod_eq_of_lt (by simpa using blockCrc_lt hdr data)]

/-- The receiver takes from a MODE 1 block's line the bits of the block. -/
theorem lineSegs_nrzBlock (hdr : Nat) (data : List Byte) : lineSegs false (nrzBlock hdr data) =
    [(false, bitsLsb 20 hdr ++ lineBits data ++ lineBits (leBytes 4 (blockCrc hdr data)), false)] := lineSegs_sent _

theorem gfMul_zero (b : Nat) : gfMul 0 b = 0 := by
  unfold gfMul
  have : ∀ (l : List Bool), l.foldl (fun r k => if k then gfX r ^^^ 0 else gfX r) 0 = 0 := by
    intro l
    induction l with
    | nil => rfl
    | cons k r ih =>
      rw [List.foldl_cons]
      have : (if k = true then gfX 0 ^^^ 0 else gfX 0) = 0 := by cases k <;> rfl
      rw [this, ih]
  exact this _

/-- The syndromes of the word of zeros are 0, so nothing is corrected in it. -/
theorem rsCorrections_zeros (n : Nat) : rsCorrections (List.replicate n 0) = some [] := by
  have h : ∀ x, polyAt (List.replicate n 0) x = 0 := by
    intro x
    unfold polyAt
    induction n with
    | zero => rfl
    | succ n ih => rw [List.replicate_succ, List.foldl_cons, gfMul_zero, Nat.xor_self, ih]
  unfold rsCorrections rsSyndromes
  rw [if_pos]
  simp [h]

theorem packMsb_zeros (n : Nat) : packMsb 10 (List.replicate (10 * n) false) 0 0 = List.replicate n 0 := by
  induction n with
  | zero => rfl
  | succ n ih =>
    rw [show 10 * (n + 1) = 10 * n + 1 + 1 + 1 + 1 + 1 + 1 + 1 + 1 + 1 + 1 by omega]
    simp [List.replicate_succ, packMsb, b2n, ih]

theorem ungray_zeros (n : Nat) : (List.replicate n 0).flatMap ungray = List.replicate (2 * n) false := by
  induction n with
  | zero => rfl
  | succ n ih =>
    rw [show 2 * (n + 1) = 2 * n + 1 + 1 by omega, List.replicate_succ, List.flatMap_cons, ih]
    rfl

/-- The MODE 0 block of 2,720 symbols of 0: a code word, with header 0. -/
theorem pamParse_zeros : pamParse false 0 (List.replicate 2720 0) =
    some (0, lineBytes (scramble (List.replicate 5120 false) prbsLoad), 0) := by
  have h1 : rsDecode (List.replicate 544 0) = some (List.replicate 514 0, 0) := by
    have g : ∀ (n m : Nat), (upTo m).map (fun i => (List.replicate n 0).getD i 0 ^^^
        ((([] : List (Nat × Nat)).find? (fun e => e.1 == i)).map (·.2)).getD 0) = List.replicate m 0 := by
      intro n m
      rw [List.eq_replicate_iff]
      refine ⟨by simp [upTo], ?_⟩
      intro b hb
      obtain ⟨i, -, rfl⟩ := List.mem_map.mp hb
      rw [List.getD_eq_getElem?_getD, List.getElem?_replicate]
      split <;> simp
    unfold rsDecode
    rw [if_pos List.length_replicate, rsCorrections_zeros, Option.map_some, g]
    rfl
  have h2 : (List.replicate 514 0).flatMap (bitsMsb 10) = List.replicate 5140 false := by
    have : ∀ n, (List.replicate n 0).flatMap (bitsMsb 10) = List.replicate (10 * n) false := by
      intro n
      induction n with
      | zero => rfl
      | succ n ih =>
        rw [show 10 * (n + 1) = 10 * n + 1 + 1 + 1 + 1 + 1 + 1 + 1 + 1 + 1 + 1 by omega, List.replicate_succ, List.flatMap_cons, ih]
        rfl
    exact this 514
  unfold pamParse
  simp only [Bool.false_eq_true, if_false]
  rw [ungray_zeros, show 2 * 2720 = 10 * 544 from rfl, packMsb_zeros, h1, Option.map_some, h2, List.drop_replicate, List.take_replicate]
  rw [show lsbVal (List.replicate (min 20 5140) false) = 0 from by decide +kernel]
end Sys2Proof.Machine
end

