-- ==== Sys2Proof/Machine/Package.lean ====
section
/-!
DEFINITION. The package: the names of the balls, what each ball of the 59 × 59 array carries, and the swing that the tap registers give a
transmitter (R581–R588, R593).
-/
namespace Sys2Proof.Machine

/-- What a ball carries. -/
inductive Ball where
  | vss | vddCore | vddCox | vddSram | vddaSd | vddhSd | vddqDdr | vddIo18 | vddIo33
  /-- A leg of strand `s`: 0 S<s>T_P, 1 S<s>T_N, 2 S<s>X_P, 3 S<s>X_N, 4 S<s>C. -/
  | strand (s leg : Nat)
  /-- A leg of lane `l` of mortar, of the network or of PCIe, numbered as the strands' first four. -/
  | mortar (l leg : Nat)
  | net (l leg : Nat)
  | pcie (l leg : Nat)
  /-- A leg (0 P, 1 N) of reference clock SDREF<r>, or of PEREF. -/
  | sdref (r leg : Nat)
  | peref (leg : Nat)
  /-- A leg of a pair of camera port `p`: pair 0 is its clock, pair j lane j − 1. -/
  | camera (p pair leg : Nat)
  /-- Signals of DDR5 channel `c`, subchannel `sub` (0 A, 1 B): data, check bits, strobe legs (0 T, 1 C), command and address. -/
  | dq (c sub i : Nat)
  | cb (c sub i : Nat)
  | dqs (c sub g leg : Nat)
  | ca (c sub i : Nat)
  | cs (c sub i : Nat)
  | ck (c sub leg : Nat)
  | dramReset (c : Nat)
  | alert (c : Nat)
  | zq (c : Nat)
  | gpio (k : Nat)
  /-- A single-ended signal of the corner blocks. -/
  | named (name : String)
deriving DecidableEq, Repr

/-- The letters that name rows (R582). -/
def rowLetters : List Char := ['A', 'B', 'C', 'D', 'E', 'F', 'G', 'H', 'J', 'K', 'L', 'M', 'N', 'P', 'T', 'U', 'V', 'W', 'Y']

/-- The name of row `n`, 1–59 (R582). -/
def rowName (n : Nat) : List Char :=
  let last := [rowLetters.getD ((n - 1) % 19) 'A']
  match (n - 1) / 19 with
  | 0 => last
  | 1 => 'A' :: last
  | 2 => 'B' :: last
  | _ => 'C' :: last

/-- Strand bands (R584). -/
def strandBall (n c : Nat) : Ball :=
  let top := decide (n ≤ 8)
  let r := if top then n - 1 else n - 52
  let s := (if top then 0 else 48) + 24 * (r / 4) + (c - 6) / 2
  match (c - 6) % 2, r % 4 with
  | 0, 0 => .strand s 0
  | 0, 1 => .strand s 1
  | 0, 2 => .vss
  | 0, _ => .strand s 4
  | _, 0 => .vss
  | _, 1 => .vddaSd
  | _, 2 => .strand s 2
  | _, _ => .strand s 3

/-- DRAM bands (R585). -/
def dramBall (n c : Nat) : Ball :=
  if 49 ≤ n then (if n = 50 then .vss else .vddqDdr)
  else
    let left := decide (c ≤ 20)
    let ch := (if left then 0 else 4) + (n - 9) / 10
    let i := (n - 9) % 10 + 1
    let j := if left then c else 60 - c
    let sub := (j - 1) / 10
    let k := (j - 1) % 10 + 1
    let g := k - 1
    if i ≤ 4 then (if g ≤ 7 then .dq ch sub (4 * g + i - 1) else .cb ch sub (4 * (g - 8) + i - 1))
    else if i ≤ 6 then .dqs ch sub g (i - 5)
    else if i = 7 then .vddqDdr
    else if i = 8 then .vss
    else if i = 9 then .ca ch sub (k - 1)
    else if k ≤ 4 then .ca ch sub (9 + k)
    else if k ≤ 6 then .cs ch sub (k - 5)
    else if k ≤ 8 then .ck ch sub (k - 7)
    else if sub = 0 then (if k = 9 then .dramReset ch else .alert ch)
    else if k = 9 then .zq ch else .vss

/-- The high-speed strip of rows 11–14, by row `r` 0–3 of the strip (R586). -/
def upperStrip (r c : Nat) : Ball :=
  match c with
  | 22 => .mortar 0 r | 23 => .mortar 1 r | 24 => .mortar 2 r | 26 => .mortar 3 r
  | 27 => .mortar 4 r | 28 => .mortar 5 r | 30 => .mortar 6 r | 31 => .mortar 7 r
  | 32 => .net 0 r | 34 => .net 1 r | 35 => .net 2 r | 36 => .net 3 r
  | 38 => .sdref (r / 2) (r % 2)
  | 39 => .sdref (2 + r / 2) (r % 2)
  | _ => .vss

/-- The high-speed strip of rows 46–49 (R586). -/
def lowerStrip (r c : Nat) : Ball :=
  if 22 ≤ c ∧ c ≤ 25 then .pcie (c - 22) r
  else if c = 26 then (if r < 2 then .peref r else .vss)
  else if 28 ≤ c ∧ c ≤ 32 then .camera (r / 2) (c - 28) (r % 2)
  else if 34 ≤ c ∧ c ≤ 38 then .camera (2 + r / 2) (c - 34) (r % 2)
  else .vss

/-- Supply rows, strips and the core field, columns 21–39 (R586, R587). -/
def coreBall (n c : Nat) : Ball :=
  if n = 9 ∨ n = 51 then .vddaSd
  else if n = 10 ∨ n = 50 then (if c % 2 = 1 then .vddhSd else .vss)
  else if n ≤ 14 then upperStrip (n - 11) c
  else if 46 ≤ n then lowerStrip (n - 46) c
  else if (n + c) % 2 = 0 then .vss
  else if n ≤ 17 then .vddCox
  else if n ≤ 42 then .vddCore
  else .vddSram

/-- The named balls of three corner blocks, by row and column (R588). -/
def cornerNames : List (Nat × Nat × String) := [
  (1, 3, "PWR_OK"), (1, 5, "RESET_N"), (2, 2, "PWR_FAIL_N"), (2, 4, "THERM_TRIP_N"), (3, 3, "REF10M_IN"), (4, 2, "XTAL_IN"),
  (4, 4, "XTAL_OUT"), (6, 2, "VSENSE_CORE"), (6, 4, "VSENSE_VSS"), (8, 2, "TESTMODE"),
  (1, 55, "LDG_CK"), (1, 57, "LDG_DQS"), (1, 59, "LDG_CS0_N"), (2, 54, "LDG_DQ0"), (2, 56, "LDG_DQ1"), (2, 58, "LDG_CS1_N"),
  (3, 55, "LDG_DQ2"), (3, 57, "LDG_DQ3"), (3, 59, "LDG_RST_N"), (4, 54, "LDG_DQ4"), (4, 56, "LDG_DQ5"), (5, 55, "LDG_DQ6"),
  (5, 57, "LDG_DQ7"), (6, 54, "TCK"), (6, 56, "TMS"), (6, 58, "TDI"), (7, 55, "TDO"), (7, 57, "TRST_N"), (7, 59, "I2C0_SCL"),
  (8, 54, "I2C0_SDA"), (8, 56, "I2C1_SCL"), (8, 58, "I2C1_SDA"),
  (52, 54, "HOUSE_SYNC"), (52, 56, "PPS_IN"), (52, 58, "STROKE_OUT"), (53, 55, "PPS_OUT"), (53, 57, "CAM_TRIG0"), (53, 59, "CAM_TRIG1"),
  (54, 54, "CAM_TRIG2"), (54, 56, "CAM_TRIG3")]

/-- The corner blocks (R588). -/
def cornerBall (n c : Nat) : Ball :=
  match cornerNames.find? (fun e => e.1 == n && e.2.1 == c) with
  | some e => .named e.2.2
  | none =>
    if 52 ≤ n ∧ c ≤ 4 then .gpio (4 * (n - 52) + c - 1)
    else if 52 ≤ n ∧ c = 5 then (if n % 2 = 0 then .vddIo33 else .vss)
    else if (n + c) % 2 = 0 then .vss
    else if 52 ≤ n then .vddIo33
    else if c ≤ 5 then (if n ≤ 4 then .vddIo33 else .vddIo18)
    else if n ≤ 6 then .vddIo18 else .vddIo33

/-- What the ball of row `n` and column `c` carries, both 1–59 (R583). -/
def ballAt (n c : Nat) : Ball :=
  if n ≤ 8 ∨ 52 ≤ n then (if 6 ≤ c ∧ c ≤ 53 then strandBall n c else cornerBall n c)
  else if c ≤ 20 ∨ 40 ≤ c then dramBall n c
  else coreBall n c

/-! ## Swing (R593) -/

/-- Slices that drive and that oppose the main tap: PRE, MAIN and POST of STR_TXEQ or MRT_TXEQ. Swings in μV, peak to peak. -/
def peakSwing (pre main post : Nat) : Nat := (pre + main + post) * 1000000 / 63
def steadySwing (pre main post : Nat) : Int := ((main : Int) - pre - post) * 1000000 / 63

end Sys2Proof.Machine
end

