-- ==== Sys2Proof/Machine/Pins.lean ====
section
/-!
DEFINITION. The levels of the single-ended outputs (R510, R525, R531, R596, R597).
-/
namespace Sys2Proof.Machine

open Sys2Proof

/-- The single-ended outputs of R597. -/
inductive OutPin where
  | strokeOut
  | ppsOut
  | camTrig (n : Fin 4)
  | gpio (n : Fin 32)
  | thermTrip
  | dramReset (c : Fin 8)
  | ledgerSelect (cs : Fin 2)
deriving DecidableEq, Repr

/-- CAM_TRIG[n]: its trigger, at rest or in its pulse (R270); low where none holds it. -/
def State.camTrigLevel (s : State) (n : Nat) : Bool :=
  match s.claim (64 + n) with
  | none => false
  | some c => match c.trig, KMap.get (fun _ => none) s.time.pulse (64 + n) with
    | some _, some (_, active, _) => active
    | some k, none => s.flag F.TIME_TT_CTL_POL 0 k
    | none, _ => false

/-- The level that the device drives on a pin; none where it is high-impedance or an input. THERM_TRIP_N is open-drain and stays under the
kiln while a boundary scan holds the other pins (R525, R596). -/
def State.pinLevel (s : State) (p : OutPin) : Option Bool :=
  if !s.board.pwrOk then none
  else match p with
    | .thermTrip => if s.board.thermTrip then some false else none
    | p =>
      if s.board.bscan then none
      else match p with
        | .strokeOut => some (s.stroke.strokeOut && !s.board.resetLow)
        | .ppsOut => some (s.time.pps.isSome && !s.board.resetLow)
        | .camTrig n => some (s.camTrigLevel n.val && !s.board.resetLow)
        | .gpio n => s.gpioLevel n.val
        | .dramReset c => some (s.board.resetLow || s.get F.KLN_STAT_STAGE == 3 || (s.drc c.val).released)
        | .ledgerSelect cs => some (s.board.resetLow || !s.ledger.op.any (fun o => o.cs == cs.val))
        | .thermTrip => none

end Sys2Proof.Machine
end

