-- ==== Sys2Proof/WellFormed.lean ====
section
/-!
DEFINITION. The well-formed commands: operands that the types leave wider than what the spec can deliver.
-/
namespace Sys2Proof

/-- An address of the register window (R402). -/
def inWindow (a : Nat) : Bool := decide (0x40000000 ≤ a) && decide (a < 0x41000000)

/-- Whether a requester can put an address on its bus: a core's register access names the register window; the host's BARs add the yard's 256 MiB
and up to 64 GiB of DRAM (R393), and the debug port has the device's address map (R402, R551). -/
def inReach (who : Requester) (a : Nat) : Bool :=
  inWindow a || (match who with
    | .core _ => false
    | .host => decide (a < 0x10000000) || (decide (0x100000000 ≤ a) && decide (a < 0x100000000 + 2 ^ 36))
    | .debug => decide (a < 0x4100000000))

/-- Whether a command is well-formed: register commands name the register window; a line
begins with the bit before a start marker (R178, R180) and a mortar line holds symbols 0–3 (R284); a scrubbed line
lies in the DRAM range and a ledger read in its window (R402); a kiln round brings a value for every point, sensor and monitor (R519, R520).
Every other operand is held to its range by its type. -/
def Instr.wf : Instr → Bool
  | .registerWrite who addr _v => inReach who addr
  | .readClear who addr _added => inReach who addr
  | .pairLoRead _who addr => inWindow addr
  | .pairLoWrite _who addr _v => inWindow addr
  | .pairHiWrite _who addr _v => inWindow addr
  | .catchStroke => true
  | .strokeOutPulseEnd => true
  | .finish => true
  | .tileTableRequest => true
  | .strokeRequestSubmit _ _ => true
  | .strokeRequestCheck => true
  | .strokeNumberLoad _ _ => true
  | .houseSyncEdge => true
  | .houseSyncMiss => true
  | .houseSyncTimeout => true
  | .houseSyncRelockSeam => true
  | .bondAdmission => true
  | .flattenBuildDone _ => true
  | .holdWake => true
  | .quickModeEntry _ => true
  | .bundleRender _ _ _ => true
  | .bandRowArrival _ _ => true
  | .checkCompare _ _ => true
  | .shellCmdRetire _ _ _ => true
  | .shellCmdRestore _ _ _ => true
  | .oarSelfTest _ _ _ _ => true
  | .oarSelfTestDone _ _ _ => true
  | .rayCondition _ => true
  | .mapDataArrival => true
  | .strandFifoRoom _ => true
  | .mirrorStrokeComplete => true
  | .mapSetRequest => true
  | .curveSelection => true
  | .wireFormatChange _ => true
  | .netFrameReceived _ _ _ => true
  | .dscSliceStart => true
  | .dscSliceDone _ => true
  | .netLinkUp _ _ => true
  | .netLinkDown _ => true
  | .strandEnable _ _ _ => true
  | .strandSenseEnd _ _ => true
  | .strandRxValid _ _ => true
  | .strandOpenTimeout _ => true
  | .strandUp _ => true
  | .strandDisable _ _ _ => true
  | .strandFaultDetect _ _ => true
  | .strandFaultRetry _ _ => true
  | .pinTest _ _ _ => true
  | .pinTestDone _ _ => true
  | .catchBrickSend _ => true
  | .raysBrickSend _ _ => true
  | .keepIdleSend _ => true
  | .ackReceived _k line => decide (33 ≤ line.length)
  | .echoCutoff _ => true
  | .rangeSend _ => true
  | .rangeRequest _ _ _ => true
  | .rangeRReceived _k line _rt => decide (33 ≤ line.length)
  | .rangeTimeout _ _ => true
  | .mgmtDescriptor _ => true
  | .wackReceived _k line => decide (33 ≤ line.length)
  | .readRReceived _k head body => decide (33 ≤ (head ++ body).length)
  | .eventBrickReceived _k head body => decide (33 ≤ (head ++ body).length)
  | .mgmtReplyTimeout _ => true
  | .censusPoll _ => true
  | .censusWalk _ => true
  | .censusSweep _ => true
  | .censusQuery _ => true
  | .censusReset _ => true
  | .censusIdentReceived _ _ => true
  | .censusReplyTimeout _ => true
  | .censusOpDone _ => true
  | .censusPresence _ => true
  | .censusAlert _ _ => true
  | .syncReceived _ _ _ => true
  | .followUpReceived _ _ _ => true
  | .delayReqReceived _ _ _ => true
  | .delayRespReceived _ _ _ => true
  | .delayReqSend _ => true
  | .syncSend _ _ => true
  | .domainLossTimeout _ => true
  | .masterName _ _ _ => true
  | .domainSwitch _ _ => true
  | .counterFar => true
  | .grandmasterEntry => true
  | .triggerClaim _ _ _ => true
  | .triggerFire _ => true
  | .triggerPulseEnd _ => true
  | .gpioClaim _ _ _ => true
  | .captureEdge _ _ => true
  | .captureRead _ _ => true
  | .ppsOutRise => true
  | .ppsOutEnd => true
  | .refLock => true
  | .refLoss => true
  | .mortarEnable _ _ _ => true
  | .mortarRxAdapted _ => true
  | .mortarBlockLock _ => true
  | .mortarBringupTimeout _ _ => true
  | .mortarLockLoss _ => true
  | .mortarDisable _ _ _ => true
  | .mortarBlockReceived _m mark head body check => (mark ++ head ++ body ++ check).all (fun x => decide (x < 4))
  | .mortarFrameReceived _ _ => true
  | .helloSend _ => true
  | .helloLoss _ => true
  | .mortarFrameSend _ => true
  | .pointJob _ => true
  | .pointJobDone _ => true
  | .msgTx _ => true
  | .add _ _ _ _ _ => true
  | .sub _ _ _ _ _ => true
  | .and _ _ _ _ _ => true
  | .or _ _ _ _ _ => true
  | .xor _ _ _ _ _ => true
  | .sll _ _ _ _ _ => true
  | .srl _ _ _ _ _ => true
  | .sra _ _ _ _ _ => true
  | .min _ _ _ _ _ => true
  | .max _ _ _ _ _ => true
  | .clz _ _ _ _ _ => true
  | .popc _ _ _ _ _ => true
  | .addi _ _ _ _ _ => true
  | .andi _ _ _ _ _ => true
  | .ori _ _ _ _ _ => true
  | .xori _ _ _ _ _ => true
  | .slli _ _ _ _ _ => true
  | .srli _ _ _ _ _ => true
  | .srai _ _ _ _ _ => true
  | .cmpEq _ _ _ _ _ => true
  | .cmpLt _ _ _ _ _ => true
  | .cmpLtu _ _ _ _ _ => true
  | .tst _ _ _ _ _ => true
  | .pand _ _ _ _ _ => true
  | .por _ _ _ _ _ => true
  | .pxor _ _ _ _ _ => true
  | .pget _ _ _ _ _ => true
  | .pset _ _ _ _ _ => true
  | .cmpiEq _ _ _ _ _ => true
  | .cmpiLt _ _ _ _ _ => true
  | .cmpiLtu _ _ _ _ _ => true
  | .mul _ _ _ _ _ => true
  | .mulh _ _ _ _ _ => true
  | .mulq _ _ _ _ _ => true
  | .mac _ _ _ _ _ => true
  | .sat _ _ _ _ _ => true
  | .ext _ _ _ _ _ _ => true
  | .extu _ _ _ _ _ _ => true
  | .ins _ _ _ _ _ _ => true
  | .li _ _ _ _ => true
  | .lsh _ _ _ _ => true
  | .addpc _ _ _ _ => true
  | .lb _ _ _ _ _ => true
  | .lbu _ _ _ _ _ => true
  | .lh _ _ _ _ _ => true
  | .lhu _ _ _ _ _ => true
  | .lw _ _ _ _ _ => true
  | .lwu _ _ _ _ _ => true
  | .ld _ _ _ _ _ => true
  | .loadReturn _ => true
  | .sb _ _ _ _ _ => true
  | .sh _ _ _ _ _ => true
  | .sw _ _ _ _ _ => true
  | .sd _ _ _ _ _ => true
  | .aaddW _ _ _ _ _ => true
  | .aaddD _ _ _ _ _ => true
  | .aswapW _ _ _ _ _ => true
  | .aswapD _ _ _ _ _ => true
  | .acasW _ _ _ _ _ => true
  | .acasD _ _ _ _ _ => true
  | .atomicComplete _ => true
  | .b _ _ _ => true
  | .call _ _ _ => true
  | .jr _ _ _ => true
  | .jalr _ _ _ _ => true
  | .retE _ _ => true
  | .wait _ _ _ _ _ => true
  | .waitTimeout _ => true
  | .tick _ _ _ => true
  | .time _ _ _ => true
  | .snap _ _ => true
  | .fence _ _ => true
  | .flush _ _ _ _ => true
  | .halt _ _ => true
  | .csrr _ _ _ _ _ => true
  | .csrw _ _ _ _ _ => true
  | .sys _ _ _ => true
  | .sysAnswer _ _ _ => true
  | .sysTimeout _ => true
  | .issue _ _ _ _ _ => true
  | .issueNb _ _ _ _ _ => true
  | .issueRoom _ => true
  | .ring _ _ _ _ _ => true
  | .budgetExhausted _ => true
  | .coxHaltRequest _ _ => true
  | .coxResume _ _ => true
  | .coxReset _ _ => true
  | .coxSwapSubmit _ _ _ => true
  | .ringConfigure _ _ => true
  | .ringEnable _ _ => true
  | .ringDisable _ _ => true
  | .ringCiWrite _ _ _ => true
  | .softEventRaise _ _ => true
  | .hostDoorbellProduce _ _ _ => true
  | .hostDoorbellConsume _ _ _ => true
  | .mailboxPost _ _ _ => true
  | .mailboxTake _ _ => true
  | .mailboxTimeout _ => true
  | .mailboxWithdraw _ _ => true
  | .msixUnmask _ => true
  | .hostFlr => true
  | .hostLinkDown => true
  | .hostLinkUp _ _ _ _ => true
  | .hostCplTimeout _ => true
  | .scrubRead _ch addr _err => decide (0x100000000 ≤ addr) && decide (addr < 0x4100000000)
  | .trainingSession _ _ _ => true
  | .trainingCapture _ _ _ => true
  | .captureEnd _ _ => true
  | .trainingSweep _ _ _ => true
  | .frequencyChange _ _ _ => true
  | .frequencyChangeDone _ => true
  | .modeRegisterAccess _ _ _ => true
  | .rankPowerDown _ _ => true
  | .selfRefreshEntry _ => true
  | .selfRefreshExit _ _ => true
  | .rankRetire _ _ _ => true
  | .migrationDone _ _ _ => true
  | .trowelRingEnable _ _ _ => true
  | .trowelListStart => true
  | .trowelFill => true
  | .trowelCopy => true
  | .trowelOver => true
  | .trowelGlyph => true
  | .trowelConvert => true
  | .trowelScale => true
  | .trowelListDone => true
  | .trowelAbort _ _ _ => true
  | .zipRingEnable _ _ _ _ => true
  | .zipInflate _ => true
  | .zipDeflate _ => true
  | .zipJobEnd _ => true
  | .zipSuspend _ => true
  | .zipResume _ => true
  | .zipAbort _ _ _ _ => true
  | .camPortEnable _ _ _ => true
  | .camRoute _ _ _ => true
  | .camFrameStart _ _ _ => true
  | .camLineReceived _ _ => true
  | .camFrameEnd _ _ => true
  | .pipeBFrameTake => true
  | .pipeFrameDone _ => true
  | .camSetseq _ _ _ => true
  | .camApply _ _ _ => true
  | .camApplyDone _ => true
  | .camPipeAbort _ _ _ _ => true
  | .plumbRunRequest _ _ => true
  | .plumbRunStart => true
  | .plumbRunEnd _ => true
  | .plumbRunTimeout => true
  | .plumbAbort _ _ => true
  | .trimLoad _ _ => true
  | .fiducialJobLoad => true
  | .powerOn _ _ _ => true
  | .powerLoss => true
  | .warmReset => true
  | .resetNAssert => true
  | .softReset _ _ => true
  | .powerFail => true
  | .powerFailRecovery => true
  | .showArm _ => true
  | .showDisarm _ => true
  | .kilnEvaluation mw model => mw.length == 48 && model.length == 64
  | .sensorRound temps volts => temps.length == 16 && volts.length == 8
  | .flashTempRead _ => true
  | .i2cTransaction _ _ _ => true
  | .i2cDone _ _ _ => true
  | .otpEnrol _ _ => true
  | .otpRevoke _ _ => true
  | .otpRbAdvance _ _ _ => true
  | .otpLmsReserve _ => true
  | .otpOpDone => true
  | .imageVerify _ _ => true
  | .imageVerifyDone => true
  | .attestation _ _ => true
  | .attestationDone => true
  | .lmsLoad _ _ => true
  | .lmsSeal _ _ => true
  | .debugChal _ => true
  | .debugUnlock _ _ => true
  | .debugRelock _ => true
  | .ledgerRead _ _ => true
  | .ledgerProgram _ _ => true
  | .ledgerErase4k _ _ => true
  | .ledgerErase64k _ _ => true
  | .ledgerOpDone _ => true
  | .ledgerWindowRead addr => decide (0x38000000 ≤ addr) && decide (addr < 0x40000000)
  | .snapTrigger _ => true
  | .snapEpoch => true
  | .snapDumpDone => true
  | .pmcConfigWrite _ _ _ => true
  | .counterWrap _ => true
  | .shadowRead _ => true
  | .upBrickDiscard _k line => decide (33 ≤ line.length)
  | .gpioInputEdge _ _ => true
  | .clockPresenceChange _ _ => true
  | .flashReadingExpired => true
  | .dramChannelEnable _ _ _ => true
  | .netPortEnable _ _ _ => true
  | .ptpDomainEnable _ _ _ => true
  | .selfRefreshExitDone _ => true
  | .modeRegisterAccessDone _ => true
  | .caparError _ _ => true
  | .boundaryScanInstruction _ => true

end Sys2Proof
end

