-- ==== Sys2Proof/Tests/Slice0.lean ====
section
/-!
SUPPORT. Tests: for every statement of Certificates/Slice0/Obligations.lean that has hypotheses, one theorem that shows states and operands that
meet the hypotheses of each of its clauses; a smoke test of each check of WellFormed; instruction words; single steps of the spec's worked examples.
-/

section

set_option Elab.async false

namespace Sys2Proof.Tests

open Sys2Proof Sys2Proof.Machine

def words (a : Nat) (l : List Nat) (s : State) : State := (l.foldl (fun (p : State × Nat) v => (p.1.wr32 p.2 v, p.2 + 4)) (s, a)).1
def bytesAt (a : Nat) (l : List Nat) (s : State) : State := s.wrBytes a (l.map (BitVec.ofNat 8))
def S0 : State := State.reset
def stk (f : Stroke → Stroke) (s : State) : State := { s with stroke := f s.stroke }
def ren (f : Render → Render) (s : State) : State := { s with render := f s.render }
def cnd (f : Cond → Cond) (s : State) : State := { s with cond := f s.cond }
def shl (k : Nat) (f : Shell → Shell) (s : State) : State := s.setShell k (f (s.shell k))
def std (k : Nat) (f : Strand → Strand) (s : State) : State := s.setStrand k (f (s.strand k))
def rec (s : State) : State := stk (fun k => { k with recovery := true }) s
/-- Ring: LOG_CAP, ESIZE code, producer, consumer, indices. -/
def mkRing (r base lc es prod cons pi ci : Nat) (s : State) : State :=
  words (ringCtx r) [base % 2^32, base / 2^32, lc + es * 32 + prod * 2048 + cons * 65536 + 2^28, 0, pi, ci] s
def up (s : State) (n : Nat) : State := s.withClocks s.now s.nowFrac n 0 s.time
def at' (s : State) (n : Nat) : State := s.withClocks n 0 s.upNs s.upFrac s.time
def nxt (r : Res) : State := match r with | .next t => t | _ => S0

theorem rdBytes_withMem (s t : State) (a n : Nat) (h : a + n ≤ 0x80000000) : ({ s with mem := t.mem } : State).rdBytes a n = t.rdBytes a n :=
  State.rdBytes_congr n a (fun c h1 h2 => by
    unfold State.rdB
    rw [State.physAddr_low _ (by omega), State.physAddr_low _ (by omega)])
theorem drop_pre (a b : List Byte) (n : Nat) (h : a.length = n) : (a ++ b).drop n = b := by subst h; exact List.drop_left
theorem take_pre (a b : List Byte) (n : Nat) (h : a.length = n) : (a ++ b).take n = a := by subst h; exact List.take_left
def hit (a : Nat) : RegHit := (decodeReg a).getD ⟨.mbox, 0, 0, 0, none⟩
def rowOf (a : Nat) : RegDef := (hit a).row.getD ⟨0, 0, 1, 0, 0, []⟩
theorem some_hit (a : Nat) (h : (decodeReg a).isSome = true) : decodeReg a = some (hit a) := by
  unfold hit
  cases e : decodeReg a with
  | none => rw [e] at h; cases h
  | some x => rfl
theorem some_row (a : Nat) (h : (hit a).row.isSome = true) : (hit a).row = some (rowOf a) := by
  unfold rowOf
  cases e : (hit a).row with
  | none => rw [e] at h; cases h
  | some x => rfl

end Sys2Proof.Tests

/-! ## Signatures for the witnesses: an ECDSA key and signature made so that both factors are 1, and an LMS key whose root is the one that
an all-zero signature leads to. -/
namespace Sys2Proof.Tests.Sig

open Sys2Proof Sys2Proof.Machine Sys2Proof.Tests

/-- The round constants of SHA-384 computed once: eight to a row, the first in the high 64 bits. -/
def k384Rows : List Nat :=
  [0x428a2f98d728ae227137449123ef65cdb5c0fbcfec4d3b2fe9b5dba58189dbbc3956c25bf348b53859f111f1b605d019923f82a4af194f9bab1c5ed5da6d8118,
   0xd807aa98a303024212835b0145706fbe243185be4ee4b28c550c7dc3d5ffb4e272be5d74f27b896f80deb1fe3b1696b19bdc06a725c71235c19bf174cf692694,
   0xe49b69c19ef14ad2efbe4786384f25e30fc19dc68b8cd5b5240ca1cc77ac9c652de92c6f592b02754a7484aa6ea6e4835cb0a9dcbd41fbd476f988da831153b5,
   0x983e5152ee66dfaba831c66d2db43210b00327c898fb213fbf597fc7beef0ee4c6e00bf33da88fc2d5a79147930aa72506ca6351e003826f142929670a0e6e70,
   0x27b70a8546d22ffc2e1b21385c26c9264d2c6dfc5ac42aed53380d139d95b3df650a73548baf63de766a0abb3c77b2a881c2c92e47edaee692722c851482353b,
   0xa2bfe8a14cf10364a81a664bbc423001c24b8b70d0f89791c76c51a30654be30d192e819d6ef5218d69906245565a910f40e35855771202a106aa07032bbd1b8,
   0x19a4c116b8d2d0c81e376c085141ab532748774cdf8eeb9934b0bcb5e19b48a8391c0cb3c5c95a634ed8aa4ae3418acb5b9cca4f7763e373682e6ff3d6b2b8a3,
   0x748f82ee5defb2fc78a5636f43172f6084c87814a1f0ab728cc702081a6439ec90befffa23631e28a4506cebde82bde9bef9a3f7b2c67915c67178f2e372532b,
   0xca273eceea26619cd186b8c721c0c207eada7dd6cde0eb1ef57d4f7fee6ed17806f067aa72176fba0a637dc5a2c898a6113f9804bef90dae1b710b35131c471b,
   0x28db77f523047d8432caab7b40c724933c9ebe0a15c9bebc431d67c49c100d4c4cc5d4becb3e42b6597f299cfc657e2a5fcb6fab3ad6faec6c44198c4a475817]

/-- The rows taken apart. -/
def k384 : List Nat := k384Rows.flatMap fun r => (List.range 8).map fun j => r / 2 ^ (64 * (7 - j)) % 2 ^ 64

theorem sha384K_eq : sha384K = k384 := by decide +kernel

theorem sha384_eq (m : List Byte) : sha384 m = sha2 sha64 k384 sha384H 48 m := by rw [sha384, sha384K_eq]

theorem shaRound_length (f : ShaFns) (l : List Nat) (kw : Nat) (h : l.length = 8) : (shaRound f l kw).length = 8 := by
  match l, h with
  | [_, _, _, _, _, _, _, _], _ => rfl

theorem shaRounds_length (f : ShaFns) (ws : List (Nat × Nat)) : ∀ l : List Nat, l.length = 8 →
    (ws.foldl (fun h p => shaRound f h (p.1 + p.2)) l).length = 8 := by
  induction ws with
  | nil => exact fun _ h => h
  | cons w ws ih => exact fun l h => ih _ (shaRound_length f l _ h)

theorem shaBlock_length (f : ShaFns) (k h : List Nat) (b : List Byte) (hh : h.length = 8) : (shaBlock f k h b).length = 8 := by
  unfold shaBlock
  rw [List.length_zipWith, hh, shaRounds_length f _ h hh, Nat.min_self]

theorem shaBlocks_length (f : ShaFns) (k : List Nat) (p : List Byte) (bl : Nat) (is : List Nat) : ∀ h : List Nat, h.length = 8 →
    (is.foldl (fun h i => shaBlock f k h ((p.drop (bl * i)).take bl)) h).length = 8 := by
  induction is with
  | nil => exact fun _ h => h
  | cons i is ih => exact fun h hh => ih _ (shaBlock_length f k h _ hh)

theorem leBytes_length (n : Nat) : ∀ v : Nat, (leBytes n v).length = n := by
  induction n with
  | zero => exact fun _ => rfl
  | succ n ih => exact fun v => congrArg (· + 1) (ih (v / 256))

theorem flatMap_be_length (w : Nat) (l : List Nat) : (l.flatMap (beBytes w)).length = l.length * w := by
  induction l with
  | nil => simp
  | cons x l ih =>
    rw [List.flatMap_cons, List.length_append, ih, List.length_cons]
    unfold beBytes
    rw [List.length_reverse, leBytes_length, Nat.succ_mul, Nat.add_comm]

theorem sha2_length (f : ShaFns) (k h : List Nat) (out : Nat) (m : List Byte) (hh : h.length = 8) (ho : out ≤ 8 * (f.w / 8)) :
    (sha2 f k h out m).length = out := by
  unfold sha2
  rw [List.length_take, flatMap_be_length, shaBlocks_length f k _ _ _ h hh]
  omega

theorem sha384_length (m : List Byte) : (sha384 m).length = 48 := sha2_length _ _ _ _ _ (by decide +kernel) (by decide)
theorem sha256_length (m : List Byte) : (sha256 m).length = 32 := sha2_length _ _ _ _ _ (by decide +kernel) (by decide)
theorem hmac384_length (k m : List Byte) : (hmac384 k m).length = 48 := sha384_length _

theorem lmsRoot_length (i : List Byte) (n : Nat) : ∀ (q : List Byte) (node : Nat) (t : List Byte), t.length = 32 →
    (lmsRoot i q n node t).length = 32 := by
  induction n with
  | zero => exact fun _ _ _ h => h
  | succ n ih => exact fun q node t _ => ih _ _ _ (sha256_length _)

/-- The first part of the LMS key: its types and identifier. -/
def lmsHead : List Byte := [0, 0, 0, 7, 0, 0, 0, 3] ++ List.replicate 16 0

/-- The LMS signature: leaf 0, its types, and zeros. -/
def lmsSig : List Byte := [0, 0, 0, 0, 0, 0, 0, 3] ++ List.replicate 2176 0 ++ [0, 0, 0, 7] ++ List.replicate 480 0

/-- The root that the signature leads to over a message. -/
def lmsTop (m : List Byte) : List Byte :=
  lmsRoot (List.replicate 16 0) (List.replicate 480 0) 15 (2 ^ 15)
    (sha256 (List.replicate 16 0 ++ beBytes 4 (2 ^ 15) ++ beBytes 2 0x8282 ++
      lmotsCandidate (List.replicate 16 0 ++ beBytes 4 0) (List.replicate 32 0) (List.replicate 2144 0) m))

theorem lmsTop_length (m : List Byte) : (lmsTop m).length = 32 := lmsRoot_length _ _ _ _ _ (sha256_length _)

theorem lms_verifies (m : List Byte) : lmsVerify (lmsHead ++ lmsTop m) lmsSig m = true := by
  have h1 : ((lmsHead ++ lmsTop m).drop 8).take 16 = List.replicate 16 0 := rfl
  have h2 : beAt (lmsHead ++ lmsTop m) 0 4 = 7 := rfl
  have h3 : beAt (lmsHead ++ lmsTop m) 4 4 = 3 := rfl
  have h4 : beAt lmsSig 0 4 = 0 := by decide +kernel
  have h5 : beAt lmsSig 4 4 = 3 := by decide +kernel
  have h6 : beAt lmsSig 2184 4 = 7 := by decide +kernel
  have h7 : ((lmsHead ++ lmsTop m).drop 24).take 32 = lmsTop m := by
    have : (lmsHead ++ lmsTop m).drop 24 = lmsTop m := rfl
    rw [this]
    exact List.take_of_length_le (Nat.le_of_eq (lmsTop_length m))
  have h8 : (lmsSig.drop 8).take 32 = List.replicate 32 0 := by decide +kernel
  have h9 : (lmsSig.drop 40).take 2144 = List.replicate 2144 0 := by decide +kernel
  have h10 : (lmsSig.drop 2188).take 480 = List.replicate 480 0 := by decide +kernel
  unfold lmsVerify
  simp only [h1, h2, h3, h4, h5, h6, h7, h8, h9, h10]
  exact beq_self_eq_true _

/-- The signature block of a record: an ECDSA key and signature, and the LMS key and signature above. -/
def sigBlock (key sig rec' : List Byte) : List Byte :=
  leBytes 4 0x5167B10C ++ leBytes 4 2928 ++ key ++ [0, 0, 0] ++ lmsHead ++ (lmsTop rec' ++ (sig ++ lmsSig))

/-- The root hash under which it verifies. -/
def sigRoot (key rec' : List Byte) : List Byte := sha384 (key ++ (lmsHead ++ lmsTop rec'))

theorem sigBlock_length (key sig rec' : List Byte) (hk : key.length = 97) (hs : sig.length = 96) :
    (sigBlock key sig rec').length = 2928 := by
  have h1 : lmsHead.length = 24 := rfl
  have h2 : lmsSig.length = 2668 := by decide +kernel
  unfold sigBlock
  simp only [List.length_append, hk, hs, h1, h2, lmsTop_length, leBytes_length]
  rfl

theorem block_verifies (key sig rec' : List Byte) (hk : key.length = 97) (hs : sig.length = 96) (hv : ecdsaVerify key sig rec' = true) :
    (verifyBlock (sigBlock key sig rec') (sigRoot key rec') rec').1 = true := by
  have l1 : lmsHead.length = 24 := rfl
  have l2 : lmsSig.length = 2668 := by decide +kernel
  have l3 := lmsTop_length rec'
  have h0 : leAt (sigBlock key sig rec') 0 4 = 0x5167B10C := by
    show leVal (((leBytes 4 0x5167B10C ++ leBytes 4 2928 ++ key ++ [0, 0, 0] ++ lmsHead ++ (lmsTop rec' ++ (sig ++ lmsSig))).drop 0).take 4) = _
    rw [List.drop_zero, List.append_assoc, List.append_assoc, List.append_assoc, List.append_assoc, take_pre _ _ 4 rfl]
    rfl
  have h1 : leAt (sigBlock key sig rec') 4 4 = 2928 := by
    unfold leAt sigBlock
    rw [List.append_assoc, List.append_assoc, List.append_assoc, List.append_assoc, drop_pre _ _ 4 rfl, take_pre _ _ 4 rfl]
    rfl
  have h2 : ((sigBlock key sig rec').drop 8).take 97 = key := by
    unfold sigBlock
    rw [List.append_assoc, List.append_assoc, List.append_assoc, drop_pre _ _ 8 rfl, take_pre _ _ 97 hk]
  have h3 : ((sigBlock key sig rec').drop 0x6C).take 56 = lmsHead ++ lmsTop rec' := by
    unfold sigBlock
    rw [List.append_assoc, drop_pre _ _ 0x6C (by simp only [List.length_append, hk, leBytes_length]; rfl), ← List.append_assoc,
      take_pre _ _ 56 (by rw [List.length_append, l1, l3])]
  have h4 : ((sigBlock key sig rec').drop 0xA4).take 96 = sig := by
    unfold sigBlock
    rw [← List.append_assoc, drop_pre _ _ 0xA4 (by simp only [List.length_append, hk, l1, l3, leBytes_length]; rfl), take_pre _ _ 96 hs]
  have h5 : ((sigBlock key sig rec').drop 0x104).take 2668 = lmsSig := by
    unfold sigBlock
    rw [← List.append_assoc, ← List.append_assoc, drop_pre _ _ 0x104 (by simp only [List.length_append, hk, hs, l1, l3, leBytes_length]; rfl)]
    exact List.take_of_length_le (Nat.le_of_eq l2)
  unfold verifyBlock
  simp only [h0, h1, h2, h3, h4, h5, hv, lms_verifies, sigRoot, beq_self_eq_true, Bool.and_self]

/-- A signed enrolment of slot 4 and the hash of it. -/
def enrolRec : List Byte :=
  [1, 0, 160, 233, 1, 0, 0, 0, 4, 0, 0, 0, 0, 0, 0, 0, 239, 205, 171, 137, 103, 69, 35, 1] ++ List.replicate 232 0
def enrolHash : Nat := 0xb2252058fab6765009d462d261b4f51cd561dc22484975cea1fffe76fad64cb82c55a3d1e436e7909fbc9b5a4f16186a
def enrolUid : Nat := 0x123456789abcdef
def enrolKey : List Byte := 4 :: (beBytes 48 0x7b9a01b51bc459a09e8530355fadd9781f8710f57bbd533b645317d662c0b55646167051e3ad91c4749fd1bf16951546 ++
  beBytes 48 0x53914faf03a393223135e353b70a4f3ff0c19b7a8f6d587116788a1a3ba1e82ee3579058495f593f48f5cf3640b217f9)
def enrolSig : List Byte := beBytes 48 enrolHash ++ beBytes 48 enrolHash

theorem enrol_hash : beVal (sha384 enrolRec) = enrolHash := by
  rw [sha384_eq]
  decide +kernel

theorem enrol_ecdsa : ecdsaVerify enrolKey enrolSig enrolRec = true := by
  unfold ecdsaVerify
  rw [enrol_hash]
  decide +kernel

/-- A signed revocation of slot 4 and the hash of it. -/
def revokeRec : List Byte :=
  [1, 0, 160, 233, 2, 0, 0, 0, 4, 0, 0, 0, 0, 0, 0, 0, 241, 205, 171, 137, 103, 69, 35, 1] ++ List.replicate 232 0
def revokeHash : Nat := 0x3a11f471569a54cf9ceea1b7481090b2e610ead1357f03e42d2b6b646c5a45603084d42155d58ad2285bad37d83e20c
def revokeUid : Nat := 0x123456789abcdf1
def revokeKey : List Byte := 4 :: (beBytes 48 0x7afe4beb4b0a8c4446245d25b72589a57df509608c86001c2bb0371a7180ee797c4a98df6e57b0e7c6421fd5582f5df0 ++
  beBytes 48 0xe1c45b71c7377a6fa3aa1057305f0a6c38c1d34d86a437495bdfc3604adcdda2b89767e1bcb71bf6673da3932267eabe)
def revokeSig : List Byte := beBytes 48 revokeHash ++ beBytes 48 revokeHash

theorem revoke_hash : beVal (sha384 revokeRec) = revokeHash := by
  rw [sha384_eq]
  decide +kernel

theorem revoke_ecdsa : ecdsaVerify revokeKey revokeSig revokeRec = true := by
  unfold ecdsaVerify
  rw [revoke_hash]
  decide +kernel

/-- A signed token of level 3 and the hash of it. -/
def tokenRec : List Byte :=
  [1, 0, 96, 219, 3, 0, 0, 0, 239, 205, 171, 137, 103, 69, 35] ++ List.replicate 33 1 ++ List.replicate 208 0
def tokenHash : Nat := 0xd9b22df94c4a24851032269cc2c3e2c5455a7c8df0125f4111ae56fde52dc5574bcbe4e4e545fdc495e8ba3d29c9631f
def tokenUid : Nat := 0x123456789abcdef
def tokenKey : List Byte := 4 :: (beBytes 48 0x8249f188b0ab22a70f336761a6cfb6053470030c696855deb7a7091e73b2d5f380452df33269607f350a28685343a6a ++
  beBytes 48 0xa4160637c8833e34dec0d4c839d0955b916c6485e2f894dcb0b7c4ad605fb0ee4ca77bbf0e61309c6a7f3ee911b23e23)
def tokenSig : List Byte := beBytes 48 tokenHash ++ beBytes 48 tokenHash

theorem token_hash : beVal (sha384 tokenRec) = tokenHash := by
  rw [sha384_eq]
  decide +kernel

theorem token_ecdsa : ecdsaVerify tokenKey tokenSig tokenRec = true := by
  unfold ecdsaVerify
  rw [token_hash]
  decide +kernel

/-- A state that holds a signed record in the yard and the root hash of its key in OTP root 0, over the registers of `base`. -/
def sigMem (rec' key sig : List Byte) : State :=
  ((S0.wrBytes 0x08100000 rec').wrBytes 0x08100100 (sigBlock key sig rec')).burnBytes (otpAt 0x40) (sigRoot key rec')
def sigState (base : State) (rec' key sig : List Byte) : State := { base with mem := (sigMem rec' key sig).mem }

theorem sigState_rdBytes (base : State) (rec' key sig : List Byte) (a n : Nat) (h : a + n ≤ 0x80000000) :
    (sigState base rec' key sig).rdBytes a n = (sigMem rec' key sig).rdBytes a n := rdBytes_withMem base _ a n h

section
variable (base : State) (rec' key sig : List Byte) (hr : rec'.length = 256) (hk : key.length = 97) (hs : sig.length = 96)
include hr hk hs

theorem sigState_rec : (sigState base rec' key sig).rdBytes 0x08100000 256 = rec' := by
  have hb := sigBlock_length key sig rec' hk hs
  have hq : (sigRoot key rec').length = 48 := sha384_length _
  rw [sigState_rdBytes _ _ _ _ _ _ (by omega), sigMem,
    State.rdBytes_burnBytes_apart _ _ _ _ _ (by omega) (Or.inl (by decide)),
    State.rdBytes_wrBytes_apart _ _ _ _ _ (by rw [hb]; decide) (by omega) (Or.inl (by omega)), ← hr]
  exact State.rdBytes_wrBytes_same _ _ _ (by rw [hr]; decide)

omit hr in
theorem sigState_block : (sigState base rec' key sig).rdBytes 0x08100100 sigLen = sigBlock key sig rec' := by
  have hb := sigBlock_length key sig rec' hk hs
  have hq : (sigRoot key rec').length = 48 := sha384_length _
  rw [sigState_rdBytes _ _ _ _ _ _ (by decide), sigMem,
    State.rdBytes_burnBytes_apart _ _ _ _ _ (by decide) (Or.inl (by decide)), show sigLen = (sigBlock key sig rec').length from hb.symm]
  exact State.rdBytes_wrBytes_same _ _ _ (by rw [hb]; decide)

omit hr hk hs in
theorem sigState_root : (sigState base rec' key sig).otpRoot 0 = sigRoot key rec' := by
  have hq : (sigRoot key rec').length = 48 := sha384_length _
  unfold State.otpRoot
  rw [sigState_rdBytes _ _ _ _ _ _ (by decide), sigMem, ← hq]
  exact State.rdBytes_burnBytes_same _ _ _ (by rw [hq]; decide)

theorem sigState_apart (a n : Nat) (h : otpAt 0x40 + 48 ≤ a) (hn : a + n ≤ 0x80000000) :
    (sigState base rec' key sig).rdBytes a n = S0.rdBytes a n := by
  have hb := sigBlock_length key sig rec' hk hs
  have hq : (sigRoot key rec').length = 48 := sha384_length _
  have h2 : otpAt 0x40 = 0x31000040 := rfl
  rw [sigState_rdBytes _ _ _ _ _ _ (by omega), sigMem,
    State.rdBytes_burnBytes_apart _ _ _ _ _ (by omega) (Or.inr (by rw [hq]; omega)),
    State.rdBytes_wrBytes_apart _ _ _ _ _ (by rw [hb]; decide) (by omega) (Or.inr (by rw [hb]; omega)),
    State.rdBytes_wrBytes_apart _ _ _ _ _ (by rw [hr]; decide) (by omega) (Or.inr (by rw [hr]; omega))]
end

/-- Registers of the states below: the device's identifier, and the address of the record. -/
def sigBase (uid : Nat) : State := (S0.wr64 R.TRU_UID_LO uid).wr R.TRU_OTP_ADDR_LO 0x08100000
def enrolSt : State := sigState (sigBase enrolUid) enrolRec enrolKey enrolSig
def revokeSt : State := sigState (sigBase revokeUid) revokeRec revokeKey revokeSig
def tokenSt : State :=
  let s := (upTo 8).foldl (fun s j => s.wr R.TRU_DBG_CHAL (leAt tokenRec (0x10 + 4 * j) 4) 0 j) (sigBase tokenUid)
  sigState { s with trust := { s.trust with chal := true }, holds := KMap.put (fun _ => 0) s.holds (pairKey (.core 0) (R.TRU_DBG_LO.at 0 0)) 0x08100000 }
    tokenRec tokenKey tokenSig

theorem enrol_ok : enrolSt.otpRecordOk 0x08100000 1 4 = true := by
  have hr : enrolSt.rdBytes 0x08100000 256 = enrolRec := sigState_rec _ _ _ _ (by decide +kernel) (by decide +kernel) (by decide +kernel)
  have hb : enrolSt.rdBytes (0x08100000 + 256) sigLen = _ := sigState_block _ _ _ _ (by decide +kernel) (by decide +kernel)
  have hq : enrolSt.otpRoot 0 = _ := sigState_root _ _ _ _
  have hv := block_verifies enrolKey enrolSig enrolRec (by decide +kernel) (by decide +kernel) enrol_ecdsa
  have hp : enrolSt.poisoned 0x08100000 (256 + sigLen) = false := by decide +kernel
  have hu : enrolSt.rd64 R.TRU_UID_LO = enrolUid := by decide +kernel
  unfold State.otpRecordOk
  simp only [hr, hb, List.any_cons, hq, hv, hp, hu]
  decide +kernel

theorem revoke_ok : revokeSt.otpRecordOk 0x08100000 2 4 = true := by
  have hr : revokeSt.rdBytes 0x08100000 256 = revokeRec := sigState_rec _ _ _ _ (by decide +kernel) (by decide +kernel) (by decide +kernel)
  have hb : revokeSt.rdBytes (0x08100000 + 256) sigLen = _ := sigState_block _ _ _ _ (by decide +kernel) (by decide +kernel)
  have hq : revokeSt.otpRoot 0 = _ := sigState_root _ _ _ _
  have hv := block_verifies revokeKey revokeSig revokeRec (by decide +kernel) (by decide +kernel) revoke_ecdsa
  have hp : revokeSt.poisoned 0x08100000 (256 + sigLen) = false := by decide +kernel
  have hu : revokeSt.rd64 R.TRU_UID_LO = revokeUid := by decide +kernel
  unfold State.otpRecordOk
  simp only [hr, hb, List.any_cons, hq, hv, hp, hu]
  decide +kernel

theorem token_ok : tokenSt.tokenCheck 0x08100000 = .inr 3 := by
  have hr : tokenSt.rdBytes 0x08100000 256 = tokenRec := sigState_rec _ _ _ _ (by decide +kernel) (by decide +kernel) (by decide +kernel)
  have hb : tokenSt.rdBytes (0x08100000 + 256) sigLen = _ := sigState_block _ _ _ _ (by decide +kernel) (by decide +kernel)
  have hq : tokenSt.otpRoot (leAt tokenRec 0x30 4) = _ := sigState_root _ _ _ _
  have hv := block_verifies tokenKey tokenSig tokenRec (by decide +kernel) (by decide +kernel) token_ecdsa
  have hp : tokenSt.poisoned 0x08100000 (256 + sigLen) = false := by decide +kernel
  unfold State.tokenCheck
  simp only [hr, hb, hq, hv, hp]
  decide +kernel

theorem enrol_free : enrolSt.otpProg 4 = false := by
  unfold State.otpProg State.rd32 State.rdN
  rw [show enrolSt.rdBytes (otpAt 0x180) 4 = S0.rdBytes (otpAt 0x180) 4 from
    sigState_apart _ _ _ _ (by decide +kernel) (by decide +kernel) (by decide +kernel) _ _ (by decide) (by decide)]
  decide +kernel

end Sys2Proof.Tests.Sig

namespace Sys2Proof.Tests.P1

open Sys2Proof Sys2Proof.Machine Sys2Proof.Tests

theorem undef_at : (match decodeReg 0x400400FC with
    | some h => h.row = none ∧ S0.mayWrite .host 0x400400FC = true ∧ S0.mayRead .host 0x400400FC = true
    | none => True) := by
  rw [some_hit _ (by decide +kernel)]
  exact ⟨Option.isNone_iff_eq_none.mp (by decide +kernel), by decide +kernel, by decide +kernel⟩

def stReadClearCounter0 : State := (S0.wr R.NET_IP_ERR 9 0)
def stPairWrite0 : State := (S0.hold .host (R.CAM_K_SHADE_LO.at 0 0) 0xABCDE000)
def stPairReadLatches0 : State := ((S0.wr R.STR_TX_BRICKS_LO 7 95).wrReg (R.STR_TX_BRICKS_LO.at 95 0 + 4) 3)
/-- States and operands that meet the hypotheses of each clause of `Obligations.RegisterAccess`. -/
theorem witness_RegisterAccess :
    (∃ (s : State) (who : Requester) (a : Nat) (v : RegWord) (h : RegHit) (r : RegDef), a % 4 = 0 ∧
    decodeReg a = some h ∧
    h.row = some r ∧
    plainWrite h a = true ∧
    s.mayPut who a v = true) ∧
    (∃ (s : State) (a : Nat) (h : RegHit), a % 4 = 0 ∧ decodeReg a = some h ∧ s.mayWrite .host a = false) ∧
    (∃ (s : State) (n : Fin 16) (a : Nat) (h : RegHit), a % 4 = 0 ∧ decodeReg a = some h ∧ s.mayWrite (.core n) a = false ∧ (s.core n.val).inexc = false) :=
  ⟨⟨S0, .host, R.MBX_MASK.at 0 0, 7, hit (R.MBX_MASK.at 0 0), rowOf (R.MBX_MASK.at 0 0), by decide +kernel, some_hit _ (by decide +kernel), some_row _ (by decide +kernel), by decide +kernel⟩,
   ⟨S0, R.COX_CTL.at 4 0, hit (R.COX_CTL.at 4 0), by decide +kernel, some_hit _ (by decide +kernel), by decide +kernel⟩,
   ⟨S0.setCore 4 { Core.reset 4 with run := .running, priv := .m, pc := 0x20400008, tvec := 0x100 }, 4, R.COX_CTL.at 4 0, hit (R.COX_CTL.at 4 0), by decide +kernel, some_hit _ (by decide +kernel), by decide +kernel⟩⟩

/-- States and operands that meet the hypotheses of each clause of `Obligations.UndefinedOffsetReadsZero`. -/
theorem witness_UndefinedOffsetReadsZero :
    ∃ (s : State) (who : Requester) (a : Nat), a % 4 = 0 ∧
    (match decodeReg a with
    | some h => h.row = none ∧ s.mayWrite who a = true ∧ s.mayRead who a = true
    | none => onBus who a = false ∧ (match who with
    | .core n => (s.core n.val).priv = .w
    | _ => True)) :=
  ⟨S0, .host, 0x400400FC, by decide +kernel, undef_at⟩

/-- States and operands that meet the hypotheses of each clause of `Obligations.RegisterPairs`. -/
theorem witness_RegisterPairs :
    (∃ (s : State) (who : Requester) (p : Fin 4), ∃ r, r ∈ [R.NET_FEC_CORR, R.NET_FEC_UNCORR, R.NET_RX_BAD, R.NET_RX_OVERSIZE, R.NET_LINK_DOWN, R.NET_PAUSE_RX, R.NET_IP_ERR] ∧
    s.mayRead who (r.at p.val 0) = true) ∧
    (∃ (s : State) (who : Requester) (a : Nat) (v : RegWord) (h : RegHit) (r : RegDef), a % 4 = 0 ∧
    isLo a = true ∧
    decodeReg a = some h ∧
    h.row = some r ∧
    h.block ≠ .ring ∧
    s.mayPut who a v = true) ∧
    (∃ (s : State) (who : Requester) (k : Fin 2) (v : RegWord), s.mayPut who (R.CAM_K_SHADE_LO.at k.val 0 + 4) v = true) ∧
    (∃ (s : State) (who : Requester) (k : Fin 96), s.mayRead who (R.STR_TX_BRICKS_LO.at k.val 0) = true) :=
  ⟨⟨stReadClearCounter0, .core 0, 0, R.NET_IP_ERR, by decide +kernel⟩,
   ⟨stPairWrite0, .host, R.CAM_K_SHADE_LO.at 0 0, 0x1ffff, hit (R.CAM_K_SHADE_LO.at 0 0), rowOf (R.CAM_K_SHADE_LO.at 0 0), by decide +kernel, by decide +kernel, some_hit _ (by decide +kernel), some_row _ (by decide +kernel), by decide +kernel⟩,
   ⟨stPairWrite0, .host, 0, 0x1ffff, by decide +kernel⟩,
   ⟨stPairReadLatches0, .host, 95, by decide +kernel⟩⟩
end Sys2Proof.Tests.P1

namespace Sys2Proof.Tests.P2

open Sys2Proof Sys2Proof.Machine Sys2Proof.Tests

def hs (n : Nat) (s : State) : State := s.set F.TIME_STK_HS_STAT_HS_STATE n
def S2 : State := S0.set F.TIME_STK_STAT_SOURCE 2

def stHouseSync0 : State := (S0.withClocks 5 0 5 0 S0.time)
def stHouseSync1 : State := stk (fun k => { k with relock := true, recovery := true }) (hs 2 S2)
def stHouseSync2 : State := stk (fun k => { k with hsPred := 24000 }) (hs 3 (S2.set F.TIME_STK_HS_STAT_MISSES 6)) |>.withClocks 1000 0 0 0 S0.time
def stHouseSync4 : State := hs 2 S0
def stStrokeRequests1 : State := stk (fun k => { k with recovery := true, req := some ⟨0,1,100,10⟩ }) (S0.set F.TIME_STK_STAT_STATE 1)
def stStrokeRequests3 : State := S0.hold .host (R.TIME_STK_NUM_LO.at 0 0) 44
def stFinishAndCatch0 : State := (match exec .catchStroke S0 with | .next t => t | _ => S0)
/-- States and operands that meet the hypotheses of each clause of `Obligations.HouseSync`. -/
theorem witness_HouseSync :
    (∃ (s : State), s.hsState = hsAbsent) ∧
    (∃ (s : State), s.hsTracks = true ∧
    (s.hsState = hsLocked ∨ s.hsState = hsFlywheel) ∧
    ((12 * s.upNs : Nat) - s.stroke.hsPred : Int).natAbs ≤ 12000) ∧
    (∃ (s : State), s.hsTracks = true ∧
    (s.hsState = hsLocked ∨ s.hsState = hsFlywheel) ∧
    12000 < ((12 * s.upNs : Nat) - s.stroke.hsPred : Int).natAbs) ∧
    (∃ (s : State), s.hsTracks = true ∧
    (s.hsState = hsLocked ∨ s.hsState = hsFlywheel)) ∧
    (∃ (s : State), (s.hsState = hsLocking ∨ (s.hsState = hsLocked ∧ s.hsTracks = false))) ∧
    (∃ (s : State), s.stroke.relock = true ∧
    s.stroke.recovery = true ∧
    s.stroke.req = none ∧
    s.stroke.accept = none ∧
    s.stroke.trans = none ∧
    s.get F.TIME_STK_STAT_SOURCE = 2 ∧
    (s.hsState = hsLocked ∨ s.hsState = hsFlywheel) ∧
    s.flag F.TIME_STK_HS_STAT_MISMATCH = false) :=
  ⟨⟨stHouseSync0, by decide +kernel⟩,
   ⟨stHouseSync1, by decide +kernel⟩,
   ⟨stHouseSync2, by decide +kernel⟩,
   ⟨stHouseSync1, by decide +kernel⟩,
   ⟨stHouseSync4, by decide +kernel⟩,
   ⟨stHouseSync1, by decide +kernel⟩⟩

/-- States and operands that meet the hypotheses of each clause of `Obligations.StrokeRequests`. -/
theorem witness_StrokeRequests :
    (∃ (s : State) (who : Requester) (v : RegWord), s.mayPut who (R.TIME_STK_REQ.at 0 0) v = true ∧
    bitAt v.toNat 31 = true ∧
    s.get F.TIME_STK_STAT_STATE ≠ 1 ∧
    s.get F.TIME_STK_STAT_STATE ≠ 2) ∧
    (∃ (s : State) (who : Requester) (v : RegWord), s.mayPut who (R.TIME_STK_REQ.at 0 0) v = true ∧
    bitAt v.toNat 31 = true ∧
    (s.get F.TIME_STK_STAT_STATE = 1 ∨ s.get F.TIME_STK_STAT_STATE = 2)) ∧
    (∃ (s : State) (r : StrokeReq), s.stroke.req = some r ∧
    s.stroke.recovery = true ∧
    s.stroke.reqLate = false) ∧
    (∃ (s : State) (who : Requester) (hi : RegWord), s.mayPut who (R.TIME_STK_NUM_HI.at 0 0) hi = true) :=
  ⟨⟨S0, .host, 0x8000000e, by decide +kernel⟩,
   ⟨stStrokeRequests1, .host, 0x80000000, by decide +kernel⟩,
   ⟨stStrokeRequests1, ⟨0,1,100,10⟩, by decide +kernel⟩,
   ⟨stStrokeRequests3, .host, 3, by decide +kernel⟩⟩

/-- States and operands that meet the hypotheses of each clause of `Obligations.FinishAndCatch`. -/
theorem witness_FinishAndCatch :
    (∃ (s : State), s.stroke.recovery = false) ∧
    (∃ (s : State), s.stroke.strokeOut = true) :=
  ⟨⟨stFinishAndCatch0, by decide +kernel⟩,
   ⟨stFinishAndCatch0, by decide +kernel⟩⟩
end Sys2Proof.Tests.P2

namespace Sys2Proof.Tests.P3

open Sys2Proof Sys2Proof.Machine Sys2Proof.Tests

def courseAt (a : Nat) (fmt : Nat) (s : State) : State :=
  words a [fmt, 16 + 16 * 65536, 0, 0, 160000, 160000, 5000, 0x400, 0,0, 0x20000,0, 0x21000,0, 0x22000,0, 1024,1024,1024,0] s
def bondSt : State := courseAt (0x1000 + 0x40) 9 (words 0x1000 [1, 0x12345] (words (bondSlot 1) [0x1000,0,1] S0))
def flatT : List Byte := (courseAt (0x1000 + 0x40) 9 (words 0x1000 [1, 0x12345] S0)).rdBytes 0x1000 (0x40 + 0xA0)
def flatSt : State := ren (fun r => { r with table := flatT, flats := [⟨0, 1, 0x100000, 2048, false⟩] }) (courseAt (0x1000 + 0x40) 9 (words 0x1000 [1, 0x12345] S0))
def tileSt : State := words (tileAddr 0 0) [0,0,0, 0x40000000,0,0,0,0x40000000,0,0,0,0x40000000, 2 + 2*65536, 8000 + 8000*65536, 0, 0x80000000] (words (viewAddr 0) [3, 0, 5, 9] S0)
def rendSt : State := (ren (fun r => { r with showT := some 1, views := [(0, 3), (2, 5), (3, 9)] })
  (shl 3 (fun x => { x with lines := [[(0,0)]], unrendered := 6 }) tileSt)).set F.SHL_MAP_ROLE 0 3
def rays1 : List Ray := [⟨0, [100, 200, 300], false, false, false⟩, ⟨1, [0, 0, 0], false, false, false⟩]
def condSt : State := ren (fun r => { r with views := [(0, 3), (2, 5), (3, 9)], rays := rays1 }) (words (drvCtx 0 0 + 0x18) [12] tileSt)


def tileT : State := words (tileAddr 0 0) [0,0,0, 0x40000000,0,0,0,0x40000000,0,0,0,0x40000000, 2 + 2*65536, 8000 + 8000*65536, 0, 0x89FF0000] (words (viewAddr 0) [3, 0, 5, 9] S0)
def condT : State := ren (fun r => { r with views := [(0, 3), (2, 5), (3, 9)], rays := rays1 }) (words (drvCtx 0 2559 + 0x18) [12] tileT)
theorem admitted_some (x : Admission) (h : (match x with | .admitted .. => true | _ => false) = true) :
    ∃ b table counts flats area al cl om fl still, x = .admitted b table counts flats area al cl om fl still := by
  cases x with
  | admitted => exact ⟨_, _, _, _, _, _, _, _, _, _, rfl⟩
  | refused => cases h
  | error => cases h

def stBondAdmission0 : State := ren (fun r => { r with flats := [⟨63, 1, 0x100000, 2048, false⟩] }) flatSt
def stBondAdmission2 : State := stk (fun k => { k with admitted := true }) (ren (fun r => { r with flats := [⟨63, 1, 0x100000, 2048, false⟩] }) flatSt)
def stBondAdmission3 : State := stk (fun k => { k with held := 3 }) S0 |>.withClocks 7 0 0 0 S0.time
def stShellRendering0 : State := shl 3 (fun x => { x with again := [⟨0,1,1,0,0,true⟩] }) rendSt
def stShellRendering2 : State := (match exec (.bundleRender 3 8 true) rendSt with | .next t => t | _ => S0)
def stOarChecksAndCommands0 : State := shl 3 (fun x => { x with check := some ⟨⟨0,0,0,0,0,false⟩, 8, 0⟩ }) rendSt
def stOarChecksAndCommands4 : State := (S0.set F.OAR_STAT_TEST 3 0 0)
def stRayConditioning0 : State := condSt.set F.STR_STAT_STATE 2 0
def stRayConditioning2 : State := cnd (fun c => { c with wait := .map }) condT
def stRayConditioning3 : State := cnd (fun c => { c with wait := .fifo 95 }) condT
def stRayConditioning4 : State := cnd (fun c => { c with mirrored := true }) S0
def stRecoveryRequests0 : State := rec (ren (fun r => { r with ttReq := 0x00010001 }) tileSt)
def stRecoveryRequests2 : State := rec (ren (fun r => { r with cdReq := 0x00010003 }) S0)
def stRecoveryRequests3 : State := rec (ren (fun r => { r with cdCurve := 0xFFFF0001 }) S0)
def stRecoveryRequests4 : State := rec (std 0 (fun x => { x with ctlReq := 0x600 }) tileSt)
/-- States and operands that meet the hypotheses of each clause of `Obligations.BondAdmission`. -/
theorem witness_BondAdmission :
    (∃ (s : State), s.stroke.admitted = false ∧
    s.stroke.trans = none ∧
    s.rd32 (bondSlot s.nextNum + 8) ≠ s.nextNum % 2 ^ 32) ∧
    (∃ (s : State) (b : Bond) (table : List Byte) (counts : List Nat) (flats : List FlatRun) (area : Nat × Nat) (al : Alloc)
    (cl om fl : List Nat) (still : Bool), s.stroke.admitted = false ∧ s.stroke.trans = none ∧
    (s.setMemFld 0x0DA00008 0 1 (b2n s.flatAreaNow.2)).takeShellCtl.judgeBond s.nextNum = .admitted b table counts flats area al cl om fl still) ∧
    (∃ (s : State) (first : Fin 64) (f : FlatRun), s.clocksOff = false ∧
    s.stroke.recovery = false ∧
    s.stroke.admitted = true ∧
    (s.render.flats.find? (fun f => f.first == first.val && !f.built) = some f) ∧
    (upTo 4).all s.shellDone = true ∧
    0 < f.count) ∧
    (∃ (s : State), s.stroke.held ≠ 0) :=
  ⟨⟨stBondAdmission0, by decide +kernel⟩,
   by
    obtain ⟨b, table, counts, flats, area, al, cl, om, fl, still, e⟩ :=
      admitted_some ((bondSt.setMemFld 0x0DA00008 0 1 (b2n bondSt.flatAreaNow.2)).takeShellCtl.judgeBond bondSt.nextNum) (by decide +kernel)
    exact ⟨bondSt, b, table, counts, flats, area, al, cl, om, fl, still, rfl, rfl, e⟩,
   ⟨stBondAdmission2, 63, (⟨63, 1, 0x100000, 2048, false⟩ : FlatRun), by decide +kernel⟩,
   ⟨stBondAdmission3, by decide +kernel⟩⟩

/-- States and operands that meet the hypotheses of each clause of `Obligations.ShellRendering`. -/
theorem witness_ShellRendering :
    (∃ (s : State) (sh : Fin 4) (oar : Fin 9) (b : Bundle) (x : Shell), s.clocksOff = false ∧
    s.oarFree sh.val oar.val = true ∧
    s.nextBundle sh.val = some (b, x)) ∧
    (∃ (s : State) (sh : Fin 4) (oar : Fin 9) (b : Bundle) (x : Shell), s.clocksOff = false ∧
    s.oarFree sh.val oar.val = true ∧
    s.nextBundle sh.val = some (b, x)) ∧
    (∃ (s : State) (sh : Fin 4) (oar : Fin 9) (b : Bundle), s.clocksOff = false ∧
    (KMap.get (fun _ => none) (s.shell sh.val).stalled oar.val = some b)) ∧
    (∃ (s : State) (sh : Fin 4), s.clocksOff = false ∧
    s.render.showT.isSome = true ∧
    s.stroke.recovery = false ∧
    s.get F.SHL_STAT_QUICK sh.val = 0 ∧
    s.unrendered sh.val ≠ 0) :=
  ⟨⟨stShellRendering0, 3, 0, (((stShellRendering0).nextBundle 3).getD (⟨0,0,0,0,0,false⟩, (stShellRendering0).shell 0)).1, (((stShellRendering0).nextBundle 3).getD (⟨0,0,0,0,0,false⟩, (stShellRendering0).shell 0)).2, by decide +kernel⟩,
   ⟨stShellRendering0, 3, 0, (((stShellRendering0).nextBundle 3).getD (⟨0,0,0,0,0,false⟩, (stShellRendering0).shell 0)).1, (((stShellRendering0).nextBundle 3).getD (⟨0,0,0,0,0,false⟩, (stShellRendering0).shell 0)).2, by decide +kernel⟩,
   ⟨stShellRendering2, 3, 8, (⟨0,0,0,0,0,false⟩ : Bundle), by decide +kernel⟩,
   ⟨stShellRendering2, 3, by decide +kernel⟩⟩

/-- States and operands that meet the hypotheses of each clause of `Obligations.OarChecksAndCommands`. -/
theorem witness_OarChecksAndCommands :
    (∃ (s : State) (sh : Fin 4) (c : Check), s.clocksOff = false ∧
    (s.shell sh.val).check = some c ∧
    c.oar < 9 ∧
    c.checker < 9 ∧
    c.oar ≠ c.checker) ∧
    (∃ (s : State) (who : Requester) (sh : Fin 4) (v : RegWord), s.mayPut who (R.SHL_CMD.at sh.val 0) v = true ∧
    s.get F.SHL_STAT_CMD_RESULT sh.val ≠ 3) ∧
    (∃ (s : State) (who : Requester) (sh : Fin 4) (v : RegWord), s.mayPut who (R.SHL_CMD.at sh.val 0) v = true ∧
    s.get F.SHL_STAT_CMD_RESULT sh.val ≠ 3) ∧
    (∃ (s : State) (who : Requester) (sh : Fin 4) (oar : Fin 9) (v : RegWord), s.mayPut who (R.OAR_CTL.at sh.val oar.val) v = true ∧
    bitAt v.toNat 0 = true) ∧
    (∃ (s : State) (sh : Fin 4) (oar : Fin 9), s.clocksOff = false ∧
    s.get F.OAR_STAT_TEST sh.val oar.val = 3) :=
  ⟨⟨stOarChecksAndCommands0, 3, (⟨⟨0,0,0,0,0,false⟩, 8, 0⟩ : Check), by decide +kernel⟩,
   ⟨S0, .host, 0, 1, by decide +kernel⟩,
   ⟨S0, .host, 0, 1, by decide +kernel⟩,
   ⟨S0, .host, 0, 0, 1, by decide +kernel⟩,
   ⟨stOarChecksAndCommands4, 0, 0, by decide +kernel⟩⟩

/-- States and operands that meet the hypotheses of each clause of `Obligations.RayConditioning`. -/
theorem witness_RayConditioning :
    (∃ (s : State), s.clocksOff = false ∧
    s.cond.wait = .none ∧
    s.render.rays ≠ []) ∧
    (∃ (s : State) (r : Ray) (l : List Ray), s.clocksOff = false ∧
    s.cond.mirOn = false ∧
    s.render.rays = r :: l ∧
    s.roomFor r = true ∧
    s.cond.wait = .none) ∧
    (∃ (s : State) (r : Ray) (l : List Ray), s.clocksOff = false ∧
    s.cond.mirOn = false ∧
    s.render.rays = r :: l ∧
    s.roomFor r = true ∧
    s.cond.wait = .map) ∧
    (∃ (s : State) (r : Ray) (l : List Ray), s.clocksOff = false ∧
    s.cond.mirOn = false ∧
    s.render.rays = r :: l ∧
    s.roomFor r = true ∧
    ∃ (k : Fin 96), s.cond.wait = .fifo k.val) ∧
    (∃ (s : State), s.cond.mirrored = true ∧
    s.render.rays = [] ∧
    (upTo 4).all s.shellDone = true) :=
  ⟨⟨stRayConditioning0, by decide +kernel⟩,
   ⟨condT, (⟨0, [100, 200, 300], false, false, false⟩ : Ray), rays1.tail, by decide +kernel⟩,
   ⟨stRayConditioning2, (⟨0, [100, 200, 300], false, false, false⟩ : Ray), rays1.tail, by decide +kernel⟩,
   ⟨stRayConditioning3, (⟨0, [100, 200, 300], false, false, false⟩ : Ray), rays1.tail, by decide +kernel, by decide +kernel, by decide +kernel, by decide +kernel, 95, by decide +kernel⟩,
   ⟨stRayConditioning4, by decide +kernel⟩⟩

/-- States and operands that meet the hypotheses of each clause of `Obligations.RecoveryRequests`. -/
theorem witness_RecoveryRequests :
    (∃ (s : State), s.stroke.recovery = true ∧
    bitAt s.render.reinstate 0 = false ∧
    bitsOf s.render.ttReq 16 16 ≠ s.memFld (tileTable + 4) 16 16) ∧
    (∃ (s : State), s.stroke.recovery = false) ∧
    (∃ (s : State), s.stroke.recovery = true ∧
    bitsOf s.render.reinstate 0 2 = 0 ∧
    bitsOf s.render.ttReq 16 16 = s.memFld (tileTable + 4) 16 16 ∧
    bitsOf s.render.cdReq 16 16 ≠ s.memFld (condHdr + 4) 16 16) ∧
    (∃ (s : State), s.stroke.recovery = true ∧
    bitAt s.render.reinstate 2 = false ∧
    bitsOf s.render.cdCurve 16 16 ≠ s.memFld (condHdr + 0x50) 16 16) ∧
    (∃ (s : State) (k : Fin 96), s.stroke.recovery = true ∧
    (s.strand k.val).nextFmt = none ∧
    bitAt (s.strand k.val).ctlReq 9 ≠ s.flag F.STR_STAT_WIDE_ACT k.val) :=
  ⟨⟨stRecoveryRequests0, by decide +kernel⟩,
   ⟨S0, by decide +kernel⟩,
   ⟨stRecoveryRequests2, by decide +kernel⟩,
   ⟨stRecoveryRequests3, by decide +kernel⟩,
   ⟨stRecoveryRequests4, 0, by decide +kernel⟩⟩
end Sys2Proof.Tests.P3

namespace Sys2Proof.Tests.P4

open Sys2Proof Sys2Proof.Machine Sys2Proof.Tests

def be (n k : Nat) : List Byte := ((List.range n).map (fun i => BitVec.ofNat 8 (k / 256 ^ (n - 1 - i))))
def zb (n : Nat) : List Byte := List.replicate n 0
def netUp (n : Nat) : State := (((S0.set F.NET_CTL_ENABLE 1 n).set F.NET_STAT_LINK 1 n).wr R.NET_MAC_LO 5 n).wr R.NET_IPV4 0x0A000001 n
def ipHdr : List Byte := be 1 0x45 ++ be 1 0 ++ be 2 (20 + 8 + 32) ++ be 4 0 ++ be 2 0x4011 ++ be 2 0 ++ be 4 0x0A000002 ++ be 4 0x0A000001
def csum (l : List Byte) : Nat := Id.run do
  let mut t := 0
  for i in List.range (l.length / 2) do t := t + (l.getD (2*i) 0).toNat * 256 + (l.getD (2*i+1) 0).toNat
  t := t % 65536 + t / 65536; t := t % 65536 + t / 65536
  return 65535 - t
def udpF : List Byte := be 6 5 ++ be 6 7 ++ be 2 0x0800 ++ (ipHdr.take 10 ++ be 2 (csum ipHdr) ++ ipHdr.drop 12) ++ be 2 1 ++ be 2 9600 ++ be 2 40 ++ be 2 0 ++ zb 32
def dscSt : State := let s := words 0x2000 [] S0; { s with ingest := { s.ingest with dscWait := [⟨0x0C800000, 0, 2⟩, ⟨0x0C800040, 1, 0⟩] } }
def obj0 : IngObj := ⟨0,1,0,0,0,0,[],0,0,false,0,1,0,0,1,false⟩
def dscRunSt : State := { S0 with ingest := { S0.ingest with dscRun := [⟨0x0D700000, 0, 0⟩], objs := [(0x0D700000, some obj0)] } }

def stNetworkPorts0 : State := ((S0.set F.GLB_CLK_STAT_PRESENT 0x7f).set F.NET_CTL_ENABLE 1 0).set F.NET_CTL_SPEED 4 0
def stNetworkPorts1 : State := (netUp 3).set F.ING_CTL_ENABLE 1
def stNetworkPorts2 : State := netUp 3
/-- States and operands that meet the hypotheses of each clause of `Obligations.NetworkPorts`. -/
theorem witness_NetworkPorts :
    (∃ (s : State) (n : Fin 4) (speed : Fin 4), s.flag F.NET_CTL_ENABLE n.val = true ∧
    s.flag F.NET_STAT_LINK n.val = false ∧
    s.refPresent 4 = true ∧
    (if s.get F.NET_CTL_SPEED n.val = 0 then bitAt (s.get F.NET_AN_CTL_ADV n.val) speed.val = true else s.get F.NET_CTL_SPEED n.val = speed.val + 1)) ∧
    (∃ (s : State) (n : Fin 4), s.flag F.NET_STAT_LINK n.val = true) ∧
    (∃ (s : State) (who : Requester) (n : Fin 4) (v : RegWord), s.mayPut who (R.NET_CTL.at n.val 0) v = true ∧
    s.netBusy n.val v = false) ∧
    (∃ (s : State) (n : Fin 4) (f : List Byte), s.flag F.NET_STAT_LINK n.val = true ∧
    s.flag F.NET_CTL_ENABLE n.val = true ∧
    60 ≤ f.length ∧
    9212 < f.length) ∧
    (∃ (s : State) (n : Fin 4) (ok : Bool) (f : List Byte), s.flag F.NET_STAT_LINK n.val = true ∧
    s.flag F.NET_CTL_ENABLE n.val = true ∧
    60 ≤ f.length ∧
    f.length ≤ 9212 ∧
    ok = false) ∧
    (∃ (s : State) (n : Fin 4) (ok : Bool) (f : List Byte), s.flag F.NET_STAT_LINK n.val = true ∧
    s.flag F.NET_CTL_ENABLE n.val = true ∧
    60 ≤ f.length ∧
    f.length ≤ 9212 ∧
    ok = true ∧
    (s.netParse n.val f).etype = 0x8808 ∧
    (beAt (s.netParse n.val f).body 0 2 = 1 ∨ beAt (s.netParse n.val f).body 0 2 = 0x0101)) ∧
    (∃ (s : State) (n : Fin 4) (ok : Bool) (f : List Byte), s.flag F.NET_STAT_LINK n.val = true ∧
    s.flag F.NET_CTL_ENABLE n.val = true ∧
    60 ≤ f.length ∧
    f.length ≤ 9212 ∧
    ok = true ∧
    s.flag F.TIME_CTL_PTP_EN = false ∧
    s.flag F.ING_CTL_ENABLE = true ∧
    s.get F.GLB_SHOW_STATE ≠ 4 ∧
    (s.netParse n.val f).etype = 0x0800 ∧
    (s.netParse n.val f).vlanOk = true ∧
    (s.netParse n.val f).isUdp = true ∧
    (s.netParse n.val f).dst = s.netMac n.val ∧
    s.netIpOk n.val (s.netParse n.val f) = true ∧
    (s.netParse n.val f).port = s.get F.ING_UDP_PORT ∧
    (s.netParse n.val f).ipBad = false ∧
    (s.netParse n.val f).udpBad = false ∧
    beAt (((s.netParse n.val f).body.drop ((s.netParse n.val f).hdr + 8)).take ((s.netParse n.val f).udpLen - 8)) 0 2 ≠ 0x1A4E) :=
  ⟨⟨stNetworkPorts0, 0, 3, by decide +kernel⟩,
   ⟨stNetworkPorts1, 3, by decide +kernel⟩,
   ⟨stNetworkPorts2, .host, 3, 8, by decide +kernel⟩,
   ⟨stNetworkPorts2, 3, zb 9213, by decide +kernel⟩,
   ⟨stNetworkPorts2, 3, false, zb 9212, by decide +kernel⟩,
   ⟨stNetworkPorts2, 3, true, be 6 5 ++ be 6 7 ++ be 2 0x8808 ++ be 2 1 ++ zb 44, by decide +kernel⟩,
   ⟨stNetworkPorts1, 3, true, udpF, by decide +kernel⟩⟩

/-- States and operands that meet the hypotheses of each clause of `Obligations.DscDecoders`. -/
theorem witness_DscDecoders :
    (∃ (s : State) (x : DscSlice), s.clocksOff = false ∧
    ([0, 1, 2, 3].findSome? (fun c => s.ingest.dscWait.find? (fun x => x.cls == c)) = some x) ∧
    s.dscFits x = true) ∧
    (∃ (s : State) (k : Fin 32) (x : DscSlice) (o : IngObj), s.clocksOff = false ∧
    s.ingest.dscRun[k.val]? = some x ∧
    s.ingObj x.entry = some o) :=
  ⟨⟨dscSt, (⟨0x0C800040, 1, 0⟩ : DscSlice), by decide +kernel⟩,
   ⟨dscRunSt, 0, (⟨0x0D700000, 0, 0⟩ : DscSlice), obj0, by decide +kernel⟩⟩
end Sys2Proof.Tests.P4

namespace Sys2Proof.Tests.P5

open Sys2Proof Sys2Proof.Machine Sys2Proof.Tests

def S5 : State := S0.set F.GLB_CLK_STAT_PRESENT 0x7f
def tr (k : Nat) (s : State) : State := (s.set F.STR_STAT_STATE 1 k).set F.STR_CTL_ENABLE 1 k
def upS (k : Nat) (s : State) : State := (s.set F.STR_STAT_STATE 2 k).set F.STR_CTL_ENABLE 1 k
def hdr (b : List Nat) : List Byte := b.map (BitVec.ofNat 8)
def showSt (k : Nat) : State := (upS k S5).set F.GLB_SHOW_STATE 2
def upL (h p : List Byte) : List Bool := false :: brickLine (brickBytes h p)
def hd (h : List Byte) : List Byte := h.take 7 ++ [BitVec.ofNat 8 (hcrc h)] ++ h.drop 8
def ackH : List Byte := hdr [0xF8, 0x9F, 0,0, 7,0,0,0, 0,0,0,0, 0x28,0,0,0]
def ackH2 : List Byte := hdr [0x08, 0xA0, 0,0, 7,0,0,0, 0,0,0,0, 0x28,0,0,0]
def rq (ty : Nat) : MgmtReq := { header := hdr [ty + 16*3, 0,0,0, 0,0,0,0, 0,0,0,0, 0,0,0,0], addr := 0x3000, cap := 8, payload := [], own := false, sentAt := 9, since := 0 }
def rangeH0 : List Byte := hdr [0x0B,0,0,0,0,0,0,0,5,0,0,0,0,0,0,0]
def evH : List Byte := hdr [0x0C,0,8,0,0,0,0,0,5,0,0,0,0,0,0,0]
def wackH : List Byte := hdr [0x39,0,0,0,0,0,0,0,0,0,0,0,0,0,0,0]
def readRH : List Byte := hdr [0x3A,0,8,0,0,0,0,0,0,0,0,0,0,0,0,0]
def trn : State := stk (fun x => { x with trans := some 20000000, lastCatch := 0 }) (showSt 0)
def mg : State := (mkRing 8191 0x100000 4 1 4 18 1 0 (bytesAt 0x100000 [4,0,0,0] (upS 95 S5))).set F.STR_MGMT_RING 8191 95 |>.set F.STR_MGMT_EN 1 95
def txSt : State := (std 0 (fun x => { x with rate := 100, latched := [(0, 0x80000002)], fifo := [(0, some 5)], ready := [0] }) (words (drvCtx 0 0 + 0x18) [1] (showSt 0)))

def stStrandBringUp1 : State := S5.set F.STR_CTL_ENABLE 1 95
def stStrandBringUp2 : State := tr 95 S5
def stStrandBringUp3 : State := upS 95 S5
def stStrandBringUp4 : State := std 95 (fun x => { x with ranging := true, rangeNext := 2560, d := [(0, some 5)] }) (tr 95 S5)
def stStrandFaults1 : State := std 0 (fun x => { x with census := some ⟨3,1,0,0,0,false,true,none,0,0,0⟩ }) S5
def stStrandFaults2 : State := S5.set F.STR_FAULT_CODE 7 0
def stStrandFaults4 : State := S5.set F.STR_STAT_STATE 4 95
def stStrandFaults5 : State := (upS 0 S5).set F.STR_CTL_AUTO_POL 1 0
def stStrandFaults6 : State := upS 0 S5
def stStrandDownBricks2 : State := (showSt 0).set F.STR_FAULT_CODE 10 0
def stStrandAcknowledgement0 : State := (upS 0 S5)
def stStrandAcknowledgement1 : State := (upS 95 S5)
def stStrandAcknowledgement2 : State := std 3 (fun x => { x with catchT := some 0, open_ := true, chkTap := [(0, some 1), (2, some 5)], acks := [(2, some (0,0))] }) (upS 3 S5)
def stStrandRanging0 : State := std 95 (fun x => { x with ranging := true, rangeNext := 2559 }) (tr 95 S5)
def stStrandRanging1 : State := std 95 (fun x => { x with rangeReq := some 5 }) S5
def stStrandRanging2 : State := std 0 (fun x => { x with ranges := [(0, 0, false)] }) (upS 0 S5)
def stStrandManagement1 : State := (bytesAt 0x100000 [2,0,0,0] mg)
def stStrandManagement2 : State := std 0 (fun x => { x with out := [rq 4] }) (upS 0 S5)
def stStrandManagement3 : State := std 0 (fun x => { x with out := [rq 5] }) (upS 0 S5)
/-- States and operands that meet the hypotheses of each clause of `Obligations.StrandBringUp`. -/
theorem witness_StrandBringUp :
    (∃ (s : State) (who : Requester) (k : Fin 96) (v : RegWord), s.mayPut who (R.STR_CTL.at k.val 0) v = true ∧
    s.flag F.STR_CTL_ENABLE k.val = false ∧
    s.get F.STR_FAULT_CODE k.val ≠ 6) ∧
    (∃ (s : State) (k : Fin 96), s.flag F.STR_CTL_ENABLE k.val = true ∧
    s.strState k.val = strOff ∧
    s.get F.STR_FAULT_CODE k.val ≠ 6) ∧
    (∃ (s : State) (k : Fin 96), s.strState k.val = strTraining ∧
    (s.strand k.val).ranging = false ∧
    (s.refPresent (if k.val < 48 then 1 else 2) = true) ∧
    s.get F.STR_FAULT_CODE k.val ≠ 3) ∧
    (∃ (s : State) (k : Fin 96), ((s.strState k.val = strTraining ∧ (s.strand k.val).ranging = false) ∨ s.strState k.val = strUp)) ∧
    (∃ (s : State) (k : Fin 96), s.strDriving k.val = true ∧
    (s.strand k.val).ranging = true ∧
    2560 ≤ (s.strand k.val).rangeNext ∧
    (s.strand k.val).d ≠ []) ∧
    (∃ (s : State) (who : Requester) (k : Fin 96) (v : RegWord), s.mayPut who (R.STR_CTL.at k.val 0) v = true ∧
    s.flag F.STR_CTL_ENABLE k.val = true) :=
  ⟨⟨S5, .host, 95, 0x103, by decide +kernel⟩,
   ⟨stStrandBringUp1, 95, by decide +kernel⟩,
   ⟨stStrandBringUp2, 95, by decide +kernel⟩,
   ⟨stStrandBringUp3, 95, by decide +kernel⟩,
   ⟨stStrandBringUp4, 95, by decide +kernel⟩,
   ⟨stStrandBringUp3, .core 0, 95, 0, by decide +kernel⟩⟩

/-- States and operands that meet the hypotheses of each clause of `Obligations.StrandFaults`. -/
theorem witness_StrandFaults :
    (∃ (s : State) (k : Fin 96) (kind : StrandFault), faultCode kind ≤ 2 ∧
    s.strDriving k.val = true) ∧
    (∃ (kind : StrandFault), 3 ≤ faultCode kind) ∧
    (∃ (s : State) (k : Fin 96), s.get F.STR_FAULT_CODE k.val ∈ [1, 2, 3, 4, 5, 7]) ∧
    (∃ (s : State) (who : Requester) (k : Fin 96) (v : RegWord), s.mayPut who (R.STR_PINTEST.at k.val 0) v = true ∧
    s.flag F.STR_CTL_ENABLE k.val = false ∧
    s.strState k.val ≠ strPinTest) ∧
    (∃ (s : State) (k : Fin 96), s.strState k.val = strPinTest) ∧
    (∃ (s : State) (k : Fin 96) (line : List Bool) (turn : Bool) (e : BrickError), s.rxOn k.val = true ∧
    upLine (s.flag F.STR_STAT_RX_INV k.val) (s.flag F.STR_CTL_AUTO_POL k.val) line = (turn, some (.error e))) ∧
    (∃ (s : State) (k : Fin 96) (line : List Bool) (turn : Bool), s.rxOn k.val = true ∧
    upLine (s.flag F.STR_STAT_RX_INV k.val) (s.flag F.STR_CTL_AUTO_POL k.val) line = (turn, none)) ∧
    (∃ (s : State) (k : Fin 96), s.rxOn k.val = false) :=
  ⟨⟨stStrandBringUp3, 95, .txShortSup, by decide +kernel⟩,
   ⟨.censusShortGnd, by decide +kernel⟩,
   ⟨stStrandFaults2, 0, by decide +kernel⟩,
   ⟨S5, .host, 95, 1, by decide +kernel⟩,
   ⟨stStrandFaults4, 95, by decide +kernel⟩,
   ⟨stStrandFaults5, 0, upL (hdr [0,0,0,0,0,0,0,0,0,0,0,0,0,0,0,0]) [], false, .direction, by decide +kernel⟩,
   ⟨stStrandFaults6, 0, ([] : List Bool), false, by decide +kernel⟩,
   ⟨stStrandFaults4, 95, by decide +kernel⟩⟩

/-- States and operands that meet the hypotheses of each clause of `Obligations.StrandDownBricks`. -/
theorem witness_StrandDownBricks :
    (∃ (s : State) (k : Fin 96) (pos : Fin 2560), ((s.laneServe k.val).laneWait k.val).brickReady k.val pos.val = true) ∧
    (∃ (s : State) (k : Fin 96), (s.strState k.val = strUp ∨ s.strState k.val = strTraining) ∧
    s.get F.GLB_SHOW_STATE ≠ showHalted ∧
    let u := s.setLead k.val
    let last := Nat.max u.stroke.lastCatch (u.strand k.val).keptTo
    ∃ c, u.interimCatch last = some c) ∧
    (∃ (s : State) (k : Fin 96), (s.strState k.val = strUp ∨ s.strState k.val = strTraining) ∧
    s.get F.GLB_SHOW_STATE ≠ showHalted ∧
    let u := s.setLead k.val
    let last := Nat.max u.stroke.lastCatch (u.strand k.val).keptTo
    u.interimCatch last = none) ∧
    (∃ (s : State) (k : Fin 96), s.strState k.val = strUp ∧
    s.strDriving k.val = true) :=
  ⟨⟨txSt, 0, 0, by decide +kernel⟩,
   ⟨trn, 0, by decide +kernel, by decide +kernel, ((trn.setLead 0).interimCatch 0).getD 0, by decide +kernel⟩,
   ⟨stStrandDownBricks2, 0, by decide +kernel⟩,
   ⟨trn, 0, by decide +kernel⟩⟩

/-- States and operands that meet the hypotheses of each clause of `Obligations.StrandAcknowledgement`. -/
theorem witness_StrandAcknowledgement :
    (∃ (s : State) (k : Fin 96) (line : List Bool) (turn : Bool) (header : List Byte) (payload : List Byte), s.rxOn k.val = true ∧
    upLine (s.flag F.STR_STAT_RX_INV k.val) (s.flag F.STR_CTL_AUTO_POL k.val) line = (turn, some (.ok (header, payload))) ∧
    byteAt header 0 % 16 = 8 ∧
    hopOf header < 2560) ∧
    (∃ (s : State) (k : Fin 96) (line : List Bool) (turn : Bool) (header : List Byte) (payload : List Byte), s.rxOn k.val = true ∧
    upLine (s.flag F.STR_STAT_RX_INV k.val) (s.flag F.STR_CTL_AUTO_POL k.val) line = (turn, some (.ok (header, payload))) ∧
    byteAt header 0 % 16 = 8 ∧
    2560 ≤ hopOf header) ∧
    (∃ (s : State) (k : Fin 96), (s.strand k.val).catchT = some s.strokeNum ∧
    (s.strand k.val).open_ = true) :=
  ⟨⟨stStrandAcknowledgement0, 0, upL ackH ([] : List Byte), false, hd ackH, ([] : List Byte), by decide +kernel⟩,
   ⟨stStrandAcknowledgement1, 95, upL ackH2 ([] : List Byte), false, hd ackH2, ([] : List Byte), by decide +kernel⟩,
   ⟨stStrandAcknowledgement2, 3, by decide +kernel⟩⟩

/-- States and operands that meet the hypotheses of each clause of `Obligations.StrandRangingAndManagement`. -/
theorem witness_StrandRangingAndManagement :
    (∃ (s : State) (k : Fin 96), s.portRuns k.val = true ∧
    s.strDriving k.val = true ∧
    (s.strand k.val).ranging = true ∧
    (s.strand k.val).rangeNext < 2560 ∧
    (s.strand k.val).outTo (s.strand k.val).rangeNext < 2) ∧
    (∃ (s : State) (who : Requester) (k : Fin 96) (v : RegWord), s.mayPut who (R.STR_RANGE.at k.val 0) v = true) ∧
    (∃ (s : State) (k : Fin 96) (line : List Bool) (turn : Bool) (header : List Byte) (payload : List Byte), s.rxOn k.val = true ∧
    upLine (s.flag F.STR_STAT_RX_INV k.val) (s.flag F.STR_CTL_AUTO_POL k.val) line = (turn, some (.ok (header, payload))) ∧
    byteAt header 0 % 16 = 11 ∧
    ((s.strand k.val).ranges.any (fun r => r.1 == hopOf header) = true)) ∧
    (∃ (s : State) (k : Fin 96) (pos : Fin 2560), ((s.strand k.val).ranges.any (fun r => r.1 == pos.val) = true)) ∧
    (∃ (s : State) (k : Fin 96), s.flag F.STR_MGMT_EN k.val = true ∧
    s.unitCanTake (s.get F.STR_MGMT_RING k.val) = true ∧
    s.strDriving k.val = true ∧
    let e := s.ringElem (s.get F.STR_MGMT_RING k.val) (s.ringCI (s.get F.STR_MGMT_RING k.val))
    let h := s.rdBytes e 16
    let ty := byteAt h 0 % 16
    let good := 3 ≤ ty ∧ ty ≤ 7 ∧ ¬ ((ty = 5 ∨ ty = 6) ∧ bitAt (leAt h 0 4) 30 = true)
    good ∧
    (ty = 3 ∨ ty = 5 ∨ ty = 6 ∨ bitsOf (leAt h 0 4) 16 14 = 0 ∨ s.unitRange (s.rdN (e + 0x10) 6) (bitsOf (leAt h 0 4) 16 14) = true)) ∧
    (∃ (s : State) (k : Fin 96), s.flag F.STR_MGMT_EN k.val = true ∧
    s.unitCanTake (s.get F.STR_MGMT_RING k.val) = true ∧
    s.strDriving k.val = true ∧
    let e := s.ringElem (s.get F.STR_MGMT_RING k.val) (s.ringCI (s.get F.STR_MGMT_RING k.val))
    let h := s.rdBytes e 16
    let ty := byteAt h 0 % 16
    let good := 3 ≤ ty ∧ ty ≤ 7 ∧ ¬ ((ty = 5 ∨ ty = 6) ∧ bitAt (leAt h 0 4) 30 = true)
    (¬ good)) ∧
    (∃ (s : State) (k : Fin 96) (line : List Bool) (turn : Bool) (header : List Byte) (payload : List Byte) (r : MgmtReq), s.rxOn k.val = true ∧
    upLine (s.flag F.STR_STAT_RX_INV k.val) (s.flag F.STR_CTL_AUTO_POL k.val) line = (turn, some (.ok (header, payload))) ∧
    byteAt header 0 % 16 = 9 ∧
    (s.strand k.val).matchOut 4 header = some r) ∧
    (∃ (s : State) (k : Fin 96) (line : List Bool) (turn : Bool) (header : List Byte) (payload : List Byte) (r : MgmtReq), s.rxOn k.val = true ∧
    upLine (s.flag F.STR_STAT_RX_INV k.val) (s.flag F.STR_CTL_AUTO_POL k.val) line = (turn, some (.ok (header, payload))) ∧
    byteAt header 0 % 16 = 10 ∧
    (s.strand k.val).matchOut 5 header = some r ∧
    ∃ (head : List Bool) (body : List Bool), head ++ body = line) ∧
    (∃ (s : State) (k : Fin 96) (line : List Bool) (turn : Bool) (header : List Byte) (payload : List Byte), s.rxOn k.val = true ∧
    upLine (s.flag F.STR_STAT_RX_INV k.val) (s.flag F.STR_CTL_AUTO_POL k.val) line = (turn, some (.ok (header, payload))) ∧
    byteAt header 0 % 16 = 12 ∧
    ∃ (head : List Bool) (body : List Bool), head ++ body = line) ∧
    (∃ (s : State) (k : Fin 96) (r : MgmtReq) (l : List MgmtReq), (s.strand k.val).out = r :: l) :=
  ⟨⟨stStrandRanging0, 95, by decide +kernel⟩,
   ⟨stStrandRanging1, .host, 95, 0x1fff, by decide +kernel⟩,
   ⟨stStrandRanging2, 0, upL rangeH0 ([] : List Byte), false, hd rangeH0, ([] : List Byte), by decide +kernel⟩,
   ⟨stStrandRanging2, 0, 0, by decide +kernel⟩,
   ⟨mg, 95, by decide +kernel⟩,
   ⟨stStrandManagement1, 95, by decide +kernel⟩,
   ⟨stStrandManagement2, 0, upL wackH ([] : List Byte), false, hd wackH, ([] : List Byte), rq 4, by decide +kernel⟩,
   ⟨stStrandManagement3, 0, upL readRH (hdr [1,2,3,4,5,6,7,8]), false, hd readRH, (hdr [1,2,3,4,5,6,7,8]), rq 5, by decide +kernel, by decide +kernel, by decide +kernel, by decide +kernel, upL readRH (hdr [1,2,3,4,5,6,7,8]), ([] : List Bool), List.append_nil _⟩,
   ⟨stStrandFaults6, 0, upL evH (hdr [1,2,3,4,5,6,7,8]), false, hd evH, (hdr [1,2,3,4,5,6,7,8]), by decide +kernel, by decide +kernel, by decide +kernel, upL evH (hdr [1,2,3,4,5,6,7,8]), ([] : List Bool), List.append_nil _⟩,
   ⟨stStrandManagement3, 0, rq 5, ([] : List MgmtReq), by decide +kernel⟩⟩
end Sys2Proof.Tests.P5

namespace Sys2Proof.Tests.P6

open Sys2Proof Sys2Proof.Machine Sys2Proof.Tests

def op (o n : Nat) (w : Bool) (dn : Option Nat) : CenOp := ⟨o, n, 0, 0, 0, false, w, dn, 77, 0, 0⟩
def cen (k : Nat) (o : CenOp) (s : State) : State := std k (fun x => { x with census := some o }) s
def ident : List Byte := let l : List Byte := [4,1,2,3,4,5,6,7,8,9,10].map (BitVec.ofNat 8); l ++ [BitVec.ofNat 8 (cenCrc l)]
def alertM : List Byte := let l : List Byte := [0xFD,0x3F,0].map (BitVec.ofNat 8); l ++ [BitVec.ofNat 8 (cenCrc l)]

def stCensusRequests0 : State := (words (cenHdr 0) [0xFFFF0001] S0).set F.STR_FAULT_CODE 5 0
def stCensusRequests1 : State := cen 0 (op 1 2559 false none) S0
def stCensusRequests2 : State := cen 95 (op 2 2559 false none) S0
def stCensusRequests3 : State := cen 0 (op 3 2559 false none) S0
def stCensusRequests4 : State := cen 95 (op 4 2559 false none) S0
def stCensusReplies0 : State := cen 95 (op 3 2559 true none) S0
def stCensusReplies2 : State := cen 0 (op 3 0 true none) S0
def stCensusReplies3 : State := cen 0 (op 3 0 false (some 7)) S0
/-- States and operands that meet the hypotheses of each clause of `Obligations.CensusRequestsAndReplies`. -/
theorem witness_CensusRequestsAndReplies :
    (∃ (s : State) (k : Fin 96), s.memFld (cenHdr k.val) 16 16 ≠ s.memFld (cenHdr k.val + 8) 16 16 ∧
    (s.strand k.val).census = none ∧
    s.get F.GLB_SHOW_STATE ≠ showHalted) ∧
    (∃ (s : State) (k : Fin 96) (o : CenOp), s.cenReady k.val 1 = some o) ∧
    (∃ (s : State) (k : Fin 96) (o : CenOp), s.cenReady k.val 2 = some o) ∧
    (∃ (s : State) (k : Fin 96) (o : CenOp), s.cenReady k.val 3 = some o) ∧
    (∃ (s : State) (k : Fin 96) (o : CenOp), s.cenReady k.val 4 = some o) ∧
    (∃ (s : State) (k : Fin 96) (o : CenOp) (frame : List Byte), (s.strand k.val).census = some o ∧
    o.waiting = true ∧
    o.op = 3 ∧
    o.pos < 2560 ∧
    (frame.length = 12 ∧ cenCrc (frame.take 11) = byteAt frame 11 ∧ leBits frame 0 2 = 0)) ∧
    (∃ (s : State) (k : Fin 96) (o : CenOp) (frame : List Byte), (s.strand k.val).census = some o ∧
    o.waiting = true ∧
    o.op = 3 ∧
    o.pos < 2560 ∧
    frame.length ≠ 12) ∧
    (∃ (s : State) (k : Fin 96) (o : CenOp), (s.strand k.val).census = some o ∧
    o.waiting = true) ∧
    (∃ (s : State) (k : Fin 96) (o : CenOp) (r : Nat), (s.strand k.val).census = some o ∧
    o.done = some r ∧
    r < 8) ∧
    (∃ (frame : List Byte), frame.length = 4 ∧
    cenCrc (frame.take 3) = byteAt frame 3 ∧
    leBits frame 0 2 = 1) :=
  ⟨⟨stCensusRequests0, 0, by decide +kernel⟩,
   ⟨stCensusRequests1, 0, op 1 2559 false none, by decide +kernel⟩,
   ⟨stCensusRequests2, 95, op 2 2559 false none, by decide +kernel⟩,
   ⟨stCensusRequests3, 0, op 3 2559 false none, by decide +kernel⟩,
   ⟨stCensusRequests4, 95, op 4 2559 false none, by decide +kernel⟩,
   ⟨stCensusReplies0, 95, op 3 2559 true none, ident, by decide +kernel⟩,
   ⟨stCensusReplies0, 95, op 3 2559 true none, [], by decide +kernel⟩,
   ⟨stCensusReplies2, 0, op 3 0 true none, by decide +kernel⟩,
   ⟨stCensusReplies3, 0, op 3 0 false (some 7), 7, by decide +kernel⟩,
   ⟨alertM, by decide +kernel⟩⟩
end Sys2Proof.Tests.P6

namespace Sys2Proof.Tests.P7

open Sys2Proof Sys2Proof.Machine Sys2Proof.Tests

def S7 : State := (((((S0.set F.TIME_CTL_PTP_EN 1).set F.TIME_DOM_CTL_EN 1 0 1).set F.TIME_DOM_CTL_NUMBER 5 0 1).set F.TIME_DOM_MPORT_VALID 1 0 1).set F.TIME_DOM_MPORT_PORT_NUMBER 3 0 1).set F.TIME_DOM_MPORT_SRC 2 0 1 |>.wr64 R.TIME_DOM_MASTER_LO 0x1234 0 1
def dm (d : Nat) (f : PtpDomain → PtpDomain) (s : State) : State := s.setDom d (f (s.dom d))
def S7m : State := dm 1 (fun x => { x with master := some (0x1234, 3, 2) }) (S7.set F.NET_STAT_LINK 1 2)
def S7l : State := dm 1 (fun x => { x with master := some (0x1234, 3, 7) }) ((((S7.set F.TIME_DOM_MPORT_SRC 7 0 1).set F.MRT_CTL_PTP_EN 1 3).set F.MRT_STAT_STATE 4 3).set F.TIME_PORT_ROLE_MROLE 64)
def pm (v : Nat) (two : Bool) (seq log : Nat) : PtpMsg := ⟨v, 1, 0, 5, two, 65536, 0x1234, 3, seq, log, 1, 5, 0, 3⟩
def lockd (d : Nat) (s : State) : State := s.set F.TIME_DOM_STAT_STATE 3 0 d
def GM (s : State) : State := ((s.set F.TIME_PORT_ROLE_NROLE 0xff).set F.TIME_STAT_GM 1).set F.TIME_PORT_ROLE_NROLE (2 * 16)
def tim (f : TimeUnit → TimeUnit) (s : State) : State := { s with time := f s.time }
def clm (n : Nat) (c : Claim) (s : State) : State := tim (fun t => { t with claims := KMap.put (fun _ => none) t.claims n (some c) }) s

def stPtpReceived0 : State := dm 1 (fun x => { x with dreq := some (9, 77) }) S7m
def stPtpReceived1 : State := dm 1 (fun x => { x with sync := some (9, 77, -3) }) S7m
def stPtpReceived2 : State := (S7l.set F.TIME_PORT_ROLE_MROLE (2 * 64))
def stPtpSent1 : State := GM S7m
def stPtpDomains0 : State := lockd 1 S7
def stPtpDomains3 : State := at' (lockd 1 S7) 1000
def stPtpDomains4 : State := (at' S7 1001).set F.TIME_STAT_MODE 1
def stPtpDomains5 : State := dm 0 (fun t => { t with heldLocked := true }) (S0.set F.TIME_GM_CTL_DESIGNATED 1)
def stPtpDomains7 : State := S0.set F.TIME_REF_LOCKED 1
def stTriggersAndClaims1 : State := clm 15 ⟨3, 16, none⟩ S0
def stTriggersAndClaims4 : State := clm 3 ⟨1, 16, none⟩ (((S0.set F.TIME_TT_CTL_EN 1 0 3).wr R.TIME_TT_PERIOD 0 0 3).set F.TIME_TT_CTL_ANCHOR 1 0 3 |>.set F.TIME_TT_CTL_ROUTE 1 0 3)
def stTriggersAndClaims5 : State := tim (fun t => { t with pulse := [(63, some (0, false, 15))] }) ((S0.set F.TIME_TT_CTL_ROUTE 2 0 15).set F.TIME_TT_CTL_PIN 31 0 15)
def stCapturesAndPps0 : State := at' (tim (fun t => { t with capLast := [(0, some 5)] }) (S0.wr R.TIME_TC_CFG 1)) 105
def stCapturesAndPps2 : State := at' ((S0.set F.TIME_PPS_EN 1).set F.TIME_PPS_LOCKED_ONLY 0) 999999999
def stCapturesAndPps3 : State := tim (fun t => { t with pps := some 7 }) S0
/-- States and operands that meet the hypotheses of each clause of `Obligations.PtpReceived`. -/
theorem witness_PtpReceived :
    (∃ (s : State) (src : Fin 12) (tr : Fin 3) (m : PtpMsg) (d : Nat), s.ptpOpen src.val = true ∧
    s.ptpTaken src.val = true ∧
    m.version = 2 ∧
    (m.minor = 0 ∨ m.minor = 1) ∧
    m.sdo = 0 ∧
    s.ptpDomain src.val tr.val m = some d ∧
    (s.takeMaster d).fromMaster d src.val m = true ∧
    (m.log = 0x7F ∨ (-7 ≤ sgn 8 m.log ∧ sgn 8 m.log ≤ 1))) ∧
    (∃ (s : State) (src : Fin 12) (tr : Fin 3) (m : PtpMsg) (d : Nat) (t2 : Int) (cf : Int), s.ptpOpen src.val = true ∧
    s.ptpTaken src.val = true ∧
    m.version = 2 ∧
    (m.minor = 0 ∨ m.minor = 1) ∧
    m.sdo = 0 ∧
    s.ptpDomain src.val tr.val m = some d ∧
    s.fromMaster d src.val m = true ∧
    (s.dom d).sync = some (m.seq, t2, cf)) ∧
    (∃ (s : State) (src : Fin 12) (tr : Fin 3) (m : PtpMsg) (d : Nat), s.ptpOpen src.val = true ∧
    s.ptpTaken src.val = true ∧
    m.version = 2 ∧
    (m.minor = 0 ∨ m.minor = 1) ∧
    m.sdo = 0 ∧
    s.ptpDomain src.val tr.val m = some d ∧
    s.masterPort src.val = true) ∧
    (∃ (s : State) (src : Fin 12) (tr : Fin 3) (m : PtpMsg) (d : Nat) (t3 : Int), s.ptpOpen src.val = true ∧
    s.ptpTaken src.val = true ∧
    m.version = 2 ∧
    (m.minor = 0 ∨ m.minor = 1) ∧
    m.sdo = 0 ∧
    s.ptpDomain src.val tr.val m = some d ∧
    s.fromMaster d src.val m = true ∧
    (s.dom d).dreq = some (m.seq, t3) ∧
    m.reqId = s.clockId ∧
    m.reqPort = src.val + 1) ∧
    (∃ (s : State) (src : Fin 12) (tr : Fin 3) (m : PtpMsg), s.ptpOpen src.val = true ∧
    s.ptpTaken src.val = true ∧
    m.version ≠ 2 ∧
    ∃ c, c ∈ [Instr.syncReceived src tr m, .followUpReceived src tr m, .delayReqReceived src tr m, .delayRespReceived src tr m]) ∧
    (∃ (s : State) (src : Fin 12) (tr : Fin 3) (m : PtpMsg) (d : Nat), s.ptpOpen src.val = true ∧
    s.ptpTaken src.val = true ∧
    s.ptpDomain src.val tr.val m = some d ∧
    (s.takeMaster d).fromMaster d src.val m = false) :=
  ⟨⟨stPtpReceived0, 2, 0, pm 2 true 9 0, 1, by decide +kernel⟩,
   ⟨stPtpReceived1, 2, 0, pm 2 true 9 0, 1, 77, -3, by decide +kernel⟩,
   ⟨stPtpReceived2, 7, 0, pm 2 true 9 0, 1, by decide +kernel⟩,
   ⟨stPtpReceived0, 2, 0, pm 2 true 9 0, 1, 77, by decide +kernel⟩,
   ⟨S7m, 2, 0, pm 1 true 0 0, by decide +kernel, by decide +kernel, by decide +kernel, .delayRespReceived (2) (0) (pm 1 true 0 0), by decide +kernel⟩,
   ⟨stPtpReceived2, 7, 0, pm 2 true 9 0, 1, by decide +kernel⟩⟩

/-- States and operands that meet the hypotheses of each clause of `Obligations.PtpSent`. -/
theorem witness_PtpSent :
    (∃ (s : State) (dom : Fin 2) (id : Nat) (port : Nat) (src : Nat), s.flag F.TIME_DOM_CTL_EN 0 dom.val = true ∧
    (s.dom dom.val).master = some (id, port, src) ∧
    src < 12 ∧
    s.slavePort src = true) ∧
    (∃ (s : State) (src : Fin 12) (dom : Fin 2), s.flag F.TIME_DOM_CTL_EN 0 dom.val = true ∧
    s.masterPort src.val = true ∧
    (s.domState dom.val = domLocked ∨ s.flag F.TIME_STAT_GM = true)) :=
  ⟨⟨S7l, 1, 0x1234, 3, 7, by decide +kernel⟩,
   ⟨stPtpSent1, 2, 1, by decide +kernel⟩⟩

/-- States and operands that meet the hypotheses of each clause of `Obligations.PtpDomains`. -/
theorem witness_PtpDomains :
    (∃ (s : State) (dom : Fin 2), s.domState dom.val = domLocked) ∧
    (∃ (s : State) (who : Requester) (dom : Fin 2) (v : RegWord), s.mayPut who (R.TIME_DOM_MPORT.at 0 dom.val) v = true) ∧
    (∃ (s : State) (who : Requester) (dom : Fin 2) (v : RegWord), s.mayPut who (R.TIME_DOM_CTL.at 0 dom.val) v = true) ∧
    (∃ (s : State) (who : Requester) (v : RegWord), s.mayPut who (R.TIME_CTL.at 0 0) v = true ∧
    bitsOf v.toNat F.TIME_CTL_DOMAIN.lsb 1 ≠ s.get F.TIME_STAT_DOM_ACT) ∧
    (∃ (s : State), s.flag F.TIME_STAT_MODE = true ∧
    s.flag F.TIME_STAT_FAR = false ∧
    1000 * 2 ^ 32 < s.clkDiffQ.natAbs) ∧
    (∃ (s : State), s.flag F.TIME_GM_CTL_DESIGNATED = true ∧
    s.flag F.TIME_STAT_GM = false ∧
    s.domAway 0 = true ∧
    s.domAway 1 = true) ∧
    (∃ (s : State), s.flag F.TIME_REF_LOCKED = true) :=
  ⟨⟨stPtpDomains0, 1, by decide +kernel⟩,
   ⟨S7, .core 0, 1, 0, by decide +kernel⟩,
   ⟨S7, .core 0, 1, 0, by decide +kernel⟩,
   ⟨stPtpDomains3, .host, 1, by decide +kernel⟩,
   ⟨stPtpDomains4, by decide +kernel⟩,
   ⟨stPtpDomains5, by decide +kernel⟩,
   ⟨stPtpDomains7, by decide +kernel⟩⟩

/-- States and operands that meet the hypotheses of each clause of `Obligations.TriggersAndCaptures`. -/
theorem witness_TriggersAndCaptures :
    (∃ (s : State) (who : Requester) (n : Fin 16) (v : RegWord), s.mayPut who (R.TIME_TT_CTL.at 0 n.val) v = true ∧
    bitsOf v.toNat F.TIME_TT_CTL_EN.lsb 1 = 0) ∧
    (∃ (s : State) (who : Requester) (n : Fin 16) (v : RegWord), s.mayPut who (R.TIME_TT_CTL.at 0 n.val) v = true ∧
    bitsOf v.toNat F.TIME_TT_CTL_EN.lsb 1 = 1 ∧
    (s.typedWr (R.TIME_TT_CTL.at 0 n.val) v).trigValid n.val = true ∧
    (s.typedWr (R.TIME_TT_CTL.at 0 n.val) v).routePin n.val = none ∧
    s.canTake n.val (s.claimClass who (bitsOf v.toNat F.TIME_TT_CTL_CLASS.lsb F.TIME_TT_CTL_CLASS.width)) who.code = true) ∧
    (∃ (s : State) (who : Requester) (n : Fin 16) (v : RegWord), s.mayPut who (R.TIME_TT_CTL.at 0 n.val) v = true ∧
    ∃ c, bitsOf v.toNat F.TIME_TT_CTL_EN.lsb 1 = 1 ∧
    s.claim n.val = some c ∧
    c.req ≠ who.code ∧
    (s.canTake n.val (s.claimClass who (bitsOf v.toNat F.TIME_TT_CTL_CLASS.lsb F.TIME_TT_CTL_CLASS.width)) who.code = false ∨ (s.typedWr (R.TIME_TT_CTL.at 0 n.val) v).trigValid n.val = false)) ∧
    (∃ (s : State) (who : Requester) (n : Fin 32) (v : RegWord), s.mayPut who (R.GLB_GPIO_CFG.at 0 n.val) v = true ∧
    bitsOf v.toNat F.GLB_GPIO_CFG_OWN.lsb 1 = 1 ∧
    s.canTake (32 + n.val) (s.claimClass who (bitsOf v.toNat F.GLB_GPIO_CFG_CLASS.lsb F.GLB_GPIO_CFG_CLASS.width)) who.code = true) ∧
    (∃ (s : State) (n : Fin 16) (at' : Nat), s.flag F.TIME_TT_CTL_EN 0 n.val = true ∧
    (s.claim n.val).isSome = true ∧
    s.nextFire n.val = some at') ∧
    (∃ (s : State) (n : Fin 16) (r : Nat) (at' : Nat), s.pulseOf n.val = some (r, at')) ∧
    (∃ (s : State) (n : Fin 8) (rising : Bool), (let cfg := bitsOf (s.rd R.TIME_TC_CFG 0 (n.val / 4)) (8 * (n.val % 4)) 8;
    cfg % 64 ≠ 0 ∧ (cfg % 64 < 4 ∨ 32 ≤ cfg % 64) ∧ cfg / 64 ≠ 3 ∧ (cfg / 64 = 0 → rising = true) ∧ (cfg / 64 = 1 → rising = false))) ∧
    (∃ (s : State) (who : Requester) (n : Fin 8), s.regAllowed who .time 0 (0x204 + 8 * n.val) false = true) ∧
    (∃ (s : State), s.flag F.TIME_PPS_EN = true) ∧
    (∃ (s : State) (at' : Nat), s.time.pps = some at') :=
  ⟨⟨S0, .host, 0, 0, by decide +kernel⟩,
   ⟨stTriggersAndClaims1, .core 0, 15, 0x3, by decide +kernel⟩,
   ⟨stTriggersAndClaims1, .core 0, 15, 0x1, by decide +kernel, (⟨3, 16, none⟩ : Claim), by decide +kernel⟩,
   ⟨stTriggersAndClaims1, .core 0, 15, 0x3, by decide +kernel⟩,
   ⟨stTriggersAndClaims4, 3, ((stTriggersAndClaims4).nextFire 3).getD 0, by decide +kernel⟩,
   ⟨stTriggersAndClaims5, 15, 63, 0, by decide +kernel⟩,
   ⟨stCapturesAndPps0, 0, true, by decide +kernel⟩,
   ⟨stCapturesAndPps0, .core 0, 0, by decide +kernel⟩,
   ⟨stCapturesAndPps2, by decide +kernel⟩,
   ⟨stCapturesAndPps3, 7, by decide +kernel⟩⟩
end Sys2Proof.Tests.P7

namespace Sys2Proof.Tests.P8

open Sys2Proof Sys2Proof.Machine Sys2Proof.Tests

def S8 : State := S0.set F.GLB_CLK_STAT_PRESENT 0x7f
def mst (m st : Nat) (f : Mortar → Mortar) (s : State) : State := let s := (s.set F.MRT_CTL_ENABLE 1 m).set F.MRT_STAT_STATE st m; s.setLink m (f (s.link m))
def fhd (ty : Nat) (pl : List Byte) : List Byte := ((List.range 16).map (fun i => BitVec.ofNat 8 ((ty + pl.length * 256 + 0xB7 * 2^24) / 256^i))) ++ pl
def frm (ty : Nat) (pl : List Byte) : List Byte := let b := fhd ty pl; b ++ (List.range 4).map (fun i => BitVec.ofNat 8 (crc32c b / 256^i))
def mf (ty : Nat) (pl : List Byte) (pr : Nat) : MortarFrame := ⟨ty, 0, 0, 0, pl, pr, none, none⟩
def zb (n : Nat) : List Byte := List.replicate n 0
def pj (m : Nat) : State := mkRing 5 0x08100000 4 1 31 18 1 0 (words 0x08100000 [0x08101000, 0, 0, 64 + 2 * 65536] (mst m 3 id S8)) |>.set F.MRT_CTL_POINT_EN 1 m |>.set F.MRT_POINT_RING_EN 1 m |>.set F.MRT_POINT_RING_RING 5 m
def mtx (m len : Nat) : State := mkRing 8191 0x08100000 4 1 31 18 1 0 (words 0x08100000 [0x08101000, 0, len, 0] (words 0x08101000 [1,2,3] (mst m 3 id S8))) |>.set F.MRT_MSG_TX_EN 1 m |>.set F.MRT_MSG_TX_RING 8191 m


theorem pam_zero {pre : Bool} {p : Nat} (h1 : pre = false) (h2 : p = 0) : pamParse pre p (List.replicate 2720 0) =
    some (0, lineBytes (scramble (List.replicate 5120 false) prbsLoad), 0) := by
  subst h1; subst h2
  exact pamParse_zeros
theorem nrz_seg {inv : Bool} (hdr : Nat) (data : List Byte) (h : inv = false) :
    lineSegs inv (((nrzBlock hdr data).map b2n).map (· != 0)) =
      (false, bitsLsb 20 hdr ++ lineBits data ++ lineBits (leBytes 4 (blockCrc hdr data)), false) :: [] := by
  subst h
  rw [List.map_map, show ((fun x => x != 0) ∘ b2n) = id from funext (fun b => by cases b <;> rfl), List.map_id]
  exact lineSegs_nrzBlock hdr data

theorem parts (l : List Nat) : l ++ [] ++ [] ++ [] = l := by simp

def stMortarLinks1 : State := mst 7 3 (fun l => { l with queue := [mf 4 [] 1] }) S8
def stMortarLinks2 : State := mst 7 1 (fun l => { l with adapted := false, good := 4, everUp := true }) S8
def stMortarLinks3 : State := mst 7 1 (fun l => { l with adapted := true, good := 4, everUp := true }) S8
def stMortarLinks5 : State := mst 7 4 (fun l => { l with everUp := true }) S8
def stMortarLinks6 : State := mst 7 3 (fun l => { l with everUp := true }) S8
def stMortarReception0 : State := mst 7 3 (fun l => { l with adapted := false, mode := 0, precode := true, rxLast := 0, bseq := some 4095, good := 2, asm := some [] }) S8
def stMortarReception1 : State := mst 7 3 (fun l => { l with adapted := false, mode := 1, precode := true, rxLast := 0, bseq := some 4095, good := 2, asm := some [] }) S8
def stMortarReception3 : State := mst 7 1 (fun l => { l with adapted := true, mode := 0, precode := false, rxLast := 0, bseq := some 4095, good := 2, asm := some [] }) S8
def stMortarReception4 : State := mst 7 1 (fun l => { l with adapted := true, mode := 1, precode := false, rxLast := 0, bseq := some 4095, good := 2, asm := some [] }) S8
def stMortarReception5 : State := mst 0 3 id S8
def stMortarTransmission0 : State := mst 0 2 (fun l => { l with queue := [mf 5 (zb 8) 3, mf 4 (zb 8) 2] }) S8
def stMortarTransmission1 : State := pj 7
def stMortarTransmission2 : State := (pj 0).setLink 0 { (pj 0).link 0 with job := some (0x08100000, 0) }
def stMortarTransmission3 : State := mtx 7 255
def stMortarTransmission4 : State := mtx 7 224
/-- States and operands that meet the hypotheses of each clause of `Obligations.MortarLinks`. -/
theorem witness_MortarLinks :
    (∃ (s : State) (who : Requester) (m : Fin 8) (v : RegWord), s.mayPut who (R.MRT_CTL.at m.val 0) v = true ∧
    s.flag F.MRT_CTL_ENABLE m.val = false ∧
    bitsOf v.toNat F.MRT_CTL_ENABLE.lsb 1 = 1) ∧
    (∃ (s : State) (who : Requester) (m : Fin 8) (v : RegWord), s.mayPut who (R.MRT_CTL.at m.val 0) v = true ∧
    s.flag F.MRT_CTL_ENABLE m.val = true ∧
    bitsOf v.toNat F.MRT_CTL_ENABLE.lsb 1 = 0) ∧
    (∃ (s : State) (m : Fin 8), s.linkState m.val = mrtTraining ∧
    s.refPresent 3 = true) ∧
    (∃ (s : State) (m : Fin 8), s.linkState m.val = mrtTraining ∧
    (s.link m.val).adapted = true ∧
    4 ≤ (s.link m.val).good) ∧
    (∃ (s : State) (m : Fin 8), (s.linkState m.val = mrtTraining ∨ (s.linkState m.val = mrtLocked ∧ (s.link m.val).everUp = false))) ∧
    (∃ (s : State) (m : Fin 8), s.linkLocked m.val = true ∧
    (s.link m.val).everUp = true) ∧
    (∃ (s : State) (m : Fin 8), s.linkUp m.val = true) :=
  ⟨⟨S8, .host, 7, 3, by decide +kernel⟩,
   ⟨stMortarLinks1, .host, 7, 0, by decide +kernel⟩,
   ⟨stMortarLinks2, 7, by decide +kernel⟩,
   ⟨stMortarLinks3, 7, by decide +kernel⟩,
   ⟨stMortarLinks2, 7, by decide +kernel⟩,
   ⟨stMortarLinks5, 7, by decide +kernel⟩,
   ⟨stMortarLinks6, 7, by decide +kernel⟩⟩

/-- States and operands that meet the hypotheses of each clause of `Obligations.MortarReception`. -/
theorem witness_MortarReception :
    (∃ (s : State) (m : Fin 8) (line : List Nat) (mark : List Nat) (head : List Nat) (body : List Nat) (check : List Nat), mark ++ head ++ body ++ check = line ∧
    s.linkState m.val ≠ mrtOff ∧
    (s.linkState m.val = mrtTraining → (s.link m.val).adapted = true) ∧
    (s.link m.val).mode = 0 ∧
    pamParse (s.link m.val).precode (s.link m.val).rxLast line = none) ∧
    (∃ (s : State) (m : Fin 8) (line : List Nat) (mark : List Nat) (head : List Nat) (body : List Nat) (check : List Nat), mark ++ head ++ body ++ check = line ∧
    s.linkState m.val ≠ mrtOff ∧
    (s.linkState m.val = mrtTraining → (s.link m.val).adapted = true) ∧
    (s.link m.val).mode ≠ 0 ∧
    lineSegs (s.link m.val).rxInv (line.map (· != 0)) = []) ∧
    (∃ (s : State) (m : Fin 8) (line : List Nat) (mark : List Nat) (head : List Nat) (body : List Nat) (check : List Nat), mark ++ head ++ body ++ check = line ∧
    s.linkState m.val ≠ mrtOff ∧
    (s.linkState m.val = mrtTraining → (s.link m.val).adapted = true) ∧
    (s.link m.val).mode ≠ 0 ∧
    ∃ (inv : Bool) (bad : Bool) (d : List Bool), ∃ (rest : List (Bool × List Bool × Bool)), lineSegs (s.link m.val).rxInv (line.map (· != 0)) = (inv, d, bad) :: rest ∧
    nrzParse d = none) ∧
    (∃ (s : State) (m : Fin 8) (line : List Nat) (mark : List Nat) (head : List Nat) (body : List Nat) (check : List Nat) (hdr : Nat) (data : List Byte), mark ++ head ++ body ++ check = line ∧
    s.linkState m.val = mrtTraining ∧
    (s.link m.val).adapted = true ∧
    parity hdr 20 = 0 ∧
    (∀ b, (s.link m.val).bseq = some b → bitsOf hdr 0 12 = (b + 1) % 4096) ∧
    (s.link m.val).mode = 0 ∧
    ∃ n, pamParse (s.link m.val).precode (s.link m.val).rxLast line = some (hdr, data, n)) ∧
    (∃ (s : State) (m : Fin 8) (line : List Nat) (mark : List Nat) (head : List Nat) (body : List Nat) (check : List Nat) (hdr : Nat) (data : List Byte), mark ++ head ++ body ++ check = line ∧
    s.linkState m.val = mrtTraining ∧
    (s.link m.val).adapted = true ∧
    parity hdr 20 = 0 ∧
    (∀ b, (s.link m.val).bseq = some b → bitsOf hdr 0 12 = (b + 1) % 4096) ∧
    (s.link m.val).mode ≠ 0 ∧
    ∃ (inv : Bool) (bad : Bool) (d : List Bool), ∃ (rest : List (Bool × List Bool × Bool)), lineSegs (s.link m.val).rxInv (line.map (· != 0)) = (inv, d, bad) :: rest ∧
    nrzParse d = some (hdr, data)) ∧
    (∃ (s : State) (m : Fin 8) (f : List Byte), s.linkLocked m.val = true ∧
    (frameHeadOk (leAt f 0 4) && decide (20 + bitsOf (leAt f 0 4) 8 14 ≤ f.length) && frameCrcOk f) = false) ∧
    (∃ (s : State) (m : Fin 8) (f : List Byte), s.linkLocked m.val = true ∧
    frameHeadOk (leAt f 0 4) = true ∧
    20 + bitsOf (leAt f 0 4) 8 14 ≤ f.length ∧
    frameCrcOk f = true ∧
    bitsOf (leAt f 0 4) 0 4 = 4) ∧
    (∃ (s : State) (m : Fin 8), s.linkLocked m.val = true) :=
  ⟨⟨stMortarReception0, 7, [0,1], [0,1], ([] : List Nat), ([] : List Nat), ([] : List Nat), parts _, by decide +kernel⟩,
   ⟨stMortarReception1, 7, [0,1,0], [0,1,0], ([] : List Nat), ([] : List Nat), ([] : List Nat), parts _, by decide +kernel⟩,
   ⟨stMortarReception1, 7, 0 :: (marker.map b2n ++ [1,0,1]), 0 :: (marker.map b2n ++ [1,0,1]), ([] : List Nat), ([] : List Nat), ([] : List Nat), parts _, by decide +kernel, by decide +kernel, by decide +kernel, false, ((lineSegs false ((0 :: (marker.map b2n ++ [1,0,1])).map (· != 0))).headD (false,[],false)).2.2, ((lineSegs false ((0 :: (marker.map b2n ++ [1,0,1])).map (· != 0))).headD (false,[],false)).2.1, ([] : List (Bool × List Bool × Bool)), by decide +kernel⟩,
   ⟨stMortarReception3, 7, List.replicate 2720 0, List.replicate 2720 0, [], [], [], 0, lineBytes (scramble (List.replicate 5120 false) prbsLoad), parts _, by decide +kernel, by decide +kernel, by decide +kernel, by decide +kernel, by decide +kernel, 0, pam_zero (by decide +kernel) (by decide +kernel)⟩,
   ⟨stMortarReception4, 7, (nrzBlock (blockHeader 0 127) (zb 640)).map b2n, (nrzBlock (blockHeader 0 127) (zb 640)).map b2n, [], [], [], blockHeader 0 127, zb 640, parts _, by decide +kernel, by decide +kernel, by decide +kernel, by decide +kernel, by decide +kernel, false, false, bitsLsb 20 (blockHeader 0 127) ++ lineBits (zb 640) ++ lineBits (leBytes 4 (blockCrc (blockHeader 0 127) (zb 640))), [], nrz_seg _ _ (by decide +kernel), nrzParse_sent _ _ (by decide +kernel) List.length_replicate⟩,
   ⟨stMortarReception5, 0, fhd 4 (zb 36) ++ zb 4, by decide +kernel⟩,
   ⟨stMortarReception5, 0, frm 4 (zb 0), by decide +kernel⟩,
   ⟨stMortarReception5, 0, by decide +kernel⟩⟩

/-- States and operands that meet the hypotheses of each clause of `Obligations.MortarTransmission`. -/
theorem witness_MortarTransmission :
    (∃ (s : State) (m : Fin 8) (f : MortarFrame), s.linkLocked m.val = true ∧
    (s.link m.val).nextFrame (s.flag F.MRT_STAT_DUP_INDEX m.val) = some f) ∧
    (∃ (s : State) (m : Fin 8) (e : Nat), s.flag F.MRT_CTL_POINT_EN m.val = true ∧
    s.flag F.MRT_POINT_RING_EN m.val = true ∧
    (s.link m.val).job = none ∧
    s.unitCanTake (s.get F.MRT_POINT_RING_RING m.val) = true ∧
    s.linkUp m.val = true ∧
    s.flag F.MRT_STAT_DUP_INDEX m.val = false ∧
    e = s.ringElem (s.get F.MRT_POINT_RING_RING m.val) (s.ringCI (s.get F.MRT_POINT_RING_RING m.val)) ∧
    s.rdN e 6 % 64 = 0 ∧
    s.memFld (e + 8) 0 20 % 64 = 0 ∧
    64 ≤ s.memFld (e + 0xC) 0 14 ∧
    s.memFld (e + 0xC) 0 14 ≤ 8192 ∧
    s.memFld (e + 0xC) 0 14 % 64 = 0 ∧
    s.memFld (e + 0xC) 16 15 ≠ 0 ∧
    s.memFld (e + 0xC) 16 15 ≤ 16384 ∧
    s.unitRange (s.rdN e 6) (s.memFld (e + 0xC) 0 14) = true ∧
    s.unitRange (s.rdN e 6 + (s.memFld (e + 0xC) 16 15 - 1) * s.memFld (e + 8) 0 20) (s.memFld (e + 0xC) 0 14) = true) ∧
    (∃ (s : State) (m : Fin 8) (e : Nat), (s.link m.val).job = some (e, 0)) ∧
    (∃ (s : State) (m : Fin 8) (r : Nat) (e : Nat) (len : Nat), r = s.get F.MRT_MSG_TX_RING m.val ∧
    e = s.ringElem r (s.ringCI r) ∧
    len = bitsOf (s.rd32 (e + 8)) 0 8 ∧
    s.flag F.MRT_MSG_TX_EN m.val = true ∧
    s.unitCanTake r = true ∧
    s.linkUp m.val = true ∧
    (len < 4 ∨ 224 < len ∨ len % 4 ≠ 0 ∨ s.rdN (e + 6) 2 ≠ 0 ∨ bitsOf (s.rd32 (e + 8)) 11 21 ≠ 0 ∨ s.rdN (e + 0xC) 20 ≠ 0)) ∧
    (∃ (s : State) (m : Fin 8) (r : Nat) (e : Nat) (len : Nat), r = s.get F.MRT_MSG_TX_RING m.val ∧
    e = s.ringElem r (s.ringCI r) ∧
    len = bitsOf (s.rd32 (e + 8)) 0 8 ∧
    s.flag F.MRT_MSG_TX_EN m.val = true ∧
    s.unitCanTake r = true ∧
    s.linkUp m.val = true ∧
    4 ≤ len ∧
    len ≤ 224 ∧
    len % 4 = 0 ∧
    s.rdN (e + 6) 2 = 0 ∧
    bitsOf (s.rd32 (e + 8)) 11 21 = 0 ∧
    s.rdN (e + 0xC) 20 = 0 ∧
    s.unitRange (s.rdN e 6) len = true ∧
    (bitAt (s.rd32 (e + 8)) 8 = true → s.flag F.MRT_CTL_PTP_EN m.val = true) ∧
    (s.link m.val).level + 1024 ≤ 131072) :=
  ⟨⟨stMortarTransmission0, 0, mf 4 (zb 8) 2, by decide +kernel⟩,
   ⟨stMortarTransmission1, 7, 0x08100000, by decide +kernel⟩,
   ⟨stMortarTransmission2, 0, 0x08100000, by decide +kernel⟩,
   ⟨stMortarTransmission3, 7, 8191, 0x08100000, 255, by decide +kernel⟩,
   ⟨stMortarTransmission4, 7, 8191, 0x08100000, 224, by decide +kernel⟩⟩
end Sys2Proof.Tests.P8

namespace Sys2Proof.Tests.P9

open Sys2Proof Sys2Proof.Machine Sys2Proof.Tests

def geo (lc es p c : Nat) (base : Nat) : State := ((((S0.set F.RNG_SET_GEOM_LOG_CAP lc).set F.RNG_SET_GEOM_ESIZE es).set F.RNG_SET_BIND_PROD p).set F.RNG_SET_BIND_CONS c).wr R.RNG_SET_BASE_LO base
def mbx (n st : Nat) : State := ((S0.set F.MBX_CFG_EN 1 n).set F.MBX_CFG_SENDER 16 n).set F.MBX_STAT_FULL st n
def held (n : Nat) (rcv : Nat) (d : Option Nat) : State := let s := (mbx n 1); { s with mbox := [(n, some ⟨16, rcv, 0, d⟩)] }

def stRingCommands0 : State := mkRing 8191 64 2 1 16 18 1 0 S0
def stRingCommands1 : State := S0.wr32 (ringCtx 8191 + 8) 3
def stRingCommands2 : State := geo 16 11 31 4 0
def stRingCommands3 : State := geo 1 0 0 0 32
def stRingIndicesAndEvents0 : State := mkRing 8191 64 2 1 16 18 3 1 (S0.set F.HOST_CTL_DB_EN 1)
def stRingIndicesAndEvents2 : State := S0.setCore 3 { S0.core 3 with evslot := [(5, 65536+0x1C0+63)] }
def stRingIndicesAndEvents4 : State := mkRing 8191 64 2 1 16 16 3 1 (S0.set F.HOST_CTL_DB_EN 1)
def stRingIndicesAndEvents5 : State := mkRing 8191 64 2 1 16 18 3 1 (S0.set F.HOST_CTL_DB_EN 0)
def stMailboxes0 : State := mbx 63 0
def stMailboxes1 : State := mbx 63 1
def stMailboxes3 : State := held 63 16 (some 99)
def stMailboxes4 : State := held 63 17 (some 99)
def stHostLink2 : State := (mkRing 3 64 2 1 16 18 3 1 S0).set F.HOST_STAT_LINK_UP 1
def stHostLink3 : State := S0.set F.GLB_CLK_STAT_PRESENT 127
def stHostLink4 : State := S0.set F.GLB_CLK_STAT_PRESENT 0
def stHostLink6 : State := (S0.set F.DRC_CTL_ENABLE 1 0).set F.DRC_CAP_GIB 16 0
def stHostLink7 : State := { S0 with poison := [(0x00200000 / 64, true)], board := { S0.board with pwrOk := true } }
def stHostLink8 : State := S0.set F.TRU_STAT_DBG_LEVEL 2
def stHostLink11 : State := { S0 with host := { S0.host with pend := 2^64-1, masked := 2^64-1 } }
/-- States and operands that meet the hypotheses of each clause of `Obligations.RingCommands`. -/
theorem witness_RingCommands :
    (∃ (s : State) (who : Requester) (ring : Fin 8192), s.mayWrite who (R.RNG_CMD.at 0 0) = true ∧
    s.ringWriter who = true ∧
    let r := ring.val
    s.ringEn r = true) ∧
    (∃ (s : State) (who : Requester) (ring : Fin 8192), s.mayWrite who (R.RNG_CMD.at 0 0) = true ∧
    s.ringWriter who = true ∧
    let r := ring.val
    let lc := s.get F.RNG_SET_GEOM_LOG_CAP
    let es := s.get F.RNG_SET_GEOM_ESIZE
    let prod := s.get F.RNG_SET_BIND_PROD
    let cons := s.get F.RNG_SET_BIND_CONS
    let base := s.rd64 R.RNG_SET_BASE_LO % 2 ^ 48
    s.ringEn r = false ∧
    (lc = 0 ∨ 16 < lc ∨ 11 < es ∨ base % 64 ≠ 0 ∨ (19 ≤ prod ∧ prod ≤ 30) ∨ (19 ≤ cons ∧ cons ≤ 30))) ∧
    (∃ (s : State) (who : Requester) (ring : Fin 8192), s.mayWrite who (R.RNG_CMD.at 0 0) = true ∧
    s.ringWriter who = true ∧
    let r := ring.val
    let lc := s.get F.RNG_SET_GEOM_LOG_CAP
    let es := s.get F.RNG_SET_GEOM_ESIZE
    let prod := s.get F.RNG_SET_BIND_PROD
    let cons := s.get F.RNG_SET_BIND_CONS
    let base := s.rd64 R.RNG_SET_BASE_LO % 2 ^ 48
    s.ringEn r = false ∧
    1 ≤ lc ∧
    lc ≤ 16 ∧
    es ≤ 11 ∧
    base % 64 = 0 ∧
    (prod < 19 ∨ prod = 31) ∧
    (cons < 19 ∨ cons = 31)) ∧
    (∃ (s : State) (who : Requester) (ring : Fin 8192), s.mayWrite who (R.RNG_CMD.at 0 0) = true ∧
    s.ringWriter who = true ∧
    let r := ring.val
    s.ringLogCap r = 0) ∧
    (∃ (s : State) (who : Requester) (ring : Fin 8192), s.mayWrite who (R.RNG_CMD.at 0 0) = true ∧
    s.ringWriter who = true ∧
    let r := ring.val
    s.ringLogCap r ≠ 0) ∧
    (∃ (s : State) (who : Requester), s.mayWrite who (R.RNG_CMD.at 0 0) = true ∧
    s.ringWriter who = true) :=
  ⟨⟨stRingCommands0, .host, 8191, by decide +kernel⟩,
   ⟨stRingCommands1, .host, 8191, by decide +kernel⟩,
   ⟨stRingCommands2, .host, 8191, by decide +kernel⟩,
   ⟨stRingCommands3, .host, 8191, by decide +kernel⟩,
   ⟨stRingCommands1, .host, 8191, by decide +kernel⟩,
   ⟨stRingCommands1, .host, by decide +kernel⟩⟩

/-- States and operands that meet the hypotheses of each clause of `Obligations.RingIndicesAndEvents`. -/
theorem witness_RingIndicesAndEvents :
    (∃ (s : State) (ring : Fin 8192) (ci : RegWord), (ci.toNat + 2 ^ 32 - s.ringCI ring.val) % 2 ^ 32 ≤ s.ringFill ring.val) ∧
    (∃ (s : State) (ring : Fin 8192) (ci : RegWord), s.ringFill ring.val < (ci.toNat + 2 ^ 32 - s.ringCI ring.val) % 2 ^ 32) ∧
    (∃ (s : State) (who : Requester) (v : RegWord), s.mayPut who (R.RNG_EV_RAISE.at 0 0) v = true) ∧
    (∃ (s : State) (who : Requester) (ring : Fin 8192), s.mayWrite who (R.HOST_DB.at 0 0) = true ∧
    (who = .host ∨ who = .debug) ∧
    s.flag F.HOST_CTL_DB_EN = true ∧
    s.ringProd ring.val = who.code ∧
    s.ringEn ring.val = true ∧
    s.ringClash ring.val = none) ∧
    (∃ (s : State) (who : Requester) (ring : Fin 8192) (count : BitVec 16), s.mayWrite who (R.HOST_DB.at 0 0) = true ∧
    (who = .host ∨ who = .debug) ∧
    s.flag F.HOST_CTL_DB_EN = true ∧
    s.ringCons ring.val = who.code ∧
    s.ringEn ring.val = true ∧
    count.toNat ≤ s.ringFill ring.val) ∧
    (∃ (s : State) (who : Requester) (ring : Fin 8192), s.mayWrite who (R.HOST_DB.at 0 0) = true ∧
    ((who ≠ .host ∧ who ≠ .debug) ∨ s.flag F.HOST_CTL_DB_EN = false ∨ s.ringEn ring.val = false ∨ s.ringProd ring.val ≠ who.code)) ∧
    (∃ (s : State) (who : Requester) (ring : Fin 8192), s.mayWrite who (R.HOST_DB.at 0 0) = true ∧
    ((who ≠ .host ∧ who ≠ .debug) ∨ s.flag F.HOST_CTL_DB_EN = false ∨ s.ringEn ring.val = false ∨ s.ringCons ring.val ≠ who.code)) :=
  ⟨⟨stRingIndicesAndEvents0, 8191, 3, by decide +kernel⟩,
   ⟨stRingIndicesAndEvents0, 8191, 4, by decide +kernel⟩,
   ⟨stRingIndicesAndEvents2, .host, 0x3f, by decide +kernel⟩,
   ⟨stRingIndicesAndEvents0, .host, 8191, by decide +kernel⟩,
   ⟨stRingIndicesAndEvents4, .host, 8191, 2, by decide +kernel⟩,
   ⟨stRingIndicesAndEvents5, .host, 8191, by decide +kernel⟩,
   ⟨stRingIndicesAndEvents0, .host, 8191, by decide +kernel⟩⟩

/-- States and operands that meet the hypotheses of each clause of `Obligations.MailboxesAndHostLink`. -/
theorem witness_MailboxesAndHostLink :
    (∃ (s : State) (who : Requester) (n : Fin 64) (hi : RegWord), s.mayPut who (R.MBX_NOTICE_HI.at n.val 0) hi = true ∧
    s.flag F.MBX_CFG_EN n.val = true ∧
    s.get F.MBX_CFG_SENDER n.val = who.code ∧
    s.flag F.MBX_STAT_FULL n.val = false) ∧
    (∃ (s : State) (who : Requester) (n : Fin 64) (hi : RegWord), s.mayPut who (R.MBX_NOTICE_HI.at n.val 0) hi = true ∧
    s.flag F.MBX_CFG_EN n.val = true ∧
    s.get F.MBX_CFG_SENDER n.val = who.code ∧
    s.flag F.MBX_STAT_FULL n.val = true) ∧
    (∃ (s : State) (who : Requester) (n : Fin 64) (hi : RegWord), s.mayPut who (R.MBX_NOTICE_HI.at n.val 0) hi = true ∧
    (s.flag F.MBX_CFG_EN n.val = false ∨ s.get F.MBX_CFG_SENDER n.val ≠ who.code)) ∧
    (∃ (s : State) (who : Requester) (n : Fin 64), ∃ x, s.mboxHeld n.val = some x ∧
    s.mayRead who (R.MBX_NOTICE_HI.at n.val 0) = true ∧
    x.receiver = who.code) ∧
    (∃ (s : State) (who : Requester) (n : Fin 64), ∃ x, s.mboxHeld n.val = some x ∧
    s.mayRead who (R.MBX_NOTICE_HI.at n.val 0) = true ∧
    x.receiver ≠ who.code) ∧
    (∃ (s : State) (n : Fin 64), ∃ x, s.mboxHeld n.val = some x ∧
    ∃ d, x.deadline = some d) ∧
    (∃ (s : State) (who : Requester) (n : Fin 64), ∃ x, s.mboxHeld n.val = some x ∧
    s.mayWrite who (R.MBX_CTL.at n.val 0) = true ∧
    x.sender = who.code) ∧
    (∃ (s : State) (who : Requester) (n : Fin 64) (v : RegWord), s.mayPut who (R.MBX_CFG.at n.val 0) v = true ∧
    ((19 ≤ bitsOf v.toNat F.MBX_CFG_SENDER.lsb 5 ∧ bitsOf v.toNat F.MBX_CFG_SENDER.lsb 5 ≤ 30) ∨ (19 ≤ bitsOf v.toNat F.MBX_CFG_RECEIVER.lsb 5 ∧ bitsOf v.toNat F.MBX_CFG_RECEIVER.lsb 5 ≤ 30))) ∧
    (∃ (s : State), s.flag F.HOST_STAT_LINK_UP = true) ∧
    (∃ (s : State), s.refPresent 4 = true ∧
    s.refPresent 5 = true) ∧
    (∃ (s : State), (s.refPresent 4 = false ∨ s.refPresent 5 = false)) ∧
    (∃ (s : State) (who : Requester) (a : Nat), a % 4 = 0 ∧
    onBus who a = true ∧
    ∃ p, s.busTo who a = .mem p ∧
    s.busSees who p = true ∧
    s.poisoned p 4 = false) ∧
    (∃ (s : State) (who : Requester) (a : Nat), a % 4 = 0 ∧
    onBus who a = true ∧
    ∃ p, s.busTo who a = .mem p ∧
    s.busSees who p = true ∧
    s.poisoned p 4 = true) ∧
    (∃ (s : State) (who : Requester) (a : Nat), a % 4 = 0 ∧
    onBus who a = true ∧
    ∃ p, s.busTo who a = .mem p ∧
    s.busSees who p = true ∧
    fixedMem p = true) ∧
    (∃ (s : State) (who : Requester) (a : Nat) (v : RegWord), a % 4 = 0 ∧
    onBus who a = true ∧
    ∃ p, s.busTo who a = .mem p ∧
    s.busSees who p = true ∧
    fixedMem p = false ∧
    touchesCi p 4 = false ∧
    s.storeUse p (leBytes 4 v.toNat) = none ∧
    s.swPlain p = true ∧
    s.swPlain (p + 3) = true ∧
    plainRange p 4 = true) ∧
    (∃ (s : State) (who : Requester) (a : Nat), a % 4 = 0 ∧
    onBus who a = true ∧
    (s.busTo who a = .nothing ∨ ∃ p, s.busTo who a = .mem p ∧ s.busSees who p = false)) ∧
    (∃ (v : RegWord), bitAt v.toNat 0 = true) ∧
    (∃ (v : RegWord), bitAt v.toNat 0 = false) :=
  ⟨⟨stMailboxes0, .host, 63, 0x77, by decide +kernel⟩,
   ⟨stMailboxes1, .host, 63, 0x77, by decide +kernel⟩,
   ⟨S0, .host, 5, 0x77, by decide +kernel⟩,
   ⟨stMailboxes3, .host, 63, (⟨16, 16, 0, some 99⟩ : MboxHeld), by decide +kernel⟩,
   ⟨stMailboxes4, .host, 63, (⟨16, 17, 0, some 99⟩ : MboxHeld), by decide +kernel⟩,
   ⟨stMailboxes4, 63, (⟨16, 17, 0, some 99⟩ : MboxHeld), by decide +kernel, 99, by decide +kernel⟩,
   ⟨stMailboxes4, .host, 63, (⟨16, 17, 0, some 99⟩ : MboxHeld), by decide +kernel⟩,
   ⟨S0, .core 0, 63, (BitVec.ofNat 32 (30 * 2 ^ F.MBX_CFG_RECEIVER.lsb)), by decide +kernel⟩,
   ⟨stHostLink2, by decide +kernel⟩,
   ⟨stHostLink3, by decide +kernel⟩,
   ⟨stHostLink4, by decide +kernel⟩,
   ⟨stHostLink6, .host, 0x100000000, by decide +kernel, by decide +kernel, 0x100000000, by decide +kernel⟩,
   ⟨stHostLink7, .host, 0x00200000, by decide +kernel, by decide +kernel, 0x00200000, by decide +kernel⟩,
   ⟨stHostLink8, .debug, 0x30000000, by decide +kernel, by decide +kernel, 0x30000000, by decide +kernel⟩,
   ⟨stHostLink6, .host, 0x100000000, 0x12345678, by decide +kernel, by decide +kernel, 0x100000000, by decide +kernel⟩,
   ⟨S0, .debug, 0x00200000, by decide +kernel, by decide +kernel, Or.inl (by decide +kernel)⟩,
   ⟨1, by decide +kernel⟩,
   ⟨0, by decide +kernel⟩⟩
end Sys2Proof.Tests.P9

namespace Sys2Proof.Tests.P10

open Sys2Proof Sys2Proof.Machine Sys2Proof.Tests

def ch (c st en : Nat) (f : Dram → Dram) (s : State) : State := let s := (s.set F.DRC_STAT_STATE st c).set F.DRC_CTL_ENABLE en c; s.setDrc c (f (s.drc c))
def dr (x : State) : State := x.set F.DRC_CAP_GIB 8 0
def ses (c : Nat) (f : Dram → Dram) (s : State) : State := ch c 1 0 f (s.set F.DRC_TRAIN_CTL_SESSION 1 c)

def stDramChannels1 : State := ch 7 4 1 (fun d => { d with capture := some 0 }) S0
def stDramChannels2 : State := ch 7 2 1 (fun d => { d with capture := none }) S0
def stDramChannels3 : State := ch 7 1 1 (fun d => { d with capture := some 0 }) S0
def stDramChannels4 : State := ch 7 2 1 (fun d => { d with capture := some 0 }) S0
def stDramChannels6 : State := ch 7 5 1 (fun d => { d with freqTo := some (3,3) }) S0
def stDramChannels8 : State := (((ses 7 id S0).wr R.DRC_MR 0xfff 7).set F.DRC_MR_BUSY 1 7).wr R.DRC_MR_DATA 0x5a 7
def stDramChannels9 : State := (((ses 7 id S0).wr R.DRC_MR 0x8f0 7).set F.DRC_MR_BUSY 1 7).wr R.DRC_MR_DATA 0x5a 7
def stDramTraining1 : State := ch 7 2 1 id S0
def stDramTraining2 : State := ses 7 id S0
def stDramTraining5 : State := ses 7 (fun d => { d with capture := some 3, sweep := none }) (S0.set F.DRC_SWEEP_COUNT 2 7)
def stDramTraining6 : State := ses 7 (fun d => { d with capture := some 3, sweep := some (0,1) }) (S0.set F.DRC_SWEEP_COUNT 2 7)
def stDramTraining7 : State := ses 0 (fun d => { d with capture := some 3, sweep := some (0, 1) }) S0
def stDramPower0 : State := ch 7 4 1 (fun d => { d with leaving := false }) (((S0.set F.DRC_PD_EN 1 7).set F.DRC_SR_EN 1 7).set F.DRC_SR_EXIT_NS 60000 7)
def stDramPower1 : State := ch 7 2 1 (fun d => { d with leaving := false }) (((S0.set F.DRC_PD_EN 1 7).set F.DRC_SR_EN 1 7).set F.DRC_SR_EXIT_NS 60000 7)
def stDramPower2 : State := ch 7 3 1 (fun d => { d with leaving := false }) (((S0.set F.DRC_PD_EN 1 7).set F.DRC_SR_EN 1 7).set F.DRC_SR_EXIT_NS 60000 7)
def stDramPower3 : State := ch 3 3 1 id ((S0.set F.DRC_SR_EXIT_NS 7 3).set F.DRC_LTR_SW_TOL_NS 7)
def stDramPower4 : State := ch 7 4 1 (fun d => { d with leaving := true }) (((S0.set F.DRC_PD_EN 1 7).set F.DRC_SR_EN 1 7).set F.DRC_SR_EXIT_NS 60000 7)
def stDramErrors0 : State := dr (ch 7 2 1 id (S0.set F.DRC_SCRUB_EN 1 7)) |>.set F.DRC_STAT_SPARE_ACT 1 7
def stDramErrors2 : State := dr (ch 7 2 1 id (S0.set F.DRC_SCRUB_EN 1 7)) |>.set F.DRC_STAT_SPARE_ACT 1 7 |>.set F.DRC_CTL_AUTO_RETIRE 0 7
def stDramErrors3 : State := S0.set F.DRC_CTL_AUTO_RETIRE 0 7
def stDramErrors4 : State := (ch 7 2 1 (fun d => { d with under := 2 }) S0).wr R.DRC_POISON_CNT 7 7 |>.set F.DRC_CFG_RANKS 1 7 |>.set F.DRC_CTL_SPARE_EN 1 7
def stDramErrors5 : State := (ch 7 2 1 (fun d => { d with under := 2 }) S0).wr R.DRC_POISON_CNT 7 7 |>.set F.DRC_CFG_RANKS 1 7 |>.set F.DRC_CTL_SPARE_EN 0 7
def stDramErrors6 : State := (ch 7 4 1 (fun d => { d with under := 2 }) S0).wr R.DRC_POISON_CNT 7 7 |>.set F.DRC_CFG_RANKS 1 7 |>.set F.DRC_CTL_SPARE_EN 1 7
/-- States and operands that meet the hypotheses of each clause of `Obligations.DramChannelsAndPower`. -/
theorem witness_DramChannelsAndPower :
    (∃ (s : State) (who : Requester) (ch : Fin 8), s.mayWrite who (R.DRC_CTL.at ch.val 0) = true ∧
    bitAt (s.rd R.DRC_CTL ch.val) 3 = false ∧
    s.flag F.DRC_TRAIN_CTL_SESSION ch.val = false ∧
    s.drcState ch.val ≠ drcFreqChange ∧
    s.flag F.DRC_CTL_ENABLE ch.val = false ∧
    s.drcState ch.val ≠ drcMigrating) ∧
    (∃ (s : State) (who : Requester) (ch : Fin 8), s.mayWrite who (R.DRC_CTL.at ch.val 0) = true ∧
    bitAt (s.rd R.DRC_CTL ch.val) 3 = false ∧
    s.flag F.DRC_TRAIN_CTL_SESSION ch.val = false ∧
    s.drcState ch.val ≠ drcFreqChange ∧
    s.flag F.DRC_CTL_ENABLE ch.val = true) ∧
    (∃ (s : State) (who : Requester) (ch : Fin 8) (idx : Fin 4), s.mayWrite who (R.DRC_CTL.at ch.val 0) = true ∧
    s.drcState ch.val = drcRun ∧
    idx.val ≠ s.get F.DRC_STAT_FREQ_ACT ch.val ∧
    (s.drc ch.val).capture = none) ∧
    (∃ (s : State) (who : Requester) (ch : Fin 8) (idx : Fin 4), s.mayWrite who (R.DRC_CTL.at ch.val 0) = true ∧
    s.drcState ch.val = drcTraining ∧
    idx.val ≠ s.get F.DRC_STAT_FREQ_ACT ch.val ∧
    (s.drc ch.val).capture.isSome = true) ∧
    (∃ (s : State) (who : Requester) (ch : Fin 8) (idx : Fin 4), s.mayWrite who (R.DRC_CTL.at ch.val 0) = true ∧
    s.drcState ch.val = drcRun ∧
    idx.val = s.get F.DRC_STAT_FREQ_ACT ch.val) ∧
    (∃ (s : State) (who : Requester) (ch : Fin 8), s.mayWrite who (R.DRC_CTL.at ch.val 0) = true ∧
    (s.drcState ch.val = drcOff ∨ s.drcState ch.val = drcMigrating)) ∧
    (∃ (s : State) (ch : Fin 8) (i : Nat) (back : Nat), (s.drc ch.val).freqTo = some (i, back) ∧
    (s.drc ch.val).heldDfc = none ∧
    s.flag F.DRC_TRAIN_STAT_BUSY ch.val = false) ∧
    (∃ (s : State) (who : Requester) (ch : Fin 8) (v : RegWord), s.mayPut who (R.DRC_MR.at ch.val 0) v = true ∧
    bitAt v.toNat 11 = true) ∧
    (∃ (s : State) (ch : Fin 8), s.flag F.DRC_MR_BUSY ch.val = true ∧
    s.flag F.DRC_MR_READ ch.val = true) ∧
    (∃ (s : State) (ch : Fin 8), s.flag F.DRC_MR_BUSY ch.val = true ∧
    s.flag F.DRC_MR_READ ch.val = false) ∧
    (∃ (s : State) (ch : Fin 8), s.flag F.DRC_PD_EN ch.val = true ∧
    (s.drcState ch.val = drcRun ∨ s.drcState ch.val = drcMigrating)) ∧
    (∃ (s : State) (ch : Fin 8), s.drcState ch.val = drcRun ∧
    s.flag F.DRC_SR_EN ch.val = true ∧
    s.get F.DRC_SR_EXIT_NS ch.val < s.ltrMin.1) ∧
    (∃ (s : State) (ch : Fin 8), s.drcState ch.val = drcSelfRefresh ∧
    (s.drc ch.val).leaving = false) ∧
    (∃ (s : State) (ch : Fin 8), s.drcState ch.val = drcSelfRefresh ∧
    (s.drc ch.val).leaving = false ∧
    s.ltrMin.1 ≤ s.get F.DRC_SR_EXIT_NS ch.val) ∧
    (∃ (s : State) (ch : Fin 8), (s.drc ch.val).leaving = true) :=
  ⟨⟨S0, .host, 7, by decide +kernel⟩,
   ⟨stDramChannels1, .host, 7, by decide +kernel⟩,
   ⟨stDramChannels2, .host, 7, 3, by decide +kernel⟩,
   ⟨stDramChannels3, .host, 7, 3, by decide +kernel⟩,
   ⟨stDramChannels4, .host, 7, 0, by decide +kernel⟩,
   ⟨stDramChannels1, .host, 7, by decide +kernel⟩,
   ⟨stDramChannels6, 7, 3, 3, by decide +kernel⟩,
   ⟨S0, .host, 7, 0xaf0, by decide +kernel⟩,
   ⟨stDramChannels8, 7, by decide +kernel⟩,
   ⟨stDramChannels9, 7, by decide +kernel⟩,
   ⟨stDramPower0, 7, by decide +kernel⟩,
   ⟨stDramPower1, 7, by decide +kernel⟩,
   ⟨stDramPower2, 7, by decide +kernel⟩,
   ⟨stDramPower3, 3, by decide +kernel⟩,
   ⟨stDramPower4, 7, by decide +kernel⟩⟩

/-- States and operands that meet the hypotheses of each clause of `Obligations.DramTrainingAndErrors`. -/
theorem witness_DramTrainingAndErrors :
    (∃ (s : State) (who : Requester) (ch : Fin 8), s.mayWrite who (R.DRC_TRAIN_CTL.at ch.val 0) = true ∧
    bitAt (s.rd R.DRC_TRAIN_CTL ch.val) 1 = false ∧
    bitAt (s.rd R.DRC_TRAIN_CTL ch.val) 9 = false ∧
    s.drcState ch.val ≠ drcMigrating ∧
    s.drcState ch.val ≠ drcFreqChange ∧
    s.flag F.DRC_CTL_ENABLE ch.val = false ∧
    s.flag F.DRC_TRAIN_CTL_SESSION ch.val = false) ∧
    (∃ (s : State) (who : Requester) (ch : Fin 8), s.mayWrite who (R.DRC_TRAIN_CTL.at ch.val 0) = true ∧
    bitAt (s.rd R.DRC_TRAIN_CTL ch.val) 1 = false ∧
    bitAt (s.rd R.DRC_TRAIN_CTL ch.val) 9 = false ∧
    s.drcState ch.val ≠ drcMigrating ∧
    s.drcState ch.val ≠ drcFreqChange ∧
    s.flag F.DRC_CTL_ENABLE ch.val = true ∧
    s.flag F.DRC_TRAIN_CTL_SESSION ch.val = false) ∧
    (∃ (s : State) (who : Requester) (ch : Fin 8), s.mayWrite who (R.DRC_TRAIN_CTL.at ch.val 0) = true ∧
    bitAt (s.rd R.DRC_TRAIN_CTL ch.val) 1 = false ∧
    bitAt (s.rd R.DRC_TRAIN_CTL ch.val) 9 = false ∧
    s.drcState ch.val ≠ drcMigrating ∧
    s.drcState ch.val ≠ drcFreqChange ∧
    s.flag F.DRC_CTL_ENABLE ch.val = false ∧
    s.flag F.DRC_TRAIN_CTL_SESSION ch.val = true) ∧
    (∃ (s : State) (who : Requester) (ch : Fin 8) (v : RegWord), s.mayPut who (R.DRC_TRAIN_CTL.at ch.val 0) v = true ∧
    s.flag F.DRC_TRAIN_CTL_SESSION ch.val = true ∧
    s.flag F.DRC_TRAIN_STAT_BUSY ch.val = false ∧
    bitAt v.toNat 0 = true ∧
    bitAt v.toNat 1 = true ∧
    bitAt v.toNat 9 = false ∧
    s.drcState ch.val ≠ drcFreqChange) ∧
    (∃ (s : State) (who : Requester) (ch : Fin 8) (v : RegWord), s.mayPut who (R.DRC_SWEEP.at ch.val 0) v = true ∧
    s.flag F.DRC_TRAIN_CTL_SESSION ch.val = true ∧
    s.flag F.DRC_TRAIN_STAT_BUSY ch.val = false ∧
    bitAt v.toNat 26 = true ∧
    s.drcState ch.val ≠ drcFreqChange) ∧
    (∃ (s : State) (ch : Fin 8) (idx : Nat), (s.drc ch.val).capture = some idx ∧
    (s.drc ch.val).heldDfc = none ∧
    let c := ch.val
    (s.drc c).sweep = none) ∧
    (∃ (s : State) (ch : Fin 8) (idx : Nat), (s.drc ch.val).capture = some idx ∧
    (s.drc ch.val).heldDfc = none ∧
    let c := ch.val
    ∃ i, ∃ run, (s.drc c).sweep = some (i, run) ∧
    i + 1 < Nat.max 1 (s.get F.DRC_SWEEP_COUNT c)) ∧
    (∃ (s : State) (ch : Fin 8) (idx : Nat), (s.drc ch.val).capture = some idx ∧
    (s.drc ch.val).heldDfc = none ∧
    let c := ch.val
    ∃ i, ∃ run, (s.drc c).sweep = some (i, run) ∧
    Nat.max 1 (s.get F.DRC_SWEEP_COUNT c) ≤ i + 1) ∧
    (∃ (s : State) (ch : Fin 8) (addr : Nat), s.flag F.DRC_SCRUB_EN ch.val = true ∧
    (s.drcState ch.val = drcRun ∨ s.drcState ch.val = drcMigrating) ∧
    s.region addr = .dram ∧
    dramChannel addr = ch.val) ∧
    (∃ (s : State) (ch : Fin 8) (addr : Nat), s.flag F.DRC_SCRUB_EN ch.val = true ∧
    (s.drcState ch.val = drcRun ∨ s.drcState ch.val = drcMigrating) ∧
    s.region addr = .dram ∧
    dramChannel addr = ch.val ∧
    let c := ch.val
    ∃ dev, ∃ sym, s.correctable c dev sym = true) ∧
    (∃ (s : State) (ch : Fin 8) (addr : Nat), s.flag F.DRC_SCRUB_EN ch.val = true ∧
    (s.drcState ch.val = drcRun ∨ s.drcState ch.val = drcMigrating) ∧
    s.region addr = .dram ∧
    dramChannel addr = ch.val ∧
    let c := ch.val
    s.flag F.DRC_CTL_AUTO_RETIRE c = false) ∧
    (∃ (s : State) (ch : Fin 8), s.flag F.DRC_CTL_AUTO_RETIRE ch.val = false) ∧
    (∃ (s : State) (who : Requester) (ch : Fin 8), s.mayWrite who (R.DRC_RETIRE.at ch.val 0) = true ∧
    let c := ch.val
    s.drcState c ≠ drcMigrating ∧
    s.spareReady c = true) ∧
    (∃ (s : State) (who : Requester) (ch : Fin 8), s.mayWrite who (R.DRC_RETIRE.at ch.val 0) = true ∧
    let c := ch.val
    s.drcState c ≠ drcMigrating ∧
    s.spareReady c = false) ∧
    (∃ (s : State) (who : Requester) (ch : Fin 8), s.mayWrite who (R.DRC_RETIRE.at ch.val 0) = true ∧
    let c := ch.val
    s.drcState c = drcMigrating) ∧
    (∃ (s : State) (who : Requester) (ch : Fin 8), s.mayWrite who (R.DRC_RETIRE.at ch.val 0) = true ∧
    let c := ch.val
    (s.flag F.DRC_CTL_SPARE_EN c = true ∨ s.flag F.DRC_CFG_RANKS c = false)) ∧
    (∃ (s : State) (ch : Fin 8), s.drcState ch.val = drcMigrating) ∧
    (∃ (s : State) (ch : Fin 8), s.drcState ch.val = drcMigrating) :=
  ⟨⟨S0, .host, 7, by decide +kernel⟩,
   ⟨stDramTraining1, .host, 7, by decide +kernel⟩,
   ⟨stDramTraining2, .host, 7, by decide +kernel⟩,
   ⟨stDramTraining2, .host, 7, 0x6f, by decide +kernel⟩,
   ⟨stDramTraining2, .host, 7, 0x7ffffff, by decide +kernel⟩,
   ⟨stDramTraining5, 7, 3, by decide +kernel⟩,
   ⟨stDramTraining6, 7, 3, by decide +kernel, by decide +kernel, 0, 1, by decide +kernel⟩,
   ⟨stDramTraining7, 0, 3, by decide +kernel, by decide +kernel, 0, 1, by decide +kernel⟩,
   ⟨stDramErrors0, 7, 0x100000380, by decide +kernel⟩,
   ⟨stDramErrors0, 7, 0x100000380, by decide +kernel, by decide +kernel, by decide +kernel, by decide +kernel, 3, 7, by decide +kernel⟩,
   ⟨stDramErrors2, 7, 0x100000380, by decide +kernel⟩,
   ⟨stDramErrors3, 7, by decide +kernel⟩,
   ⟨stDramErrors4, .host, 7, by decide +kernel⟩,
   ⟨stDramErrors5, .host, 7, by decide +kernel⟩,
   ⟨stDramErrors6, .host, 7, by decide +kernel⟩,
   ⟨stDramErrors6, .host, 7, by decide +kernel⟩,
   ⟨stDramErrors6, 7, by decide +kernel⟩,
   ⟨stDramErrors6, 7, by decide +kernel⟩⟩
end Sys2Proof.Tests.P10

namespace Sys2Proof.Tests.P11

open Sys2Proof Sys2Proof.Machine Sys2Proof.Tests

def tl : TrwList := ⟨0x080A0000 - 128, 3, true, 9, 1, 7, none⟩
def listS (st : Option Nat) (i n : Nat) : TrwList := ⟨0x080A0000, n, true, 9, i, 7, st⟩
def doneS (st : Option Nat) (i n en p : Nat) : State := { (mkRing 8191 0x08100000 4 2 18 4 p 0 S0 |>.set F.TRW_DONE_EN en |>.set F.TRW_DONE_RING 8191) with trowel := { list := some (listS st i n) } }
def strt (n : Nat) : State := (mkRing 8191 0x08100000 4 1 4 18 1 0 (words 0x08100000 [0x080A0000, n * 65536 * 0, n + 65536, 77] S0)).set F.TRW_CTL_ENABLE 1 |>.set F.TRW_RING_EN 1 |>.set F.TRW_RING_RING 8191
def zdesc (op wrap fl src sl dl dst st : Nat) : List Nat := [op + wrap*4 + fl*16, 0, src, 0, sl, dl, dst, 0, st, 0]
def zip1 (op wrap fl : Nat) (e : Nat) : State := (mkRing 8191 0x08100000 4 1 4 18 1 0 (words 0x08100000 [0x080A0000, 77*65536] (words 0x080A0000 (zdesc op wrap fl 0x080B0000 20 600 0x080C0000 0x080D0000) (bytesAt 0x080B0000 [1,5,0,250,255,1,2,3,4,5] S0)))).set F.ZIP_CTL_ENABLE 1 e |>.set F.ZIP_RING_EN 1 e |>.set F.ZIP_RING_RING 8191 e
def zj (c : Nat) (op : Bool) (code ab : Option Nat) : ZipJob := ⟨0x080A0000, none, 77, c, op, code, ab⟩
def zset (e : Nat) (j su : Option ZipJob) (s : State) : State := { s with zip := { s.zip with engines := KMap.put (fun _ => ZipEngine.reset) s.zip.engines e ⟨j, su, false⟩ } }
def ing11 : State := { ((S0.set F.ZIP_CTL_ENABLE 1 3).set F.ZIP_CTL_INGEST 1 3) with ingest := { S0.ingest with zWait := [(0x080A0000, 2), (0x080A0040, 1)] } }


def trowS : State := ((upTo 8).foldl (fun s k => s.set F.HOST_HWIN_LO_EN 1 0 k) S0).set F.HOST_STAT_LINK_UP 1 |>.set F.HOST_STAT_BME 1
def trow (b : List Nat) : State := let s := bytesAt 0x080A0000 b trowS; { s with trowel := { list := some tl } }
theorem trow_host (b : List Nat) (hr : (trow b).regs = trowS.regs) (e0 : (trow b).host.failed = false) : ∀ x, (trow b).hostOff x = false := by
  intro x
  have hk : ∀ k < 8, trowS.flag F.HOST_HWIN_LO_EN 0 k = true := by decide +kernel
  have hl : trowS.linkOff = false := by decide +kernel
  have e1 : (trow b).segOff x = trowS.segOff x := by
    unfold State.segOff State.flag State.get State.rdReg
    rw [hr]
  have e2 : (trow b).linkOff = trowS.linkOff := by
    unfold State.linkOff State.flag State.get State.rdReg
    rw [hr]
  unfold State.hostOff
  cases h : hostWin x with
  | false => rfl
  | true =>
    unfold hostWin at h
    simp only [Bool.and_eq_true, decide_eq_true_eq] at h
    rw [e1, e2, hl, e0]
    unfold State.segOff
    rw [hk (hostSeg x) (by unfold hostSeg; omega)]
    rfl

def stTrowelCommands0 : State := trow [1, 0, 0, 0, 31, 0, 15, 0, 1, 0, 1, 0, 0, 0, 0, 0, 0, 0, 0, 0, 0, 0, 0, 0, 100, 0, 240, 255, 184, 11, 40, 35, 0, 0, 0, 8, 0, 0, 0, 0, 0, 0, 0, 0, 0, 0, 0, 0, 128, 0, 0, 0, 0, 0, 0, 0, 32, 0, 16, 0, 9, 0, 0, 0, 0, 0, 0, 0, 0, 0, 0, 0, 0, 0, 0, 0, 0, 0, 0, 0, 0, 0, 0, 0, 0, 0, 0, 0, 0, 0, 0, 0, 0, 0, 0, 0, 0, 0, 0, 0, 0, 0, 0, 0, 0, 0, 0, 0, 0, 0, 0, 0, 0, 0, 0, 0, 0, 0, 0, 0, 0, 0, 0, 0, 0, 0, 0, 0]
def stTrowelCommands1 : State := trow [1, 0, 0, 0, 3, 0, 2, 0, 0, 0, 4, 0, 0, 0, 0, 0, 0, 0, 0, 0, 0, 0, 0, 0, 100, 0, 240, 255, 184, 11, 40, 35, 0, 0, 0, 8, 0, 0, 0, 0, 0, 0, 0, 0, 0, 0, 0, 0, 128, 0, 0, 0, 0, 0, 0, 0, 32, 0, 16, 0, 9, 0, 0, 0, 0, 0, 0, 0, 0, 0, 0, 0, 0, 0, 0, 0, 0, 0, 0, 0, 0, 0, 0, 0, 0, 0, 0, 0, 0, 0, 0, 0, 0, 0, 0, 0, 0, 0, 0, 0, 0, 0, 0, 0, 0, 0, 0, 0, 0, 0, 0, 0, 0, 0, 0, 0, 0, 0, 0, 0, 0, 0, 0, 0, 0, 0, 0, 0]
def stTrowelCommands2 : State := trow [2, 0, 0, 0, 0, 0, 0, 0, 32, 0, 16, 0, 0, 0, 0, 0, 32, 0, 16, 0, 0, 0, 0, 0, 100, 0, 240, 255, 184, 11, 40, 35, 0, 0, 0, 8, 0, 0, 0, 0, 0, 0, 0, 0, 0, 0, 0, 0, 128, 0, 0, 0, 0, 0, 0, 0, 32, 0, 16, 0, 9, 0, 0, 0, 0, 128, 0, 8, 0, 0, 0, 0, 0, 0, 0, 0, 0, 0, 0, 0, 128, 0, 0, 0, 0, 0, 0, 0, 32, 0, 16, 0, 9, 0, 0, 0, 0, 0, 0, 0, 0, 0, 0, 0, 0, 0, 0, 0, 0, 0, 0, 0, 0, 0, 0, 0, 0, 0, 0, 0, 0, 0, 0, 0, 0, 0, 0, 0]
def stTrowelCommands4 : State := trow [1, 0, 0, 0, 0, 0, 0, 0, 32, 0, 16, 0, 0, 0, 0, 0, 0, 0, 0, 0, 0, 0, 0, 0, 100, 0, 240, 255, 184, 11, 40, 35, 0, 0, 0, 8, 0, 0, 0, 0, 0, 0, 0, 0, 0, 0, 0, 0, 128, 0, 0, 0, 0, 0, 0, 0, 32, 0, 16, 0, 9, 0, 0, 0, 0, 0, 0, 0, 0, 0, 0, 0, 0, 0, 0, 0, 0, 0, 0, 0, 0, 0, 0, 0, 0, 0, 0, 0, 0, 0, 0, 0, 0, 0, 0, 0, 0, 0, 0, 0, 0, 0, 0, 0, 0, 0, 0, 0, 0, 0, 0, 0, 0, 0, 0, 0, 0, 0, 0, 0, 0, 0, 0, 0, 0, 0, 0, 0]
def stTrowelLists0 : State := mkRing 8191 0x100000 4 2 4 18 0 0 S0
def stTrowelLists3 : State := strt 3
def stTrowelLists4 : State := doneS (some 3) 2 3 1 5
def stZipJobs3 : State := zip1 1 2 3 3
def stZipJobs5 : State := zset 3 (some (zj 0 false none none)) none (zip1 0 0 1 3)
def stZipSuspension0 : State := zset 3 (some (zj 3 false none none)) none (zip1 0 0 1 3)
def stZipSuspension1 : State := zset 3 none (some (zj 2 false none none)) (zip1 0 0 1 2)
def stZipSuspension2 : State := zset 3 (some (zj 2 false none none)) none (zip1 0 0 1 2)
/-- States and operands that meet the hypotheses of each clause of `Obligations.TrowelCommandsAndLists`. -/
theorem witness_TrowelCommandsAndLists :
    (∃ (s : State) (l : TrwList) (a : Nat) (c : TrwCmd), s.clocksOff = false ∧
    s.trwNext = some (l, a) ∧
    c = trwCmdOf (s.rdBytes a 128) ∧
    s.poisoned a 128 = false ∧
    ∃ p, p ∈ [(Instr.trowelFill, 1), (.trowelCopy, 2), (.trowelOver, 3), (.trowelGlyph, 4), (.trowelConvert, 5), (.trowelScale, 6)] ∧
    c.op = p.2 ∧
    s.trwInUse c = false) ∧
    (∃ (s : State) (l : TrwList) (a : Nat) (c : TrwCmd), s.clocksOff = false ∧
    s.trwNext = some (l, a) ∧
    c = trwCmdOf (s.rdBytes a 128) ∧
    s.poisoned a 128 = false ∧
    ∃ code, c.check = some code ∧
    ∃ p, p ∈ [(Instr.trowelFill, 1), (.trowelCopy, 2), (.trowelOver, 3), (.trowelGlyph, 4), (.trowelConvert, 5), (.trowelScale, 6)] ∧
    c.op = p.2) ∧
    (∃ (s : State) (l : TrwList) (a : Nat) (c : TrwCmd), s.clocksOff = false ∧
    s.trwNext = some (l, a) ∧
    c = trwCmdOf (s.rdBytes a 128) ∧
    s.poisoned a 128 = false ∧
    ∃ (who : Requester) (v : RegWord), s.mayPut who (R.TRW_CTL.at 0 0) v = true ∧
    bitAt v.toNat 1 = true) ∧
    (∃ (s : State) (l : TrwList) (a : Nat) (c : TrwCmd), s.clocksOff = false ∧
    s.trwNext = some (l, a) ∧
    c = trwCmdOf (s.rdBytes a 128) ∧
    s.poisoned a 128 = false ∧
    s.poison = [] ∧
    (∀ x, s.hostOff x = false) ∧
    c.check = none ∧
    s.trwOdd c = false ∧
    s.trwInUse c = false ∧
    (∀ e ∈ c.dst.spans c.dx c.dy c.dw c.dh, plainRange e.1 e.2 = true) ∧
    ∃ p, p ∈ [(Instr.trowelFill, 1), (.trowelCopy, 2), (.trowelOver, 3), (.trowelGlyph, 4), (.trowelConvert, 5), (.trowelScale, 6)] ∧
    c.op = p.2) ∧
    (∃ (s : State) (l : TrwList) (a : Nat) (c : TrwCmd), s.clocksOff = false ∧
    s.trwNext = some (l, a) ∧
    c = trwCmdOf (s.rdBytes a 128) ∧
    s.poisoned a 128 = false ∧
    s.poison = [] ∧
    (∀ x, s.hostOff x = false) ∧
    c.check = none ∧
    s.trwOdd c = false ∧
    s.trwInUse c = false ∧
    (∀ e ∈ c.dst.spans c.dx c.dy c.dw c.dh, plainRange e.1 e.2 = true) ∧
    ∃ (who : Requester) (v : RegWord) (rows : Nat), s.mayPut who (R.TRW_CTL.at 0 0) v = true ∧
    bitAt v.toNat 1 = true ∧
    1 ≤ rows ∧
    rows < c.dh) ∧
    (∃ (s : State) (who : Requester) (done : Bool) (v : RegWord), let reg := if done then R.TRW_DONE else R.TRW_RING
    s.mayPut who (reg.at 0 0) v = true ∧
    bitAt v.toNat 13 = false) ∧
    (∃ (s : State) (who : Requester) (done : Bool) (v : RegWord), let reg := if done then R.TRW_DONE else R.TRW_RING
    s.mayPut who (reg.at 0 0) v = true ∧
    bitAt v.toNat 13 = true ∧
    s.ringFits (bitsOf v.toNat 0 13) 32 (!done) = true) ∧
    (∃ (s : State) (who : Requester) (done : Bool) (v : RegWord), let reg := if done then R.TRW_DONE else R.TRW_RING
    s.mayPut who (reg.at 0 0) v = true ∧
    bitAt v.toNat 13 = true ∧
    s.ringFits (bitsOf v.toNat 0 13) 32 (!done) = false) ∧
    (∃ (s : State) (r : Nat) (e : Nat), s.clocksOff = false ∧
    s.trowel.list = none ∧
    s.flag F.TRW_CTL_ENABLE = true ∧
    s.flag F.TRW_RING_EN = true ∧
    r = s.get F.TRW_RING_RING ∧
    s.unitCanTake r = true ∧
    e = s.ringElem r (s.ringCI r) ∧
    s.poisoned e 16 = false ∧
    s.rdN (e + 6) 2 = 0 ∧
    s.memFld (e + 8) 17 15 = 0 ∧
    s.rdN (e + 0x10) 16 = 0 ∧
    (s.memFld (e + 8) 0 16 = 0 ∨ s.unitRange (s.rdN e 6) (128 * s.memFld (e + 8) 0 16) = true)) ∧
    (∃ (s : State) (l : TrwList) (st : Nat), s.clocksOff = false ∧
    s.trowel.list = some l ∧
    s.trwStatus l = some st) :=
  ⟨⟨stTrowelCommands0, tl, 0x080A0000, trwCmdOf ((stTrowelCommands0).rdBytes 0x080A0000 128), by decide +kernel, by decide +kernel, by decide +kernel, by decide +kernel, (Instr.trowelFill, 1), by decide +kernel⟩,
   ⟨stTrowelCommands1, tl, 0x080A0000, trwCmdOf ((stTrowelCommands1).rdBytes 0x080A0000 128), by decide +kernel, by decide +kernel, by decide +kernel, by decide +kernel, 3, by decide +kernel, (.trowelFill, 1), by decide +kernel⟩,
   ⟨stTrowelCommands2, tl, 0x080A0000, trwCmdOf ((stTrowelCommands2).rdBytes 0x080A0000 128), by decide +kernel, by decide +kernel, by decide +kernel, by decide +kernel, .host, 2, by decide +kernel⟩,
   ⟨stTrowelCommands2, tl, 0x080A0000, trwCmdOf ((stTrowelCommands2).rdBytes 0x080A0000 128), by decide +kernel, by decide +kernel, by decide +kernel, by decide +kernel, by decide +kernel, fun x => trow_host _ (by decide +kernel) (by decide +kernel) x, by decide +kernel, by decide +kernel, by decide +kernel, by decide +kernel, (.trowelCopy, 2), by decide +kernel⟩,
   ⟨stTrowelCommands4, tl, 0x080A0000, trwCmdOf ((stTrowelCommands4).rdBytes 0x080A0000 128), by decide +kernel, by decide +kernel, by decide +kernel, by decide +kernel, by decide +kernel, fun x => trow_host _ (by decide +kernel) (by decide +kernel) x, by decide +kernel, by decide +kernel, by decide +kernel, by decide +kernel, .host, 2, 15, by decide +kernel⟩,
   ⟨stTrowelLists0, .host, false, 0x1fff, by decide +kernel⟩,
   ⟨stTrowelLists0, .host, false, 0x3fff, by decide +kernel⟩,
   ⟨stTrowelLists0, .host, true, 0x3fff, by decide +kernel⟩,
   ⟨stTrowelLists3, 8191, 0x08100000, by decide +kernel⟩,
   ⟨stTrowelLists4, listS (some 3) 2 3, 3, by decide +kernel⟩⟩

/-- States and operands that meet the hypotheses of each clause of `Obligations.ZipJobsAndSuspension`. -/
theorem witness_ZipJobsAndSuspension :
    (∃ (s : State) (who : Requester) (e : Fin 4) (done : Bool) (v : RegWord), let reg := if done then R.ZIP_DONE else R.ZIP_RING
    s.mayPut who (reg.at e.val 0) v = true ∧
    bitAt v.toNat 13 = false) ∧
    (∃ (s : State) (who : Requester) (e : Fin 4) (done : Bool) (v : RegWord), let reg := if done then R.ZIP_DONE else R.ZIP_RING
    let fits := s.ringFits (bitsOf v.toNat 0 13) (if done then 32 else 16) (!done)
    s.mayPut who (reg.at e.val 0) v = true ∧
    bitAt v.toNat 13 = true ∧
    fits = true) ∧
    (∃ (s : State) (who : Requester) (e : Fin 4) (done : Bool) (v : RegWord), let reg := if done then R.ZIP_DONE else R.ZIP_RING
    let fits := s.ringFits (bitsOf v.toNat 0 13) (if done then 32 else 16) (!done)
    s.mayPut who (reg.at e.val 0) v = true ∧
    bitAt v.toNat 13 = true ∧
    fits = false) ∧
    (∃ (s : State) (e : Fin 4) (cls : Nat), s.clocksOff = false ∧
    (s.zipEng e.val).job = none ∧
    s.zipPick e.val = some (false, cls)) ∧
    (∃ (s : State) (e : Fin 4) (cls : Nat) (w : Nat × Nat), s.clocksOff = false ∧
    (s.zipEng e.val).job = none ∧
    s.zipPick e.val = some (true, cls) ∧
    (s.ingest.zWait.find? (fun x => x.2 == cls) = some w)) ∧
    (∃ (s : State) (e : Fin 4) (j : ZipJob), s.clocksOff = false ∧
    (s.zipEng e.val).job = some j) ∧
    (∃ (s : State) (e : Fin 4) (j : ZipJob), s.clocksOff = false ∧
    (s.zipEng e.val).job = some j ∧
    e.val ∈ s.zipFor0 ∧
    (∀ k ∈ s.zipFor0, ∃ x, (s.zipEng k).job = some x ∧ x.cls ≤ j.cls) ∧
    1 ≤ j.cls ∧
    (s.zipEng e.val).susp = none) ∧
    (∃ (s : State) (e : Fin 4) (j : ZipJob), s.clocksOff = false ∧
    (s.zipEng e.val).job = none ∧
    (s.zipEng e.val).susp = some j ∧
    s.zipPick e.val = none) ∧
    (∃ (s : State) (who : Requester) (e : Fin 4) (v : RegWord) (j : ZipJob), s.mayPut who (R.ZIP_CTL.at e.val 0) v = true ∧
    (s.zipEng e.val).job = some j ∧
    bitAt v.toNat 1 = true ∧
    j.entry = none ∧
    j.abort = none) :=
  ⟨⟨stTrowelLists0, .host, 3, false, 0x1fff, by decide +kernel⟩,
   ⟨stTrowelLists0, .host, 3, false, 0x3fff, by decide +kernel⟩,
   ⟨stTrowelLists0, .host, 3, true, 0x3fff, by decide +kernel⟩,
   ⟨stZipJobs3, 3, 0, by decide +kernel⟩,
   ⟨ing11, 3, 1, (0x080A0040, 1), by decide +kernel⟩,
   ⟨stZipJobs5, 3, zj 0 false none none, by decide +kernel⟩,
   ⟨stZipSuspension0, 3, zj 3 false none none, by decide +kernel⟩,
   ⟨stZipSuspension1, 3, zj 2 false none none, by decide +kernel⟩,
   ⟨stZipSuspension2, .host, 3, 7, zj 2 false none none, by decide +kernel⟩⟩
end Sys2Proof.Tests.P11

namespace Sys2Proof.Tests.P12

open Sys2Proof Sys2Proof.Machine Sys2Proof.Tests

def cport (p : Nat) (f : CamPort → CamPort) (s : State) : State := { s with cam := { s.cam with ports := KMap.put (fun _ => CamPort.reset) s.cam.ports p (f (s.camPort p)) } }
def cpipe (p : Nat) (f : CamPipe → CamPipe) (s : State) : State := { s with cam := { s.cam with pipes := KMap.put (fun _ => CamPipe.reset) s.cam.pipes p (f (s.camPipe p)) } }
def csz (w h : Nat) (p : Nat) (s : State) : State := (s.set F.CAM_P_SIZE_WIDTH w p).set F.CAM_P_SIZE_HEIGHT h p |>.wr R.CAM_P_RAW_LO 0x08200000 p |>.wr R.CAM_P_RAW_STRIDE 0x8000 p |>.set F.CAM_P_RAW_HI_SLOTS 3 p
def fr0 (n : Nat) (ls : List (List Nat)) (dr : Bool) (e : Bool) : CamFrame := ⟨n, 5, 0, 3, 0, 0, ls, 1, dr, e, false⟩
def cp (p route : Nat) (cap : Option CamFrame) (wait : List CamFrame) (used : Nat) : State := cport p (fun c => { c with dt := 0, vc := 3, route := route, w := 4, h := 2, cap := cap, wait := wait, used := used }) (csz 64 64 p S0) |>.set F.CAM_P_CTL_EN 1 p
def pk (vc dt : Nat) (e : Fin 3) (n : Nat) : CamPacket := ⟨vc, dt, e, true, false, (List.range n).map (BitVec.ofNat 8)⟩
def jb (port cfg scfg : Nat) (tnr : Bool) (ab : Option Nat) (w h : Nat) : CamJob := ⟨port, 8191, fr0 9 [[1,2,3,4],[5,6,7,8]] false true, w, h, 0x08200000, 2, 0x08300000, cfg, 64, 64, 0x1000, 0x08400000, scfg, CamSet.reset, 4, false, tnr, 0x08500000, ab⟩
def pst (k : Nat) (j : CamJob) (en : Nat) : State := cpipe k (fun c => { c with jobs := [j, j] }) (mkRing 8191 0x08100000 4 2 18 4 5 3 S0 |>.set F.CAM_K_OUT_RING_EN en k |>.set F.CAM_K_OUT_RING_RING 8191 k |>.set F.CAM_K_CTL_EN 1 k)
def wt : CamWait := ⟨1, 7, 9, CamSet.reset, (0, 0, 0)⟩
def tk (en pi sl : Nat) : State := cport 3 (fun c => { c with wait := [fr0 2 [] false true, fr0 3 [] false true], used := 3, w := 4, h := 2 }) (mkRing 8191 0x08100000 4 2 18 4 pi 3 (csz 64 64 3 S0) |>.set F.CAM_K_OUT_RING_EN en 1 |>.set F.CAM_K_OUT_RING_RING 8191 1 |>.set F.CAM_K_CTL_EN 1 1 |>.set F.CAM_K_OUT_CFG_SLOTS_M1 sl 1)

def jbU : CamJob := { jb 1 9 0 false (some 2) 4 2 with frame := fr0 9 [] false false }


theorem only_port {s : State} {f : CamFrame} {p : Fin 4} {rest : List CamFrame} (hp : (s.camPort p.val).wait = f :: rest)
    (hq : ∀ q : Fin 4, q ≠ p → (s.camPort q.val).wait = []) :
    ∀ (q : Fin 4) (g : CamFrame) (l : List CamFrame), (s.camPort q.val).wait = g :: l → f.sof < g.sof ∨ (f.sof = g.sof ∧ p ≤ q) := by
  intro q g l h
  by_cases e : q = p
  · subst e
    rw [hp] at h
    injection h with h _
    subst h
    exact Or.inr ⟨rfl, Nat.le_refl _⟩
  · rw [hq q e] at h
    cases h

def stCameraCapture0 : State := (csz 64 64 3 S0).set F.CAM_P_CTL_ROUTE 1 1
def stCameraCapture2 : State := csz 63 64 3 S0
def stCameraCapture4 : State := cp 3 2 none [] 5
def stCameraCapture5 : State := cp 3 1 none [] 5
def stCameraCapture7 : State := cp 3 2 none [] 7
def stCameraCapture8 : State := cp 3 2 (fr0 1 [[1,2,3,4],[1,2,3,4]] false false) [] 2
def stCameraCapture10 : State := cp 3 2 (fr0 1 [[1,2,3,4]] true false) [] 2
def stCameraPipes0 : State := cport 3 (fun c => { c with setq := [(0,5),(3,6)] }) (S0.set F.CAM_P_DELAY_N 3 3)
def stCameraPipes1 : State := cport 3 (fun c => { c with setq := List.replicate 8 (9,9) }) (S0.set F.CAM_P_DELAY_N 3 3)
def stCameraPipes2 : State := S0.set F.CAM_K_APPLY_BUSY 0 1
def stCameraPipes3 : State := S0.set F.CAM_K_APPLY_BUSY 1 1
def stCameraPipes4 : State := cpipe 1 (fun c => { c with reading := some wt, wait := [(1, some wt)] }) S0
def stCameraPipes5 : State := tk 1 5 2
def stCameraPipes6 : State := tk 1 4 0
def stCameraPipes7 : State := { (pst 0 jbU 1) with cam := (cport 1 (fun c => { c with cap := some (fr0 9 [[1,2,3,4]] false false) }) (pst 0 jbU 1)).cam }
def stCameraPipes8 : State := pst 1 (jb 1 10 15 false none 4 2) 1
/-- States and operands that meet the hypotheses of each clause of `Obligations.CameraCaptureAndPipes`. -/
theorem witness_CameraCaptureAndPipes :
    (∃ (s : State) (who : Requester) (p : Fin 4) (v : RegWord), s.mayPut who (R.CAM_P_CTL.at p.val 0) v = true ∧
    let route := bitsOf v.toNat 9 2
    (route = 1 → ∀ q : Fin 4, q ≠ p → s.holdsA q.val = false) ∧
    bitAt v.toNat 0 = true ∧
    s.flag F.CAM_P_CTL_EN p.val = false ∧
    s.camSizeOk p.val route = true) ∧
    (∃ (s : State) (who : Requester) (p : Fin 4) (v : RegWord), s.mayPut who (R.CAM_P_CTL.at p.val 0) v = true ∧
    let route := bitsOf v.toNat 9 2
    (route = 1 → ∀ q : Fin 4, q ≠ p → s.holdsA q.val = false) ∧
    bitAt v.toNat 0 = true ∧
    s.flag F.CAM_P_CTL_EN p.val = false ∧
    s.camSizeOk p.val route = false) ∧
    (∃ (s : State) (who : Requester) (p : Fin 4) (v : RegWord), s.mayPut who (R.CAM_P_CTL.at p.val 0) v = true ∧
    let route := bitsOf v.toNat 9 2
    route = 1 ∧
    s.holdsA p.val = false ∧
    bitsOf v.toNat 0 1 = s.get F.CAM_P_CTL_EN p.val ∧
    (∀ q : Fin 4, q ≠ p → s.holdsA q.val = false)) ∧
    (∃ (s : State) (who : Requester) (p : Fin 4) (v : RegWord), s.mayPut who (R.CAM_P_CTL.at p.val 0) v = true ∧
    let route := bitsOf v.toNat 9 2
    route = 1 ∧
    s.holdsA p.val = false ∧
    bitsOf v.toNat 0 1 = s.get F.CAM_P_CTL_EN p.val ∧
    ∃ (q : Fin 4), q ≠ p ∧
    s.holdsA q.val = true ∧
    (∀ k : Fin 4, k < q → k ≠ p → s.holdsA k.val = false)) ∧
    (∃ (s : State) (p : Fin 4) (vc : Nat), s.flag F.CAM_P_CTL_EN p.val = true ∧
    let c := s.camPort p.val
    vc ≠ c.vc) ∧
    (∃ (s : State) (p : Fin 4) (vc : Nat), s.flag F.CAM_P_CTL_EN p.val = true ∧
    let c := s.camPort p.val
    vc = c.vc ∧
    c.cap = none ∧
    c.route ≠ 2) ∧
    (∃ (s : State) (p : Fin 4) (vc : Nat), s.flag F.CAM_P_CTL_EN p.val = true ∧
    let c := s.camPort p.val
    vc = c.vc ∧
    c.cap = none ∧
    c.route = 2 ∧
    ∃ i, i < s.get F.CAM_P_RAW_HI_SLOTS p.val ∧
    bitAt c.used i = false ∧
    (∀ j < i, bitAt c.used j = true)) ∧
    (∃ (s : State) (p : Fin 4) (vc : Nat), s.flag F.CAM_P_CTL_EN p.val = true ∧
    let c := s.camPort p.val
    vc = c.vc ∧
    c.cap = none ∧
    c.route = 2 ∧
    (∀ i < s.get F.CAM_P_RAW_HI_SLOTS p.val, bitAt c.used i = true)) ∧
    (∃ (s : State) (p : Fin 4) (pkt : CamPacket), s.flag F.CAM_P_CTL_EN p.val = true ∧
    pkt.ecc = 2) ∧
    (∃ (s : State) (p : Fin 4) (pkt : CamPacket), s.flag F.CAM_P_CTL_EN p.val = true ∧
    let c := s.camPort p.val
    pkt.ecc = 0 ∧
    (pkt.vc ≠ c.vc ∨ (pkt.dt ≠ 0x2A + c.dt ∧ pkt.dt ≠ 0x12 ∧ (0x10 ≤ pkt.dt ∨ (4 ≤ pkt.dt ∧ pkt.dt < 8))))) ∧
    (∃ (s : State) (p : Fin 4) (pkt : CamPacket), s.flag F.CAM_P_CTL_EN p.val = true ∧
    let c := s.camPort p.val
    ∃ f, pkt.ecc = 0 ∧
    pkt.vc = c.vc ∧
    pkt.dt = 0x2A + c.dt ∧
    c.cap = some f ∧
    f.lines.length < c.h ∧
    pkt.crcOk = true ∧
    (pkt.fast && c.route == 1 && c.dt == 0 && c.lanes == 2) = false ∧
    (camUnpack c.dt pkt.data).length = c.w) ∧
    (∃ (s : State) (p : Fin 4) (pkt : CamPacket), s.flag F.CAM_P_CTL_EN p.val = true ∧
    let c := s.camPort p.val
    ∃ f, pkt.ecc = 0 ∧
    pkt.vc = c.vc ∧
    pkt.dt = 0x2A + c.dt ∧
    c.cap = some f ∧
    c.h ≤ f.lines.length) ∧
    (∃ (s : State) (p : Fin 4) (f : CamFrame), s.flag F.CAM_P_CTL_EN p.val = true ∧
    (s.camPort p.val).cap = some f) ∧
    (∃ (s : State) (who : Requester) (p : Fin 4) (v : RegWord), s.mayPut who (R.CAM_P_SETSEQ.at p.val 0) v = true ∧
    let c := s.camPort p.val
    let f := s.rd R.CAM_P_FRAME p.val
    let c' := ({ c with setq := c.setq ++ [((f + s.get F.CAM_P_DELAY_N p.val) % 2 ^ 32, bitsOf v.toNat 0 16)] } : CamPort).settle f
    c.setq.length < 8) ∧
    (∃ (s : State) (who : Requester) (p : Fin 4) (v : RegWord), s.mayPut who (R.CAM_P_SETSEQ.at p.val 0) v = true ∧
    let c := s.camPort p.val
    let f := s.rd R.CAM_P_FRAME p.val
    let c' := ({ c with setq := c.setq ++ [((f + s.get F.CAM_P_DELAY_N p.val) % 2 ^ 32, bitsOf v.toNat 0 16)] } : CamPort).settle f
    8 ≤ c.setq.length) ∧
    (∃ (s : State) (who : Requester) (k : Fin 2) (v : RegWord), s.mayPut who (R.CAM_K_APPLY.at k.val 0) v = true ∧
    bitAt v.toNat 2 = true ∧
    s.flag F.CAM_K_APPLY_BUSY k.val = false) ∧
    (∃ (s : State) (who : Requester) (k : Fin 2) (v : RegWord), s.mayPut who (R.CAM_K_APPLY.at k.val 0) v = true ∧
    bitAt v.toNat 2 = true ∧
    s.flag F.CAM_K_APPLY_BUSY k.val = true) ∧
    (∃ (s : State) (k : Fin 2) (w : CamWait), (s.camPipe k.val).reading = some w) ∧
    (∃ (s : State) (p : Fin 4) (f : CamFrame) (rest : List CamFrame), s.clocksOff = false ∧
    s.flag F.CAM_K_CTL_EN 1 = true ∧
    (s.camPipe 1).jobs = [] ∧
    (s.camPort p.val).wait = f :: rest ∧
    (∀ (q : Fin 4) (g : CamFrame) (l : List CamFrame), (s.camPort q.val).wait = g :: l → f.sof < g.sof ∨ (f.sof = g.sof ∧ p ≤ q)) ∧
    let r := s.get F.CAM_K_OUT_RING_RING 1
    let slots := s.get F.CAM_K_OUT_CFG_SLOTS_M1 1 + 1
    s.flag F.CAM_K_OUT_RING_EN 1 = true ∧
    s.ringFill r < slots) ∧
    (∃ (s : State) (p : Fin 4) (f : CamFrame) (rest : List CamFrame), s.clocksOff = false ∧
    s.flag F.CAM_K_CTL_EN 1 = true ∧
    (s.camPipe 1).jobs = [] ∧
    (s.camPort p.val).wait = f :: rest ∧
    (∀ (q : Fin 4) (g : CamFrame) (l : List CamFrame), (s.camPort q.val).wait = g :: l → f.sof < g.sof ∨ (f.sof = g.sof ∧ p ≤ q)) ∧
    let r := s.get F.CAM_K_OUT_RING_RING 1
    let slots := s.get F.CAM_K_OUT_CFG_SLOTS_M1 1 + 1
    (s.flag F.CAM_K_OUT_RING_EN 1 = false ∨ slots ≤ s.ringFill r)) ∧
    (∃ (s : State) (k : Fin 2) (j0 : CamJob) (rest : List CamJob), s.clocksOff = false ∧
    (s.camPipe k.val).jobs = j0 :: rest ∧
    (j0.frame.ended = true ∨ j0.abort.isSome = true)) ∧
    (∃ (s : State) (who : Requester) (k : Fin 2) (v : RegWord) (lines : Nat) (j : CamJob) (rest : List CamJob), s.mayPut who (R.CAM_K_CTL.at k.val 0) v = true ∧
    (s.camPipe k.val).jobs = j :: rest ∧
    bitAt v.toNat 1 = true ∧
    j.abort = none ∧
    lines < j.h) :=
  ⟨⟨stCameraCapture0, .host, 3, 0x4a1, by decide +kernel⟩,
   ⟨stCameraCapture0, .host, 0, 0x4a1, by decide +kernel⟩,
   ⟨stCameraCapture2, .host, 3, 0x2a0, by decide +kernel⟩,
   ⟨stCameraCapture0, .host, 3, 0x2a0, by decide +kernel, by decide +kernel, by decide +kernel, by decide +kernel, 1, by decide +kernel⟩,
   ⟨stCameraCapture4, 3, 4, by decide +kernel⟩,
   ⟨stCameraCapture5, 3, 3, by decide +kernel⟩,
   ⟨stCameraCapture4, 3, 3, by decide +kernel, by decide +kernel, by decide +kernel, by decide +kernel, 1, by decide +kernel⟩,
   ⟨stCameraCapture7, 3, 3, by decide +kernel⟩,
   ⟨stCameraCapture8, 3, pk 3 0x2A 2 4, by decide +kernel⟩,
   ⟨stCameraCapture8, 3, pk 4 0x2A 0 4, by decide +kernel⟩,
   ⟨stCameraCapture10, 3, pk 3 0x2A 0 4, by decide +kernel, fr0 1 [[1,2,3,4]] true false, by decide +kernel⟩,
   ⟨stCameraCapture8, 3, pk 3 0x2A 0 5, by decide +kernel, fr0 1 [[1,2,3,4],[1,2,3,4]] false false, by decide +kernel⟩,
   ⟨stCameraCapture8, 3, fr0 1 [[1,2,3,4],[1,2,3,4]] false false, by decide +kernel⟩,
   ⟨stCameraPipes0, .host, 3, 0x1234, by decide +kernel⟩,
   ⟨stCameraPipes1, .host, 3, 0x1234, by decide +kernel⟩,
   ⟨stCameraPipes2, .host, 1, 7, by decide +kernel⟩,
   ⟨stCameraPipes3, .host, 1, 7, by decide +kernel⟩,
   ⟨stCameraPipes4, 1, wt, by decide +kernel⟩,
   ⟨stCameraPipes5, 3, fr0 2 [] false true, [fr0 3 [] false true], by decide +kernel, by decide +kernel, by decide +kernel, by decide +kernel, only_port (rest := [fr0 3 [] false true]) (by decide +kernel) (by decide +kernel), by decide +kernel⟩,
   ⟨stCameraPipes6, 3, fr0 2 [] false true, [fr0 3 [] false true], by decide +kernel, by decide +kernel, by decide +kernel, by decide +kernel, only_port (rest := [fr0 3 [] false true]) (by decide +kernel) (by decide +kernel), by decide +kernel⟩,
   ⟨stCameraPipes7, 0, jbU, [jbU], by decide +kernel⟩,
   ⟨stCameraPipes8, .host, 1, 2, 1, jb 1 10 15 false none 4 2, [jb 1 10 15 false none 4 2], by decide +kernel⟩⟩
end Sys2Proof.Tests.P12

namespace Sys2Proof.Tests.P13

open Sys2Proof Sys2Proof.Machine Sys2Proof.Tests

def tileSt : State := words (tileAddr 0 0) [0,0,0, 0x40000000,0,0,0,0x40000000,0,0,0,0x40000000, 2 + 2*65536, 8000 + 8000*65536, 0, 0x80000000] (words (viewAddr 0) [3, 0, 5, 9] S0)
def lb (n v : Nat) : List Byte := (List.range n).map (fun i => BitVec.ofNat 8 (v / 256^i))
def trimBody : List Byte := (List.range 2048).map (fun i => BitVec.ofNat 8 (i * 7 % 251))
def trimRec (m : Nat) (bad : Bool) : List Byte := lb 4 0x7A1C0001 ++ lb 4 99 ++ lb 4 m ++ lb 4 (crc32c trimBody + b2n bad) ++ trimBody
def plbS (st d : Nat) (r : Nat) : State := ((S0.set F.PLB_STAT_STATE st).set F.PLB_STAT_DOMAIN d).wr R.PLB_READY r
def tload (m : Nat) (bad : Bool) (st r : Nat) : State := let s := (plbS st 0 r).wrBytes 0x08100000 (trimRec m bad); { s with holds := [(pairKey .host (R.PLB_LOAD_LO.at 0 0), 0x08100000)] }
def fidS (show_ : Nat) (ents : List Nat) (list tag : Nat) (de : Nat) : State :=
  let s := mkRing 8191 0x08110000 4 2 4 18 2 1 (words (0x08110000 + 32) [list, 0, show_, ents.length / 2 + 65536, tag] (words 0x08120000 ents (ren (fun r => { r with views := [(0, 3), (2, 5), (3, 9)] }) tileSt)))
  let s := s.set F.PLB_FID_RING_EN 1 |>.set F.PLB_FID_RING_RING 8191 |>.set F.PLB_FID_DONE_EN de
  rec { s with plumb := { s.plumb with fidPi := 2 } }


def trimL (m : Nat) : List Byte := (lb 4 m ++ lb 4 99 ++ lb 4 0 ++ lb 4 0xFFFFFFFF) ++ ([255, 255, 255, 255] ++ List.replicate 2044 0)
def trimBase : State := { plbS 2 0 0 with holds := [(pairKey .host (R.PLB_LOAD_LO.at 0 0), 0x08100000)] }
def trimS (m : Nat) : State := { trimBase with mem := (S0.wrBytes 0x08100000 (trimL m)).mem }
theorem trim_read (m : Nat) : (trimS m).rdBytes 0x08100000 2064 = trimL m := by
  have hl : (trimL m).length = 2064 := by
    unfold trimL
    simp only [List.length_append, List.length_replicate]
    rfl
  have h1 : (trimS m).rdBytes 0x08100000 2064 = (S0.wrBytes 0x08100000 (trimL m)).rdBytes 0x08100000 2064 :=
    rdBytes_withMem _ (S0.wrBytes 0x08100000 (trimL m)) _ _ (by decide)
  rw [h1, ← hl]
  exact State.rdBytes_wrBytes_same _ _ _ (by rw [hl]; decide)
theorem crc_zeros (n : Nat) : crcBytes 0x82F63B78 0 (List.replicate n 0) = 0 := by
  induction n with
  | zero => rfl
  | succ n ih => exact ih
theorem crc_append (p c : Nat) (l k : List Byte) : crcBytes p c (l ++ k) = crcBytes p (crcBytes p c l) k := List.foldl_append
theorem crc32c_of (l : List Byte) (h : crcBytes 0x82F63B78 0xFFFFFFFF l = 0) : crc32c l = 0xFFFFFFFF := by
  unfold crc32c
  rw [h]
  decide
theorem trim_crc (m : Nat) : leAt (trimL m) 12 4 = crc32c ((trimL m).drop 16) := by
  have h1 : (trimL m).drop 16 = [255, 255, 255, 255] ++ List.replicate 2044 0 := drop_pre _ _ 16 rfl
  have h2 : crcBytes 0x82F63B78 0xFFFFFFFF [255, 255, 255, 255] = 0 := by decide +kernel
  have h3 : leAt (trimL m) 12 4 = 0xFFFFFFFF := by
    unfold leAt trimL
    rw [List.append_assoc (lb 4 m ++ lb 4 99 ++ lb 4 0), drop_pre _ _ 12 rfl, take_pre _ _ 4 rfl]
    decide +kernel
  rw [h1, h3]
  exact (crc32c_of _ (by rw [crc_append, h2, crc_zeros])).symm

theorem trim_b (m : Nat) : (trimS m).rdBytes ((trimS m).held .host (R.PLB_LOAD_LO.at 0 0) % 2 ^ 32 +
    2 ^ 32 * bitsOf (0x10000 : RegWord).toNat 0 16) 2064 = trimL m := by
  rw [show (trimS m).held .host (R.PLB_LOAD_LO.at 0 0) % 2 ^ 32 + 2 ^ 32 * bitsOf (0x10000 : RegWord).toNat 0 16 = 0x08100000 from rfl]
  exact trim_read m
theorem trim_magic (m : Nat) : leAt (trimL m) 0 4 = leVal (lb 4 m) := rfl

theorem trim_magic_ne : leAt ((trimS 5).rdBytes ((trimS 5).held .host (R.PLB_LOAD_LO.at 0 0) % 2 ^ 32 +
    2 ^ 32 * bitsOf (0x10000 : RegWord).toNat 0 16) 2064) 0 4 ≠ 0x7A1C0001 := by
  rw [trim_b, trim_magic]
  decide +kernel
theorem trim_magic_eq : leAt ((trimS 0x7A1C0001).rdBytes ((trimS 0x7A1C0001).held .host (R.PLB_LOAD_LO.at 0 0) % 2 ^ 32 +
    2 ^ 32 * bitsOf (0x10000 : RegWord).toNat 0 16) 2064) 0 4 = 0x7A1C0001 := by
  rw [trim_b, trim_magic]
  decide +kernel
theorem trim_crc_eq (m : Nat) : leAt ((trimS m).rdBytes ((trimS m).held .host (R.PLB_LOAD_LO.at 0 0) % 2 ^ 32 +
    2 ^ 32 * bitsOf (0x10000 : RegWord).toNat 0 16) 2064) 12 4 =
    crc32c (((trimS m).rdBytes ((trimS m).held .host (R.PLB_LOAD_LO.at 0 0) % 2 ^ 32 +
    2 ^ 32 * bitsOf (0x10000 : RegWord).toNat 0 16) 2064).drop 16) := by
  rw [trim_b]
  exact trim_crc m

def stPlumbRuns0 : State := plbS 1 31 0 |>.wr R.PLB_PEND 5 |>.set F.PLB_BAD_BAD 4294967295
def stPlumbRuns1 : State := S0.wr R.PLB_PEND 2147483648
def stPlumbRuns2 : State := tload 0 true 1 0
def stPlumbRuns6 : State := tload 0 true 0 4
def stPlumbRuns7 : State := { plbS 0 0 0 with holds := [(pairKey .host (R.PLB_LOAD_LO.at 0 0), 0x0E000000)] }
def stPlumbRuns8 : State := { trimS 5 with poison := [(0x08100000 / 64, true)] }
def stPlumbRuns9 : State := trimS 5
def stPlumbRuns10 : State := trimS 0x7A1C0001
def stPlumbRuns11 : State := fidS 3 [0,1] 0x08120004 7 1
def stPlumbRuns12 : State := fidS 1 [0,1] 0x08120004 7 0
def stPlumbRuns13 : State := fidS 2 [0,1] 0x08120004 7 0
def stPlumbRuns14 : State := fidS 2 [0,1+5*65536,1,7+9*65536] 0x08120000 7 1
/-- States and operands that meet the hypotheses of each clause of `Obligations.PlumbRuns`. -/
theorem witness_PlumbRuns :
    (∃ (s : State) (who : Requester) (v : RegWord), s.mayPut who (R.PLB_RUN.at 0 0) v = true) ∧
    (∃ (s : State) (d : Fin 32), s.get F.PLB_STAT_STATE = plbIdle ∧
    bitAt (s.rd R.PLB_PEND) d.val = true ∧
    (∀ k, k < d.val → bitAt (s.rd R.PLB_PEND) k = false)) ∧
    (∃ (s : State) (d : Nat), s.get F.PLB_STAT_STATE = plbRunning ∧
    d = s.get F.PLB_STAT_DOMAIN) ∧
    (∃ (s : State) (d : Nat), s.get F.PLB_STAT_STATE = plbRunning ∧
    d = s.get F.PLB_STAT_DOMAIN) ∧
    (∃ (s : State) (d : Nat), s.get F.PLB_STAT_STATE = plbRunning ∧
    d = s.get F.PLB_STAT_DOMAIN) ∧
    (∃ (s : State) (d : Nat), s.get F.PLB_STAT_STATE = plbRunning ∧
    d = s.get F.PLB_STAT_DOMAIN ∧
    ∃ (who : Requester) (v : RegWord), s.mayPut who (R.PLB_CTL.at 0 0) v = true ∧
    bitAt v.toNat 6 = true) ∧
    (∃ (s : State) (who : Requester) (hi : RegWord), s.mayPut who (R.PLB_LOAD_HI.at 0 0) hi = true ∧
    bitAt hi.toNat 16 = true ∧
    (s.get F.PLB_STAT_STATE = plbRunning ∨ s.rd R.PLB_READY ≠ 0)) ∧
    (∃ (s : State) (who : Requester) (hi : RegWord), s.mayPut who (R.PLB_LOAD_HI.at 0 0) hi = true ∧
    bitAt hi.toNat 16 = true ∧
    let a := s.held who (R.PLB_LOAD_LO.at 0 0) % 2 ^ 32 + 2 ^ 32 * bitsOf hi.toNat 0 16
    s.get F.PLB_STAT_STATE ≠ plbRunning ∧
    s.rd R.PLB_READY = 0 ∧
    s.unitRange a 2064 = false) ∧
    (∃ (s : State) (who : Requester) (hi : RegWord), s.mayPut who (R.PLB_LOAD_HI.at 0 0) hi = true ∧
    bitAt hi.toNat 16 = true ∧
    let a := s.held who (R.PLB_LOAD_LO.at 0 0) % 2 ^ 32 + 2 ^ 32 * bitsOf hi.toNat 0 16
    s.get F.PLB_STAT_STATE ≠ plbRunning ∧
    s.rd R.PLB_READY = 0 ∧
    s.unitRange a 2064 = true ∧
    s.poisoned a 2064 = true) ∧
    (∃ (s : State) (who : Requester) (hi : RegWord), s.mayPut who (R.PLB_LOAD_HI.at 0 0) hi = true ∧
    bitAt hi.toNat 16 = true ∧
    let a := s.held who (R.PLB_LOAD_LO.at 0 0) % 2 ^ 32 + 2 ^ 32 * bitsOf hi.toNat 0 16
    let b := s.rdBytes a 2064
    s.get F.PLB_STAT_STATE ≠ plbRunning ∧
    s.rd R.PLB_READY = 0 ∧
    s.unitRange a 2064 = true ∧
    (leAt b 0 4 ≠ 0x7A1C0001 ∨ leAt b 12 4 ≠ crc32c (b.drop 16)) ∧
    s.poisoned a 2064 = false) ∧
    (∃ (s : State) (who : Requester) (hi : RegWord), s.mayPut who (R.PLB_LOAD_HI.at 0 0) hi = true ∧
    bitAt hi.toNat 16 = true ∧
    let a := s.held who (R.PLB_LOAD_LO.at 0 0) % 2 ^ 32 + 2 ^ 32 * bitsOf hi.toNat 0 16
    let b := s.rdBytes a 2064
    s.get F.PLB_STAT_STATE ≠ plbRunning ∧
    s.rd R.PLB_READY = 0 ∧
    s.unitRange a 2064 = true ∧
    leAt b 0 4 = 0x7A1C0001 ∧
    leAt b 12 4 = crc32c (b.drop 16) ∧
    s.poisoned a 2064 = false) ∧
    (∃ (s : State) (r : Nat) (e : Nat) (showTime : Nat), r = s.get F.PLB_FID_RING_RING ∧
    s.stroke.recovery = true ∧
    s.plumb.fidDone = false ∧
    s.flag F.PLB_FID_RING_EN = true ∧
    s.unitCanTake r = true ∧
    s.plumb.fidPi ≠ s.ringCI r ∧
    e = s.ringElem r (s.ringCI r) ∧
    showTime = extendStroke s.strokeNum (s.rd32 (e + 8)) ∧
    s.strokeNum + 2 < showTime) ∧
    (∃ (s : State) (r : Nat) (e : Nat) (showTime : Nat), r = s.get F.PLB_FID_RING_RING ∧
    s.stroke.recovery = true ∧
    s.plumb.fidDone = false ∧
    s.flag F.PLB_FID_RING_EN = true ∧
    s.unitCanTake r = true ∧
    s.plumb.fidPi ≠ s.ringCI r ∧
    e = s.ringElem r (s.ringCI r) ∧
    showTime = extendStroke s.strokeNum (s.rd32 (e + 8)) ∧
    s.flag F.PLB_FID_DONE_EN = false ∧
    showTime < s.strokeNum + 2) ∧
    (∃ (s : State) (r : Nat) (e : Nat) (showTime : Nat), r = s.get F.PLB_FID_RING_RING ∧
    s.stroke.recovery = true ∧
    s.plumb.fidDone = false ∧
    s.flag F.PLB_FID_RING_EN = true ∧
    s.unitCanTake r = true ∧
    s.plumb.fidPi ≠ s.ringCI r ∧
    e = s.ringElem r (s.ringCI r) ∧
    showTime = extendStroke s.strokeNum (s.rd32 (e + 8)) ∧
    let list := s.rdN e 6
    let count := bitsOf (s.rd32 (e + 0xC)) 0 15
    let rsvd := s.rdN (e + 6) 2 ≠ 0 ∨ bitAt (s.rd32 (e + 0xC)) 15 = true ∨ bitsOf (s.rd32 (e + 0xC)) 18 14 ≠ 0 ∨ s.rdN (e + 0x14) 12 ≠ 0
    s.flag F.PLB_FID_DONE_EN = false ∧
    showTime = s.strokeNum + 2 ∧
    (rsvd ∨ count = 0 ∨ 16384 < count ∨ list % 8 ≠ 0)) ∧
    (∃ (s : State) (r : Nat) (e : Nat) (showTime : Nat), r = s.get F.PLB_FID_RING_RING ∧
    s.stroke.recovery = true ∧
    s.plumb.fidDone = false ∧
    s.flag F.PLB_FID_RING_EN = true ∧
    s.unitCanTake r = true ∧
    s.plumb.fidPi ≠ s.ringCI r ∧
    e = s.ringElem r (s.ringCI r) ∧
    showTime = extendStroke s.strokeNum (s.rd32 (e + 8)) ∧
    let list := s.rdN e 6
    let count := bitsOf (s.rd32 (e + 0xC)) 0 15
    let rsvd := s.rdN (e + 6) 2 ≠ 0 ∨ bitAt (s.rd32 (e + 0xC)) 15 = true ∨ bitsOf (s.rd32 (e + 0xC)) 18 14 ≠ 0 ∨ s.rdN (e + 0x14) 12 ≠ 0
    showTime = s.strokeNum + 2 ∧
    (¬rsvd) ∧
    1 ≤ count ∧
    count ≤ 16384 ∧
    list % 8 = 0 ∧
    s.unitRange list (8 * count) = true ∧
    (∀ k < count, bitsOf (s.rdN (list + 8 * k) 8) 29 3 = 0 ∧ bitsOf (s.rdN (list + 8 * k) 8) 35 13 = 0) ∧
    badEntry s.bankNext.2 (s.tiles s.bankNext.1) (!bitAt (s.rd32 (e + 0xC)) 16) ((upTo count).map (s.fidEntry list)) 0 none = none ∧
    (∀ k < count, s.poisoned (list + 8 * k) 8 = false)) :=
  ⟨⟨stPlumbRuns0, .host, 0, by decide +kernel⟩,
   ⟨stPlumbRuns1, 31, by decide +kernel⟩,
   ⟨stPlumbRuns2, 0, by decide +kernel⟩,
   ⟨stPlumbRuns2, 0, by decide +kernel⟩,
   ⟨stPlumbRuns2, 0, by decide +kernel⟩,
   ⟨stPlumbRuns0, 31, by decide +kernel, by decide +kernel, .host, 0x41, by decide +kernel⟩,
   ⟨stPlumbRuns6, .host, 0x30000, by decide +kernel⟩,
   ⟨stPlumbRuns7, .host, 0x10000, by decide +kernel⟩,
   ⟨stPlumbRuns8, .host, 0x10000, by decide +kernel⟩,
   ⟨stPlumbRuns9, .host, 0x10000, by decide +kernel, by decide +kernel, by decide +kernel, by decide +kernel, by decide +kernel, Or.inl trim_magic_ne, by decide +kernel⟩,
   ⟨stPlumbRuns10, .host, 0x10000, by decide +kernel, by decide +kernel, by decide +kernel, by decide +kernel, by decide +kernel, trim_magic_eq, trim_crc_eq 0x7A1C0001, by decide +kernel⟩,
   ⟨stPlumbRuns11, 8191, (0x08110000+32), 3, by decide +kernel⟩,
   ⟨stPlumbRuns12, 8191, (0x08110000+32), 1, by decide +kernel⟩,
   ⟨stPlumbRuns13, 8191, (0x08110000+32), 2, by decide +kernel⟩,
   ⟨stPlumbRuns14, 8191, (0x08110000+32), 2, by decide +kernel⟩⟩
end Sys2Proof.Tests.P13

namespace Sys2Proof.Tests.P14

open Sys2Proof Sys2Proof.Machine Sys2Proof.Tests

def ra0 : List Nat := [1073741824,1073741828,1073741832,1073741836,1073741840,1073741844,1073741848,1073741852,1073741856,1073741860,1073741864,1073741884,1073741888,1073742012,1073742016,1073742020,1073742024,1073742028,1073742032,1073742036,1073742040,1073742044,1073742048,1073742052,1073742056,1073742060,1073742064,1073742068,1073742072,1073742076,1073742080,1073742084,1073742088,1073742092,1073742096,1073742100,1073742104,1073742108,1073742112,1073742124,1073742128,1073742132,1073742136,1073742140,1073807360,1073807364,1073807368,1073807372,1073807376,1073807380,1073807384,1073807388,1073807392,1073807396,1073807400,1073807404,1073807408,1073807412,1073807416,1073807420,1073807424,1073807428,1073807432,1073807604,1073807608,1073807612,1073807616,1073807620,1073807624,1073807628,1073807632,1073807636,1073807640,1073807644,1073807648,1073807652,1073807656,1073807660,1073807664,1073807668,1073807672,1073807676,1073807680,1073807684,1073807688,1073807692,1073807696,1073807700,1073807704,1073807708,1073807712,1073807716,1073807720,1073807724,1073807728,1073807732,1073807736,1073807740,1073807744,1073807748]
def ra1 : List Nat := [1073807752,1073807756,1073807760,1073807764,1073807768,1073807772,1073807776,1073807780,1073807784,1073807828,1073807832,1073807836,1073807840,1073807844,1073807848,1073807852,1073807856,1073807860,1073807864,1073807868,1073807872,1073807876,1073807928,1073807932,1073872896,1073872900,1073872904,1073872908,1073872912,1073872916,1073872920,1073872924,1073872928,1073872932,1073872936,1073872940,1073872944,1073872948,1073872952,1073872956,1073872960,1073872964,1073872968,1073872972,1073872976,1073872980,1073872984,1073872988,1073872992,1073873020,1073873024,1073873068,1073873072,1073873076,1073873080,1073873084,1073873088,1073873092,1073873096,1073938432,1073938436,1073938440,1073938444,1073938448,1073938452,1073938456,1073938460,1073938464,1073938468,1073938472,1073938476,1073938480,1073938484,1073938488,1073938492,1073938496,1073938500,1073938504,1073938508,1073938512,1073938516,1073938520,1073938524,1073938528,1073938556,1073938560,1073938812,1073938816,1073938876,1074003968,1074003972,1074003976,1074003980,1074003984,1074003988,1074003992,1074003996,1074004000,1074004004,1074004008]
def ra2 : List Nat := [1074004012,1074004016,1074004020,1074004024,1074004028,1074004032,1074004156,1074004160,1074004164,1074004168,1074004172,1074004176,1074004180,1074004184,1074004188,1074069504,1074069508,1074069512,1074069516,1074069520,1074069524,1074069528,1074069532,1074135040,1074135044,1074135048,1074135052,1074135056,1074135060,1074135064,1074135068,1074135072,1074135076,1074135080,1074135084,1074135088,1074135092,1074135096,1074135100,1074135128,1074135132,1074135136,1074135156,1074135160,1074135164,1074135168,1074135172,1074135176,1074200576,1074200580,1074200584,1074200588,1074200592,1074200596,1074200600,1074200604,1074200608,1074200612,1074200616,1074200620,1074200624,1074200628,1074200632,1074200636,1074200640,1074200644,1074200648,1074266112,1074266116,1074266120,1074266124,1074266128,1074266132,1074266144,1074266148,1074266152,1074266156,1074266160,1074266164,1074266168,1074266172,1074266176,1074266180,1074266184,1074266188,1074266192,1074266196,1074266440,1074266444,1074266448,1074266452,1074266456,1074266460,1074528256,1074528260,1074528264,1074528268,1074528272,1074528276,1074528280]
def ra3 : List Nat := [1074528284,1074528288,1074528320,1074528324,1074528376,1074528380,1074528384,1074528444,1074528448,1074528452,1074528456,1074593792,1074593796,1074593800,1074593804,1074593808,1074593812,1074593816,1074593820,1074593824,1074593828,1074593848,1074593852,1074593856,1074593980,1074593984,1074593988,1074593992,1074593996,1074594000,1074594004,1074594008,1074594012,1074594016,1074594060,1074594064,1074594068,1074594072,1074594076,1074594080,1074594108,1074594112,1074594116,1074594168,1074594172,1074659328,1074659332,1074659336,1074659340,1074659344,1074659348,1074659352,1074659356,1074659360,1074659364,1074659368,1074659372,1074659376,1074659380,1074659384,1074659388,1074724864,1074724868,1074724872,1074724876,1074724880,1074724884,1074724888,1074724892,1074724896,1074724900,1074724904,1074724908,1074724912,1074724916,1074724920,1074724924,1074790400,1074790404,1074790408,1074790412,1074790416,1074790420,1074790424,1074790428,1074790432,1074790436,1074790488,1074790492,1074790496,1074790500,1074790504,1074790508,1074790512,1074790516,1074790520,1074790524,1075838976,1075838980,1075838984]
def ra4 : List Nat := [1075838988,1075838992,1075838996,1075839000,1075839004,1075839008,1075839012,1075839016,1075839020,1075839024,1075839028,1075839032,1075839036,1075839040,1075839044,1075839048,1075839052,1075839056,1075839060,1075839064,1075839068,1075843072,1075843076,1075843080,1075843084,1075843088,1075843092,1075843096,1075843100,1075843104,1075843108,1075843112,1075843116,1076887552,1076887556,1076887560,1076887564,1076887568,1076887572,1076887576,1076887580,1076887584,1076887588,1076887592,1076887596,1076887600,1076887604,1076887608,1076887612,1076887808,1076887812,1076887816,1076887820,1076887824,1076887828,1076887832,1076887836,1076887840,1076887844,1076887848,1076887852,1076887856,1076887860,1076887864,1076887868,1076887872,1076887876,1076887880,1076887884,1076887888,1076887892,1076887896,1076887908,1076887912,1076887924,1076887928,1076887932,1076887936,1076887948,1076887952,1076887960,1076887964,1076887968,1076888000,1076888004,1076888012,1076888016,1076888020,1076888024,1076888028,1076888032,1076888036,1076888040,1076888044,1076888048,1076888052,1076888056,1076888060,1076888064,1076888068]
def ra5 : List Nat := [1076888072,1076888100,1076888104,1076888108,1076888160,1076888164,1076888168,1076888172,1076888176,1076888188,1076953088,1076953092,1076953096,1076953100,1076953104,1076953108,1076953112,1076953116,1076953120,1076953124,1076953132,1076953136,1076953140,1076953144,1077936128,1077936132,1077936136,1077936140,1077936144,1077936148,1077936152,1077936156,1077936160,1077936164,1077936168,1077936176,1077936180,1077936184,1077936188,1077936192,1077936196,1077936200,1077936204,1077936216,1077936220,1077936224,1077936228,1077936232,1077936236,1077936240,1077936244,1077936248,1077936252,1077936256,1077936260,1077936264,1077936268,1077936272,1077936276,1077936280,1077936284,1077936288,1077936292,1077936296,1077936300,1077936304,1077936308,1077936312,1077936316,1077936320,1077936324,1077936328,1077936332,1077936336,1077936340,1077936344,1077936348,1080033280,1080033284,1080033288,1080033292,1080033296,1080033300,1080033304,1080033308,1080033312,1080033316,1080033320,1080033324,1080033328,1080033332,1080033336,1080033340,1080033344,1080033348,1080033352,1080033356,1080033360,1080033364,1080033368]
def ra6 : List Nat := [1080033372,1080033376,1080033380,1080033384,1080033388,1080033392,1080033396,1080033400,1080033404,1086324736,1086324740,1086324744,1086324748,1086324752,1086324756,1086324760,1086324764,1086324768,1086324772,1086324776,1086324780,1086324784,1086324788,1086324792,1086324796,1086324800,1086324804,1086324808,1086324812,1086324816,1086324820,1086324824,1086324828,1086324832,1086324836,1086324840,1086324844,1086324848,1086324852,1086324856,1086324860,1086324864,1086324868,1086324872,1086324876,1086324880,1086324884,1086324888,1086324892]
def raAll : List Nat := ra0 ++ ra1 ++ ra2 ++ ra3 ++ ra4 ++ ra5 ++ ra6
def allOnes (s : State) : State := raAll.foldl (fun s a => s.wrReg a (BitVec.ofNat 32 (0xFFFFFFFF &&& (a * 2654435761 % 2^32 ||| 1)))) s
def stir : State := let s := bytesAt 0x08100000 [1,2,3] (bytesAt 0x31000010 [7,8] (bytesAt 0x0DA80010 [4,4] (allOnes S0)))
  let s := { s with board := { s.board with resetLow := true } }
  forN 16 (fun i s => s.setCore i { s.core i with run := .running, pc := 5, evpend := 3 }) s
def stirOk : State := (stir.set F.GLB_PWR_PWR_FAIL 0)

def stPowerAndResets8 : State := S0.set F.GLB_PWR_PWR_FAIL 1
/-- States and operands that meet the hypotheses of each clause of `Obligations.PowerAndResets`. -/
theorem witness_PowerAndResets :
    (∃ (s : State), s.board.resetLow = false) ∧
    (∃ (s : State), s.board.resetLow = true ∧
    s.flag F.GLB_PWR_PWR_FAIL = false) ∧
    (∃ (s : State) (who : Requester) (v : RegWord), s.mayPut who (R.GLB_RST_CTL.at 0 0) v = true ∧
    v.toNat % 2 ^ 16 = 0xA5A5 ∧
    who ≠ .host) ∧
    (∃ (s : State) (who : Requester) (v : RegWord), s.mayPut who (R.GLB_RST_CTL.at 0 0) v = true ∧
    (v.toNat % 2 ^ 16 ≠ 0xA5A5 ∨ who = .host)) ∧
    (∃ (s : State), s.flag F.GLB_PWR_PWR_FAIL = false) ∧
    (∃ (s : State), Registers.wf s.regs = true ∧
    s.flag F.GLB_PWR_PWR_FAIL = true) :=
  ⟨⟨S0, by decide +kernel⟩,
   ⟨stirOk, by decide +kernel⟩,
   ⟨stirOk, .core 0, 0xA5A5, by decide +kernel⟩,
   ⟨stirOk, .core 0, 0x1, by decide +kernel⟩,
   ⟨stirOk, by decide +kernel⟩,
   ⟨stPowerAndResets8, by decide +kernel⟩⟩
end Sys2Proof.Tests.P14

namespace Sys2Proof.Tests.P14B

open Sys2Proof Sys2Proof.Machine Sys2Proof.Tests

def shw (k : Nat) (r : Bool) : State := let s := S0.set F.GLB_SHOW_STATE k; if r then rec s else s
def icx (b rl : Nat) (s : State) : State := s.setI2c b (some ⟨0x50, rl⟩)

def stShowAndKiln0 : State := shw 1 false
def stShowAndKiln1 : State := shw 4 false
def stShowAndKiln2 : State := shw 2 true
def stShowAndKiln3 : State := shw 2 false
def stShowAndKiln7 : State := S0.set F.KLN_FLASH_CFG_EN 1 |>.set F.KLN_FLASH_CFG_FORMAT 1
def stShowAndKiln8 : State := S0.set F.KLN_FLASH_VALID 1
def stBoardInputs0 : State := (S0.set F.GLB_I2C_CTL_EN 1 0 1).wr R.GLB_I2C_ADDR 0x50 0 1
def stBoardInputs1 : State := icx 1 3 (S0.set F.GLB_I2C_CTL_EN 1 0 1)
def stBoardInputs2 : State := icx 1 4 S0
def stBoardInputs3 : State := S0.set F.GLB_GPIO_CFG_INV 1 0 31 |>.wr R.GLB_GPIO_IN 4294967295
def stBoardInputs6 : State := S0.set F.TRU_STAT_DBG_LEVEL 0
def stBoardInputs7 : State := S0.set F.TRU_STAT_DBG_LEVEL 1
/-- States and operands that meet the hypotheses of each clause of `Obligations.ShowAndKiln`. -/
theorem witness_ShowAndKiln :
    (∃ (s : State) (who : Requester), s.mayWrite who (R.GLB_SHOW.at 0 0) = true ∧
    s.get F.GLB_SHOW_STATE = showStandby) ∧
    (∃ (s : State) (who : Requester), s.mayWrite who (R.GLB_SHOW.at 0 0) = true ∧
    s.get F.GLB_SHOW_STATE ≠ showStandby) ∧
    (∃ (s : State) (who : Requester), s.mayWrite who (R.GLB_SHOW.at 0 0) = true ∧
    s.get F.GLB_SHOW_STATE = showShowing ∧
    s.stroke.recovery = true) ∧
    (∃ (s : State) (who : Requester), s.mayWrite who (R.GLB_SHOW.at 0 0) = true ∧
    s.get F.GLB_SHOW_STATE = showShowing ∧
    s.stroke.recovery = false) ∧
    (∃ (s : State) (who : Requester), s.mayWrite who (R.GLB_SHOW.at 0 0) = true ∧
    s.get F.GLB_SHOW_STATE ≠ showShowing) ∧
    (∃ (s : State), s.flag F.KLN_FLASH_CFG_EN = true ∧
    s.i2c 0 = none) ∧
    (∃ (s : State), s.flag F.KLN_FLASH_VALID = true) :=
  ⟨⟨stShowAndKiln0, .host, by decide +kernel⟩,
   ⟨stShowAndKiln1, .host, by decide +kernel⟩,
   ⟨stShowAndKiln2, .host, by decide +kernel⟩,
   ⟨stShowAndKiln3, .host, by decide +kernel⟩,
   ⟨stShowAndKiln1, .host, by decide +kernel⟩,
   ⟨stShowAndKiln7, by decide +kernel⟩,
   ⟨stShowAndKiln8, by decide +kernel⟩⟩

/-- States and operands that meet the hypotheses of each clause of `Obligations.BoardInputs`. -/
theorem witness_BoardInputs :
    (∃ (s : State) (who : Requester) (b : Fin 2) (v : RegWord), s.mayPut who (R.GLB_I2C_CMD.at 0 b.val) v = true ∧
    bitAt v.toNat 6 = true ∧
    s.i2c b.val = none ∧
    s.flag F.GLB_I2C_CTL_EN 0 b.val = true ∧
    bitsOf v.toNat 0 3 ≤ 4 ∧
    bitsOf v.toNat 3 3 ≤ 4 ∧
    s.get F.GLB_I2C_CTL_SPEED 0 b.val ≠ 3) ∧
    (∃ (s : State) (who : Requester) (b : Fin 2) (v : RegWord), s.mayPut who (R.GLB_I2C_CMD.at 0 b.val) v = true ∧
    bitAt v.toNat 6 = true ∧
    ((s.i2c b.val).isSome = true ∨ s.flag F.GLB_I2C_CTL_EN 0 b.val = false)) ∧
    (∃ (s : State) (b : Fin 2) (x : I2cXfer), s.i2c b.val = some x ∧
    x.rlen ≤ 4) ∧
    (∃ (s : State) (n : Fin 32) (level : Bool), let l := level != s.flag F.GLB_GPIO_CFG_INV 0 n.val
    bitAt (s.rd R.GLB_GPIO_IN) n.val = l) ∧
    (∃ (s : State) (n : Fin 32) (level : Bool), let l := level != s.flag F.GLB_GPIO_CFG_INV 0 n.val
    bitAt (s.rd R.GLB_GPIO_IN) n.val ≠ l) ∧
    (∃ (s : State), s.get F.TRU_STAT_DBG_LEVEL = 0) ∧
    (∃ (s : State), s.get F.TRU_STAT_DBG_LEVEL ≠ 0) :=
  ⟨⟨stBoardInputs0, .host, 1, 0x5c, by decide +kernel⟩,
   ⟨stBoardInputs1, .host, 1, 0x5c, by decide +kernel⟩,
   ⟨stBoardInputs2, 1, (⟨0x50, 4⟩ : I2cXfer), by decide +kernel⟩,
   ⟨stBoardInputs3, 31, false, by decide +kernel⟩,
   ⟨stBoardInputs3, 31, true, by decide +kernel⟩,
   ⟨stBoardInputs6, by decide +kernel⟩,
   ⟨stBoardInputs7, by decide +kernel⟩⟩
end Sys2Proof.Tests.P14B

namespace Sys2Proof.Tests.P15

open Sys2Proof Sys2Proof.Machine Sys2Proof.Tests

def tru (f : Trust → Trust) (s : State) : State := { s with trust := f s.trust }
def hold' (a v : Nat) (s : State) : State := { s with holds := KMap.put (fun _ => 0) s.holds (pairKey (.core 0) a) v }
def lb (n v : Nat) : List Byte := (List.range n).map (fun i => BitVec.ofNat 8 (v / 256^i))
def sign (q lim rs : Nat) : State := hold' (R.TRU_ATT_LO.at 0 0) 0x08100000 (S0.burnBytes (otpAt 0xA00) (lb 32 (2^rs - 1)) |>.set F.TRU_LMS_Q_Q q |>.set F.TRU_LMS_LIMIT_LIMIT lim)
def otp (tj : Nat) (o : Option OtpWork) (pr : Nat) (rs : Nat) : State := tru (fun t => { t with otp := o }) ((S0.burnBytes (otpAt 0xA00) (lb 32 (2^rs - 1)) |>.burnBytes (otpAt 0x180) (lb 4 pr) |>.burnBytes (otpAt 0x200) (lb 32 0xff) |>.wr R.TRU_OTP_ADDR_LO 0x08100000).set F.KLN_TJ_TJ tj)
def dbg (f l lo : Nat) (a : Nat) (ch : Bool) : State := tru (fun t => { t with chal := ch }) (hold' (R.TRU_DBG_LO.at 0 0) a (S0.set F.TRU_STAT_FAILS f |>.set F.TRU_STAT_DBG_LEVEL l |>.set F.TRU_STAT_LOCKOUT lo))
def ldg (st fa len m : Nat) (ok : Nat) (stg : Nat) : State := (S0.set F.LDG_CTL_EN 1 |>.set F.LDG_STAT_STATE st |>.set F.LDG_FADDR_ADDR fa |>.wr R.LDG_LEN len |>.wr R.LDG_MADDR_LO m).set F.KLN_FLASH_IN_RANGE ok |>.set F.KLN_STAT_STAGE stg |>.burnBytes 0x38000100 [1,2,3,4]
def lop (op cs fa len done : Nat) (pg : List Byte) : LdgOp := ⟨op, cs, fa, 0x08100000, len, done, pg⟩
def lopS (o : LdgOp) : State := let s := (ldg 1 0 0 0 1 0); { s with ledger := { s.ledger with op := some o } }
def pg (v : Nat) : List Byte := List.replicate 256 (BitVec.ofNat 8 v)
def pm (f : Perf → Perf) (s : State) : State := { s with perf := f s.perf }
def log1 : List Meas := List.replicate 3 ⟨1,2,3,4,List.replicate 48 7⟩


def lmsBody : List Byte := lb 4 4096 ++ lb 4 1
def lmsGood : List Byte := lmsBody ++ hmac384 lmsKey lmsBody
def lmsMem : State := (S0.burnBytes (otpAt 0xA00) [1]).wrBytes 0x08100000 lmsGood
def lmsBase : State := hold' (R.TRU_LMS_LO.at 0 0) 0x08100000 S0
def lmsSt : State := { lmsBase with mem := lmsMem.mem }
def lmsBad : State := { hold' (R.TRU_LMS_LO.at 0 0) 0x08100000 S0 with poison := [(0x08100000 / 64, true)] }
def lmsSeal (q rs : Nat) : State := hold' (R.TRU_LMS_LO.at 0 0) 0x08100000 (S0.burnBytes (otpAt 0xA00) (lb 32 (2 ^ rs - 1)) |>.set F.TRU_LMS_Q_Q q)
theorem lmsGood_length : lmsGood.length = 56 := by
  unfold lmsGood
  rw [List.length_append, Sig.hmac384_length]
  rfl
theorem lmsSt_read (a n : Nat) (h : a + n ≤ 0x80000000) : lmsSt.rdBytes a n = lmsMem.rdBytes a n := rdBytes_withMem _ _ a n h
theorem lms_ok : (let r := lmsSt.rdBytes 0x08100000 56
    (!lmsSt.poisoned 0x08100000 56 && hmac384 lmsKey (r.take 8) == r.drop 8 && leAt r 4 4 == lmsSt.otpResv &&
      decide ((lmsSt.otpResv - 1) * 4096 ≤ leAt r 0 4) && decide (leAt r 0 4 ≤ lmsSt.otpResv * 4096)) = true) := by
  have hg := lmsGood_length
  have hr : lmsSt.rdBytes 0x08100000 56 = lmsGood := by
    rw [lmsSt_read _ _ (by decide), lmsMem, ← hg]
    exact State.rdBytes_wrBytes_same _ _ _ (by rw [hg]; decide)
  have ho : lmsSt.rdBytes (otpAt 0xA00) 32 = 1 :: List.replicate 31 0 := by
    rw [lmsSt_read _ _ (by decide), lmsMem, State.rdBytes_wrBytes_apart _ _ _ _ _ (by rw [hg]; decide) (by decide) (Or.inr (by rw [hg]; decide))]
    decide +kernel
  have hn : lmsSt.otpResv = 1 := by
    unfold State.otpResv State.otpCount
    rw [ho]
    decide +kernel
  have ht : lmsGood.take 8 = lmsBody := take_pre _ _ 8 rfl
  have hd : lmsGood.drop 8 = hmac384 lmsKey lmsBody := drop_pre _ _ 8 rfl
  have h4 : leAt lmsGood 4 4 = 1 := (fun x => rfl : ∀ x, leAt (lmsBody ++ x) 4 4 = 1) _
  have h0 : leAt lmsGood 0 4 = 4096 := (fun x => rfl : ∀ x, leAt (lmsBody ++ x) 0 4 = 4096) _
  have hp : lmsSt.poisoned 0x08100000 56 = false := by decide +kernel
  simp only [hr, hn, ht, hd, h4, h0, hp]
  rw [beq_self_eq_true]
  decide

theorem plain_report (s : State) (h : s.trust.log = []) : plainRange 0x08100000 ((s.reportBody 0x08100000).length + 5172) = true := by
  rw [s.reportBody_length _ h]
  decide

def snapC (t : Option (Nat × Nat × Nat)) (b : Nat) : State := pm (fun p => { p with trigger := t }) (S0.set F.PERF_STAT_DUMP_BUSY b)
theorem snapC_late (t : Nat × Nat × Nat) (b : Nat) (h : S0.upNs < t.1 + 32) (a c r : Nat) (e : (snapC (some t) b).perf.trigger = some (a, c, r)) :
    (snapC (some t) b).upNs < a + 32 := by
  cases e
  exact h

def stTrustEngines0 : State := hold' (R.TRU_VFY_LO.at 0 0) 0x08100000 (tru (fun t => { t with vfy := none }) S0)
def stTrustEngines1 : State := hold' (R.TRU_VFY_LO.at 0 0) 0x08100000 (tru (fun t => { t with vfy := some (5,1,true) }) S0)
def stTrustEngines2 : State := tru (fun t => { t with vfy := some (0, 3, false), log := log1 }) S0
def stTrustEngines3 : State := tru (fun t => { t with vfy := some (0x0E000000, 3, false), log := log1 }) S0
def stTrustEngines4 : State := hold' (R.TRU_LMS_LO.at 0 0) 0x0E000000 S0
def stTrustEngines8 : State := lmsSeal 4032 1
def stTrustEngines9 : State := lmsSeal 4033 1
def stTrustEngines10 : State := tru (fun t => { t with att := some 0x08100000 }) (sign 1048576 5 256)
def stTrustEngines11 : State := hold' (R.TRU_ATT_LO.at 0 0) 0x0810003F (sign 5 6 1)
def stTrustEngines12 : State := tru (fun t => { t with att := none }) (sign 5 6 1)
def stTrustEngines13 : State := tru (fun t => { t with att := none }) (sign 1048576 5 256)
def stOtpAndDebug0 : State := otp 1000 (some .reserve) 0 1
def stOtpAndDebug1 : State := otp 1000 (none) 0 1
def stOtpAndDebug2 : State := (otp 1000 none 0 1).wr R.TRU_OTP_ADDR_LO 0x0E000000
def stOtpAndDebug3 : State := otp 30000 (none) 0 1
def stOtpAndDebug5 : State := otp 1000 (none) 0x400 1
def stOtpAndDebug7 : State := otp 1000 (none) 1024 256
def stOtpAndDebug12 : State := dbg 15 2 1 5 false
def stOtpAndDebug13 : State := otp 1000 (some (.reserve)) 0 1
def stOtpAndDebug18 : State := dbg 15 2 0 5 false
def stLedgerUnit0 : State := ldg 1 0 0 0 1 0
def stLedgerUnit1 : State := ldg 0 1073741568 256 0 1 0
def stLedgerUnit2 : State := ldg 0 65536 256 135266304 1 0
def stLedgerUnit3 : State := ldg 0 4456448 0 135266304 1 3
def stLedgerUnit6 : State := ldg 0 4456448 256 135266304 0 0
def stLedgerUnit7 : State := lopS (lop 2 0 0 4096 0 [])
def stLedgerUnit9 : State := lopS (lop 1 0 0x200 256 0 (pg 0xff))
def stLedgerUnit10 : State := lopS (lop 1 0 0x100 256 0 (pg 0xff))
def stLedgerUnit11 : State := lopS (lop 1 1 0x43ff00 512 0 (pg 7))
def stCounters1 : State := pm (fun p => { p with cfg := [(33, 261)] }) S0
def stCounters2 : State := { snapC none 1 with upNs := 7 }
def stCounters3 : State := snapC (none) 0
def stCounters4 : State := snapC (some (5, 1, 2)) 0
def stCounters5 : State := { (pm (fun p => { p with trigger := some (50,1,2), waiting := [0,175] }) S0) with upNs := 1000 }
def stCounters6 : State := pm (fun p => { p with trigger := some (50,1,2), waiting := [0,175], td := [(3,9)] }) (S0.set F.PERF_CTL_DUMP_EN 1 |>.set F.PERF_STAT_ZERO_PENDING 1 |>.wrReg (pmcCfgAddr 175) 0x107 |>.wrReg (pmcLoAddr 7) 99)
def stCounters7 : State := pm (fun p => { p with dumpBase := 0x08100000, dumpSlots := 3, shadow := [(3, 77)] }) ((S0.set F.PERF_STAT_DUMP_BUSY 1).wr R.PERF_EPOCH 5)
def stCounters8 : State := pm (fun p => { p with dumpBase := 0x0E000000, dumpSlots := 1 }) (S0.set F.PERF_STAT_DUMP_BUSY 1)
def stCounters9 : State := (pm (fun p => { p with shadow := [(239, 2^40+77)] }) (S0.wr R.PERF_EPOCH 5)).set F.PERF_SH_SEL_SEL 255
/-- States and operands that meet the hypotheses of each clause of `Obligations.TrustEngines`. -/
theorem witness_TrustEngines :
    (∃ (s : State) (who : Requester) (hi : RegWord), s.mayPut who (R.TRU_VFY_HI.at 0 0) hi = true ∧
    bitAt hi.toNat 21 = true ∧
    s.trust.vfy = none) ∧
    (∃ (s : State) (who : Requester) (hi : RegWord), s.mayPut who (R.TRU_VFY_HI.at 0 0) hi = true ∧
    bitAt hi.toNat 21 = true ∧
    s.trust.vfy.isSome = true) ∧
    (∃ (s : State) (a : Nat) (core : Nat) (record : Bool), s.trust.vfy = some (a, core, record) ∧
    s.region a ≠ .hole) ∧
    (∃ (s : State) (a : Nat) (core : Nat) (record : Bool), s.trust.vfy = some (a, core, record) ∧
    s.region a = .hole) ∧
    (∃ (s : State) (who : Requester) (addrHi : BitVec 16), s.mayWrite who (R.TRU_LMS_HI.at 0 0) = true ∧
    let a := s.held who (R.TRU_LMS_LO.at 0 0) % 2 ^ 32 + 2 ^ 32 * addrHi.toNat
    s.region a = .hole) ∧
    (∃ (s : State) (who : Requester) (addrHi : BitVec 16), s.mayWrite who (R.TRU_LMS_HI.at 0 0) = true ∧
    let a := s.held who (R.TRU_LMS_LO.at 0 0) % 2 ^ 32 + 2 ^ 32 * addrHi.toNat
    s.region a = .hole) ∧
    (∃ (s : State) (who : Requester) (addrHi : BitVec 16), s.mayWrite who (R.TRU_LMS_HI.at 0 0) = true ∧
    let a := s.held who (R.TRU_LMS_LO.at 0 0) % 2 ^ 32 + 2 ^ 32 * addrHi.toNat
    let r := s.rdBytes a 56
    let ok := !s.poisoned a 56 && hmac384 lmsKey (r.take 8) == r.drop 8 && leAt r 4 4 == s.otpResv &&
    decide ((s.otpResv - 1) * 4096 ≤ leAt r 0 4) && decide (leAt r 0 4 ≤ s.otpResv * 4096)
    s.region a ≠ .hole ∧
    ok = true) ∧
    (∃ (s : State) (who : Requester) (addrHi : BitVec 16), s.mayWrite who (R.TRU_LMS_HI.at 0 0) = true ∧
    let a := s.held who (R.TRU_LMS_LO.at 0 0) % 2 ^ 32 + 2 ^ 32 * addrHi.toNat
    let r := s.rdBytes a 56
    let ok := !s.poisoned a 56 && hmac384 lmsKey (r.take 8) == r.drop 8 && leAt r 4 4 == s.otpResv &&
    decide ((s.otpResv - 1) * 4096 ≤ leAt r 0 4) && decide (leAt r 0 4 ≤ s.otpResv * 4096)
    s.region a ≠ .hole ∧
    ok = false) ∧
    (∃ (s : State) (who : Requester) (addrHi : BitVec 16), s.mayWrite who (R.TRU_LMS_HI.at 0 0) = true ∧
    let a := s.held who (R.TRU_LMS_LO.at 0 0) % 2 ^ 32 + 2 ^ 32 * addrHi.toNat
    let q := s.get F.TRU_LMS_Q_Q + 64
    s.region a ≠ .hole ∧
    q ≤ s.otpResv * 4096 ∧
    plainRange a 56 = true) ∧
    (∃ (s : State) (who : Requester) (addrHi : BitVec 16), s.mayWrite who (R.TRU_LMS_HI.at 0 0) = true ∧
    let a := s.held who (R.TRU_LMS_LO.at 0 0) % 2 ^ 32 + 2 ^ 32 * addrHi.toNat
    let q := s.get F.TRU_LMS_Q_Q + 64
    s.region a ≠ .hole ∧
    s.otpResv * 4096 < q) ∧
    (∃ (s : State) (who : Requester) (hi : RegWord), s.mayPut who (R.TRU_ATT_HI.at 0 0) hi = true ∧
    bitAt hi.toNat 16 = true ∧
    s.trust.att.isSome = true) ∧
    (∃ (s : State) (who : Requester) (hi : RegWord), s.mayPut who (R.TRU_ATT_HI.at 0 0) hi = true ∧
    bitAt hi.toNat 16 = true ∧
    let a := s.held who (R.TRU_ATT_LO.at 0 0) % 2 ^ 32 + 2 ^ 32 * bitsOf hi.toNat 0 16
    s.trust.att = none ∧
    a % 64 ≠ 0) ∧
    (∃ (s : State) (who : Requester) (hi : RegWord), s.mayPut who (R.TRU_ATT_HI.at 0 0) hi = true ∧
    bitAt hi.toNat 16 = true ∧
    let a := s.held who (R.TRU_ATT_LO.at 0 0) % 2 ^ 32 + 2 ^ 32 * bitsOf hi.toNat 0 16
    s.trust.att = none ∧
    a % 64 = 0 ∧
    s.poisoned (a + 0x10) 32 = false ∧
    s.signWhy = 0) ∧
    (∃ (s : State) (who : Requester) (hi : RegWord), s.mayPut who (R.TRU_ATT_HI.at 0 0) hi = true ∧
    bitAt hi.toNat 16 = true ∧
    let a := s.held who (R.TRU_ATT_LO.at 0 0) % 2 ^ 32 + 2 ^ 32 * bitsOf hi.toNat 0 16
    s.trust.att = none ∧
    a % 64 = 0 ∧
    s.poisoned (a + 0x10) 32 = false ∧
    s.signWhy ≠ 0) ∧
    (∃ (s : State) (a : Nat), s.trust.att = some a ∧
    plainRange a ((s.reportBody a).length + 5172) = true) :=
  ⟨⟨stTrustEngines0, (.core 0), 0x3a0000, by decide +kernel⟩,
   ⟨stTrustEngines1, (.core 0), 0x3a0000, by decide +kernel⟩,
   ⟨stTrustEngines2, 0, 3, false, by decide +kernel⟩,
   ⟨stTrustEngines3, 0x0E000000, 3, false, by decide +kernel⟩,
   ⟨stTrustEngines4, (.core 0), 0, by decide +kernel⟩,
   ⟨stTrustEngines4, (.core 0), 0, by decide +kernel⟩,
   ⟨lmsSt, (.core 0), 0, by decide +kernel, by decide +kernel, lms_ok⟩,
   ⟨lmsBad, (.core 0), 0, by decide +kernel⟩,
   ⟨stTrustEngines8, (.core 0), 0, by decide +kernel⟩,
   ⟨stTrustEngines9, (.core 0), 0, by decide +kernel⟩,
   ⟨stTrustEngines10, (.core 0), 0x10000, by decide +kernel⟩,
   ⟨stTrustEngines11, (.core 0), 0x10000, by decide +kernel⟩,
   ⟨stTrustEngines12, (.core 0), 0x10000, by decide +kernel⟩,
   ⟨stTrustEngines13, (.core 0), 0x10000, by decide +kernel⟩,
   ⟨stTrustEngines10, 0x08100000, by decide +kernel, plain_report _ (by decide +kernel)⟩⟩

/-- States and operands that meet the hypotheses of each clause of `Obligations.OtpAndDebug`. -/
theorem witness_OtpAndDebug :
    (∃ (s : State) (who : Requester), s.mayWrite who (R.TRU_OTP_CMD.at 0 0) = true ∧
    s.trust.otp.isSome = true ∧
    ∃ (slot : Fin 8) (i : Fin 64) (v : Fin 512), ∃ c, c ∈ [Instr.otpEnrol who slot, .otpRevoke who slot, .otpRbAdvance who i v, .otpLmsReserve who]) ∧
    (∃ (s : State) (who : Requester), s.mayWrite who (R.TRU_OTP_CMD.at 0 0) = true ∧
    let a := s.rd64 R.TRU_OTP_ADDR_LO % 2 ^ 48
    s.trust.otp = none ∧
    ∃ (slot : Fin 8), s.region a ≠ .hole ∧
    slot.val = 0) ∧
    (∃ (s : State) (who : Requester), s.mayWrite who (R.TRU_OTP_CMD.at 0 0) = true ∧
    let a := s.rd64 R.TRU_OTP_ADDR_LO % 2 ^ 48
    s.trust.otp = none ∧
    ∃ (slot : Fin 8), s.region a = .hole ∧
    ∃ c, c ∈ [Instr.otpEnrol who slot, .otpRevoke who slot]) ∧
    (∃ (s : State) (who : Requester), s.mayWrite who (R.TRU_OTP_CMD.at 0 0) = true ∧
    let a := s.rd64 R.TRU_OTP_ADDR_LO % 2 ^ 48
    s.trust.otp = none ∧
    s.otpWhy ≠ 0 ∧
    ∃ (j : Fin 8) (k : Fin 8), (s.region a ≠ .hole ∧ k.val ≠ 0) ∧
    ∃ c, c ∈ [Instr.otpEnrol who j, .otpRevoke who k]) ∧
    (∃ (s : State) (who : Requester), s.mayWrite who (R.TRU_OTP_CMD.at 0 0) = true ∧
    s.trust.otp = none ∧
    s.otpWhy ≠ 0 ∧
    ∃ (i : Fin 64) (v : Fin 512), ∃ c, c ∈ [Instr.otpRbAdvance who i v, .otpLmsReserve who]) ∧
    (∃ (s : State) (who : Requester), s.mayWrite who (R.TRU_OTP_CMD.at 0 0) = true ∧
    let a := s.rd64 R.TRU_OTP_ADDR_LO % 2 ^ 48
    s.trust.otp = none ∧
    s.otpWhy = 0 ∧
    ∃ (slot : Fin 8), s.region a ≠ .hole ∧
    s.otpProg slot.val = true) ∧
    (∃ (s : State) (who : Requester), s.mayWrite who (R.TRU_OTP_CMD.at 0 0) = true ∧
    let a := s.rd64 R.TRU_OTP_ADDR_LO % 2 ^ 48
    s.trust.otp = none ∧
    s.otpWhy = 0 ∧
    ∃ (slot : Fin 8), s.region a ≠ .hole ∧
    s.otpProg slot.val = false ∧
    s.otpRecordOk a 1 slot.val = true) ∧
    (∃ (s : State) (who : Requester), s.mayWrite who (R.TRU_OTP_CMD.at 0 0) = true ∧
    let a := s.rd64 R.TRU_OTP_ADDR_LO % 2 ^ 48
    s.trust.otp = none ∧
    s.otpWhy = 0 ∧
    ∃ (slot : Fin 8), s.region a ≠ .hole ∧
    s.otpProg slot.val = false ∧
    s.otpRecordOk a 1 slot.val = false) ∧
    (∃ (s : State) (who : Requester), s.mayWrite who (R.TRU_OTP_CMD.at 0 0) = true ∧
    let a := s.rd64 R.TRU_OTP_ADDR_LO % 2 ^ 48
    s.trust.otp = none ∧
    s.otpWhy = 0 ∧
    ∃ (slot : Fin 8), s.region a ≠ .hole ∧
    slot.val ≠ 0 ∧
    s.otpRecordOk a 2 slot.val = true) ∧
    (∃ (s : State) (who : Requester), s.mayWrite who (R.TRU_OTP_CMD.at 0 0) = true ∧
    let a := s.rd64 R.TRU_OTP_ADDR_LO % 2 ^ 48
    s.trust.otp = none ∧
    s.otpWhy = 0 ∧
    ∃ (slot : Fin 8), s.region a ≠ .hole ∧
    slot.val ≠ 0 ∧
    s.otpRecordOk a 2 slot.val = false) ∧
    (∃ (s : State) (who : Requester), s.mayWrite who (R.TRU_OTP_CMD.at 0 0) = true ∧
    s.trust.otp = none ∧
    s.otpWhy = 0 ∧
    ∃ (i : Fin 64) (v : Fin 512), s.rbCounter i.val ≤ v.val ∧
    v.val ≤ 256) ∧
    (∃ (s : State) (who : Requester), s.mayWrite who (R.TRU_OTP_CMD.at 0 0) = true ∧
    s.trust.otp = none ∧
    s.otpWhy = 0 ∧
    ∃ (i : Fin 64) (v : Fin 512), (v.val < s.rbCounter i.val ∨ 256 < v.val)) ∧
    (∃ (s : State) (who : Requester), s.mayWrite who (R.TRU_OTP_CMD.at 0 0) = true ∧
    s.trust.otp = none ∧
    s.otpWhy = 0 ∧
    s.otpResv < 256) ∧
    (∃ (s : State) (w : OtpWork), s.trust.otp = some w ∧
    (match w with
    | .enrol k h => k ≤ 4 ∧ h.length ≤ 48
    | .revoke k => k ≤ 4
    | .advance i _ => i < 64
    | .reserve => True)) ∧
    (∃ (s : State) (who : Requester), s.mayWrite who (R.TRU_DBG_HI.at 0 0) = true) ∧
    (∃ (s : State) (who : Requester), s.mayWrite who (R.TRU_DBG_HI.at 0 0) = true) ∧
    (∃ (s : State) (who : Requester), s.mayWrite who (R.TRU_DBG_HI.at 0 0) = true ∧
    s.flag F.TRU_STAT_LOCKOUT = true) ∧
    (∃ (s : State) (who : Requester), s.mayWrite who (R.TRU_DBG_HI.at 0 0) = true ∧
    ∃ (addrHi : BitVec 16), let a := s.held who (R.TRU_DBG_LO.at 0 0) % 2 ^ 32 + 2 ^ 32 * addrHi.toNat
    s.flag F.TRU_STAT_LOCKOUT = false ∧
    ∃ lv, s.region a ≠ .hole ∧
    s.tokenCheck a = .inr lv) ∧
    (∃ (s : State) (who : Requester), s.mayWrite who (R.TRU_DBG_HI.at 0 0) = true ∧
    ∃ (addrHi : BitVec 16), let a := s.held who (R.TRU_DBG_LO.at 0 0) % 2 ^ 32 + 2 ^ 32 * addrHi.toNat
    s.flag F.TRU_STAT_LOCKOUT = false ∧
    ∃ why, ((if s.region a = .hole then .inl 1 else s.tokenCheck a) = .inl why)) :=
  ⟨⟨stOtpAndDebug0, (.core 0), by decide +kernel, by decide +kernel, 7, 63, 511, Instr.otpLmsReserve (.core 0), by decide +kernel⟩,
   ⟨stOtpAndDebug1, (.core 0), by decide +kernel, by decide +kernel, 0, by decide +kernel⟩,
   ⟨stOtpAndDebug2, (.core 0), by decide +kernel, by decide +kernel, 2, by decide +kernel, Instr.otpEnrol (.core 0) 2, by decide +kernel⟩,
   ⟨stOtpAndDebug3, (.core 0), by decide +kernel, by decide +kernel, by decide +kernel, 4, 4, by decide +kernel, Instr.otpEnrol (.core 0) 4, by decide +kernel⟩,
   ⟨stOtpAndDebug3, (.core 0), by decide +kernel, by decide +kernel, by decide +kernel, 63, 511, Instr.otpRbAdvance (.core 0) 63 511, by decide +kernel⟩,
   ⟨stOtpAndDebug5, (.core 0), by decide +kernel, by decide +kernel, by decide +kernel, 2, by decide +kernel⟩,
   ⟨Sig.enrolSt, (.core 0), by decide +kernel, by decide +kernel, by decide +kernel, 4, by decide +kernel, Sig.enrol_free, Sig.enrol_ok⟩,
   ⟨stOtpAndDebug7, (.core 0), by decide +kernel, by decide +kernel, by decide +kernel, 4, by decide +kernel⟩,
   ⟨Sig.revokeSt, (.core 0), by decide +kernel, by decide +kernel, by decide +kernel, 4, by decide +kernel, by decide +kernel, Sig.revoke_ok⟩,
   ⟨stOtpAndDebug7, (.core 0), by decide +kernel, by decide +kernel, by decide +kernel, 4, by decide +kernel⟩,
   ⟨stOtpAndDebug7, (.core 0), by decide +kernel, by decide +kernel, by decide +kernel, 63, 256, by decide +kernel⟩,
   ⟨stOtpAndDebug7, (.core 0), by decide +kernel, by decide +kernel, by decide +kernel, 63, 511, by decide +kernel⟩,
   ⟨stOtpAndDebug12, (.core 0), by decide +kernel⟩,
   ⟨stOtpAndDebug13, .reserve, by decide +kernel⟩,
   ⟨stOtpAndDebug12, (.core 0), by decide +kernel⟩,
   ⟨stOtpAndDebug12, (.core 0), by decide +kernel⟩,
   ⟨stOtpAndDebug12, (.core 0), by decide +kernel⟩,
   ⟨Sig.tokenSt, (.core 0), by decide +kernel, 0, by decide +kernel, 3, by decide +kernel, Sig.token_ok⟩,
   ⟨stOtpAndDebug18, (.core 0), by decide +kernel, 0, by decide +kernel, ((match (dbg 15 2 0 5 false).tokenCheck 5 with | .inl x => x | .inr y => 0) : Nat), by decide +kernel⟩⟩

/-- States and operands that meet the hypotheses of each clause of `Obligations.LedgerUnit`. -/
theorem witness_LedgerUnit :
    (∃ (s : State) (who : Requester) (cs : Fin 2), s.mayWrite who (R.LDG_CMD.at 0 0) = true ∧
    s.flag F.LDG_CTL_EN = true ∧
    ∃ p, (p ∈ [(Instr.ledgerRead who cs, 0, s.rd R.LDG_LEN, 1), (.ledgerProgram who cs, 1, s.rd R.LDG_LEN, 256), (.ledgerErase4k who cs, 2, 4096, 4096),
    (.ledgerErase64k who cs, 3, 65536, 65536)]) ∧
    s.get F.LDG_STAT_STATE ≠ ldgIdle) ∧
    (∃ (s : State) (who : Requester) (cs : Fin 2), s.mayWrite who (R.LDG_CMD.at 0 0) = true ∧
    s.flag F.LDG_CTL_EN = true ∧
    let a := s.get F.LDG_FADDR_ADDR
    let m := s.rd64 R.LDG_MADDR_LO % 2 ^ 48
    ∃ p, (p ∈ [(Instr.ledgerRead who cs, 0, s.rd R.LDG_LEN, 1), (.ledgerProgram who cs, 1, s.rd R.LDG_LEN, 256), (.ledgerErase4k who cs, 2, 4096, 4096),
    (.ledgerErase64k who cs, 3, 65536, 65536)]) ∧
    let op := p.2.1
    let n := p.2.2.1
    let unit := p.2.2.2
    s.get F.LDG_STAT_STATE = ldgIdle ∧
    (a % unit ≠ 0 ∨ n % unit ≠ 0 ∨ (op ≤ 1 ∧ m % 64 ≠ 0) ∨ s.ledger.flashBytes < a + n)) ∧
    (∃ (s : State) (who : Requester) (cs : Fin 2), s.mayWrite who (R.LDG_CMD.at 0 0) = true ∧
    s.flag F.LDG_CTL_EN = true ∧
    let a := s.get F.LDG_FADDR_ADDR
    let m := s.rd64 R.LDG_MADDR_LO % 2 ^ 48
    ∃ p, (p ∈ [(Instr.ledgerRead who cs, 0, s.rd R.LDG_LEN, 1), (.ledgerProgram who cs, 1, s.rd R.LDG_LEN, 256), (.ledgerErase4k who cs, 2, 4096, 4096),
    (.ledgerErase64k who cs, 3, 65536, 65536)]) ∧
    let op := p.2.1
    let n := p.2.2.1
    let unit := p.2.2.2
    s.get F.LDG_STAT_STATE = ldgIdle ∧
    a % unit = 0 ∧
    n % unit = 0 ∧
    (op ≤ 1 → m % 64 = 0) ∧
    a + n ≤ s.ledger.flashBytes ∧
    0 < op ∧
    s.ldgProtected cs.val a n = true) ∧
    (∃ (s : State) (who : Requester) (cs : Fin 2), s.mayWrite who (R.LDG_CMD.at 0 0) = true ∧
    s.flag F.LDG_CTL_EN = true ∧
    let a := s.get F.LDG_FADDR_ADDR
    let m := s.rd64 R.LDG_MADDR_LO % 2 ^ 48
    ∃ p, (p ∈ [(Instr.ledgerRead who cs, 0, s.rd R.LDG_LEN, 1), (.ledgerProgram who cs, 1, s.rd R.LDG_LEN, 256), (.ledgerErase4k who cs, 2, 4096, 4096),
    (.ledgerErase64k who cs, 3, 65536, 65536)]) ∧
    let op := p.2.1
    let n := p.2.2.1
    let unit := p.2.2.2
    s.get F.LDG_STAT_STATE = ldgIdle ∧
    a % unit = 0 ∧
    n % unit = 0 ∧
    (op ≤ 1 → m % 64 = 0) ∧
    a + n ≤ s.ledger.flashBytes ∧
    op = 0 ∧
    plainRange m n = true ∧
    (n ≠ 0 → s.unitRange m n = false)) ∧
    (∃ (s : State) (who : Requester) (cs : Fin 2), s.mayWrite who (R.LDG_CMD.at 0 0) = true ∧
    s.flag F.LDG_CTL_EN = true ∧
    let a := s.get F.LDG_FADDR_ADDR
    let m := s.rd64 R.LDG_MADDR_LO % 2 ^ 48
    ∃ p, (p ∈ [(Instr.ledgerRead who cs, 0, s.rd R.LDG_LEN, 1), (.ledgerProgram who cs, 1, s.rd R.LDG_LEN, 256), (.ledgerErase4k who cs, 2, 4096, 4096),
    (.ledgerErase64k who cs, 3, 65536, 65536)]) ∧
    let op := p.2.1
    let n := p.2.2.1
    let unit := p.2.2.2
    s.get F.LDG_STAT_STATE = ldgIdle ∧
    a % unit = 0 ∧
    n % unit = 0 ∧
    (op ≤ 1 → m % 64 = 0) ∧
    a + n ≤ s.ledger.flashBytes ∧
    op = 0 ∧
    (n ≠ 0 → s.unitRange m n = true) ∧
    plainRange m n = true) ∧
    (∃ (s : State) (who : Requester) (cs : Fin 2), s.mayWrite who (R.LDG_CMD.at 0 0) = true ∧
    s.flag F.LDG_CTL_EN = true ∧
    let a := s.get F.LDG_FADDR_ADDR
    let m := s.rd64 R.LDG_MADDR_LO % 2 ^ 48
    ∃ p, (p ∈ [(Instr.ledgerRead who cs, 0, s.rd R.LDG_LEN, 1), (.ledgerProgram who cs, 1, s.rd R.LDG_LEN, 256), (.ledgerErase4k who cs, 2, 4096, 4096),
    (.ledgerErase64k who cs, 3, 65536, 65536)]) ∧
    let op := p.2.1
    let n := p.2.2.1
    let unit := p.2.2.2
    s.get F.LDG_STAT_STATE = ldgIdle ∧
    a % unit = 0 ∧
    n % unit = 0 ∧
    (op ≤ 1 → m % 64 = 0) ∧
    a + n ≤ s.ledger.flashBytes ∧
    0 < op ∧
    n ≠ 0 ∧
    s.ldgProtected cs.val a n = false ∧
    (s.ledgerWhy (inTrip a (if op = 1 then 256 else n)) = 0)) ∧
    (∃ (s : State) (who : Requester) (cs : Fin 2), s.mayWrite who (R.LDG_CMD.at 0 0) = true ∧
    s.flag F.LDG_CTL_EN = true ∧
    let a := s.get F.LDG_FADDR_ADDR
    let m := s.rd64 R.LDG_MADDR_LO % 2 ^ 48
    ∃ p, (p ∈ [(Instr.ledgerRead who cs, 0, s.rd R.LDG_LEN, 1), (.ledgerProgram who cs, 1, s.rd R.LDG_LEN, 256), (.ledgerErase4k who cs, 2, 4096, 4096),
    (.ledgerErase64k who cs, 3, 65536, 65536)]) ∧
    let op := p.2.1
    let n := p.2.2.1
    let unit := p.2.2.2
    s.get F.LDG_STAT_STATE = ldgIdle ∧
    a % unit = 0 ∧
    n % unit = 0 ∧
    (op ≤ 1 → m % 64 = 0) ∧
    a + n ≤ s.ledger.flashBytes ∧
    0 < op ∧
    n ≠ 0 ∧
    s.ldgProtected cs.val a n = false ∧
    (s.ledgerWhy (inTrip a (if op = 1 then 256 else n)) ≠ 0)) ∧
    (∃ (s : State) (o : LdgOp), s.ledger.op = some o ∧
    let a := o.faddr + o.done
    let f := flashAddr o.cs a
    let n := if o.op = 1 then 256 else o.len
    f + n ≤ 0x40000000) ∧
    (∃ (s : State) (o : LdgOp), s.ledger.op = some o ∧
    let a := o.faddr + o.done
    let f := flashAddr o.cs a
    let n := if o.op = 1 then 256 else o.len
    f + n ≤ 0x40000000 ∧
    o.op ≠ 1) ∧
    (∃ (s : State) (o : LdgOp), s.ledger.op = some o ∧
    let a := o.faddr + o.done
    let f := flashAddr o.cs a
    let n := if o.op = 1 then 256 else o.len
    f + n ≤ 0x40000000 ∧
    o.op = 1 ∧
    o.page.length = 256 ∧
    (∀ i < 256, s.rdB (f + i) &&& o.page.getD i 0 = o.page.getD i 0) ∧
    o.len ≤ o.done + 256) ∧
    (∃ (s : State) (o : LdgOp), s.ledger.op = some o ∧
    let a := o.faddr + o.done
    let f := flashAddr o.cs a
    let n := if o.op = 1 then 256 else o.len
    f + n ≤ 0x40000000 ∧
    o.op = 1 ∧
    o.page.length = 256 ∧
    (∃ i < 256, s.rdB (f + i) &&& o.page.getD i 0 ≠ o.page.getD i 0)) ∧
    (∃ (s : State) (o : LdgOp), s.ledger.op = some o ∧
    let a := o.faddr + o.done
    let f := flashAddr o.cs a
    let n := if o.op = 1 then 256 else o.len
    f + n ≤ 0x40000000 ∧
    o.op = 1 ∧
    o.page.length = 256 ∧
    (∀ i < 256, s.rdB (f + i) &&& o.page.getD i 0 = o.page.getD i 0) ∧
    o.done + 256 < o.len ∧
    s.ledgerWhy (inTrip (a + 256) 256) = 0) ∧
    (∃ (s : State) (addr : Nat), s.region addr = .ledger) :=
  ⟨⟨stLedgerUnit0, (.core 0), 1, by decide +kernel, by decide +kernel, (Instr.ledgerErase64k (.core 0) 1, 3, 65536, 65536), by decide +kernel⟩,
   ⟨stLedgerUnit1, (.core 0), 1, by decide +kernel, by decide +kernel, (Instr.ledgerErase64k (.core 0) 1, 3, 65536, 65536), by decide +kernel⟩,
   ⟨stLedgerUnit2, (.core 0), 0, by decide +kernel, by decide +kernel, (Instr.ledgerErase64k (.core 0) 0, 3, 65536, 65536), by decide +kernel⟩,
   ⟨stLedgerUnit3, (.core 0), 1, by decide +kernel, by decide +kernel, (Instr.ledgerRead (.core 0) 1, 0, (stLedgerUnit3).rd R.LDG_LEN, 1), by decide +kernel⟩,
   ⟨stLedgerUnit3, (.core 0), 1, by decide +kernel, by decide +kernel, (Instr.ledgerRead (.core 0) 1, 0, (stLedgerUnit3).rd R.LDG_LEN, 1), by decide +kernel⟩,
   ⟨stLedgerUnit3, (.core 0), 1, by decide +kernel, by decide +kernel, (Instr.ledgerErase64k (.core 0) 1, 3, 65536, 65536), by decide +kernel⟩,
   ⟨stLedgerUnit6, (.core 0), 1, by decide +kernel, by decide +kernel, (Instr.ledgerErase64k (.core 0) 1, 3, 65536, 65536), by decide +kernel⟩,
   ⟨stLedgerUnit7, lop 2 0 0 4096 0 [], by decide +kernel⟩,
   ⟨stLedgerUnit7, lop 2 0 0 4096 0 [], by decide +kernel⟩,
   ⟨stLedgerUnit9, lop 1 0 0x200 256 0 (pg 0xff), by decide +kernel⟩,
   ⟨stLedgerUnit10, lop 1 0 0x100 256 0 (pg 0xff), by decide +kernel⟩,
   ⟨stLedgerUnit11, lop 1 1 0x43ff00 512 0 (pg 7), by decide +kernel⟩,
   ⟨S0, 0x3fffffff, by decide +kernel⟩⟩

/-- States and operands that meet the hypotheses of each clause of `Obligations.Counters`. -/
theorem witness_Counters :
    (∃ (s : State) (who : Requester) (index : Fin 176) (v : RegWord), s.mayPut who (pmcCfgAddr index.val) v = true) ∧
    (∃ (s : State) (index : Fin 176), let ev := bitsOf (s.pmcCfg index.val) 0 8
    pmcCounts (s.pmcCfg index.val) ev = true ∧
    pmcEvent index.val ev = true) ∧
    (∃ (s : State) (who : Requester), s.mayWrite who (R.PERF_CTL.at 0 0) = true ∧
    let busy := s.flag F.PERF_STAT_DUMP_BUSY && s.perf.epochAt != s.upNs
    (∀ at' c r, s.perf.trigger = some (at', c, r) → s.upNs < at' + 32) ∧
    busy = true) ∧
    (∃ (s : State) (who : Requester), s.mayWrite who (R.PERF_CTL.at 0 0) = true ∧
    let busy := s.flag F.PERF_STAT_DUMP_BUSY && s.perf.epochAt != s.upNs
    (∀ at' c r, s.perf.trigger = some (at', c, r) → s.upNs < at' + 32) ∧
    busy = false ∧
    s.perf.trigger = none) ∧
    (∃ (s : State) (who : Requester), s.mayWrite who (R.PERF_CTL.at 0 0) = true ∧
    let busy := s.flag F.PERF_STAT_DUMP_BUSY && s.perf.epochAt != s.upNs
    (∀ at' c r, s.perf.trigger = some (at', c, r) → s.upNs < at' + 32) ∧
    busy = false ∧
    s.perf.trigger.isSome = true) ∧
    (∃ (s : State) (who : Requester), s.mayWrite who (R.PERF_CTL.at 0 0) = true ∧
    ∃ at', ∃ c, ∃ r, s.perf.trigger = some (at', c, r) ∧
    at' + 32 ≤ s.upNs) ∧
    (∃ (s : State) (at' : Nat) (cause : Nat) (req : Nat), s.perf.trigger = some (at', cause, req)) ∧
    (∃ (s : State), s.flag F.PERF_STAT_DUMP_BUSY = true ∧
    let a := s.perf.dumpBase + 2048 * (s.rd R.PERF_EPOCH % s.perf.dumpSlots)
    s.region a ≠ .hole ∧
    plainRange a 2048 = true) ∧
    (∃ (s : State), s.flag F.PERF_STAT_DUMP_BUSY = true ∧
    s.region (s.perf.dumpBase + 2048 * (s.rd R.PERF_EPOCH % s.perf.dumpSlots)) = .hole) ∧
    (∃ (s : State) (who : Requester), s.mayRead who (R.PERF_SH_LO.at 0 0) = true) :=
  ⟨⟨S0, .host, 175, 0x1ff, by decide +kernel⟩,
   ⟨stCounters1, 33, by decide +kernel⟩,
   ⟨stCounters2, .host, by decide +kernel, fun _ _ _ h => (nomatch h), by decide +kernel⟩,
   ⟨stCounters3, .host, by decide +kernel, fun _ _ _ h => (nomatch h), by decide +kernel⟩,
   ⟨stCounters4, .host, by decide +kernel, snapC_late _ _ (by decide +kernel), by decide +kernel⟩,
   ⟨stCounters5, .host, by decide +kernel, 50, 1, 2, by decide +kernel⟩,
   ⟨stCounters6, 50, 1, 2, by decide +kernel⟩,
   ⟨stCounters7, by decide +kernel⟩,
   ⟨stCounters8, by decide +kernel⟩,
   ⟨stCounters9, .host, by decide +kernel⟩⟩
end Sys2Proof.Tests.P15

namespace Sys2Proof.Tests.P16

open Sys2Proof Sys2Proof.Machine Sys2Proof.Tests

def win (n k base fl : Nat) (s : State) : State := (s.wr R.COX_WIN_BASE (base / 2^16) n k).wr R.COX_WIN_CFG fl n k
def wins (n : Nat) (c : Nat) (s : State) : State :=
  win n 0 0 (28 + 0xEC0 - (if c = 0 then 0x400 else 0)) (win n 1 0x38000000 (27 + 0xAC0) (win n 2 0x80000000 (31 + 0xAC0) (win n 3 0x100000000 (32 + 0xEC0) (win n 4 0x20000000 (24 + 0xAC0) (win n 5 0x40000000 (24 + 0xAC0) s)))))
def mk (n : Nat) (p : Priv) (f : Core → Core) (s : State) : State := s.setCore n (f { Core.reset n with run := .running, priv := p, pc := BitVec.ofNat 64 (0x20000000 + n * 0x100000 + 0x100), tvec := 0x20400200, umask := 0xff, g := [(1, 5), (2, 9), (3, 0xdeadbeef12345678)], icache := [], p := 1 })
def Sx : State := S0.set F.DRC_CAP_GIB 8 0 |>.wrBytes 0x00100000 ((List.range 8).map (BitVec.ofNat 8)) |>.wrBytes 0x20400000 ((List.range 8).map (fun i => BitVec.ofNat 8 (200 - i)))
def cs (n : Nat) (p : Priv) (c a : Nat) (f : Core → Core) : State := mk n p (fun k => f { k with g := [(1, BitVec.ofNat 64 a), (2, 9), (3, 0xdeadbeef12345678)] }) (wins n c Sx)

def stIntegerResults0 : State := cs 4 .m 0 0x8000000000000000 (fun k => { k with p := 0xFF, icache := [0x20400100/64] })
def stConstantsAndBitFields0 : State := cs 4 .m 0 0x5 id
def stComparesAndPredicates0 : State := cs 4 .m 0 0x9 (fun k => { k with p := 0xa5 })
/-- States and operands that meet the hypotheses of each clause of `Obligations.IntegerResults`. -/
theorem witness_IntegerResults :
    ∃ (s : State) (c : Fin 16) (gu : Guard) (d : Fin 32) (a : Fin 32) (b : Fin 32) (imm : BitVec 12), let x := s.g c.val a.val
    let y := s.g c.val b.val
    let z := s.g c.val d.val
    let m := imm.signExtend 64
    let sh := y.toNat % 64
    let q := ((x.setWidth 32).toInt * (y.setWidth 32).toInt + 32768) / 65536
    ∃ i, ((([ (.add c gu d a b, x + y), (.sub c gu d a b, x - y), (.and c gu d a b, x &&& y), (.or c gu d a b, x ||| y), (.xor c gu d a b, x ^^^ y), (.sll c gu d a b, x <<< sh), (.srl c gu d a b, BitVec.ofNat 64 (x.toNat / 2 ^ sh)), (.sra c gu d a b, BitVec.ofInt 64 (x.toInt / 2 ^ sh)), (.min c gu d a b, if x.toInt ≤ y.toInt then x else y), (.max c gu d a b, if x.toInt ≤ y.toInt then y else x), (.clz c gu d a b, BitVec.ofNat 64 (if x = 0 then 64 else 63 - x.toNat.log2)), (.popc c gu d a b, BitVec.ofNat 64 ((List.range 64).filter (fun k => x.getLsbD k)).length), (.addi c gu d a imm, x + m), (.andi c gu d a imm, x &&& m), (.ori c gu d a imm, x ||| m), (.xori c gu d a imm, x ^^^ m), (.slli c gu d a imm, x <<< imm.toNat), (.srli c gu d a imm, BitVec.ofNat 64 (x.toNat / 2 ^ imm.toNat)), (.srai c gu d a imm, BitVec.ofInt 64 (x.toInt / 2 ^ imm.toNat)), (.mul c gu d a b, BitVec.ofInt 64 (x.toInt * y.toInt)), (.mulh c gu d a b, BitVec.ofInt 64 (x.toInt * y.toInt / 2 ^ 64)), (.mulq c gu d a b, BitVec.ofInt 64 (max (-2147483648) (min 2147483647 q))), (.mac c gu d a b, z + x * y), (.sat c gu d a b, BitVec.ofInt 64 (max (-(2 ^ b.val)) (min (2 ^ b.val - 1) x.toInt)))] : List (Instr × Word))).any (fun x => x.1 == i) = true) ∧
    s.runs i = true :=
  ⟨stIntegerResults0, 4, 3, 31, 1, 2, 0x7ff, .addi 4 3 31 1 0x7ff, by decide +kernel⟩

/-- States and operands that meet the hypotheses of each clause of `Obligations.ConstantsAndBitFields`. -/
theorem witness_ConstantsAndBitFields :
    (∃ (s : State) (c : Fin 16) (gu : Guard) (d : Fin 32) (a : Fin 32) (imm : BitVec 17) (pos : Fin 64) (len : Fin 64), let x := s.g c.val a.val
    let z := s.g c.val d.val
    let mask := BitVec.ofNat 64 (2 ^ (len.val + 1) - 1)
    ∃ i, ((([ (.li c gu d imm, BitVec.ofInt 64 imm.toInt), (.lsh c gu d imm, (z <<< 17) ||| imm.zeroExtend 64), (.addpc c gu d imm, BitVec.ofInt 64 ((s.core c.val).pc.toNat + 4 * imm.toInt)), (.ext c gu d a pos len, (x.extractLsb' pos.val (len.val + 1)).signExtend 64), (.extu c gu d a pos len, (x.extractLsb' pos.val (len.val + 1)).zeroExtend 64), (.ins c gu d a pos len, (z &&& ~~~(mask <<< pos.val)) ||| ((x &&& mask) <<< pos.val))] : List (Instr × Word))).any (fun x => x.1 == i) = true) ∧
    s.runs i = true) ∧
    (∃ (s : State) (c : Fin 16) (gu : Guard) (d : Fin 32) (a : Fin 32) (pos : Fin 64) (len : Fin 64), ∃ i, i ∈ ([.ext c gu d a pos len, .extu c gu d a pos len, .ins c gu d a pos len] : List Instr) ∧
    ∃ n, ∃ w, encodeGrasin i = some (n, w) ∧
    64 < pos.val + len.val + 1 ∧
    s.fetches c.val = true) ∧
    (∃ (x : Int), -(2 ^ 33) ≤ x ∧
    x < 2 ^ 33) ∧
    (∃ (x : Word), x.toNat < 2 ^ 48) :=
  ⟨⟨stConstantsAndBitFields0, 4, 0, 3, 1, 0x1ffff, 0, 63, .lsh 4 0 3 0x1ffff, by decide +kernel⟩,
   ⟨stConstantsAndBitFields0, 4, 0, 3, 1, 63, 1, .ins 4 0 3 1 63 1, by decide +kernel, 4, ((encodeGrasin (.ins 4 0 3 1 63 1 : Instr)).getD (0,0)).2, by decide +kernel⟩,
   ⟨-(2 ^ 33), by decide +kernel⟩,
   ⟨BitVec.ofNat 64 (2 ^ 48 - 1), by decide +kernel⟩⟩

/-- States and operands that meet the hypotheses of each clause of `Obligations.ComparesAndPredicates`. -/
theorem witness_ComparesAndPredicates :
    (∃ (s : State) (c : Fin 16) (gu : Guard) (d : Fin 32) (a : Fin 32) (b : Fin 32) (imm : BitVec 12), let x := s.g c.val a.val
    let y := s.g c.val b.val
    let m := imm.signExtend 64
    let pa := s.p c.val a.val
    let pb := s.p c.val b.val
    ∃ i, ((([ (.cmpEq c gu d a b, decide (x = y)), (.cmpLt c gu d a b, decide (x.toInt < y.toInt)), (.cmpLtu c gu d a b, decide (x.toNat < y.toNat)), (.tst c gu d a b, decide (x &&& y ≠ 0)), (.pand c gu d a b, pa && pb), (.por c gu d a b, pa || pb), (.pxor c gu d a b, xor pa pb), (.cmpiEq c gu d a imm, decide (x = m)), (.cmpiLt c gu d a imm, decide (x.toInt < m.toInt)), (.cmpiLtu c gu d a imm, decide (x.toNat < m.toNat))] : List (Instr × Bool))).any (fun x => x.1 == i) = true) ∧
    s.runs i = true) ∧
    (∃ (s : State) (c : Fin 16) (gu : Guard) (d : Fin 32) (a : Fin 32) (b : Fin 32), s.runs (.pget c gu d a b) = true) ∧
    (∃ (s : State) (c : Fin 16) (gu : Guard) (d : Fin 32) (a : Fin 32) (b : Fin 32), s.runs (.pset c gu d a b) = true) :=
  ⟨⟨stComparesAndPredicates0, 4, 0, 7, 1, 2, 0, .pxor 4 0 7 1 2, by decide +kernel⟩,
   ⟨stConstantsAndBitFields0, 4, 0, 31, 0, 0, by decide +kernel⟩,
   ⟨stConstantsAndBitFields0, 4, 0, 0, 31, 0, by decide +kernel⟩⟩
end Sys2Proof.Tests.P16

namespace Sys2Proof.Tests.P17

open Sys2Proof Sys2Proof.Machine Sys2Proof.Tests

def win (n k base fl : Nat) (s : State) : State := (s.wr R.COX_WIN_BASE (base / 2^16) n k).wr R.COX_WIN_CFG fl n k
def wins (n : Nat) (c : Nat) (s : State) : State :=
  win n 0 0 (28 + 0xEC0 - (if c = 0 then 0x400 else 0)) (win n 1 0x38000000 (27 + 0xAC0) (win n 2 0x80000000 (31 + 0xAC0) (win n 3 0x100000000 (32 + 0xEC0) (win n 4 0x20000000 (24 + 0xAC0) (win n 5 0x40000000 (24 + 0xAC0) s)))))
def mk (n : Nat) (p : Priv) (f : Core → Core) (s : State) : State := s.setCore n (f { Core.reset n with run := .running, priv := p, pc := BitVec.ofNat 64 (0x20000000 + n * 0x100000 + 0x100), tvec := 0x20400200, umask := 0xff, g := [(1, 5), (2, 9), (3, 0xdeadbeef12345678)], icache := [], p := 1 })
def Sx : State := S0.set F.DRC_CAP_GIB 8 0 |>.wrBytes 0x00100000 ((List.range 8).map (BitVec.ofNat 8)) |>.wrBytes 0x20400000 ((List.range 8).map (fun i => BitVec.ofNat 8 (200 - i)))
def line (a : Nat) (d : Bool) : List (Nat × CacheLine) := [(a / 64, ⟨(List.range 64).map (fun i => BitVec.ofNat 8 (i * 3 + 128)), d⟩)]
def cs (n : Nat) (p : Priv) (c a : Nat) (f : Core → Core) : State := mk n p (fun k => f { k with g := [(1, BitVec.ofNat 64 a), (2, 9), (3, 0xdeadbeef12345678)] }) (wins n c Sx)

def hitOf (a : Nat) : RegHit := match decodeReg a with | some h => h | none => (decodeReg 0x40010180).get (by decide +kernel)
def rowOf (a : Nat) : RegDef := match (hitOf a).row with | some r => r | none => ⟨0,0,1,0,0,[]⟩

def stLoads0 : State := cs 4 .m 1 0x100001 (fun k => { k with dcache := line 0x100000 true })
def stLoads1 : State := cs 4 .m 1 0x50000000 (fun k => { k with dcache := line 0x50000000 true })
def stLoads2 : State := { (cs 0 .w 0 0x100004 id) with poison := [(0x100004 / 64, true)] }
def stLoads3 : State := cs 4 .m 1 0x100004 (fun k => { k with inexc := true, watch0 := BitVec.ofNat 64 (0x100000 + 7*2^60) })
def stLoads4 : State := cs 4 .m 1 0xda00180 (fun k => { k with dcache := line 0xda00180 true })
def stLoads5 : State := cs 4 .m 1 0x40104024 (fun k => { k with dcache := line 0x40104020 true })
def stLoads6 : State := cs 0 .w 0 0x40000004 id
def stLoads7 : State := (cs 0 .w 0 0x40000004 (fun k => { k with watch0 := BitVec.ofNat 64 (0x40000000 + 7*2^60) }))
def stLoads9 : State := cs 4 .m 0 0 (fun k => { k with loads := [], ready := [(3, 120)] })
def stLoads10 : State := cs 4 .m 0 0 (fun k => { k with loads := [(3, 99), (5, 120)], ready := [(3, 120)] })
def stStores3 : State := (cs 0 .w 0 0x0C800018 id).set F.STR_CTL_ENABLE 1 0
def stStores4 : State := cs 4 .m 1 0x20400000 (fun k => { k with dcache := line 0x20400000 true })
def stStores5 : State := cs 4 .m 0 0xda00180 id
def stStores6 : State := cs 4 .m 0 0xd800014 id
def stStores8 : State := cs 4 .m 1 0x100004 (fun k => { k with dcache := line 0x100000 true })
def stStores10 : State := cs 0 .w 0 0x40104024 id
def stStores11 : State := cs 0 .w 0 0x40000004 (fun k => { k with watch0 := BitVec.ofNat 64 (0x40000000 + 7*2^60) })
def stStores12 : State := ((cs 0 .w 0 0x40100020 id).setCore 0 (((cs 0 .w 0 0x40100020 id).core 0).setG 3 305419896))
/-- States and operands that meet the hypotheses of each clause of `Obligations.Loads`. -/
theorem witness_Loads :
    (∃ (s : State) (c : Fin 16) (gu : Guard) (d : Fin 32) (a : Fin 32) (imm : BitVec 12), let ea := s.g c.val a.val + imm.signExtend 64
    ∃ i, ∃ k, ∃ sg, (i, k, sg) ∈ ([(.lb c gu d a imm, 1, true), (.lbu c gu d a imm, 1, false), (.lh c gu d a imm, 2, true), (.lhu c gu d a imm, 2, false), (.lw c gu d a imm, 4, true), (.lwu c gu d a imm, 4, false), (.ld c gu d a imm, 8, false)] : List (Instr × Nat × Bool)) ∧
    s.runs i = true ∧
    ea.toNat % k ≠ 0) ∧
    (∃ (s : State) (c : Fin 16) (gu : Guard) (d : Fin 32) (a : Fin 32) (imm : BitVec 12), let ea := s.g c.val a.val + imm.signExtend 64
    let p := coreAddr c.val ea.toNat
    ∃ i, ∃ k, ∃ sg, (i, k, sg) ∈ ([(.lb c gu d a imm, 1, true), (.lbu c gu d a imm, 1, false), (.lh c gu d a imm, 2, true), (.lhu c gu d a imm, 2, false), (.lw c gu d a imm, 4, true), (.lwu c gu d a imm, 4, false), (.ld c gu d a imm, 8, false)] : List (Instr × Nat × Bool)) ∧
    s.runs i = true ∧
    let allowed := s.mayAccess c.val F.COX_WIN_CFG_R ea.toNat p
    ea.toNat % k = 0 ∧
    s.region p ≠ .regs ∧
    allowed = false) ∧
    (∃ (s : State) (c : Fin 16) (gu : Guard) (d : Fin 32) (a : Fin 32) (imm : BitVec 12), let ea := s.g c.val a.val + imm.signExtend 64
    let p := coreAddr c.val ea.toNat
    ∃ i, ∃ k, ∃ sg, (i, k, sg) ∈ ([(.lb c gu d a imm, 1, true), (.lbu c gu d a imm, 1, false), (.lh c gu d a imm, 2, true), (.lhu c gu d a imm, 2, false), (.lw c gu d a imm, 4, true), (.lwu c gu d a imm, 4, false), (.ld c gu d a imm, 8, false)] : List (Instr × Nat × Bool)) ∧
    s.runs i = true ∧
    let allowed := s.mayAccess c.val F.COX_WIN_CFG_R ea.toNat p
    ea.toNat % k = 0 ∧
    s.region p ≠ .regs ∧
    allowed = true ∧
    s.loadPoison c.val p k = true) ∧
    (∃ (s : State) (c : Fin 16) (gu : Guard) (d : Fin 32) (a : Fin 32) (imm : BitVec 12), let ea := s.g c.val a.val + imm.signExtend 64
    let p := coreAddr c.val ea.toNat
    ∃ i, ∃ k, ∃ sg, (i, k, sg) ∈ ([(.lb c gu d a imm, 1, true), (.lbu c gu d a imm, 1, false), (.lh c gu d a imm, 2, true), (.lhu c gu d a imm, 2, false), (.lw c gu d a imm, 4, true), (.lwu c gu d a imm, 4, false), (.ld c gu d a imm, 8, false)] : List (Instr × Nat × Bool)) ∧
    s.runs i = true ∧
    let allowed := s.mayAccess c.val F.COX_WIN_CFG_R ea.toNat p
    ea.toNat % k = 0 ∧
    s.region p ≠ .regs ∧
    allowed = true ∧
    s.loadPoison c.val p k = false ∧
    (s.core c.val).watched 60 ea.toNat = true) ∧
    (∃ (s : State) (c : Fin 16) (gu : Guard) (d : Fin 32) (a : Fin 32) (imm : BitVec 12), let ea := s.g c.val a.val + imm.signExtend 64
    let p := coreAddr c.val ea.toNat
    ∃ i, ∃ k, ∃ sg, (i, k, sg) ∈ ([(.lb c gu d a imm, 1, true), (.lbu c gu d a imm, 1, false), (.lh c gu d a imm, 2, true), (.lhu c gu d a imm, 2, false), (.lw c gu d a imm, 4, true), (.lwu c gu d a imm, 4, false), (.ld c gu d a imm, 8, false)] : List (Instr × Nat × Bool)) ∧
    s.runs i = true ∧
    let allowed := s.mayAccess c.val F.COX_WIN_CFG_R ea.toNat p
    ea.toNat % k = 0 ∧
    s.region p ≠ .regs ∧
    allowed = true ∧
    s.loadPoison c.val p k = false ∧
    (s.core c.val).watched 60 ea.toNat = false) ∧
    (∃ (s : State) (c : Fin 16) (gu : Guard) (d : Fin 32) (a : Fin 32) (imm : BitVec 12), let ea := s.g c.val a.val + imm.signExtend 64
    let p := coreAddr c.val ea.toNat
    ∃ i, ∃ k, ∃ sg, (i, k, sg) ∈ ([(.lb c gu d a imm, 1, true), (.lbu c gu d a imm, 1, false), (.lh c gu d a imm, 2, true), (.lhu c gu d a imm, 2, false), (.lw c gu d a imm, 4, true), (.lwu c gu d a imm, 4, false), (.ld c gu d a imm, 8, false)] : List (Instr × Nat × Bool)) ∧
    s.runs i = true ∧
    ea.toNat % k = 0 ∧
    s.region p = .regs ∧
    s.mayReg c (p / 4 * 4) false = false) ∧
    (∃ (s : State) (c : Fin 16) (gu : Guard) (d : Fin 32) (a : Fin 32) (imm : BitVec 12), let ea := s.g c.val a.val + imm.signExtend 64
    let p := coreAddr c.val ea.toNat
    ∃ i, ∃ k, ∃ sg, (i, k, sg) ∈ ([(.lb c gu d a imm, 1, true), (.lbu c gu d a imm, 1, false), (.lh c gu d a imm, 2, true), (.lhu c gu d a imm, 2, false), (.lw c gu d a imm, 4, true), (.lwu c gu d a imm, 4, false), (.ld c gu d a imm, 8, false)] : List (Instr × Nat × Bool)) ∧
    s.runs i = true ∧
    ea.toNat % k = 0 ∧
    s.region p = .regs ∧
    s.mayReg c (p / 4 * 4) false = true ∧
    k ≠ 4 ∧
    (s.core c.val).watched 60 p = false) ∧
    (∃ (s : State) (c : Fin 16) (gu : Guard) (d : Fin 32) (a : Fin 32) (imm : BitVec 12), let ea := s.g c.val a.val + imm.signExtend 64
    let p := coreAddr c.val ea.toNat
    ∃ i, ∃ k, ∃ sg, (i, k, sg) ∈ ([(.lb c gu d a imm, 1, true), (.lbu c gu d a imm, 1, false), (.lh c gu d a imm, 2, true), (.lhu c gu d a imm, 2, false), (.lw c gu d a imm, 4, true), (.lwu c gu d a imm, 4, false), (.ld c gu d a imm, 8, false)] : List (Instr × Nat × Bool)) ∧
    s.runs i = true ∧
    ea.toNat % k = 0 ∧
    s.region p = .regs ∧
    s.mayReg c (p / 4 * 4) false = true ∧
    (s.core c.val).watched 60 p = true) ∧
    (∃ (s : State) (c : Fin 16) (gu : Guard) (d : Fin 32) (a : Fin 32) (imm : BitVec 12), let ea := s.g c.val a.val + imm.signExtend 64
    let p := coreAddr c.val ea.toNat
    ∃ i, ∃ k, ∃ sg, (i, k, sg) ∈ ([(.lb c gu d a imm, 1, true), (.lbu c gu d a imm, 1, false), (.lh c gu d a imm, 2, true), (.lhu c gu d a imm, 2, false), (.lw c gu d a imm, 4, true), (.lwu c gu d a imm, 4, false), (.ld c gu d a imm, 8, false)] : List (Instr × Nat × Bool)) ∧
    s.runs i = true ∧
    ea.toNat % k = 0 ∧
    s.region p = .regs ∧
    s.mayReg c (p / 4 * 4) false = true ∧
    k = 4 ∧
    (s.core c.val).watched 60 p = false) ∧
    (∃ (s : State) (c : Fin 16), (s.core c.val).loads = []) ∧
    (∃ (s : State) (c : Fin 16), ∃ d, ∃ r, ∃ l, (s.core c.val).loads = (d, r) :: l) :=
  ⟨⟨stLoads0, 4, 0, 0, 1, 0, .lw 4 0 0 1 0, 4, true, by decide +kernel⟩,
   ⟨stLoads1, 4, 0, 0, 1, 0, .lw 4 0 0 1 0, 4, true, by decide +kernel⟩,
   ⟨stLoads2, 0, 0, 3, 1, 0, .lh 0 0 3 1 0, 2, true, by decide +kernel⟩,
   ⟨stLoads3, 4, 0, 3, 1, 0, .lh 4 0 3 1 0, 2, true, by decide +kernel⟩,
   ⟨stLoads4, 4, 0, 3, 1, 0, .lw 4 0 3 1 0, 4, true, by decide +kernel⟩,
   ⟨stLoads5, 4, 0, 3, 1, 0, .lw 4 0 3 1 0, 4, true, by decide +kernel⟩,
   ⟨stLoads6, 0, 0, 3, 1, 0, .lh 0 0 3 1 0, 2, true, by decide +kernel⟩,
   ⟨stLoads7, 0, 0, 3, 1, 0, .lw 0 0 3 1 0, 4, true, by decide +kernel⟩,
   ⟨stLoads6, 0, 0, 0, 1, 0, .lw 0 0 0 1 0, 4, true, by decide +kernel⟩,
   ⟨stLoads9, 4, by decide +kernel⟩,
   ⟨stLoads10, 4, 3, 99, [(5, 120)], by decide +kernel⟩⟩

/-- States and operands that meet the hypotheses of each clause of `Obligations.Stores`. -/
theorem witness_Stores :
    (∃ (s : State) (c : Fin 16) (gu : Guard) (d : Fin 32) (a : Fin 32) (imm : BitVec 12), let ea := s.g c.val a.val + imm.signExtend 64
    ∃ i, ∃ k, (i, k) ∈ ([(.sb c gu d a imm, 1), (.sh c gu d a imm, 2), (.sw c gu d a imm, 4), (.sd c gu d a imm, 8)] : List (Instr × Nat)) ∧
    s.runs i = true ∧
    ea.toNat % k ≠ 0) ∧
    (∃ (s : State) (c : Fin 16) (gu : Guard) (d : Fin 32) (a : Fin 32) (imm : BitVec 12), let ea := s.g c.val a.val + imm.signExtend 64
    let p := coreAddr c.val ea.toNat
    ∃ i, ∃ k, (i, k) ∈ ([(.sb c gu d a imm, 1), (.sh c gu d a imm, 2), (.sw c gu d a imm, 4), (.sd c gu d a imm, 8)] : List (Instr × Nat)) ∧
    s.runs i = true ∧
    let allowed := s.mayAccess c.val F.COX_WIN_CFG_W ea.toNat p
    ea.toNat % k = 0 ∧
    s.region p ≠ .regs ∧
    allowed = false) ∧
    (∃ (s : State) (c : Fin 16) (gu : Guard) (d : Fin 32) (a : Fin 32) (imm : BitVec 12), let ea := s.g c.val a.val + imm.signExtend 64
    let p := coreAddr c.val ea.toNat
    ∃ i, ∃ k, (i, k) ∈ ([(.sb c gu d a imm, 1), (.sh c gu d a imm, 2), (.sw c gu d a imm, 4), (.sd c gu d a imm, 8)] : List (Instr × Nat)) ∧
    s.runs i = true ∧
    let allowed := s.mayAccess c.val F.COX_WIN_CFG_W ea.toNat p
    ea.toNat % k = 0 ∧
    s.region p ≠ .regs ∧
    allowed = true ∧
    (s.core c.val).watched 61 ea.toNat = true) ∧
    (∃ (s : State) (c : Fin 16) (gu : Guard) (d : Fin 32) (a : Fin 32) (imm : BitVec 12), let ea := s.g c.val a.val + imm.signExtend 64
    let p := coreAddr c.val ea.toNat
    ∃ i, ∃ k, (i, k) ∈ ([(.sb c gu d a imm, 1), (.sh c gu d a imm, 2), (.sw c gu d a imm, 4), (.sd c gu d a imm, 8)] : List (Instr × Nat)) ∧
    s.runs i = true ∧
    let allowed := s.mayAccess c.val F.COX_WIN_CFG_W ea.toNat p
    ea.toNat % k = 0 ∧
    s.region p ≠ .regs ∧
    allowed = true ∧
    (s.core c.val).watched 61 ea.toNat = false) ∧
    (∃ (s : State) (c : Fin 16) (gu : Guard) (d : Fin 32) (a : Fin 32) (imm : BitVec 12), let ea := s.g c.val a.val + imm.signExtend 64
    let p := coreAddr c.val ea.toNat
    let v := (s.g c.val d.val).toNat
    ∃ i, ∃ k, (i, k) ∈ ([(.sb c gu d a imm, 1), (.sh c gu d a imm, 2), (.sw c gu d a imm, 4), (.sd c gu d a imm, 8)] : List (Instr × Nat)) ∧
    s.runs i = true ∧
    let allowed := s.mayAccess c.val F.COX_WIN_CFG_W ea.toNat p
    let here := s.lineHeld c.val (p / 64) = false
    ea.toNat % k = 0 ∧
    s.region p ≠ .regs ∧
    allowed = true ∧
    (s.core c.val).watched 61 ea.toNat = false ∧
    s.cacheable c.val p = false ∧
    here ∧
    s.storeUse p (leBytes k v) = none ∧
    s.swPlain p = true ∧
    s.swPlain (p + k - 1) = true) ∧
    (∃ (s : State) (c : Fin 16) (gu : Guard) (d : Fin 32) (a : Fin 32) (imm : BitVec 12), let ea := s.g c.val a.val + imm.signExtend 64
    let p := coreAddr c.val ea.toNat
    let v := (s.g c.val d.val).toNat
    ∃ i, ∃ k, (i, k) ∈ ([(.sb c gu d a imm, 1), (.sh c gu d a imm, 2), (.sw c gu d a imm, 4), (.sd c gu d a imm, 8)] : List (Instr × Nat)) ∧
    s.runs i = true ∧
    let allowed := s.mayAccess c.val F.COX_WIN_CFG_W ea.toNat p
    let here := s.lineHeld c.val (p / 64) = false
    ea.toNat % k = 0 ∧
    s.region p ≠ .regs ∧
    allowed = true ∧
    (s.core c.val).watched 61 ea.toNat = false ∧
    s.cacheable c.val p = false ∧
    here ∧
    s.storeUse p (leBytes k v) = none ∧
    (∀ j < k, s.swPlain (p + j) = false) ∧
    touchesCi p k = false) ∧
    (∃ (s : State) (c : Fin 16) (gu : Guard) (d : Fin 32) (a : Fin 32) (imm : BitVec 12), let ea := s.g c.val a.val + imm.signExtend 64
    let p := coreAddr c.val ea.toNat
    let v := (s.g c.val d.val).toNat
    ∃ i, ∃ k, (i, k) ∈ ([(.sb c gu d a imm, 1), (.sh c gu d a imm, 2), (.sw c gu d a imm, 4), (.sd c gu d a imm, 8)] : List (Instr × Nat)) ∧
    s.runs i = true ∧
    let allowed := s.mayAccess c.val F.COX_WIN_CFG_W ea.toNat p
    let here := s.lineHeld c.val (p / 64) = false
    ea.toNat % k = 0 ∧
    s.region p ≠ .regs ∧
    allowed = true ∧
    (s.core c.val).watched 61 ea.toNat = false ∧
    s.cacheable c.val p = false ∧
    here ∧
    k = 4 ∧
    ∃ (r : Fin 8192), p = ringCtx r.val + 0x14 ∧
    (v % 2 ^ 32 + 2 ^ 32 - s.ringCI r.val) % 2 ^ 32 ≤ s.ringFill r.val) ∧
    (∃ (s : State) (c : Fin 16) (gu : Guard) (d : Fin 32) (a : Fin 32) (imm : BitVec 12), let ea := s.g c.val a.val + imm.signExtend 64
    let p := coreAddr c.val ea.toNat
    let v := (s.g c.val d.val).toNat
    ∃ i, ∃ k, (i, k) ∈ ([(.sb c gu d a imm, 1), (.sh c gu d a imm, 2), (.sw c gu d a imm, 4), (.sd c gu d a imm, 8)] : List (Instr × Nat)) ∧
    s.runs i = true ∧
    let allowed := s.mayAccess c.val F.COX_WIN_CFG_W ea.toNat p
    let here := s.lineHeld c.val (p / 64) = false
    ea.toNat % k = 0 ∧
    s.region p ≠ .regs ∧
    allowed = true ∧
    (s.core c.val).watched 61 ea.toNat = false ∧
    s.cacheable c.val p = false ∧
    here ∧
    k = 4 ∧
    ∃ (r : Fin 8192), p = ringCtx r.val + 0x14 ∧
    s.ringFill r.val < (v % 2 ^ 32 + 2 ^ 32 - s.ringCI r.val) % 2 ^ 32) ∧
    (∃ (s : State) (c : Fin 16) (gu : Guard) (d : Fin 32) (a : Fin 32) (imm : BitVec 12), let ea := s.g c.val a.val + imm.signExtend 64
    let p := coreAddr c.val ea.toNat
    ∃ i, ∃ k, (i, k) ∈ ([(.sb c gu d a imm, 1), (.sh c gu d a imm, 2), (.sw c gu d a imm, 4), (.sd c gu d a imm, 8)] : List (Instr × Nat)) ∧
    s.runs i = true ∧
    let allowed := s.mayAccess c.val F.COX_WIN_CFG_W ea.toNat p
    ea.toNat % k = 0 ∧
    s.region p ≠ .regs ∧
    allowed = true ∧
    (s.core c.val).watched 61 ea.toNat = false ∧
    s.cacheable c.val p = true ∧
    s.lineIn c.val (p / 64) = true ∧
    (s.lineBytes c.val (p / 64)).length = 64) ∧
    (∃ (s : State) (c : Fin 16) (gu : Guard) (d : Fin 32) (a : Fin 32) (imm : BitVec 12), let ea := s.g c.val a.val + imm.signExtend 64
    let p := coreAddr c.val ea.toNat
    ∃ i, ∃ k, (i, k) ∈ ([(.sb c gu d a imm, 1), (.sh c gu d a imm, 2), (.sw c gu d a imm, 4), (.sd c gu d a imm, 8)] : List (Instr × Nat)) ∧
    s.runs i = true ∧
    ea.toNat % k = 0 ∧
    s.region p = .regs ∧
    s.mayReg c (p / 4 * 4) true = false) ∧
    (∃ (s : State) (c : Fin 16) (gu : Guard) (d : Fin 32) (a : Fin 32) (imm : BitVec 12), let ea := s.g c.val a.val + imm.signExtend 64
    let p := coreAddr c.val ea.toNat
    ∃ i, ∃ k, (i, k) ∈ ([(.sb c gu d a imm, 1), (.sh c gu d a imm, 2), (.sw c gu d a imm, 4), (.sd c gu d a imm, 8)] : List (Instr × Nat)) ∧
    s.runs i = true ∧
    ea.toNat % k = 0 ∧
    s.region p = .regs ∧
    s.mayReg c (p / 4 * 4) true = true ∧
    k ≠ 4 ∧
    (s.core c.val).watched 61 p = false) ∧
    (∃ (s : State) (c : Fin 16) (gu : Guard) (d : Fin 32) (a : Fin 32) (imm : BitVec 12), let ea := s.g c.val a.val + imm.signExtend 64
    let p := coreAddr c.val ea.toNat
    ∃ i, ∃ k, (i, k) ∈ ([(.sb c gu d a imm, 1), (.sh c gu d a imm, 2), (.sw c gu d a imm, 4), (.sd c gu d a imm, 8)] : List (Instr × Nat)) ∧
    s.runs i = true ∧
    ea.toNat % k = 0 ∧
    s.region p = .regs ∧
    s.mayReg c (p / 4 * 4) true = true ∧
    (s.core c.val).watched 61 p = true) ∧
    (∃ (s : State) (c : Fin 16) (gu : Guard) (d : Fin 32) (a : Fin 32) (imm : BitVec 12), let ea := s.g c.val a.val + imm.signExtend 64
    let p := coreAddr c.val ea.toNat
    let v := (s.g c.val d.val).toNat
    ∃ i, ∃ k, (i, k) ∈ ([(.sb c gu d a imm, 1), (.sh c gu d a imm, 2), (.sw c gu d a imm, 4), (.sd c gu d a imm, 8)] : List (Instr × Nat)) ∧
    s.runs i = true ∧
    let still := (s.core c.val).flushed = []
    ea.toNat % k = 0 ∧
    s.region p = .regs ∧
    k = 4 ∧
    (s.core c.val).watched 61 p = false ∧
    ∃ h, ∃ r, decodeReg p = some h ∧
    h.row = some r ∧
    plainWrite h p = true ∧
    s.mayPut (.core c) p (BitVec.ofNat 32 v) = true ∧
    still) :=
  ⟨⟨stLoads0, 4, 0, 0, 1, 0, .sw 4 0 0 1 0, 4, by decide +kernel⟩,
   ⟨stLoads1, 4, 0, 0, 1, 0, .sw 4 0 0 1 0, 4, by decide +kernel⟩,
   ⟨stLoads3, 4, 0, 0, 1, 0, .sw 4 0 0 1 0, 4, by decide +kernel⟩,
   ⟨stStores3, 0, 0, 3, 1, 0, .sw 0 0 3 1 0, 4, by decide +kernel⟩,
   ⟨stStores4, 4, 0, 0, 1, 0, .sw 4 0 0 1 0, 4, by decide +kernel⟩,
   ⟨stStores5, 4, 0, 0, 1, 0, .sw 4 0 0 1 0, 4, by decide +kernel⟩,
   ⟨stStores6, 4, 0, 0, 1, 0, .sw 4 0 0 1 0, 4, by decide +kernel, by decide +kernel, by decide +kernel, by decide +kernel, by decide +kernel, by decide +kernel, by decide +kernel, by decide +kernel, by decide +kernel, 0, by decide +kernel⟩,
   ⟨stStores6, 4, 0, 3, 1, 0, .sw 4 0 3 1 0, 4, by decide +kernel, by decide +kernel, by decide +kernel, by decide +kernel, by decide +kernel, by decide +kernel, by decide +kernel, by decide +kernel, by decide +kernel, 0, by decide +kernel⟩,
   ⟨stStores8, 4, 0, 0, 1, 0, .sw 4 0 0 1 0, 4, by decide +kernel⟩,
   ⟨stLoads5, 4, 0, 0, 1, 0, .sw 4 0 0 1 0, 4, by decide +kernel⟩,
   ⟨stStores10, 0, 0, 3, 1, 0, .sh 0 0 3 1 0, 2, by decide +kernel⟩,
   ⟨stStores11, 0, 0, 3, 1, 0, .sw 0 0 3 1 0, 4, by decide +kernel⟩,
   ⟨stStores12, 0, 0, 3, 1, 0, .sw 0 0 3 1 0, 4, by decide +kernel, by decide +kernel, by decide +kernel, by decide +kernel, by decide +kernel, by decide +kernel, hit 0x40100020, rowOf 0x40100020, some_hit _ (by decide +kernel), some_row _ (by decide +kernel), by decide +kernel⟩⟩
end Sys2Proof.Tests.P17

namespace Sys2Proof.Tests.P18

open Sys2Proof Sys2Proof.Machine Sys2Proof.Tests

def win (n k base fl : Nat) (s : State) : State := (s.wr R.COX_WIN_BASE (base / 2^16) n k).wr R.COX_WIN_CFG fl n k
def wins (n : Nat) (c : Nat) (s : State) : State :=
  win n 0 0 (28 + 0xEC0 - (if c = 0 then 0x400 else 0)) (win n 1 0x38000000 (27 + 0xAC0) (win n 2 0x80000000 (31 + 0xAC0) (win n 3 0x100000000 (32 + 0xEC0) (win n 4 0x20000000 (24 + 0xAC0) (win n 5 0x40000000 (24 + 0xAC0) s)))))
def mk (n : Nat) (p : Priv) (f : Core → Core) (s : State) : State := s.setCore n (f { Core.reset n with run := .running, priv := p, pc := BitVec.ofNat 64 (0x20000000 + n * 0x100000 + 0x100), tvec := 0x20400200, umask := 0xff, g := [(1, 5), (2, 9), (3, 0xdeadbeef12345678)], icache := [], p := 1 })
def Sx : State := S0.set F.DRC_CAP_GIB 8 0 |>.wrBytes 0x00100000 ((List.range 8).map (BitVec.ofNat 8)) |>.wrBytes 0x20400000 ((List.range 8).map (fun i => BitVec.ofNat 8 (200 - i)))
def line (a : Nat) (d : Bool) : List (Nat × CacheLine) := [(a / 64, ⟨(List.range 64).map (fun i => BitVec.ofNat 8 (i * 3 + 128)), d⟩)]
def cs (n : Nat) (p : Priv) (c a : Nat) (f : Core → Core) : State := mk n p (fun k => f { k with g := [(1, BitVec.ofNat 64 a), (2, 9), (3, 0xdeadbeef12345678)] }) (wins n c Sx)

def stAtomics0 : State := cs 4 .m 0 0x10000a (fun k => { k with inexc := true, watch0 := BitVec.ofNat 64 (0x100008 + 7*2^60), dcache := line 0x100008 false })
def stAtomics1 : State := cs 4 .m 0 0xda80000 (fun k => { k with inexc := true, watch0 := BitVec.ofNat 64 (0x100008 + 7*2^60), dcache := line 0x100008 false })
def stAtomics2 : State := { (cs 4 .m 0 0x100008 (fun k => { k with g := [(1, 0x100008), (2, 7), (3, 0x0f0e0d0c0b0a0908)] })) with poison := [(0x100008 / 64, true)] }
def stAtomics3 : State := cs 4 .m 0 0x10000c (fun k => { k with inexc := true, watch0 := BitVec.ofNat 64 (0x100008 + 7*2^60), dcache := line 0x100008 false })
def stAtomics4 : State := cs 4 .m 0 0x100008 (fun k => { k with g := [(1, 0x100008), (2, 7), (3, 0x0f0e0d0c0b0a0908)] })
def stAtomics5 : State := cs 4 .m 0 0x100008 id
def stAtomics6 : State := cs 4 .m 0 0 id
def stAtomics7 : State := cs 4 .m 0 0 (fun k => { k with atomic := some ⟨3, 77, some false⟩ })
def stControlTransfer0 : State := cs 4 .u 0 0x6 (fun k => { k with epc := 541065986, ppriv := 1, inexc := false })
def stControlTransfer2 : State := cs 4 .u 0 0x20400200 (fun k => { k with epc := 541065986, ppriv := 1, inexc := false })
def stControlTransfer6 : State := cs 0 .w 0 0x6 (fun k => { k with epc := 541065984, ppriv := 1, inexc := false })
def stControlTransfer7 : State := cs 0 .w 0 0x6 (fun k => { k with epc := 541065986, ppriv := 1, inexc := false })
/-- States and operands that meet the hypotheses of each clause of `Obligations.Atomics`. -/
theorem witness_Atomics :
    (∃ (s : State) (c : Fin 16) (gu : Guard) (d : Fin 32) (a : Fin 32) (b : Fin 32), let ea := s.g c.val a.val
    let p := ea.toNat
    let y := (s.g c.val b.val).toNat
    let z := (s.g c.val d.val).toNat
    ∃ i, ∃ k, ((([ (.aaddW c gu d a b, 4, some ((s.rdN p 4 + y) % 2 ^ 32), none), (.aaddD c gu d a b, 8, some ((s.rdN p 8 + y) % 2 ^ 64), none), (.aswapW c gu d a b, 4, some (y % 2 ^ 32), none), (.aswapD c gu d a b, 8, some y, none), (.acasW c gu d a b, 4, if s.rdN p 4 = z % 2 ^ 32 then some (y % 2 ^ 32) else none, some (decide (s.rdN p 4 = z % 2 ^ 32))), (.acasD c gu d a b, 8, if s.rdN p 8 = z then some y else none, some (decide (s.rdN p 8 = z)))] : List (Instr × Nat × Option Nat × Option Bool))).any (fun x => x.1 == i) = true) ∧
    s.runs i = true ∧
    (p / 64) ∉ s.dirtyLines c.val ∧
    s.lineHeld c.val (p / 64) = false ∧
    p % k ≠ 0) ∧
    (∃ (s : State) (c : Fin 16) (gu : Guard) (d : Fin 32) (a : Fin 32) (b : Fin 32), let ea := s.g c.val a.val
    let p := ea.toNat
    let y := (s.g c.val b.val).toNat
    let z := (s.g c.val d.val).toNat
    ∃ i, ∃ k, ((([ (.aaddW c gu d a b, 4, some ((s.rdN p 4 + y) % 2 ^ 32), none), (.aaddD c gu d a b, 8, some ((s.rdN p 8 + y) % 2 ^ 64), none), (.aswapW c gu d a b, 4, some (y % 2 ^ 32), none), (.aswapD c gu d a b, 8, some y, none), (.acasW c gu d a b, 4, if s.rdN p 4 = z % 2 ^ 32 then some (y % 2 ^ 32) else none, some (decide (s.rdN p 4 = z % 2 ^ 32))), (.acasD c gu d a b, 8, if s.rdN p 8 = z then some y else none, some (decide (s.rdN p 8 = z)))] : List (Instr × Nat × Option Nat × Option Bool))).any (fun x => x.1 == i) = true) ∧
    s.runs i = true ∧
    (p / 64) ∉ s.dirtyLines c.val ∧
    s.lineHeld c.val (p / 64) = false ∧
    let ok := s.region p = .yard ∧ s.mayAccess c.val F.COX_WIN_CFG_R p p = true ∧ s.mayAccess c.val F.COX_WIN_CFG_W p p = true
    p % k = 0 ∧
    (¬ ok)) ∧
    (∃ (s : State) (c : Fin 16) (gu : Guard) (d : Fin 32) (a : Fin 32) (b : Fin 32), let ea := s.g c.val a.val
    let p := ea.toNat
    let y := (s.g c.val b.val).toNat
    let z := (s.g c.val d.val).toNat
    ∃ i, ∃ k, ((([ (.aaddW c gu d a b, 4, some ((s.rdN p 4 + y) % 2 ^ 32), none), (.aaddD c gu d a b, 8, some ((s.rdN p 8 + y) % 2 ^ 64), none), (.aswapW c gu d a b, 4, some (y % 2 ^ 32), none), (.aswapD c gu d a b, 8, some y, none), (.acasW c gu d a b, 4, if s.rdN p 4 = z % 2 ^ 32 then some (y % 2 ^ 32) else none, some (decide (s.rdN p 4 = z % 2 ^ 32))), (.acasD c gu d a b, 8, if s.rdN p 8 = z then some y else none, some (decide (s.rdN p 8 = z)))] : List (Instr × Nat × Option Nat × Option Bool))).any (fun x => x.1 == i) = true) ∧
    s.runs i = true ∧
    (p / 64) ∉ s.dirtyLines c.val ∧
    s.lineHeld c.val (p / 64) = false ∧
    let ok := s.region p = .yard ∧ s.mayAccess c.val F.COX_WIN_CFG_R p p = true ∧ s.mayAccess c.val F.COX_WIN_CFG_W p p = true
    p % k = 0 ∧
    ok ∧
    s.poisoned p k = true) ∧
    (∃ (s : State) (c : Fin 16) (gu : Guard) (d : Fin 32) (a : Fin 32) (b : Fin 32), let ea := s.g c.val a.val
    let p := ea.toNat
    let y := (s.g c.val b.val).toNat
    let z := (s.g c.val d.val).toNat
    ∃ i, ∃ k, ((([ (.aaddW c gu d a b, 4, some ((s.rdN p 4 + y) % 2 ^ 32), none), (.aaddD c gu d a b, 8, some ((s.rdN p 8 + y) % 2 ^ 64), none), (.aswapW c gu d a b, 4, some (y % 2 ^ 32), none), (.aswapD c gu d a b, 8, some y, none), (.acasW c gu d a b, 4, if s.rdN p 4 = z % 2 ^ 32 then some (y % 2 ^ 32) else none, some (decide (s.rdN p 4 = z % 2 ^ 32))), (.acasD c gu d a b, 8, if s.rdN p 8 = z then some y else none, some (decide (s.rdN p 8 = z)))] : List (Instr × Nat × Option Nat × Option Bool))).any (fun x => x.1 == i) = true) ∧
    s.runs i = true ∧
    (p / 64) ∉ s.dirtyLines c.val ∧
    s.lineHeld c.val (p / 64) = false ∧
    let ok := s.region p = .yard ∧ s.mayAccess c.val F.COX_WIN_CFG_R p p = true ∧ s.mayAccess c.val F.COX_WIN_CFG_W p p = true
    let watched := (s.core c.val).watched 60 p || (s.core c.val).watched 61 p
    p % k = 0 ∧
    ok ∧
    s.poisoned p k = false ∧
    watched = true) ∧
    (∃ (s : State) (c : Fin 16) (gu : Guard) (d : Fin 32) (a : Fin 32) (b : Fin 32), let ea := s.g c.val a.val
    let p := ea.toNat
    let y := (s.g c.val b.val).toNat
    let z := (s.g c.val d.val).toNat
    ∃ i, ∃ k, ((([ (.aaddW c gu d a b, 4, some ((s.rdN p 4 + y) % 2 ^ 32), none), (.aaddD c gu d a b, 8, some ((s.rdN p 8 + y) % 2 ^ 64), none), (.aswapW c gu d a b, 4, some (y % 2 ^ 32), none), (.aswapD c gu d a b, 8, some y, none), (.acasW c gu d a b, 4, if s.rdN p 4 = z % 2 ^ 32 then some (y % 2 ^ 32) else none, some (decide (s.rdN p 4 = z % 2 ^ 32))), (.acasD c gu d a b, 8, if s.rdN p 8 = z then some y else none, some (decide (s.rdN p 8 = z)))] : List (Instr × Nat × Option Nat × Option Bool))).any (fun x => x.1 == i) = true) ∧
    s.runs i = true ∧
    (p / 64) ∉ s.dirtyLines c.val ∧
    s.lineHeld c.val (p / 64) = false ∧
    let ok := s.region p = .yard ∧ s.mayAccess c.val F.COX_WIN_CFG_R p p = true ∧ s.mayAccess c.val F.COX_WIN_CFG_W p p = true
    let watched := (s.core c.val).watched 60 p || (s.core c.val).watched 61 p
    p % k = 0 ∧
    ok ∧
    s.poisoned p k = false ∧
    watched = false) ∧
    (∃ (s : State) (c : Fin 16) (gu : Guard) (d : Fin 32) (a : Fin 32) (b : Fin 32), let ea := s.g c.val a.val
    let p := ea.toNat
    let y := (s.g c.val b.val).toNat
    let z := (s.g c.val d.val).toNat
    ∃ i, ∃ k, ∃ new, ∃ p7, ((i, k, new, p7) ∈ ([ (.aaddW c gu d a b, 4, some ((s.rdN p 4 + y) % 2 ^ 32), none), (.aaddD c gu d a b, 8, some ((s.rdN p 8 + y) % 2 ^ 64), none), (.aswapW c gu d a b, 4, some (y % 2 ^ 32), none), (.aswapD c gu d a b, 8, some y, none), (.acasW c gu d a b, 4, if s.rdN p 4 = z % 2 ^ 32 then some (y % 2 ^ 32) else none, some (decide (s.rdN p 4 = z % 2 ^ 32))), (.acasD c gu d a b, 8, if s.rdN p 8 = z then some y else none, some (decide (s.rdN p 8 = z)))] : List (Instr × Nat × Option Nat × Option Bool))) ∧
    s.runs i = true ∧
    (p / 64) ∉ s.dirtyLines c.val ∧
    s.lineHeld c.val (p / 64) = false ∧
    let ok := s.region p = .yard ∧ s.mayAccess c.val F.COX_WIN_CFG_R p p = true ∧ s.mayAccess c.val F.COX_WIN_CFG_W p p = true
    let watched := (s.core c.val).watched 60 p || (s.core c.val).watched 61 p
    p % k = 0 ∧
    ok ∧
    s.poisoned p k = false ∧
    watched = false ∧
    (∀ v ∈ new, s.storeUse p (leBytes k v) = none) ∧
    s.swPlain p = true ∧
    s.swPlain (p + k - 1) = true) ∧
    (∃ (s : State) (c : Fin 16), (s.core c.val).atomic = none) ∧
    (∃ (s : State) (c : Fin 16), ∃ w, (s.core c.val).atomic = some w ∧
    (s.core c.val).wait = .none) :=
  ⟨⟨stAtomics0, 4, 0, 3, 1, 2, .acasD 4 0 3 1 2, 8, by decide +kernel⟩,
   ⟨stAtomics1, 4, 0, 3, 1, 2, .acasD 4 0 3 1 2, 8, by decide +kernel⟩,
   ⟨stAtomics2, 4, 0, 3, 1, 2, .acasD 4 0 3 1 2, 8, by decide +kernel⟩,
   ⟨stAtomics3, 4, 0, 3, 1, 2, .acasW 4 0 3 1 2, 4, by decide +kernel⟩,
   ⟨stAtomics4, 4, 0, 3, 1, 2, .acasD 4 0 3 1 2, 8, by decide +kernel⟩,
   ⟨stAtomics5, 4, 0, 3, 1, 2, .aswapD 4 0 3 1 2, 8, some ((stAtomics5).g 4 2).toNat, none, by decide +kernel⟩,
   ⟨stAtomics6, 4, by decide +kernel⟩,
   ⟨stAtomics7, 4, (⟨3, 77, some false⟩ : AtomicWait), by decide +kernel⟩⟩

/-- States and operands that meet the hypotheses of each clause of `Obligations.ControlTransfer`. -/
theorem witness_ControlTransfer :
    (∃ (s : State) (c : Fin 16) (gu : Guard) (off : BitVec 22), s.runs (.b c gu off) = true) ∧
    (∃ (s : State) (c : Fin 16) (gu : Guard) (off : BitVec 22), s.runs (.call c gu off) = true) ∧
    (∃ (s : State) (c : Fin 16) (gu : Guard) (a : Fin 32), let n := c.val
    let x := s.g n a.val
    s.runs (.jr c gu a) = true ∧
    x.toNat % 4 = 0) ∧
    (∃ (s : State) (c : Fin 16) (gu : Guard) (a : Fin 32), let n := c.val
    let x := s.g n a.val
    s.runs (.jr c gu a) = true ∧
    x.toNat % 4 ≠ 0) ∧
    (∃ (s : State) (c : Fin 16) (gu : Guard) (d : Fin 32) (a : Fin 32), let n := c.val
    let x := s.g n a.val
    s.runs (.jalr c gu d a) = true ∧
    x.toNat % 4 = 0) ∧
    (∃ (s : State) (c : Fin 16) (gu : Guard) (d : Fin 32) (a : Fin 32), let n := c.val
    let x := s.g n a.val
    s.runs (.jalr c gu d a) = true ∧
    x.toNat % 4 ≠ 0) ∧
    (∃ (s : State) (c : Fin 16) (gu : Guard), let n := c.val
    let k := s.core n
    s.runs (.retE c gu) = true ∧
    k.epc.toNat % 4 = 0 ∧
    k.ppriv ≤ 2) ∧
    (∃ (s : State) (c : Fin 16) (gu : Guard), let n := c.val
    let k := s.core n
    s.runs (.retE c gu) = true ∧
    k.epc.toNat % 4 ≠ 0) :=
  ⟨⟨stControlTransfer0, 4, 0, 4, by decide +kernel⟩,
   ⟨stControlTransfer0, 4, 0, 4, by decide +kernel⟩,
   ⟨stControlTransfer2, 4, 0, 1, by decide +kernel⟩,
   ⟨stControlTransfer0, 4, 0, 1, by decide +kernel⟩,
   ⟨stControlTransfer2, 4, 0, 0, 1, by decide +kernel⟩,
   ⟨stControlTransfer0, 4, 0, 0, 1, by decide +kernel⟩,
   ⟨stControlTransfer6, 0, 0, by decide +kernel⟩,
   ⟨stControlTransfer7, 0, 0, by decide +kernel⟩⟩
end Sys2Proof.Tests.P18

namespace Sys2Proof.Tests.P19

open Sys2Proof Sys2Proof.Machine Sys2Proof.Tests

set_option synthInstance.maxHeartbeats 2000000
set_option synthInstance.maxSize 4000

def win (n k base fl : Nat) (s : State) : State := (s.wr R.COX_WIN_BASE (base / 2^16) n k).wr R.COX_WIN_CFG fl n k
def wins (n : Nat) (c : Nat) (s : State) : State :=
  win n 0 0 (28 + 0xEC0 - (if c = 0 then 0x400 else 0)) (win n 1 0x38000000 (27 + 0xAC0) (win n 2 0x80000000 (31 + 0xAC0) (win n 3 0x100000000 (32 + 0xEC0) (win n 4 0x20000000 (24 + 0xAC0) (win n 5 0x40000000 (24 + 0xAC0) s)))))
def mk (n : Nat) (p : Priv) (f : Core → Core) (s : State) : State := s.setCore n (f { Core.reset n with run := .running, priv := p, pc := BitVec.ofNat 64 (0x20000000 + n * 0x100000 + 0x100), tvec := 0x20400200, umask := 0xff, g := [(1, 5), (2, 9), (3, 0xdeadbeef12345678)], icache := [], p := 1 })
def Sx : State := S0.set F.DRC_CAP_GIB 8 0 |>.wrBytes 0x00100000 ((List.range 8).map (BitVec.ofNat 8)) |>.wrBytes 0x20400000 ((List.range 8).map (fun i => BitVec.ofNat 8 (200 - i)))
def line (a : Nat) (d : Bool) : List (Nat × CacheLine) := [(a / 64, ⟨(List.range 64).map (fun i => BitVec.ofNat 8 (i * 3 + 128)), d⟩)]
def cs (n : Nat) (p : Priv) (c a : Nat) (f : Core → Core) : State := mk n p (fun k => f { k with g := [(1, BitVec.ofNat 64 a), (2, 9), (3, 0xdeadbeef12345678)] }) (wins n c Sx)

def evs : List (Nat × Nat) := [(3, 65536 + 0x1C5), (63, 65536 + 0x3E0)]
def pfs (b : Nat) (tr : Option (Nat × Nat × Nat)) : State := let s := cs 4 .m 0 5 id |>.set F.PERF_STAT_DUMP_BUSY b; { s with perf := { s.perf with trigger := tr } }


def snapB : State := up (pfs 1 (some (3, 1, 2))) 5
def snapN : State := up (pfs 0 none) 5
def snapT : State := up (pfs 0 (some (3, 1, 2))) 5
def snapE : State := up (pfs 0 (some (3, 1, 2))) 35

def stWaitsAndServices0 : State := cs 0 .w 0 9223372036854775808 (fun k => { k with g := [(1, 9223372036854775808), (2, 18446744073709551615)], evpend := 0x8000000000000008, evslot := evs })
def stWaitsAndServices1 : State := cs 0 .w 0 9223372036854775808 (fun k => { k with g := [(1, 9223372036854775808), (2, 0)], evpend := 0x0, evslot := evs })
def stWaitsAndServices2 : State := cs 0 .w 0 9223372036854775808 (fun k => { k with g := [(1, 9223372036854775808), (2, 18446744073709551615)], evpend := 0x8, evslot := evs })
def stWaitsAndServices4 : State := cs 4 .m 0 9223372036854775808 (fun k => { k with g := [(1, 9223372036854775808), (2, 18446744073709551615)], evpend := 0x8, evslot := evs })
def stWaitsAndServices6 : State := cs 4 .m 0 0 (fun k => { k with wait := .wait 0 8 (some 99) })
def stWaitsAndServices7 : State := (cs 4 .m 0 0 (fun k => { k with wait := .sys 7 99 })).withClocks 5 0 99 0 S0.time
def stWaitsAndServices8 : State := (cs 4 .m 0 0 (fun k => { k with wait := .sys 7 99 })).withClocks 5 0 100 0 S0.time
def stSystemInstructions0 : State := pfs 1 (some (3,1,2))
def stSystemInstructions7 : State := mk 4 .m (fun k => { k with evpend := 0xff, evslot := evs, scratch := 7, epc := 9, cause := 3, ppriv := 1 }) Sx
def stSystemInstructions8 : State := mk 4 .m (fun k => { k with g := [(1, 18446744073709551615)], evpend := 0xff, evslot := evs, scratch := 7, epc := 9, cause := 3, ppriv := 1 }) Sx
def stFlush0 : State := cs 4 .m 0 0x100008 (fun k => { k with dcache := line 0x100008 true ++ line 0x100048 true, icache := [0x100000/64, 5, 0x20400100/64] })
def stFlush1 : State := cs 4 .m 1 0x100008 (fun k => { k with dcache := line 0x100008 false, icache := [0x100000/64, 5, 0x20400100/64] })
def stFlush2 : State := cs 4 .m 1 0x100008 (fun k => { k with dcache := line 0x100008 true ++ line 0x100048 true, icache := [0x100000/64, 5, 0x20400100/64] })
def stFlush4 : State := cs 4 .m 1 0x100008 (fun k => { k with dcache := line 0x100008 false, icache := [5, 0x20400100/64] })
/-- States and operands that meet the hypotheses of each clause of `Obligations.WaitsAndServices`. -/
theorem witness_WaitsAndServices :
    (∃ (s : State) (c : Fin 16) (gu : Guard) (d : Fin 32) (a : Fin 32) (b : Fin 32), let n := c.val
    let k := s.core n
    let mask := (s.g n a.val).toNat
    s.runs (.wait c gu d a b) = true ∧
    (∃ j < 64, bitAt k.evpend j = true ∧ bitAt mask j = true)) ∧
    (∃ (s : State) (c : Fin 16) (gu : Guard) (d : Fin 32) (a : Fin 32) (b : Fin 32), let n := c.val
    let k := s.core n
    let mask := (s.g n a.val).toNat
    let lim := s.g n b.val
    let calm := s.budgetNew n = false ∧ ∀ i < 176, bitAt (s.pmcCfg i) 8 = false
    s.runs (.wait c gu d a b) = true ∧
    calm ∧
    (∀ j < 64, bitAt mask j = true → bitAt k.evpend j = false) ∧
    lim = 0) ∧
    (∃ (s : State) (c : Fin 16) (gu : Guard) (d : Fin 32) (a : Fin 32) (b : Fin 32), let n := c.val
    let k := s.core n
    let mask := (s.g n a.val).toNat
    let lim := s.g n b.val
    let calm := s.budgetNew n = false ∧ ∀ i < 176, bitAt (s.pmcCfg i) 8 = false
    s.runs (.wait c gu d a b) = true ∧
    calm ∧
    (∀ j < 64, bitAt mask j = true → bitAt k.evpend j = false) ∧
    lim ≠ 0) ∧
    (∃ (s : State) (c : Fin 16) (gu : Guard) (d : Fin 32), s.runs (.tick c gu d) = true) ∧
    (∃ (s : State) (c : Fin 16) (gu : Guard) (svc : BitVec 12), let n := c.val
    let k := s.core n
    s.runs (.sys c gu svc) = true ∧
    k.priv = .m) ∧
    (∃ (s : State) (c : Fin 16) (gu : Guard) (svc : BitVec 12), let n := c.val
    let k := s.core n
    s.runs (.sys c gu svc) = true ∧
    k.priv = .w) ∧
    (∃ (s : State) (c : Fin 16), let n := c.val
    let k := s.core n
    ∃ d, ∃ m, ∃ e, k.wait = .wait d m (some e)) ∧
    (∃ (s : State) (c : Fin 16), let n := c.val
    let k := s.core n
    ∃ v, ∃ e, k.wait = .sys v e ∧
    s.upNs ≤ e) ∧
    (∃ (s : State) (c : Fin 16), let n := c.val
    let k := s.core n
    ∃ v, ∃ e, k.wait = .sys v e ∧
    e < s.upNs) ∧
    (∃ (s : State) (c : Fin 16), let n := c.val
    let k := s.core n
    ∃ v, ∃ e, k.wait = .sys v e) :=
  ⟨⟨stWaitsAndServices0, 0, 0, 3, 1, 2, by decide +kernel⟩,
   ⟨stWaitsAndServices1, 0, 0, 0, 1, 2, by decide +kernel⟩,
   ⟨stWaitsAndServices2, 0, 0, 3, 1, 2, by decide +kernel⟩,
   ⟨stWaitsAndServices0, 0, 0, 3, by decide +kernel⟩,
   ⟨stWaitsAndServices4, 4, 0, 7, by decide +kernel⟩,
   ⟨stWaitsAndServices0, 0, 0, 7, by decide +kernel⟩,
   ⟨stWaitsAndServices6, 4, 0, 8, 99, by decide +kernel⟩,
   ⟨stWaitsAndServices7, 4, 7, 99, by decide +kernel⟩,
   ⟨stWaitsAndServices8, 4, 7, 99, by decide +kernel⟩,
   ⟨stWaitsAndServices8, 4, 7, 99, by decide +kernel⟩⟩

/-- States and operands that meet the hypotheses of each clause of `Obligations.SystemInstructions`. -/
theorem witness_SystemInstructions :
    (∃ (s : State) (c : Fin 16) (gu : Guard) (d : Fin 32), s.runs (.time c gu d) = true) ∧
    (∃ (s : State) (c : Fin 16) (gu : Guard), let busy := s.flag F.PERF_STAT_DUMP_BUSY && s.perf.epochAt != s.upNs
    s.runs (.snap c gu) = true ∧
    (∀ at' c r, s.perf.trigger = some (at', c, r) → s.upNs < at' + 32) ∧
    busy = true) ∧
    (∃ (s : State) (c : Fin 16) (gu : Guard), let busy := s.flag F.PERF_STAT_DUMP_BUSY && s.perf.epochAt != s.upNs
    s.runs (.snap c gu) = true ∧
    (∀ at' c r, s.perf.trigger = some (at', c, r) → s.upNs < at' + 32) ∧
    busy = false ∧
    s.perf.trigger = none) ∧
    (∃ (s : State) (c : Fin 16) (gu : Guard), let busy := s.flag F.PERF_STAT_DUMP_BUSY && s.perf.epochAt != s.upNs
    s.runs (.snap c gu) = true ∧
    (∀ at' c r, s.perf.trigger = some (at', c, r) → s.upNs < at' + 32) ∧
    busy = false ∧
    s.perf.trigger.isSome = true) ∧
    (∃ (s : State) (c : Fin 16) (gu : Guard), s.runs (.snap c gu) = true ∧
    ∃ at', ∃ x, ∃ r, s.perf.trigger = some (at', x, r) ∧
    at' + 32 ≤ s.upNs) ∧
    (∃ (s : State) (c : Fin 16) (gu : Guard), s.runs (.fence c gu) = true) ∧
    (∃ (s : State) (c : Fin 16) (gu : Guard), s.runs (.halt c gu) = true) ∧
    (∃ (s : State) (c : Fin 16) (gu : Guard) (d : Fin 32) (a : Fin 32) (cc : BitVec 12), s.runs (.csrr c gu d a cc) = true) ∧
    (∃ (s : State) (c : Fin 16) (gu : Guard) (d : Fin 32) (a : Fin 32) (cc : BitVec 12), let n := c.val
    let v := s.g n a.val
    let q := cc.toNat
    s.runs (.csrw c gu d a cc) = true ∧
    ccReserved q v = true) ∧
    (∃ (s : State) (c : Fin 16) (gu : Guard) (d : Fin 32) (a : Fin 32) (cc : BitVec 12), let n := c.val
    let v := s.g n a.val
    let q := cc.toNat
    s.runs (.csrw c gu d a cc) = true ∧
    ccReserved q v = false) :=
  ⟨⟨stSystemInstructions0, 4, 0, 3, by decide +kernel⟩,
   ⟨snapB, 4, 0, by decide +kernel, fun _ _ _ h => by (rw [show snapB.perf.trigger = some (3, 1, 2) from by decide +kernel] at h; cases h; decide +kernel), by decide +kernel⟩,
   ⟨snapN, 4, 0, by decide +kernel, fun _ _ _ h => by (rw [show snapN.perf.trigger = none from by decide +kernel] at h; cases h), by decide +kernel⟩,
   ⟨snapT, 4, 0, by decide +kernel, fun _ _ _ h => by (rw [show snapT.perf.trigger = some (3, 1, 2) from by decide +kernel] at h; cases h; decide +kernel), by decide +kernel⟩,
   ⟨snapE, 4, 0, by decide +kernel, 3, 1, 2, by decide +kernel⟩,
   ⟨stSystemInstructions0, 4, 0, by decide +kernel⟩,
   ⟨stSystemInstructions0, 4, 0, by decide +kernel⟩,
   ⟨stSystemInstructions7, 4, 0, 3, 0, 127, by decide +kernel⟩,
   ⟨stSystemInstructions8, 4, 0, 3, 1, 0, by decide +kernel⟩,
   ⟨stSystemInstructions8, 4, 0, 3, 1, 1, by decide +kernel⟩⟩

/-- States and operands that meet the hypotheses of each clause of `Obligations.Flush`. -/
theorem witness_Flush :
    (∃ (s : State) (c : Fin 16) (gu : Guard) (a : Fin 32) (mode : Fin 32), s.runs (.flush c gu a mode) = true ∧
    let n := c.val
    let ea := (s.g n a.val).toNat
    let ok := ea < 2 ^ 48 ∧ s.cacheable n (coreAddr n ea) = true
    let m := mode.val
    (m = 0 ∨ m = 1 ∨ m = 2 ∨ m = 6) ∧
    (¬ ok)) ∧
    (∃ (s : State) (c : Fin 16) (gu : Guard) (a : Fin 32) (mode : Fin 32), s.runs (.flush c gu a mode) = true ∧
    let n := c.val
    let ea := (s.g n a.val).toNat
    let line := coreAddr n ea / 64
    let ok := ea < 2 ^ 48 ∧ s.cacheable n (coreAddr n ea) = true
    let m := mode.val
    (m = 0 ∨ m = 2) ∧
    ok ∧
    line ∉ s.dirtyLines n) ∧
    (∃ (s : State) (c : Fin 16) (gu : Guard) (a : Fin 32) (mode : Fin 32), s.runs (.flush c gu a mode) = true ∧
    let n := c.val
    let k := s.core n
    let ea := (s.g n a.val).toNat
    let line := coreAddr n ea / 64
    let ok := ea < 2 ^ 48 ∧ s.cacheable n (coreAddr n ea) = true
    let m := mode.val
    let old := s.lineBytes n line
    (m = 0 ∨ m = 2) ∧
    ok ∧
    (k.dcache.find? (fun e => e.1 == line) = some (line, { bytes := old, dirty := true })) ∧
    (KMap.wf (fun _ => { bytes := [], dirty := false }) k.dcache = true) ∧
    old.length = 64) ∧
    (∃ (s : State) (c : Fin 16) (gu : Guard) (a : Fin 32) (mode : Fin 32), s.runs (.flush c gu a mode) = true ∧
    let n := c.val
    let ea := (s.g n a.val).toNat
    let ok := ea < 2 ^ 48 ∧ s.cacheable n (coreAddr n ea) = true
    let m := mode.val
    m = 1 ∧
    ok) ∧
    (∃ (s : State) (c : Fin 16) (gu : Guard) (a : Fin 32) (mode : Fin 32), s.runs (.flush c gu a mode) = true ∧
    let m := mode.val
    m = 4) ∧
    (∃ (s : State) (c : Fin 16) (gu : Guard) (a : Fin 32) (mode : Fin 32), s.runs (.flush c gu a mode) = true ∧
    let n := c.val
    let m := mode.val
    (m = 3 ∨ m = 5) ∧
    s.dirtyLines n = []) ∧
    (∃ (s : State) (c : Fin 16) (gu : Guard) (a : Fin 32) (mode : Fin 32), s.runs (.flush c gu a mode) = true ∧
    let m := mode.val
    (m = 3 ∨ m = 5)) ∧
    (∃ (s : State) (c : Fin 16) (gu : Guard) (a : Fin 32) (mode : Fin 32), s.runs (.flush c gu a mode) = true ∧
    let n := c.val
    let ea := (s.g n a.val).toNat
    let ok := ea < 2 ^ 48 ∧ s.cacheable n (coreAddr n ea) = true
    let m := mode.val
    m = 6 ∧
    ok) ∧
    (∃ (s : State) (c : Fin 16) (gu : Guard) (a : Fin 32) (mode : Fin 32), s.runs (.flush c gu a mode) = true ∧
    let m := mode.val
    m = 7) :=
  ⟨⟨stFlush0, 4, 0, 1, 6, by decide +kernel⟩,
   ⟨stFlush1, 4, 0, 1, 2, by decide +kernel⟩,
   ⟨stFlush2, 4, 0, 1, 2, by decide +kernel⟩,
   ⟨stFlush2, 4, 0, 1, 1, by decide +kernel⟩,
   ⟨stFlush4, 4, 0, 0, 4, by decide +kernel⟩,
   ⟨stFlush4, 4, 0, 0, 5, by decide +kernel⟩,
   ⟨stFlush4, 4, 0, 0, 5, by decide +kernel⟩,
   ⟨stFlush2, 4, 0, 1, 6, by decide +kernel⟩,
   ⟨stFlush4, 4, 0, 0, 7, by decide +kernel⟩⟩
end Sys2Proof.Tests.P19

namespace Sys2Proof.Tests.P20

open Sys2Proof Sys2Proof.Machine Sys2Proof.Tests

def win (n k base fl : Nat) (s : State) : State := (s.wr R.COX_WIN_BASE (base / 2^16) n k).wr R.COX_WIN_CFG fl n k
def wins (n : Nat) (c : Nat) (s : State) : State :=
  win n 0 0 (28 + 0xEC0 - (if c = 0 then 0x400 else 0)) (win n 1 0x38000000 (27 + 0xAC0) (win n 2 0x80000000 (31 + 0xAC0) (win n 3 0x100000000 (32 + 0xEC0) (win n 4 0x20000000 (24 + 0xAC0) (win n 5 0x40000000 (24 + 0xAC0) s)))))
def mk (n : Nat) (p : Priv) (f : Core → Core) (s : State) : State := s.setCore n (f { Core.reset n with run := .running, priv := p, pc := BitVec.ofNat 64 (0x20000000 + n * 0x100000 + 0x100), tvec := 0x20400200, umask := 0xff, g := [(1, 5), (2, 9), (3, 0xdeadbeef12345678)], icache := [], p := 1 })
def Sx : State := S0.set F.DRC_CAP_GIB 8 0 |>.wrBytes 0x00100000 ((List.range 8).map (BitVec.ofNat 8)) |>.wrBytes 0x20400000 ((List.range 8).map (fun i => BitVec.ofNat 8 (200 - i)))
def cs (n : Nat) (p : Priv) (c a : Nat) (f : Core → Core) : State := mk n p (fun k => f { k with g := [(1, BitVec.ofNat 64 a), (2, 9), (3, 0xdeadbeef12345678)] }) (wins n c Sx)

def ring20 (pr lc es pi ci : Nat) (s : State) : State := mkRing 5 0x00180000 lc es pr 18 pi ci s

def stRingInstructions0 : State := ring20 0 1 2 7 6 (cs 4 .u 0 0x10000c id)
def stRingInstructions1 : State := ring20 0 1 2 7 6 (cs 4 .u 0 0x50000000 id)
def stRingInstructions2 : State := ring20 0 1 2 7 6 (cs 4 .u 0 0x100008 id)
def stRingInstructions5 : State := ring20 4 1 1 7 6 (cs 4 .m 0 0x100008 (fun k => { k with wait := .issue 1 5 2 }))
def stRingInstructions6 : State := ring20 4 4 1 7 6 (cs 4 .m 0 0x100008 (fun k => { k with wait := .issue 1 5 2 }))
def stRingInstructions8 : State := ring20 4 4 1 0xffffffff 6 (cs 4 .m 0 5 id)
/-- States and operands that meet the hypotheses of each clause of `Obligations.RingInstructions`. -/
theorem witness_RingInstructions :
    (∃ (s : State) (c : Fin 16) (gu : Guard) (a : Fin 32) (ring : Fin 8192) (count : Fin 16), let n := c.val
    let ea := s.g n a.val
    ∃ i, i ∈ ([.issue c gu a ring count, .issueNb c gu a ring count] : List Instr) ∧
    s.runs i = true ∧
    ea.toNat % 8 ≠ 0) ∧
    (∃ (s : State) (c : Fin 16) (gu : Guard) (a : Fin 32) (ring : Fin 8192) (count : Fin 16), let n := c.val
    let r := ring.val
    let k := count.val + 1
    let e := s.ringEsize r
    let ea := s.g n a.val
    let readable := s.mayReadAll c ea.toNat (k * e)
    ∃ i, i ∈ ([.issue c gu a ring count, .issueNb c gu a ring count] : List Instr) ∧
    s.runs i = true ∧
    ea.toNat % 8 = 0 ∧
    readable = false) ∧
    (∃ (s : State) (c : Fin 16) (gu : Guard) (a : Fin 32) (ring : Fin 8192) (count : Fin 16), let n := c.val
    let r := ring.val
    let k := count.val + 1
    let e := s.ringEsize r
    let ea := s.g n a.val
    let readable := s.mayReadAll c ea.toNat (k * e)
    let room := s.ringEn r && decide (k ≤ 2 ^ s.ringLogCap r - s.ringFill r)
    ∃ i, i ∈ ([.issue c gu a ring count, .issueNb c gu a ring count] : List Instr) ∧
    s.runs i = true ∧
    ea.toNat % 8 = 0 ∧
    readable = true ∧
    room = true) ∧
    (∃ (s : State) (c : Fin 16) (gu : Guard) (a : Fin 32) (ring : Fin 8192) (count : Fin 16), let n := c.val
    let r := ring.val
    let k := count.val + 1
    let e := s.ringEsize r
    let ea := s.g n a.val
    let readable := s.mayReadAll c ea.toNat (k * e)
    let room := s.ringEn r && decide (k ≤ 2 ^ s.ringLogCap r - s.ringFill r)
    ∃ i, i ∈ ([.issue c gu a ring count, .issueNb c gu a ring count] : List Instr) ∧
    s.runs i = true ∧
    ea.toNat % 8 = 0 ∧
    readable = true ∧
    room = false ∧
    i = .issue c gu a ring count) ∧
    (∃ (s : State) (c : Fin 16) (gu : Guard) (a : Fin 32) (ring : Fin 8192) (count : Fin 16), let n := c.val
    let r := ring.val
    let k := count.val + 1
    let e := s.ringEsize r
    let ea := s.g n a.val
    let readable := s.mayReadAll c ea.toNat (k * e)
    let room := s.ringEn r && decide (k ≤ 2 ^ s.ringLogCap r - s.ringFill r)
    ∃ i, i ∈ ([.issue c gu a ring count, .issueNb c gu a ring count] : List Instr) ∧
    s.runs i = true ∧
    ea.toNat % 8 = 0 ∧
    readable = true ∧
    room = false ∧
    i = .issueNb c gu a ring count) ∧
    (∃ (s : State) (c : Fin 16) (a : Nat) (r : Nat) (k : Nat), (s.core c.val).wait = .issue a r k ∧
    s.ringTakes r k = false) ∧
    (∃ (s : State) (c : Fin 16) (a : Nat) (r : Nat) (k : Nat), (s.core c.val).wait = .issue a r k ∧
    s.ringTakes r k = true) ∧
    (∃ (s : State) (c : Fin 16) (a : Nat) (r : Nat) (k : Nat), (s.core c.val).wait = .issue a r k ∧
    let n := c.val
    let e := s.ringEsize r
    let src (j : Nat) : Nat := coreAddr n ((s.g n a).toNat + j * e)
    let dst (j : Nat) : Nat := s.ringElem r (s.ringPI r + j)
    s.ringTakes r k = true ∧
    1 ≤ k ∧
    r < 8192 ∧
    s.ringProd r = n ∧
    s.ringClash r = none ∧
    (∀ j < k, ∀ b < e, s.region (src j + b) ≠ .regs) ∧
    (∀ i < k, plainRange (dst i) e = true ∧ (dst i + e ≤ ringCtx 0 ∨ ringCtx 8192 ≤ dst i) ∧ ∀ j < k, dst i + e ≤ src j ∨ src j + e ≤ dst i)) ∧
    (∃ (s : State) (c : Fin 16) (gu : Guard) (d : Fin 32) (ring : Fin 8192) (count : Fin 16), s.runs (.ring c gu d ring count) = true) :=
  ⟨⟨stRingInstructions0, 4, 0, 1, 5, 1, .issueNb 4 0 1 5 1, by decide +kernel⟩,
   ⟨stRingInstructions1, 4, 0, 1, 5, 1, .issueNb 4 0 1 5 1, by decide +kernel⟩,
   ⟨stRingInstructions2, 4, 0, 1, 5, 0, .issueNb 4 0 1 5 0, by decide +kernel⟩,
   ⟨stRingInstructions2, 4, 0, 1, 5, 1, .issue 4 0 1 5 1, by decide +kernel⟩,
   ⟨stRingInstructions2, 4, 0, 1, 5, 1, .issueNb 4 0 1 5 1, by decide +kernel⟩,
   ⟨stRingInstructions5, 4, 1, 5, 2, by decide +kernel⟩,
   ⟨stRingInstructions6, 4, 1, 5, 2, by decide +kernel⟩,
   ⟨stRingInstructions6, 4, 1, 5, 2, by decide +kernel⟩,
   ⟨stRingInstructions8, 4, 0, 0, 5, 3, by decide +kernel⟩⟩
end Sys2Proof.Tests.P20

namespace Sys2Proof.Tests.P21

open Sys2Proof Sys2Proof.Machine Sys2Proof.Tests

def win (n k base fl : Nat) (s : State) : State := (s.wr R.COX_WIN_BASE (base / 2^16) n k).wr R.COX_WIN_CFG fl n k
def wins (n : Nat) (c : Nat) (s : State) : State :=
  win n 0 0 (28 + 0xEC0 - (if c = 0 then 0x400 else 0)) (win n 1 0x38000000 (27 + 0xAC0) (win n 2 0x80000000 (31 + 0xAC0) (win n 3 0x100000000 (32 + 0xEC0) (win n 4 0x20000000 (24 + 0xAC0) (win n 5 0x40000000 (24 + 0xAC0) s)))))
def mk (n : Nat) (p : Priv) (f : Core → Core) (s : State) : State := s.setCore n (f { Core.reset n with run := .running, priv := p, pc := BitVec.ofNat 64 (0x20000000 + n * 0x100000 + 0x100), tvec := 0x20400200, umask := 0xff, g := [(1, 5), (2, 9), (3, 0xdeadbeef12345678)], icache := [], p := 1 })
def Sx : State := S0.set F.DRC_CAP_GIB 8 0 |>.wrBytes 0x00100000 ((List.range 8).map (BitVec.ofNat 8)) |>.wrBytes 0x20400000 ((List.range 8).map (fun i => BitVec.ofNat 8 (200 - i)))
def cs (n : Nat) (p : Priv) (c a : Nat) (f : Core → Core) : State := mk n p (fun k => f { k with g := [(1, BitVec.ofNat 64 a), (2, 9), (3, 0xdeadbeef12345678)] }) (wins n c Sx)

def c21 (n : Nat) (f : Core → Core) : State := cs n (if n < 4 then .w else .m) 0 5 f

def stCoreControl0 : State := (c21 4 id).set F.COX_STAT_SWAP 1 4
def stCoreControl4 : State := c21 4 (fun k => { k with budget := 0 })
def stCoreControl5 : State := (c21 0 (fun k => { k with budgetDue := true, inexc := true, budget := 9, bcount := 10 })).set F.COX_CTL_BUDGET_HALT 1 0
def stExceptionsAndGuards0 : State := (c21 4 (fun k => { k with atomic := some ⟨3, 7, none⟩, budget := 9 })).set F.COX_CTL_BUDGET_HALT 1 4
def stExceptionsAndGuards1 : State := (c21 4 (fun k => { k with budgetDue := true, inexc := true, budget := 9, bcount := 10 })).set F.COX_CTL_BUDGET_HALT 1 4
def stExceptionsAndGuards2 : State := (c21 4 (fun k => { k with budgetDue := true, budget := 9, bcount := 10 })).set F.COX_CTL_BUDGET_HALT 0 4
def stExceptionsAndGuards3 : State := ((c21 4 (fun k => { k with pc := 0x50000000 }))).set F.COX_CTL_BUDGET_HALT 1 4
def stExceptionsAndGuards4 : State := ((c21 4 (fun k => { k with watch1 := BitVec.ofNat 64 (0x20400100 + 7*2^60), inexc := true }))).set F.COX_CTL_BUDGET_HALT 1 4
def stExceptionsAndGuards5 : State := ((cs 4 .u 0 5 (fun k => { k with inexc := true }))).set F.COX_CTL_BUDGET_HALT 1 4
/-- States and operands that meet the hypotheses of each clause of `Obligations.CoreControl`. -/
theorem witness_CoreControl :
    (∃ (s : State) (who : Requester) (c : Fin 16), s.mayWrite who (R.COX_CTL.at c.val 0) = true) ∧
    (∃ (s : State) (who : Requester) (c : Fin 16), s.mayWrite who (R.COX_CTL.at c.val 0) = true) ∧
    (∃ (s : State) (who : Requester) (c : Fin 16), s.mayWrite who (R.COX_CTL.at c.val 0) = true) ∧
    (∃ (s : State) (who : Requester) (c : Fin 16) (hi : RegWord), s.mayPut who (R.COX_SWAP_HI.at c.val 0) hi = true) ∧
    (∃ (s : State) (c : Fin 16), let n := c.val
    let k := s.core n
    let counts := k.run = .running ∧ (k.wait = .none ∨ ∃ a r m, k.wait = .issue a r m)
    (¬ counts ∨ k.budget = 0 ∨ k.budgetHit = true)) ∧
    (∃ (s : State) (c : Fin 16), let n := c.val
    let k := s.core n
    let counts := k.run = .running ∧ (k.wait = .none ∨ ∃ a r m, k.wait = .issue a r m)
    counts ∧
    k.budget ≠ 0 ∧
    k.budgetHit = false) :=
  ⟨⟨stCoreControl0, (.core 0), 4, by decide +kernel⟩,
   ⟨stCoreControl0, (.core 0), 4, by decide +kernel⟩,
   ⟨stCoreControl0, (.core 0), 4, by decide +kernel⟩,
   ⟨stCoreControl0, (.core 0), 4, 0x10020, by decide +kernel⟩,
   ⟨stCoreControl4, 4, Or.inr (Or.inl (by decide +kernel))⟩,
   ⟨stCoreControl5, 0, ⟨by decide +kernel, Or.inl (by decide +kernel)⟩, by decide +kernel⟩⟩

/-- States and operands that meet the hypotheses of each clause of `Obligations.ExceptionsAndGuards`. -/
theorem witness_ExceptionsAndGuards :
    (∃ (s : State) (i : Instr) (c : Fin 16) (w : Nat), encodeGrasin i = some (c, w) ∧
    let n := c.val
    let k := s.core n
    k.idle = false) ∧
    (∃ (s : State) (i : Instr) (c : Fin 16) (w : Nat), encodeGrasin i = some (c, w) ∧
    let n := c.val
    let k := s.core n
    k.idle = true ∧
    s.budgetActs n = true ∧
    s.flag F.COX_CTL_BUDGET_HALT n = true) ∧
    (∃ (s : State) (i : Instr) (c : Fin 16) (w : Nat), encodeGrasin i = some (c, w) ∧
    let n := c.val
    let k := s.core n
    k.idle = true ∧
    s.budgetActs n = true ∧
    s.flag F.COX_CTL_BUDGET_HALT n = false) ∧
    (∃ (s : State) (i : Instr) (c : Fin 16) (w : Nat), encodeGrasin i = some (c, w) ∧
    let n := c.val
    let k := s.core n
    let pc := k.pc
    k.idle = true ∧
    s.budgetActs n = false ∧
    s.mayFetch n pc.toNat = false) ∧
    (∃ (s : State) (i : Instr) (c : Fin 16) (w : Nat), encodeGrasin i = some (c, w) ∧
    let n := c.val
    s.fetches n = true ∧
    illegalCode i = true) ∧
    (∃ (s : State) (i : Instr) (c : Fin 16) (w : Nat), encodeGrasin i = some (c, w) ∧
    let n := c.val
    let k := s.core n
    let uBad := uForbidden i = true ∧ k.priv = .u
    s.fetches n = true ∧
    illegalCode i = false ∧
    uBad) ∧
    (∃ (s : State) (i : Instr) (c : Fin 16) (w : Nat), encodeGrasin i = some (c, w) ∧
    let n := c.val
    let k := s.core n
    let uBad := uForbidden i = true ∧ k.priv = .u
    s.fetches n = true ∧
    illegalCode i = false ∧
    (¬ uBad) ∧
    s.guardOf n w = false) ∧
    (∃ (s : State) (i : Instr) (c : Fin 16) (w : Nat), encodeGrasin i = some (c, w) ∧
    let n := c.val
    let k := s.core n
    let pc := k.pc
    let uBad := uForbidden i = true ∧ k.priv = .u
    s.fetches n = true ∧
    illegalCode i = false ∧
    (¬ uBad) ∧
    s.guardOf n w = true ∧
    k.watched 62 pc.toNat = true) :=
  ⟨⟨stExceptionsAndGuards0, .retE 4 8, 4, ((encodeGrasin (.retE 4 8 : Instr)).getD (0,0)).2, by decide +kernel⟩,
   ⟨stExceptionsAndGuards1, .retE 4 8, 4, ((encodeGrasin (.retE 4 8 : Instr)).getD (0,0)).2, by decide +kernel⟩,
   ⟨stExceptionsAndGuards2, .retE 4 8, 4, ((encodeGrasin (.retE 4 8 : Instr)).getD (0,0)).2, by decide +kernel⟩,
   ⟨stExceptionsAndGuards3, .retE 4 8, 4, ((encodeGrasin (.retE 4 8 : Instr)).getD (0,0)).2, by decide +kernel⟩,
   ⟨stExceptionsAndGuards4, .ext 4 8 1 2 63 63, 4, ((encodeGrasin (.ext 4 8 1 2 63 63 : Instr)).getD (0,0)).2, by decide +kernel⟩,
   ⟨stExceptionsAndGuards5, .retE 4 8, 4, ((encodeGrasin (.retE 4 8 : Instr)).getD (0,0)).2, by decide +kernel⟩,
   ⟨stExceptionsAndGuards4, .retE 4 8, 4, ((encodeGrasin (.retE 4 8 : Instr)).getD (0,0)).2, by decide +kernel⟩,
   ⟨stExceptionsAndGuards4, .sw 4 10 1 2 3, 4, ((encodeGrasin (.sw 4 10 1 2 3 : Instr)).getD (0,0)).2, by decide +kernel⟩⟩
end Sys2Proof.Tests.P21

/-! ## Witnesses of the statements about every command -/
namespace Sys2Proof.Tests

open Sys2Proof Sys2Proof.Machine

theorem witness_StepRunsFrontCommand : (∃ (s : State) (c : Instr) (q : List Instr), s.pending = c :: q) ∧ (∃ s : State, s.pending = []) :=
  ⟨⟨{ S0 with pending := [.houseSyncMiss, .holdWake] }, .houseSyncMiss, [.holdWake], rfl⟩, S0, rfl⟩

theorem witness_ResetValues : ∃ (_ : Fin 16) (k : Nat), 1 ≤ k := ⟨15, 1, by decide⟩

theorem witness_DecodeOfEncode : ∃ (i : Instr) (c : Fin 16) (w : Nat), encodeGrasin i = some (c, w) :=
  ⟨.ring 15 15 31 8191 15, 15, 0xCBFFFFFF, by decide +kernel⟩

theorem witness_StepKeepsCanonicalStores :
    ∃ s t : State, Memory.wf s.mem = true ∧ Registers.wf s.regs = true ∧ step s = .next t :=
  ⟨State.reset, _, rfl, by decide +kernel, rfl⟩

end Sys2Proof.Tests

/-! ## Well-formed commands: each check refuses an ill-formed term -/
namespace Sys2Proof.Tests

open Sys2Proof Sys2Proof.Machine

theorem test_wf_registerWrite : Instr.wf (.registerWrite .host 0x41000000 1) = false ∧ Instr.wf (.registerWrite .host 0x40FFFFFC 1) = true := by
  decide
theorem test_wf_readClear : Instr.wf (.readClear .host 0x3FFFFFFF 0) = false := by decide
theorem test_wf_pairs : Instr.wf (.pairLoRead .host 0x41000000) = false ∧ Instr.wf (.pairLoWrite .host 0 0) = false ∧
    Instr.wf (.pairHiWrite .host 0x41000004 0) = false := by decide
theorem test_wf_bricks : Instr.wf (.ackReceived 0 (List.replicate 32 0)) = false ∧ Instr.wf (.rangeRReceived 0 (List.replicate 32 0) 0) = false ∧
    Instr.wf (.wackReceived 0 []) = false ∧ Instr.wf (.readRReceived 0 (List.replicate 32 0) []) = false ∧
    Instr.wf (.eventBrickReceived 0 [] (List.replicate 32 0)) = false ∧ Instr.wf (.upBrickDiscard 0 []) = false ∧
    Instr.wf (.ackReceived 0 (List.replicate 33 0)) = true := by decide
theorem test_wf_mortarBlock : Instr.wf (.mortarBlockReceived 0 [] [0, 4] [] []) = false ∧ Instr.wf (.mortarBlockReceived 0 [] [3] [0] []) = true := by decide
theorem test_wf_scrubRead : Instr.wf (.scrubRead 0 0xFFFFFFC0 .clean) = false ∧ Instr.wf (.scrubRead 0 0x4100000000 .clean) = false := by decide
theorem test_wf_kiln : Instr.wf (.kilnEvaluation [] (List.replicate 64 0)) = false ∧ Instr.wf (.sensorRound (List.replicate 15 0) (List.replicate 8 0)) = false := by
  decide
theorem test_wf_ledgerWindowRead : Instr.wf (.ledgerWindowRead 0x40000000) = false ∧ Instr.wf (.ledgerWindowRead 0x38000000) = true := by decide

/-! ## Instruction words, written out by the fields of R345: OP, D, A, B, FN, GUARD and the other formats -/

theorem test_word_integer : decodeGrasin 3 0b000000_00001_00010_00011_0000000_1001 = some (.add 3 9 1 2 3) := by decide +kernel
theorem test_word_immediate : decodeGrasin 3 0b001000_11111_00010_111111111111_0000 = some (.addi 3 0 31 2 0xFFF) := by decide +kernel
theorem test_word_compare : decodeGrasin 3 0b000001_00111_00010_00011_0000001_0000 = some (.cmpLt 3 0 7 2 3) := by decide +kernel
theorem test_word_multiply : decodeGrasin 3 0b000010_00001_00010_00011_0000010_0000 = some (.mulq 3 0 1 2 3) := by decide +kernel
theorem test_word_atomic : decodeGrasin 3 0b000011_00001_00010_00011_0000100_0000 = some (.acasW 3 0 1 2 3) := by decide +kernel
theorem test_word_control : decodeGrasin 3 0b000100_00001_00010_00000_0000001_0000 = some (.jalr 3 0 1 2) := by decide +kernel
theorem test_word_bitField : decodeGrasin 3 0b010011_00100_00101_000111_011111_0000 = some (.extu 3 0 4 5 7 31) := by decide +kernel
theorem test_word_constant : decodeGrasin 3 0b010111_00100_11111111111111111_0000 = some (.addpc 3 0 4 0x1FFFF) := by decide +kernel
theorem test_word_load : decodeGrasin 3 0b011001_00100_00101_000000001000_0000 = some (.lbu 3 0 4 5 8) := by decide +kernel
theorem test_word_store : decodeGrasin 3 0b100011_00100_00101_100000000000_0000 = some (.sd 3 0 4 5 0x800) := by decide +kernel
theorem test_word_branch : decodeGrasin 3 0b101001_0000000000000000000001_0000 = some (.call 3 0 1) := by decide +kernel
theorem test_word_ring : decodeGrasin 3 0b110010_00011_1000000000100_1111_0000 = some (.ring 3 0 3 4100 15) := by decide +kernel
theorem test_word_system : decodeGrasin 3 0b000111_00000_00000_000000000101_0000 = some (.sys 3 0 5) := by decide +kernel
/-- A reserved OP, and a field that the instruction does not use (R347). -/
theorem test_word_reserved : decodeGrasin 3 0b011111_00000_00000_00000_0000000_0000 = none := by decide +kernel
/-- No row of the table gives bits. -/
theorem test_no_table_word : decodeTableWord 32 0x54A80100 = none ∧ (S0.withFetchWord 32 0x54A80100).pending = [] := ⟨rfl, rfl⟩

/-! ## One step each, by the worked examples of the spec and by hand from its rules -/

/-- Core 0 at W in its own local store, with register values. -/
def cpu (l : List (Nat × Word)) : State :=
  S0.setCore 0 { Core.reset 0 with run := .running, priv := .w, pc := 0x20000018, g := l, icache := [], p := 1 }
/-- A register of core 0 after a step. -/
def gAfter (r : Res) (k : Nat) : Option Word := match r with | .next t => some (t.g 0 k) | _ => none
/-- The pc of core 0 after a step. -/
def pcAfter (r : Res) : Option Word := match r with | .next t => some (t.core 0).pc | _ => none

/-- The stroke loop's constant: (0x8010 << 17) | 0x40. -/
theorem test_lsh : gAfter (exec (.lsh 0 0 5 0x40) (cpu [(5, 0x8010)])) 5 = some 0x100200040 := by decide +kernel
/-- The stroke loop's branch: 0x018 − 4 × 4. -/
theorem test_b : pcAfter (exec (.b 0 0 (-4)) (cpu [])) = some 0x20000008 := by decide +kernel
/-- R350: sums wrap; the source is also the destination. -/
theorem test_add_wraps : gAfter (exec (.add 0 0 1 1 2) (cpu [(1, 0xFFFFFFFFFFFFFFFF), (2, 2)])) 1 = some 1 := by decide +kernel
/-- R348: g0 stays 0. -/
theorem test_g0 : gAfter (exec (.addi 0 0 0 1 7) (cpu [(1, 5)])) 0 = some 0 := by decide +kernel
/-- R355: −0.5 / 65,536 of the last place rounds to 0, ties towards +∞. -/
theorem test_mulq_tie : gAfter (exec (.mulq 0 0 3 1 2) (cpu [(1, 0xFFFFFFFF), (2, 0x8000)])) 3 = some 0 := by decide +kernel
/-- R355: −2^31 times itself saturates. -/
theorem test_mulq_saturates : gAfter (exec (.mulq 0 0 3 1 2) (cpu [(1, 0x80000000), (2, 0x80000000)])) 3 = some 0x7FFFFFFF := by decide +kernel
/-- R357: INS keeps the other bits of gd. -/
theorem test_ins : gAfter (exec (.ins 0 0 1 2 8 7) (cpu [(1, 0x1122334455667788), (2, 0xABCD)])) 1 = some 0x112233445566CD88 := by decide +kernel
/-- R358: EXT of 32 bits extends the sign. -/
theorem test_ext : gAfter (exec (.ext 0 0 4 4 0 31) (cpu [(4, 0x80000000)])) 4 = some 0xFFFFFFFF80000000 := by decide +kernel
/-- R346: a guard that is false makes the instruction have no effect but the pc's advance. -/
theorem test_guard : gAfter (exec (.li 0 8 5 1) (cpu [(5, 9)])) 5 = some 9 ∧ pcAfter (exec (.li 0 8 5 1) (cpu [(5, 9)])) = some 0x2000001C := by
  decide +kernel

/-- The three addresses of the register index's worked example. -/
theorem test_address_strand : (decodeReg 0x40640028).map (fun h => (h.block, h.inst)) = some (.strand, 4) ∧
    R.STR_ECHO_BAD.at 4 0 = 0x40640028 := by decide +kernel
theorem test_address_oar : ((decodeReg 0x40207030).bind (·.row)).isNone = true := by decide +kernel
theorem test_address_camera : R.CAM_K_OUT_STRIDE.at 1 0 = 0x403002A4 := by decide +kernel
/-- STRAND[37] lies at 0x40850000 (the worked example of the scope). -/
theorem test_address_instance : R.STR_CTL.at 37 0 / 0x10000 = 0x4085 := by decide +kernel

/-- The three balls of the package's worked example: S37X_P at G33, S95C at CB52, D5B_CA12 at AJ47. -/
theorem test_balls : (rowName 7, ballAt 7 33) = (['G'], .strand 37 2) ∧ (rowName 59, ballAt 59 52) = (['C', 'B'], .strand 95 4) ∧
    (rowName 28, ballAt 28 47) = (['A', 'J'], .ca 5 1 12) := by decide +kernel

/-- R597: after PWR_OK the devices' RESET_N is low, THERM_TRIP_N released and STROKE_OUT low; with PWR_OK low nothing is driven. -/
theorem test_pins : State.reset.pinLevel (.dramReset 0) = some false ∧ State.reset.pinLevel .thermTrip = none ∧
    State.reset.pinLevel .strokeOut = some false ∧
    ({ State.reset with board := { State.reset.board with pwrOk := false } } : State).pinLevel .strokeOut = none := by decide +kernel

/-- R345: the low byte lies at the lowest address. -/
theorem test_bytes_little_endian : (S0.wr32 0x00100000 0x04030201).rdBytes 0x00100000 4 = [1, 2, 3, 4] := by decide +kernel
/-- Equal memories are equal data: a byte written back to what an unlisted one reads as leaves no entry. -/
theorem test_memory_canonical : ((S0.wrB 0x00100000 5).wrB 0x00100000 0).mem = S0.mem := by decide +kernel
/-- The check value of CRC-32C over "123456789". -/
theorem test_crc32c : crc32c [0x31, 0x32, 0x33, 0x34, 0x35, 0x36, 0x37, 0x38, 0x39] = 0xE3069283 := by decide +kernel
/-- The hash of "abc" that FIPS 180-4 gives for SHA-384. -/
theorem test_sha384 : beVal (sha384 [0x61, 0x62, 0x63]) =
    0xcb00753f45a35e8bb5a03d699ac65007272c32ab0eded1631a8b605a43ff5bed8086072ba1e7cc2358baeca134c825a7 := by
  rw [Sig.sha384_eq]
  decide +kernel
/-- A step takes the command at the front, and leaves the rest of the queue. -/
theorem test_step_front : (match step { S0 with pending := [.houseSyncMiss, .holdWake] } with | .next t => t.pending.length | _ => 9) = 1 := by
  decide +kernel

end Sys2Proof.Tests

end
end

namespace Sys2Proof.Machine

open Sys2Proof

/-! ## Offsets that no chapter defines (R9) -/

theorem onBus_of_decode {who : Requester} {a : Nat} {h : RegHit} (hd : decodeReg a = some h) : onBus who a = false := by
  unfold onBus; rw [hd]; rfl

theorem exec_registerWrite_offBus {who : Requester} {a : Nat} (s : State) (v : RegWord) (hb : onBus who a = false) :
    exec (.registerWrite who a v) s = s.regWrite who a v := by
  show execRegisterWrite who a v s = _
  unfold execRegisterWrite
  rw [if_neg (by simp [hb])]

theorem exec_readClear_offBus {who : Requester} {a : Nat} (s : State) (added : RegWord) (hb : onBus who a = false) :
    exec (.readClear who a added) s = s.regRead who a added.toNat := by
  show execReadClear who a added s = _
  unfold execReadClear
  rw [if_neg (by simp [hb])]

theorem State.mayWrite_of_decode (s : State) (who : Requester) {a : Nat} {h : RegHit} (hd : decodeReg a = some h) :
    s.mayWrite who a = s.regAllowed who h.block h.inst h.word true := by
  unfold State.mayWrite; rw [hd]

theorem State.mayRead_of_decode (s : State) (who : Requester) {a : Nat} {h : RegHit} (hd : decodeReg a = some h) :
    s.mayRead who a = s.regAllowed who h.block h.inst h.word false := by
  unfold State.mayRead; rw [hd]

theorem State.regWrite_reserved {s : State} {who : Requester} {a : Nat} {h : RegHit} (v : RegWord) (ha : a % 4 = 0)
    (hd : decodeReg a = some h) (hrow : h.row = none) (hw : s.mayWrite who a = true) : s.regWrite who a v = .next s := by
  rw [s.mayWrite_of_decode who hd] at hw
  unfold State.regWrite
  simp [ha, hd, hrow, hw]

theorem State.regRead_reserved {s : State} {who : Requester} {a : Nat} {h : RegHit} (added : Nat) (ha : a % 4 = 0)
    (hd : decodeReg a = some h) (hrow : h.row = none) (hr : s.mayRead who a = true) :
    s.regRead who a added = .next { s with readData := 0 } := by
  rw [s.mayRead_of_decode who hd] at hr
  unfold State.regRead
  simp [ha, hd, hrow, hr]

/-- R309: outside every block only a core below W is refused. -/
theorem State.outside_eq_self {s : State} {who : Requester} (a : Nat) (hw : ∀ n, who = .core n → (s.core n.val).priv = .w) :
    s.outside who a = s := by
  cases who with
  | core n => exact if_pos (hw n rfl)
  | host => rfl
  | debug => rfl

theorem State.regWrite_outside {s : State} {who : Requester} {a : Nat} (v : RegWord) (ha : a % 4 = 0) (hd : decodeReg a = none)
    (hw : ∀ n, who = .core n → (s.core n.val).priv = .w) : s.regWrite who a v = .next s := by
  unfold State.regWrite
  simp [ha, hd, State.outside_eq_self a hw]

theorem State.regRead_outside {s : State} {who : Requester} {a : Nat} (added : Nat) (ha : a % 4 = 0) (hd : decodeReg a = none)
    (hw : ∀ n, who = .core n → (s.core n.val).priv = .w) : s.regRead who a added = .next { s with readData := 0 } := by
  unfold State.regRead
  simp [ha, hd, State.outside_eq_self (s := { s with readData := 0 }) a hw]

theorem SameRegs.of_readData (s : State) (d : Nat) (l : List Nat) : SameRegs s { s with readData := d } l := fun _ _ _ => rfl

theorem SameMem.of_readData (s : State) (d : Nat) : SameMem s { s with readData := d } := fun _ => rfl

theorem exec_readClear_zero {s : State} {who : Requester} {a : Nat} {added : RegWord} (hb : onBus who a = false)
    (hrd : s.regRead who a added.toNat = .next { s with readData := 0 }) :
    ∃ t, exec (.readClear who a added) s = .next t ∧ t.readData = 0 ∧ SameRegs s t [] ∧ SameMem s t :=
  ⟨_, (exec_readClear_offBus s added hb).trans hrd, rfl, .of_readData s 0 [], .of_readData s 0⟩

/-- Settles O5: off the bus both commands go to the register window, whose undefined offsets keep the state on a write and leave only the
data 0 on a read, inside a block (`decodeReg` answers a hit without a row) as outside (it answers none). -/
theorem undefinedOffsetReadsZero : Obligations.UndefinedOffsetReadsZero := by
  intro s who a v added ha hundef
  cases hd : decodeReg a with
  | some h =>
    rw [hd] at hundef
    obtain ⟨hrow, hw, hr⟩ := hundef
    have hb : onBus who a = false := onBus_of_decode hd
    exact ⟨(exec_registerWrite_offBus s v hb).trans (State.regWrite_reserved v ha hd hrow hw),
      exec_readClear_zero hb (State.regRead_reserved _ ha hd hrow hr)⟩
  | none =>
    rw [hd] at hundef
    obtain ⟨hb, hpriv⟩ := hundef
    have hw : ∀ n, who = .core n → (s.core n.val).priv = .w := by
      rintro n rfl
      exact hpriv
    exact ⟨(exec_registerWrite_offBus s v hb).trans (State.regWrite_outside v ha hd hw),
      exec_readClear_zero hb (State.regRead_outside _ ha hd hw)⟩

end Sys2Proof.Machine

namespace Sys2Proof.Machine

open Sys2Proof

/-! ## What a step of one core leaves of the others -/

theorem Core.Like.sameCtl {c c' : Core} (h : Core.Like c c') : SameCtl c c' :=
  ⟨h.priv, h.ppriv, h.inexc, h.epc, h.cause, h.tval, h.tvec, h.scratch, h.umask, h.watch0, h.watch1, h.evslot, h.budget, h.run, h.wait, h.atomic⟩

theorem Core.Like.getG {c c' : Core} (h : Core.Like c c') (k : Nat) : c'.getG k = c.getG k := by
  unfold Core.getG; rw [h.g]

theorem Core.Like.getP {c c' : Core} (h : Core.Like c c') (k : Nat) : c'.getP k = c.getP k := by
  unfold Core.getP; rw [h.p]

/-- A core that can begin an instruction waits for nothing. -/
theorem Core.notWaiting_of_idle {c : Core} (h : c.idle = true) : c.notWaiting := by
  intro d m l hw
  simp [Core.idle, hw] at h

/-- No counter writes the exception registers of a core. -/
theorem counterReg_excRegs : ∀ n < 16, ∀ a ∈ excRegs n, counterReg a = false := by decide

theorem hwinLo_notMem_excRegs : ∀ n < 16, ∀ j < 8, R.HOST_HWIN_LO.at 0 j ∉ excRegs n ∧ R.HOST_HWIN_LO.at 0 j + 4 ∉ excRegs n := by decide

theorem coxStat_mem_excRegs (n : Nat) : R.COX_STAT.at n 0 ∈ excRegs n := List.mem_cons_self

theorem coxExc_mem_excRegs (n : Nat) : R.COX_EXC.at n 0 ∈ excRegs n := by simp [excRegs]

theorem coxStat_subset_excRegs (n : Nat) : ∀ a ∈ [R.COX_STAT.at n 0], a ∈ excRegs n :=
  fun _ h => List.mem_singleton.mp h ▸ coxStat_mem_excRegs n

/-- Core `n` apart, a state differs from an earlier one by events and the registers of `xs` alone. -/
structure Beside (n : Nat) (xs : List Nat) (s t : State) : Prop where
  regs : SameRegs s t xs
  mem : SameMem s t
  others : ∀ m, m ≠ n → (s.core m).notWaiting → Core.Like (s.core m) (t.core m)

section
variable {n : Nat} {xs : List Nat} {s t u : State}

theorem Beside.trans (h : Beside n xs s t) (h' : Beside n xs t u) : Beside n xs s u where
  regs := fun a ha hc => (h'.regs a ha hc).trans (h.regs a ha hc)
  mem := fun a => (h'.mem a).trans (h.mem a)
  others := fun m hm hw => (h.others m hm hw).trans (h'.others m hm ((h.others m hm hw).notWaiting hw))

theorem Beside.setCore (h : Beside n xs s t) (c : Core) : Beside n xs s (t.setCore n c) where
  regs := h.regs
  mem := h.mem
  others := fun m hm hw => by
    rw [t.core_setCore_ne c hm]
    exact h.others m hm hw

theorem Beside.sameOthers (h : Beside n xs s t) : SameOthers s t n := by
  intro m hm hw
  have hl := h.others m hm hw
  exact ⟨hl.sameCtl, hl.g, hl.p, hl.pc⟩

theorem Quiet.beside (h : Quiet xs s t) (hn : n < 16) (hx : ∀ a ∈ xs, a ∈ excRegs n) : Beside n xs s t where
  regs := h.regs
  mem := (h.mono hx).sameMem (hwinLo_notMem_excRegs n hn)
  others := fun m _ => h.core m

theorem Quiet.beside_excRegs (h : Quiet xs s t) (hn : n < 16) (hx : ∀ a ∈ xs, a ∈ excRegs n) : Beside n (excRegs n) s t :=
  (h.mono hx).beside hn fun _ ha => ha

/-! ## Instructions that run -/

/-- The account `o` of instruction `i` agrees with its encoding: core, word, guard, and what makes it ILLEGAL or PRIV. -/
structure OpOf (i : Instr) (c : Fin 16) (gu : Guard) (o : Op) : Prop where
  encode : encodeGrasin i = some (c, o.word)
  guard : o.word % 16 = gu.val
  illegal : o.illegal = illegalCode i
  uBad : o.uBad = uForbidden i

theorem State.guardOf_eq (s : State) (n : Nat) {w : Nat} {gu : Guard} (h : w % 16 = gu.val) : s.guardOf n w = (s.core n).guard gu := by
  have h8 : gu.val % 8 = w % 8 := by omega
  have h3 : bitAt gu.val 3 = bitAt w 3 := by
    unfold bitAt
    rw [show gu.val / 2 ^ 3 % 2 = w / 2 ^ 3 % 2 by omega]
  unfold State.guardOf Core.guard State.p
  rw [h8, h3]

theorem State.runs_of_encode {i : Instr} {c : Fin 16} {w : Nat} (h : encodeGrasin i = some (c, w)) :
    s.runs i = (s.fetches c.val && !illegalCode i && !(uForbidden i && (s.core c.val).priv == .u) && s.guardOf c.val w &&
      !(s.core c.val).watched 62 (s.core c.val).pc.toNat) := by
  unfold State.runs
  rw [h]

theorem OpOf.issues {i : Instr} {c : Fin 16} {gu : Guard} {o : Op} (ho : OpOf i c gu o) (h : s.runs i = true) :
    s.issues c.val gu o = true := by
  rw [State.runs_of_encode ho.encode, State.guardOf_eq s c.val ho.guard] at h
  unfold State.issues
  rw [ho.illegal, ho.uBad]
  exact h

theorem State.idle_of_issues {gu : Guard} {o : Op} (h : s.issues n gu o = true) : (s.core n).idle = true := by
  unfold State.issues at h
  simp only [Bool.and_eq_true] at h
  obtain ⟨⟨⟨⟨⟨⟨hidle, -⟩, -⟩, -⟩, -⟩, -⟩, -⟩ := h
  exact hidle

/-- An instruction that changes registers and predicates alone: `f` acts on its core, which goes on at the next instruction. -/
theorem State.compute_issues {gu : Guard} {o : Op} (occ lat : Nat) (f : Core → Core) (hn : n < 16) (h : s.issues n gu o = true) :
    ∃ t c, s.compute n gu o occ lat f = .next t ∧ Core.Like { s.core n with pc := (s.core n).pc + 4 } c ∧ t.core n = f c ∧
      Beside n [R.COX_STAT.at n 0] s t := by
  have hx : R.COX_STAT.at n 0 ∈ [R.COX_STAT.at n 0] := List.mem_singleton_self _
  obtain ⟨u, hu, hret⟩ := Quiet.retire (((s.budgetNote n).fetch n (s.core n).pc.toNat).waitFor n (o.waits gu)) n gu o occ lat
    ((s.core n).pc + 4) hn hx
  have hq := (Quiet.pre s n gu o hn hx).trans hu
  have hl := hq.core n (Core.notWaiting_of_idle (State.idle_of_issues h))
  have hc : Core.Like { s.core n with pc := (s.core n).pc + 4 } { (u.core n).setReady (live o.writes) occ lat with pc := (s.core n).pc + 4 } :=
    { hl with pc := rfl }
  generalize { (u.core n).setReady (live o.writes) occ lat with pc := (s.core n).pc + 4 } = c at hret hc
  have hb := ((hq.beside hn (coxStat_subset_excRegs n)).setCore c).setCore (f c)
  refine ⟨(u.setCore n c).setCore n (f c), c, ?_, hc, State.core_setCore_same _ n _, hb⟩
  unfold State.compute
  rw [s.instr_issues n gu o _ h, hret]
  unfold State.upd
  rw [State.core_setCore_same]

theorem Core.getG_setG (c : Core) (j k : Nat) (v : Word) : (c.setG k v).getG j = if j = k then (if k = 0 then 0 else v) else c.getG j := by
  split
  · next h =>
    subst h
    split
    · next h0 => subst h0; rfl
    · next h0 => exact c.getG_setG_same j v h0
  · next h => exact c.getG_setG_ne v h

theorem SameCtl.setG {b c : Core} (h : SameCtl b c) (k : Nat) (v : Word) : SameCtl b (c.setG k v) := by
  simpa [SameCtl] using h

theorem Core.getP_setG (c : Core) (k : Nat) (v : Word) (j : Nat) : (c.setG k v).getP j = c.getP j := by
  unfold Core.getP; rw [Core.setG_p]

/-- An instruction that writes gd (R348: g0 stays 0) changes nothing else of its core but the pc. -/
theorem State.writeG_issues {gu : Guard} {o : Op} (lat d : Nat) (v : Word) (hn : n < 16) (h : s.issues n gu o = true) :
    ∃ t, s.writeG n gu o lat d v = .next t ∧ t.g n d = (if d = 0 then 0 else v) ∧ Ran s t n ((s.core n).pc + 4) [d] [] ∧
      SameRegs s t [R.COX_STAT.at n 0] ∧ SameMem s t := by
  obtain ⟨t, c, he, hc, hcore, hb⟩ := State.compute_issues 1 lat (fun c => c.setG d v) hn h
  have hpc : (t.core n).pc = (s.core n).pc + 4 := by rw [hcore, Core.setG_pc, hc.pc]
  have hg : ∀ k, t.g n k = if k = d then (if d = 0 then 0 else v) else s.g n k := by
    intro k
    unfold State.g
    rw [hcore, Core.getG_setG, hc.getG]
    rfl
  have hp : ∀ k, t.p n k = s.p n k := by
    intro k
    unfold State.p
    rw [hcore, Core.getP_setG, hc.getP]
    rfl
  have hctl : SameCtl (s.core n) (t.core n) := hcore ▸ hc.sameCtl.setG d v
  refine ⟨t, he, ?_, ⟨hpc, ?_, fun k _ _ => hp k, hctl, hb.sameOthers⟩, hb.regs, hb.mem⟩
  · rw [hg, if_pos rfl]
  · intro k hk
    rw [hg, if_neg (List.mem_singleton.not.mp hk)]

/-! ## Exceptions (R328) -/

theorem State.rd64_wr64_same (s : State) (r : Rg) (v i j : Nat) : (s.wr64 r v i j).rd64 r i j = v % 2 ^ 64 := by
  unfold State.rd64 State.wr64
  rw [State.rdReg_wrReg_same, State.rdReg_wrReg_ne _ _ (by omega), State.rdReg_wrReg_same, BitVec.toNat_ofNat, BitVec.toNat_ofNat]
  omega

theorem State.rdReg_wr64_ne (s : State) (r : Rg) (v i j : Nat) {a : Nat} (h : a ≠ r.at i j) (h' : a ≠ r.at i j + 4) :
    (s.wr64 r v i j).rdReg a = s.rdReg a := by
  unfold State.wr64
  rw [State.rdReg_wrReg_ne _ _ h', State.rdReg_wrReg_ne _ _ h]

theorem Priv.code_lt (p : Priv) : p.code < 2 ^ 2 := by cases p <;> decide

theorem Quiet.wr64 (s : State) (r : Rg) (v i j : Nat) (h : r.at i j ∈ xs) (h' : r.at i j + 4 ∈ xs) : Quiet xs s (s.wr64 r v i j) :=
  (Quiet.wrMem s _ _ h).trans (Quiet.wrMem _ _ _ h')

/-- COX_EXC, COX_EXC_PC and COX_EXC_ADDR record an exception taken from privilege `p` (R328). -/
def State.recordExc (s : State) (n cause : Nat) (p : Priv) (epc tval : Word) : State :=
  ((((s.set F.COX_EXC_CAUSE cause n).set F.COX_EXC_PRIV p.code n).incFld F.COX_EXC_COUNT 1 n).wr64 R.COX_EXC_PC_LO epc.toNat n).wr64
    R.COX_EXC_ADDR_LO tval.toNat n

theorem Quiet.recordExc (s : State) (n cause : Nat) (p : Priv) (epc tval : Word) : Quiet (excRegs n) s (s.recordExc n cause p epc tval) := by
  have h0 := coxExc_mem_excRegs n
  exact ((((Quiet.set s F.COX_EXC_CAUSE _ n 0 h0).trans (Quiet.set _ F.COX_EXC_PRIV _ n 0 h0)).trans
    (Quiet.set _ F.COX_EXC_COUNT _ n 0 h0)).trans (Quiet.wr64 _ _ _ n 0 (by simp [excRegs]) (by simp [excRegs]))).trans
    (Quiet.wr64 _ _ _ n 0 (by simp [excRegs]) (by simp [excRegs]))

/-- The pairs that hold the addresses leave the fields of COX_EXC alone. -/
theorem State.recordExc_get (s : State) (n cause : Nat) (p : Priv) (epc tval : Word) (f : Fld) (h : f.at n 0 = R.COX_EXC.at n 0) :
    (s.recordExc n cause p epc tval).get f n =
      (((s.set F.COX_EXC_CAUSE cause n).set F.COX_EXC_PRIV p.code n).incFld F.COX_EXC_COUNT 1 n).get f n := by
  apply State.get_congr
  unfold State.recordExc
  rw [h, State.rdReg_wr64_ne, State.rdReg_wr64_ne] <;> simp only [Rg.at, R.COX_EXC, R.COX_EXC_PC_LO, R.COX_EXC_ADDR_LO] <;> omega

theorem State.recordExc_cause (s : State) (n : Nat) {cause : Nat} (p : Priv) (epc tval : Word) (hc : cause < 2 ^ 3) :
    (s.recordExc n cause p epc tval).get F.COX_EXC_CAUSE n = cause := by
  rw [State.recordExc_get _ _ _ _ _ _ _ rfl]
  unfold State.incFld
  rw [State.get_set_apart _ _ _ _ _ _ _ _ (by decide) (.inr (by decide)), State.get_set_apart _ _ _ _ _ _ _ _ (by decide) (.inr (by decide)),
    State.get_set_same _ _ _ _ _ (by decide)]
  exact Nat.mod_eq_of_lt hc

theorem State.recordExc_priv (s : State) (n cause : Nat) (p : Priv) (epc tval : Word) :
    (s.recordExc n cause p epc tval).get F.COX_EXC_PRIV n = p.code := by
  rw [State.recordExc_get _ _ _ _ _ _ _ rfl]
  unfold State.incFld
  rw [State.get_set_apart _ _ _ _ _ _ _ _ (by decide) (.inr (by decide)), State.get_set_same _ _ _ _ _ (by decide)]
  exact Nat.mod_eq_of_lt (Priv.code_lt p)

theorem State.recordExc_count (s : State) (n cause : Nat) (p : Priv) (epc tval : Word) :
    (s.recordExc n cause p epc tval).get F.COX_EXC_COUNT n = Nat.min (s.get F.COX_EXC_COUNT n + 1) 65535 := by
  rw [State.recordExc_get _ _ _ _ _ _ _ rfl]
  unfold State.incFld
  rw [State.get_set_same _ _ _ _ _ (by decide), State.get_set_apart _ _ _ _ _ _ _ _ (by decide) (.inl (by decide)),
    State.get_set_apart _ _ _ _ _ _ _ _ (by decide) (.inl (by decide))]
  exact Nat.mod_eq_of_lt (Nat.lt_of_le_of_lt (Nat.min_le_right _ _) (by decide))

theorem State.recordExc_pc (s : State) (n cause : Nat) (p : Priv) (epc tval : Word) :
    (s.recordExc n cause p epc tval).rd64 R.COX_EXC_PC_LO n = epc.toNat := by
  have hne : R.COX_EXC_PC_LO.at n 0 + 8 = R.COX_EXC_ADDR_LO.at n 0 := by
    simp only [Rg.at, R.COX_EXC_PC_LO, R.COX_EXC_ADDR_LO]
    omega
  unfold State.recordExc
  have hkeep : ∀ u : State, (u.wr64 R.COX_EXC_ADDR_LO tval.toNat n).rd64 R.COX_EXC_PC_LO n = u.rd64 R.COX_EXC_PC_LO n := fun u => by
    unfold State.rd64
    rw [State.rdReg_wr64_ne, State.rdReg_wr64_ne] <;> omega
  rw [hkeep, State.rd64_wr64_same, Nat.mod_eq_of_lt epc.isLt]

theorem State.recordExc_addr (s : State) (n cause : Nat) (p : Priv) (epc tval : Word) :
    (s.recordExc n cause p epc tval).rd64 R.COX_EXC_ADDR_LO n = tval.toNat := by
  unfold State.recordExc
  rw [State.rd64_wr64_same, Nat.mod_eq_of_lt tval.isLt]

theorem Quiet.rd64 (h : Quiet xs s t) (r : Rg) (i j : Nat) (hx : r.at i j ∉ xs) (hx' : r.at i j + 4 ∉ xs) (hc : counterReg (r.at i j) = false)
    (hc' : counterReg (r.at i j + 4) = false) : t.rd64 r i j = s.rd64 r i j := by
  unfold State.rd64; rw [h.regs _ hx hc, h.regs _ hx' hc']

/-- The core of a double fault. -/
def Core.stopped (c : Core) : Core := { c with run := .faulted, wait := .none }

theorem State.takeException_of_inexc {t : State} (h : (t.core n).inexc = true) (cause : Nat) (epc tval : Word) :
    t.takeException n cause epc tval = ((t.setCore n (t.core n).stopped).set F.COX_STAT_DOUBLE 1 n).raise (0x90 + n) := if_pos h

/-- A core that was in an exception stops (R328): the second one is a double fault. -/
theorem State.takeException_doubleFault (hq : Quiet [R.COX_STAT.at n 0] s t) (hn : n < 16) (hw : (s.core n).notWaiting)
    (hi : (s.core n).inexc = true) (cause : Nat) (epc tval : Word) : DoubleFault s (t.takeException n cause epc tval) n := by
  have hl := hq.core n hw
  have hx := coxStat_subset_excRegs n
  rw [State.takeException_of_inexc (hl.inexc.trans hi)]
  generalize hu : (t.setCore n (t.core n).stopped).set F.COX_STAT_DOUBLE 1 n = u
  have huc : u.core n = (t.core n).stopped := by
    rw [← hu]
    exact t.core_setCore_same n _
  have hset : Quiet [R.COX_STAT.at n 0] (t.setCore n (t.core n).stopped) u :=
    hu ▸ Quiet.set _ F.COX_STAT_DOUBLE 1 n 0 (List.mem_singleton_self _)
  have hr : Quiet [] u (u.raise (0x90 + n)) := Quiet.raise u _
  have hkl : Core.Like (t.core n).stopped ((u.raise (0x90 + n)).core n) := by
    rw [← huc]
    apply hr.core
    rw [huc]
    exact fun _ _ _ => CoreWait.noConfusion
  have hb : Beside n (excRegs n) s (u.raise (0x90 + n)) :=
    (((hq.beside_excRegs hn hx).setCore _).trans (hset.beside_excRegs hn hx)).trans (hr.beside_excRegs hn (by simp))
  have hdouble : u.get F.COX_STAT_DOUBLE n = 1 := by
    rw [← hu, State.get_set_same _ _ _ _ _ (by decide)]
    rfl
  refine ⟨hkl.run, ?_, hkl.pc.trans hl.pc, hkl.epc.trans hl.epc, ?_, ?_, hb.sameOthers, hb.regs, hb.mem⟩
  · rw [hr.get F.COX_STAT_DOUBLE n 0 List.not_mem_nil (counterReg_excRegs n hn _ (coxStat_mem_excRegs n)), hdouble]
  · exact fun k => (hkl.getG k).trans (hl.getG k)
  · exact fun k => (hkl.getP k).trans (hl.getP k)

/-- The core at the start of its handler, having come from privilege `p`. -/
def Core.excepted (c : Core) (n cause : Nat) (p : Priv) (tvec epc tval : Word) : Core :=
  { c with
    epc := epc, cause := cause, tval := tval, ppriv := p.code, priv := if n < 4 then .w else .m, inexc := true, pc := tvec &&& ~~~3, wait := .none }

theorem State.takeException_of_not_inexc {t : State} (h : (t.core n).inexc = false) (cause : Nat) (epc tval : Word) :
    ∃ a w f, t.takeException n cause epc tval =
      ((((t.settle n).setCore n (((t.settle n).core n).excepted n cause (t.core n).priv (t.core n).tvec epc tval)).recordExc n cause
        (t.core n).priv epc tval).count (20 + n) 0x16 1 a).spend n 6 0 w f :=
  ⟨_, _, _, if_neg (by rw [h]; exact Bool.false_ne_true)⟩

/-- What taking an exception comes to: core `n` in its handler, and COX_EXC, COX_EXC_PC and COX_EXC_ADDR written. -/
theorem State.takeException_records (hq : Quiet [R.COX_STAT.at n 0] s t) (hn : n < 16) (hw : (s.core n).notWaiting)
    (hi : (s.core n).inexc = false) (cause : Nat) (epc tval : Word) :
    ∃ v k, Quiet [R.COX_STAT.at n 0] s v ∧ k = (v.core n).excepted n cause (s.core n).priv (s.core n).tvec epc tval ∧
      Core.Like k ((t.takeException n cause epc tval).core n) ∧
      Quiet [] ((v.setCore n k).recordExc n cause (s.core n).priv epc tval) (t.takeException n cause epc tval) := by
  have hl := hq.core n hw
  obtain ⟨a, w, f, he⟩ := State.takeException_of_not_inexc (t := t) (hl.inexc.trans hi) cause epc tval
  rw [he, hl.priv, hl.tvec]
  refine ⟨t.settle n, _, hq.trans (Quiet.settle t n hn), rfl, ?_⟩
  generalize hk : ((t.settle n).core n).excepted n cause (s.core n).priv (s.core n).tvec epc tval = k
  have hkw : k.notWaiting := hk ▸ fun _ _ _ => CoreWait.noConfusion
  have hrec := Quiet.recordExc ((t.settle n).setCore n k) n cause (s.core n).priv epc tval
  generalize ((t.settle n).setCore n k).recordExc n cause (s.core n).priv epc tval = u at hrec ⊢
  have huc : Core.Like k (u.core n) := by
    have hcore := hrec.core n
    rw [State.core_setCore_same] at hcore
    exact hcore hkw
  have hr : Quiet [] u ((u.count (20 + n) 0x16 1 a).spend n 6 0 w f) :=
    (Quiet.count u _ _ _ _ (by omega)).trans (Quiet.spend _ n _ _ _ _ hn)
  exact ⟨huc.trans (hr.core n (huc.notWaiting hkw)), hr⟩

theorem coxExc_notMem_coxStat (n : Nat) : R.COX_EXC.at n 0 ∉ [R.COX_STAT.at n 0] := by
  simp [Rg.at, R.COX_EXC, R.COX_STAT]

/-- A core that was in no exception takes this one (R328). -/
theorem State.takeException_took (hq : Quiet [R.COX_STAT.at n 0] s t) (hn : n < 16) (hw : (s.core n).notWaiting)
    (hi : (s.core n).inexc = false) {cause : Nat} (hcause : cause < 2 ^ 3) (epc tval : Word) :
    Took s (t.takeException n cause epc tval) n cause epc tval := by
  obtain ⟨v, k, hv, hk, hkl, hr⟩ := State.takeException_records hq hn hw hi cause epc tval
  have hl := hv.core n hw
  generalize t.takeException n cause epc tval = x at hkl hr ⊢
  have hb : Beside n (excRegs n) s x :=
    (((hv.beside_excRegs hn (coxStat_subset_excRegs n)).setCore k).trans ((Quiet.recordExc _ _ _ _ _ _).beside hn fun _ h => h)).trans
      (hr.beside_excRegs hn (by simp))
  have hcount : (v.setCore n k).get F.COX_EXC_COUNT n = s.get F.COX_EXC_COUNT n :=
    hv.get F.COX_EXC_COUNT n 0 (coxExc_notMem_coxStat n) (counterReg_excRegs n hn _ (coxExc_mem_excRegs n))
  have hexc : ∀ f : Fld, f.at n 0 = R.COX_EXC.at n 0 → x.get f n = ((v.setCore n k).recordExc n cause (s.core n).priv epc tval).get f n :=
    fun f hf => hr.get f n 0 List.not_mem_nil (hf ▸ counterReg_excRegs n hn _ (coxExc_mem_excRegs n))
  have hpair : ∀ r : Rg, r.at n 0 ∈ excRegs n → r.at n 0 + 4 ∈ excRegs n →
      x.rd64 r n = ((v.setCore n k).recordExc n cause (s.core n).priv epc tval).rd64 r n := fun r h h' =>
    hr.rd64 r n 0 List.not_mem_nil List.not_mem_nil (counterReg_excRegs n hn _ h) (counterReg_excRegs n hn _ h')
  subst hk
  refine ⟨hkl.epc, hkl.cause, hkl.tval, hkl.ppriv, hkl.priv, hkl.inexc, hkl.pc, ?_, ?_, ?_, ?_, ?_, fun j => (hkl.getG j).trans (hl.getG j),
    fun j => (hkl.getP j).trans (hl.getP j), hb.sameOthers, hb.regs, hb.mem⟩
  · rw [hexc _ rfl, State.recordExc_cause _ _ _ _ _ hcause]
  · rw [hexc _ rfl, State.recordExc_priv]
  · rw [hexc _ rfl, State.recordExc_count, hcount]
  · rw [hpair _ (by simp [excRegs]) (by simp [excRegs]), State.recordExc_pc]
  · rw [hpair _ (by simp [excRegs]) (by simp [excRegs]), State.recordExc_addr]

/-- An exception after events that touch no register but COX_STAT (R328). -/
theorem State.takeException_raises (hq : Quiet [R.COX_STAT.at n 0] s t) (hn : n < 16) (hw : (s.core n).notWaiting) {cause : Nat}
    (hcause : cause < 2 ^ 3) (epc tval : Word) : Raises (.next (t.takeException n cause epc tval)) s n cause epc tval := by
  refine ⟨_, rfl, ?_⟩
  cases hi : (s.core n).inexc with
  | true => exact State.takeException_doubleFault hq hn hw hi cause epc tval
  | false => exact State.takeException_took hq hn hw hi hcause epc tval

/-- ILLEGAL comes before PRIV, the guard and the instruction's own effect (R327). -/
theorem State.instr_illegal {gu : Guard} {o : Op} (k : State → Res) (hn : n < 16) (hf : s.fetches n = true) (ho : o.illegal = true) :
    Raises (s.instr n gu o k) s n causeIllegal (s.core n).pc (BitVec.ofNat 64 o.word) := by
  unfold State.fetches at hf
  simp only [Bool.and_eq_true, Bool.not_eq_true'] at hf
  obtain ⟨⟨hidle, hbudget⟩, hfetch⟩ := hf
  have he : s.instr n gu o k =
      .next (((s.budgetNote n).fetch n (s.core n).pc.toNat).takeException n causeIllegal (s.core n).pc (BitVec.ofNat 64 o.word)) := by
    unfold State.instr
    simp [hidle, hbudget, hfetch, ho]
  rw [he]
  exact State.takeException_raises ((Quiet.budgetNote s n hn (List.mem_singleton_self _)).trans (Quiet.fetch _ n _ hn)) hn
    (Core.notWaiting_of_idle hidle) (by decide) _ _

end

/-! ## Values of R352 and R357 -/

theorem setBits_eq_mul_add (v lo w x : Nat) :
    setBits v lo w x = 2 ^ lo * (2 ^ w * (v / 2 ^ (lo + w)) + x % 2 ^ w) + v % 2 ^ lo := by
  unfold setBits
  rw [Nat.pow_add]
  ring

/-- Bits [lo + w − 1 : lo] are those put in, and every other bit is kept. -/
theorem testBit_setBits (v lo w x k : Nat) :
    (setBits v lo w x).testBit k = if lo ≤ k ∧ k < lo + w then x.testBit (k - lo) else v.testBit k := by
  rw [setBits_eq_mul_add, Nat.testBit_two_pow_mul_add _ (Nat.mod_lt _ (Nat.two_pow_pos lo)),
    Nat.testBit_two_pow_mul_add _ (Nat.mod_lt _ (Nat.two_pow_pos w)), Nat.testBit_mod_two_pow, Nat.testBit_mod_two_pow,
    Nat.testBit_div_two_pow]
  by_cases h1 : k < lo
  · simp [h1, Nat.not_le.mpr h1]
  · by_cases h2 : k - lo < w
    · rw [if_neg h1, if_pos h2, if_pos (by omega), decide_eq_true h2, Bool.true_and]
    · rw [if_neg h1, if_neg h2, if_neg (by omega), show k - lo - w + (lo + w) = k by omega]

theorem bitsOf_toNat (a : Word) (pos len : Nat) : bitsOf a.toNat pos len = (a.extractLsb' pos len).toNat := by
  rw [BitVec.extractLsb'_toNat, Nat.shiftRight_eq_div_pow]
  rfl

theorem sgn_toNat {w : Nat} (hw : 0 < w) (x : BitVec w) : sgn w x.toNat = x.toInt := by
  have hp : 2 ^ w = 2 * 2 ^ (w - 1) := by rw [← Nat.pow_succ', Nat.succ_eq_add_one, Nat.sub_add_cancel hw]
  unfold sgn
  rw [Nat.mod_eq_of_lt x.isLt, BitVec.toInt_eq_toNat_cond, hp]
  split <;> split <;> omega

theorem extW_eq_signExtend (pos : Nat) {len : Nat} (a : Word) (hl : 0 < len) : extW pos len a = (a.extractLsb' pos len).signExtend 64 := by
  unfold extW
  rw [bitsOf_toNat, sgn_toNat hl]
  rfl

theorem extuW_eq_zeroExtend (pos len : Nat) (a : Word) : extuW pos len a = (a.extractLsb' pos len).zeroExtend 64 := by
  unfold extuW
  rw [bitsOf_toNat]
  exact BitVec.eq_of_toNat_eq (by rw [BitVec.toNat_ofNat, BitVec.toNat_setWidth])

theorem insW_eq_mask (pos len : Nat) (d a : Word) : insW pos len d a =
    (d &&& ~~~(BitVec.ofNat 64 (2 ^ len - 1) <<< pos)) ||| ((a &&& BitVec.ofNat 64 (2 ^ len - 1)) <<< pos) := by
  apply BitVec.eq_of_getLsbD_eq
  intro k hk
  unfold insW
  simp only [BitVec.getLsbD_ofNat, testBit_setBits, BitVec.getLsbD_or, BitVec.getLsbD_and, BitVec.getLsbD_not,
    BitVec.getLsbD_shiftLeft, Nat.testBit_two_pow_sub_one, hk, decide_true, Bool.true_and, BitVec.testBit_toNat]
  by_cases h : pos ≤ k ∧ k < pos + len
  · simp [h, show ¬ k < pos by omega, show k - pos < 64 by omega, show k - pos < len by omega]
  · by_cases h1 : k < pos
    · simp [h1, h]
    · simp [h1, h, show ¬ k - pos < len by omega]

theorem add_shiftLeft_eq_ofInt (pc : Word) (imm : BitVec 17) :
    pc + (imm.signExtend 64 <<< 2) = BitVec.ofInt 64 (pc.toNat + 4 * imm.toInt) := by
  rw [BitVec.ofInt_add, BitVec.ofInt_mul, BitVec.ofInt_natCast, BitVec.ofNat_toNat, BitVec.setWidth_eq,
    BitVec.shiftLeft_eq_mul_twoPow, BitVec.mul_comm]
  rfl

/-- LI reaches every signed 17-bit value. -/
theorem ofInt_eq_li {x : Int} (hl : -(2 ^ 16) ≤ x) (hu : x < 2 ^ 16) : BitVec.ofInt 64 x = (BitVec.ofInt 17 x).signExtend 64 :=
  (congrArg (BitVec.ofInt 64) (BitVec.toInt_ofInt_eq_self (by decide) hl hu)).symm

/-- LSH appends the low 17 bits to what the instructions before it have built. -/
theorem ofInt_eq_lsh (x : Int) : BitVec.ofInt 64 x = (BitVec.ofInt 64 (x / 2 ^ 17) <<< 17) ||| (BitVec.ofInt 17 x).zeroExtend 64 := by
  have hlow : (BitVec.ofInt 17 x).zeroExtend 64 = BitVec.ofInt 64 (x % 2 ^ 17) := by
    apply BitVec.eq_of_toNat_eq
    simp only [BitVec.toNat_setWidth, BitVec.toNat_ofInt]
    omega
  have hdisj : (BitVec.ofInt 64 (x / 2 ^ 17) <<< 17) &&& (BitVec.ofInt 17 x).zeroExtend 64 = 0#64 := by
    apply BitVec.eq_of_getLsbD_eq
    intro k _
    by_cases h : k < 17
    · simp [h]
    · simp [BitVec.getLsbD_of_ge _ _ (Nat.not_lt.mp h)]
  rw [← BitVec.add_eq_or_of_and_eq_zero _ _ hdisj, hlow, BitVec.shiftLeft_eq_mul_twoPow,
    show BitVec.twoPow 64 17 = BitVec.ofInt 64 (2 ^ 17) from rfl, ← BitVec.ofInt_mul, ← BitVec.ofInt_add, Int.mul_comm,
    Int.mul_ediv_add_emod]

/-- LI and one LSH. -/
theorem exists_li_lsh {x : Int} (hl : -(2 ^ 33) ≤ x) (hu : x < 2 ^ 33) :
    ∃ a b : BitVec 17, BitVec.ofInt 64 x = (a.signExtend 64 <<< 17) ||| b.zeroExtend 64 :=
  ⟨_, _, (ofInt_eq_lsh x).trans (by rw [ofInt_eq_li (x := x / 2 ^ 17) (by omega) (by omega)])⟩

/-- LI and two LSH reach every signed value of 51 bits. -/
theorem exists_li_lsh_lsh {x : Int} (hl : -(2 ^ 50) ≤ x) (hu : x < 2 ^ 50) :
    ∃ a b e : BitVec 17, BitVec.ofInt 64 x = (((a.signExtend 64 <<< 17) ||| b.zeroExtend 64) <<< 17) ||| e.zeroExtend 64 := by
  obtain ⟨a, b, h⟩ := exists_li_lsh (x := x / 2 ^ 17) (by omega) (by omega)
  exact ⟨a, b, _, h ▸ ofInt_eq_lsh x⟩

/-- LI and three LSH. -/
theorem exists_li_lsh_lsh_lsh (x : Word) : ∃ a b e f : BitVec 17,
    x = (((((a.signExtend 64 <<< 17) ||| b.zeroExtend 64) <<< 17) ||| e.zeroExtend 64) <<< 17) ||| f.zeroExtend 64 := by
  have hl := x.le_toInt
  have hu := x.toInt_lt
  obtain ⟨a, b, e, h⟩ := exists_li_lsh_lsh (x := x.toInt / 2 ^ 17) (by omega) (by omega)
  refine ⟨a, b, e, BitVec.ofInt 17 x.toInt, ?_⟩
  rw [← h, ← ofInt_eq_lsh, BitVec.ofInt_toInt]

/-! ## Instructions that write gd alone -/

/-- Instruction `i` of core `c` writes gd with `v`, a value of the state before it, after `lat` cycles. -/
structure WritesG (i : Instr) (c : Fin 16) (gu : Guard) (o : Op) (lat : Nat) (d : Fin 32) (v : State → Word) : Prop extends OpOf i c gu o where
  exec_eq : ∀ s, exec i s = s.writeG c.val gu o lat d.val (v s)

section
variable {i : Instr} {c : Fin 16} {gu : Guard} {o : Op} {lat : Nat} {d : Fin 32} {v : State → Word} {s : State}

theorem WritesG.runs (hi : WritesG i c gu o lat d v) (h : s.runs i = true) :
    ∃ t, exec i s = .next t ∧ t.g c.val d.val = (if d.val = 0 then 0 else v s) ∧ Ran s t c.val ((s.core c.val).pc + 4) [d.val] [] ∧
      SameRegs s t [R.COX_STAT.at c.val 0] ∧ SameMem s t := by
  rw [hi.exec_eq]
  exact State.writeG_issues lat d.val (v s) c.isLt (hi.issues h)

/-- An ILLEGAL encoding raises ILLEGAL with its word in cc.TVAL, before anything is written. -/
theorem WritesG.raises_illegal (hi : WritesG i c gu o lat d v) (hill : illegalCode i = true) (hf : s.fetches c.val = true) {n : Fin 16} {w : Nat}
    (henc : encodeGrasin i = some (n, w)) : Raises (exec i s) s c.val causeIllegal (s.core c.val).pc (BitVec.ofNat 64 w) := by
  obtain ⟨-, rfl⟩ : c = n ∧ o.word = w := by
    rw [hi.encode, Option.some.injEq, Prod.mk.injEq] at henc
    exact henc
  rw [hi.exec_eq]
  unfold State.writeG State.compute
  exact State.instr_illegal _ c.isLt hf (hi.illegal.trans hill)

end

theorem wordLU_mod (op d imm : Nat) (gu : Guard) : wordLU op d imm gu.val % 16 = gu.val := by
  have := gu.isLt
  unfold wordLU
  omega

theorem wordBF_mod (op d a pos len : Nat) (gu : Guard) : wordBF op d a pos len gu.val % 16 = gu.val := by
  have := gu.isLt
  unfold wordBF
  omega

section
variable (c : Fin 16) (gu : Guard) (d a : Fin 32) (imm : BitVec 17) (pos len : Fin 64)

theorem writesG_li : WritesG (.li c gu d imm) c gu { word := wordLU 0x15 d.val imm.toNat gu.val, writes := [d.val] } 1 d
    (fun _ => BitVec.ofInt 64 imm.toInt) :=
  ⟨⟨rfl, wordLU_mod _ _ _ gu, rfl, rfl⟩, fun _ => rfl⟩

theorem writesG_lsh : WritesG (.lsh c gu d imm) c gu { word := wordLU 0x16 d.val imm.toNat gu.val, reads := [d.val], writes := [d.val] } 1 d
    (fun s => (s.g c.val d.val <<< 17) ||| imm.zeroExtend 64) :=
  ⟨⟨rfl, wordLU_mod _ _ _ gu, rfl, rfl⟩, fun _ => rfl⟩

theorem writesG_addpc : WritesG (.addpc c gu d imm) c gu { word := wordLU 0x17 d.val imm.toNat gu.val, writes := [d.val] } 1 d
    (fun s => BitVec.ofInt 64 ((s.core c.val).pc.toNat + 4 * imm.toInt)) :=
  ⟨⟨rfl, wordLU_mod _ _ _ gu, rfl, rfl⟩, fun s => by rw [← add_shiftLeft_eq_ofInt]; rfl⟩

theorem writesG_ext : WritesG (.ext c gu d a pos len) c gu (opBF 0x12 d.val a.val pos.val len.val gu) 1 d
    (fun s => ((s.g c.val a.val).extractLsb' pos.val (len.val + 1)).signExtend 64) :=
  ⟨⟨rfl, wordBF_mod _ _ _ _ _ gu, rfl, rfl⟩, fun s => by rw [← extW_eq_signExtend _ _ (Nat.succ_pos _)]; rfl⟩

theorem writesG_extu : WritesG (.extu c gu d a pos len) c gu (opBF 0x13 d.val a.val pos.val len.val gu) 1 d
    (fun s => ((s.g c.val a.val).extractLsb' pos.val (len.val + 1)).zeroExtend 64) :=
  ⟨⟨rfl, wordBF_mod _ _ _ _ _ gu, rfl, rfl⟩, fun s => by rw [← extuW_eq_zeroExtend]; rfl⟩

theorem writesG_ins : WritesG (.ins c gu d a pos len) c gu { opBF 0x14 d.val a.val pos.val len.val gu with reads := [a.val, d.val] } 1 d
    (fun s => (s.g c.val d.val &&& ~~~(BitVec.ofNat 64 (2 ^ (len.val + 1) - 1) <<< pos.val)) |||
      ((s.g c.val a.val &&& BitVec.ofNat 64 (2 ^ (len.val + 1) - 1)) <<< pos.val)) :=
  ⟨⟨rfl, wordBF_mod _ _ _ _ _ gu, rfl, rfl⟩, fun s => by rw [← insW_eq_mask]; rfl⟩

end

/-- Settles O47: each of the six instructions writes gd alone, its value brought to the form of R352 or R357; the constants are built 17 bits at
a time, LSH appending the low bits to what LI and the LSH before it have built. -/
theorem constantsAndBitFields : Obligations.ConstantsAndBitFields := by
  refine ⟨fun s c gu d a imm pos len => ⟨?_, ?_⟩, fun x => exists_li_lsh, fun x hx => ?_, exists_li_lsh_lsh_lsh⟩
  · intro i v hi h
    simp only [List.mem_cons, Prod.mk.injEq, List.not_mem_nil, or_false] at hi
    obtain ⟨rfl, rfl⟩ | ⟨rfl, rfl⟩ | ⟨rfl, rfl⟩ | ⟨rfl, rfl⟩ | ⟨rfl, rfl⟩ | ⟨rfl, rfl⟩ := hi
    · exact (writesG_li c gu d imm).runs h
    · exact (writesG_lsh c gu d imm).runs h
    · exact (writesG_addpc c gu d imm).runs h
    · exact (writesG_ext c gu d a pos len).runs h
    · exact (writesG_extu c gu d a pos len).runs h
    · exact (writesG_ins c gu d a pos len).runs h
  · intro i hi n w henc hlen hf
    simp only [List.mem_cons, List.not_mem_nil, or_false] at hi
    obtain rfl | rfl | rfl := hi
    · exact (writesG_ext c gu d a pos len).raises_illegal (decide_eq_true hlen) hf henc
    · exact (writesG_extu c gu d a pos len).raises_illegal (decide_eq_true hlen) hf henc
    · exact (writesG_ins c gu d a pos len).raises_illegal (decide_eq_true hlen) hf henc
  · obtain ⟨a, b, e, h⟩ := exists_li_lsh_lsh (x := (x.toNat : Int)) (by omega) (by omega)
    exact ⟨a, b, e, by rw [← h, BitVec.ofInt_natCast, BitVec.ofNat_toNat, BitVec.setWidth_eq]⟩

end Sys2Proof.Machine
